-- ==== Sys2Proof/Word.lean ====
section
/-! DEFINITION. The word types of Crathar (R1) and the plainest arithmetic on them. -/

/- One declaration at a time: read as one text, the package needs less memory so. -/
set_option Elab.async false

namespace Sys2Proof

/-- A byte, 8 bits (R1). -/
abbrev Byte := BitVec 8
/-- A word, 4 bytes (R1): a scalar register, one lane of a vector register. -/
abbrev Word := BitVec 32
/-- A doubleword, 8 bytes (R1): a scalar pair. -/
abbrev DWord := BitVec 64
/-- One bit per lane of a group (R38, R51). -/
abbrev Mask := BitVec 128
/-- An instruction word, 96 bits in 12 bytes (R216). -/
abbrev InstrWord := BitVec 96

end Sys2Proof
end

