-- ==== Sys2Proof/Config.lean ====
section
/-! DEFINITION. What the spec leaves to the part or to the implementation. Each value is opaque: nothing in
Lean can evaluate it, so a statement about it holds whatever it is. -/

namespace Sys2Proof.Config

/-- The context key derived inside the device from the fused secret and a per-context random value
(R212), drawn afresh at each creation. Free value (log 7). -/
opaque contextKey : Nat → BitVec 256
/-- The device serial, 16 bytes (R420, R493). Free value (log 7). -/
opaque serial : BitVec 128
/-- The mask-ROM version (R420). Free value (log 7). -/
opaque romVersion : Word
/-- Byte `i` of the Falcon-1024 signature the device makes over a message digest, the `n`-th signature
(R420, R493). Falcon draws at random, so each signature is a free value (log 7). -/
opaque signature : Nat → BitVec 512 → Nat → Byte
/-- The length of that signature in bytes (R493). Free value (log 7). -/
opaque signatureLength : Nat → BitVec 512 → BitVec 16

/-- The bank and row, bits 27:0 of a row identity, at which the word devices of a channel hold word offset `w` of
channel page `p` (R129, R457): of the device's own choosing. Free value (log 7). -/
opaque bankRow : Nat → Nat → Nat → BitVec 28

/-- Where, after the queue registers of R404 in the register space of the physical function, the register lies whose bits 16:1
enable the virtual functions (R402): the spec names none. Free value (log 51). -/
opaque vfPlace : Nat
/-- The offset of that register, which is none of the offsets of R404 and R432. -/
def vfControl : Nat := 0x1400 + vfPlace

/-- The public key of the device's key pair and the Guline certificate over it, byte by byte, in fuse-backed ROM (R420). Free
values (log 7). -/
opaque publicKey : Nat → Byte
opaque certificate : Nat → Byte

/-- The watermarks of a Halyard link's receive buffer, in messages held: at the first or above it the sender is told to stop, at
the second or below it to go (R414). Free values (log 7). -/
opaque stopMark : Nat
opaque goMark : Nat

end Sys2Proof.Config
end

