-- ==== Sys2Proof/Machine/Table.lean ====
section
/-! DEFINITION. Finite tables keyed by a number, held as plain lists: the register files, the memories and
the directories of the machine. `find`, `insert` and `erase` for tables of records; `get` and `put` for
data with a default that an absent key reads as. -/

namespace Sys2Proof.Machine

/-- A table: pairs of key and value, keys ascending in the canonical form. -/
abbrev Table (α : Type) := List (Nat × α)

/-- The value under `k`, if any. -/
def Table.find {α : Type} : Table α → Nat → Option α
  | [], _ => none
  | (j, v) :: r, k => if j = k then some v else Table.find r k

/-- Insert or replace the value under `k`, keeping ascending keys ascending. -/
def Table.insert {α : Type} : Table α → Nat → α → Table α
  | [], k, v => [(k, v)]
  | (j, w) :: r, k, v =>
    if k < j then (k, v) :: (j, w) :: r
    else if j = k then (k, v) :: r
    else (j, w) :: Table.insert r k v

/-- Remove every entry under `k`. -/
def Table.erase {α : Type} : Table α → Nat → Table α
  | [], _ => []
  | (j, w) :: r, k => if j = k then Table.erase r k else (j, w) :: Table.erase r k

/-- The value under `k`, or the default. -/
def Table.get {α : Type} (d : α) (t : Table α) (k : Nat) : α := (Table.find t k).getD d

/-- Write `v` under `k`: a value equal to the default is held by the key's absence. -/
def Table.put {α : Type} [DecidableEq α] (d : α) (t : Table α) (k : Nat) (v : α) : Table α :=
  if v = d then Table.erase t k else Table.insert t k v

/-- Keys strictly ascending from a bound. -/
def Table.rises {α : Type} : Nat → Table α → Bool
  | _, [] => true
  | lo, (j, _) :: r => decide (lo ≤ j) && Table.rises (j + 1) r

/-- No entry equals the default. -/
def Table.lean {α : Type} [DecidableEq α] (d : α) (t : Table α) : Bool := t.all fun c => decide (c.2 ≠ d)

/-- The canonical form: keys strictly ascending, no entry equal to what an absent key reads as. -/
def Table.wf {α : Type} [DecidableEq α] (d : α) (t : Table α) : Bool := Table.rises 0 t && Table.lean d t

/-- Change the value under `k`, where there is one. -/
def Table.adjust {α : Type} (t : Table α) (k : Nat) (f : α → α) : Table α :=
  match Table.find t k with
  | some v => Table.insert t k (f v)
  | none => t

/-- Bytes of memory by address. -/
abbrev Memory := Table Byte

/-- What a byte of memory that nothing has written reads as (log 5). -/
def Memory.unwritten : Byte := 0

/-- The canonical form of a memory. -/
abbrev Memory.wf (m : Memory) : Bool := Table.wf Memory.unwritten m

/-- One byte of memory. -/
def Memory.byte (m : Memory) (a : Nat) : Byte := Table.get Memory.unwritten m a

/-- Write one byte of memory. -/
def Memory.setByte (m : Memory) (a : Nat) (b : Byte) : Memory := Table.put Memory.unwritten m a b

/-- `n` bytes from `a`, the lowest address first. -/
def Memory.bytes (m : Memory) (a n : Nat) : List Byte := (List.range n).map fun k => m.byte (a + k)

/-- Write bytes from `a` upward. -/
def Memory.setBytes (m : Memory) (a : Nat) : List Byte → Memory
  | [] => m
  | b :: r => Memory.setBytes (m.setByte a b) (a + 1) r

/-- The number that bytes hold, least significant first (R3). -/
def leNat : List Byte → Nat
  | [] => 0
  | b :: r => b.toNat + 256 * leNat r

/-- The `n` bytes of a number, least significant first (R3). -/
def leBytes : Nat → Nat → List Byte
  | 0, _ => []
  | n + 1, x => BitVec.ofNat 8 x :: leBytes n (x / 256)

/-- The word at byte address `a` (R3). -/
def Memory.word (m : Memory) (a : Nat) : Word := BitVec.ofNat 32 (leNat (m.bytes a 4))
/-- The doubleword at byte address `a` (R3). -/
def Memory.dword (m : Memory) (a : Nat) : DWord := BitVec.ofNat 64 (leNat (m.bytes a 8))
/-- Write the word at byte address `a` (R3). -/
def Memory.setWord (m : Memory) (a : Nat) (x : Word) : Memory := m.setBytes a (leBytes 4 x.toNat)
/-- Write the doubleword at byte address `a` (R3). -/
def Memory.setDword (m : Memory) (a : Nat) (x : DWord) : Memory := m.setBytes a (leBytes 8 x.toNat)

end Sys2Proof.Machine
end

