-- ==== Sys2Proof/Syntax.lean ====
section
/-! DEFINITION. The instructions and steps of Crathar: one constructor of `Instr` for each row of
spec/opcode_table.json. Rows 0 to 179 are instruction words (R229 to R244) with their operands typed;
rows 180 to 286 are the device's other steps, each carrying what identifies the occurrence. -/

namespace Sys2Proof

/-- A vector register `v0` to `v2047` (R219). -/
abbrev VReg := BitVec 11
/-- A scalar register `s0` to `s127` (R219). -/
abbrev SReg := BitVec 7
/-- A predicate number; 0 to 47 name predicates (R220). -/
abbrev PReg := BitVec 6

/-- The fields every instruction word shares (R217): guard negation, guard (63: always), cache policy. -/
structure Pre where
  neg    : Bool
  guard  : BitVec 6
  policy : BitVec 2
  deriving DecidableEq, Repr

/-- A block extent as the word carries it: rows minus one, columns minus one (R217, R30). -/
structure Ext where
  h : BitVec 3
  w : BitVec 3
  deriving DecidableEq, Repr

/-- An operand that is a vector or a scalar register (map code `vs`). -/
inductive VS where
  | v (r : VReg)
  | s (r : SReg)
  deriving DecidableEq, Repr

/-- An operand that is a vector, a scalar or an 18-bit immediate (map code `vsi`). -/
inductive VSI where
  | v (r : VReg)
  | s (r : SReg)
  | i (x : BitVec 18)
  deriving DecidableEq, Repr

/-- An operand that is a scalar or an 18-bit immediate (map code `si`). -/
inductive SI where
  | s (r : SReg)
  | i (x : BitVec 18)
  deriving DecidableEq, Repr

/-- A memory operand across A and B (R221). -/
structure MemOp where
  ord     : BitVec 2
  remote  : Bool
  pos     : BitVec 3
  based   : Bool
  off     : BitVec 9
  base    : SReg
  indexed : Bool
  scale   : BitVec 2
  index   : BitVec 11
  deriving DecidableEq, Repr

/-- The int code set (R223): none, `.u32`, `.d64`, `.sats`, `.satu`. -/
inductive IntTy where
  | s32 | u32 | d64 | sats | satu
  deriving DecidableEq, Repr

/-- A compare condition (R223). -/
inductive Cond where
  | eq | ne | lt | le | gt | ge
  deriving DecidableEq, Repr

/-- The cmp code set (R223): a condition, and whether it compares unsigned. -/
structure Cmp where
  cond : Cond
  u    : Bool
  deriving DecidableEq, Repr

/-- The size code set (R223, R321). -/
inductive Size where
  | b8 | s8 | b16 | s16 | b32 | b64
  deriving DecidableEq, Repr

/-- The fmt code set (R223), codes 0 to 14. -/
inductive Fmt where
  | f32 | f16x2 | bf16x2 | f16 | bf16 | tf8 | e4m3 | e5m2 | i8 | u8 | i16 | u16 | i32 | u32 | f8
  deriving DecidableEq, Repr

/-- The formats `MDRAIN` and `MLOAD` accept (R242). -/
inductive MFmt where
  | f32 | f16 | bf16 | i32
  deriving DecidableEq, Repr

/-- The op code set (R223): the operator tags of R158, codes 0 to 12, then the exchanges and
compare-and-swaps. -/
inductive Op where
  | iadd32 | iadd64 | imin | imax | umin | umax | and | or | xor | fadd32 | fmin32 | fmax32 | xsum32
  | exch32 | exch64 | cas32 | cas64
  deriving DecidableEq, Repr

/-- The floating compare condition of bits 67:65 (R224). -/
inductive FCond where
  | eq | ne | lt | le | gt | ge | un | ord
  deriving DecidableEq, Repr

/-- The scope field of bits 67:65 (R224). -/
inductive Scope where
  | none | thread | group | wg | gang | dev | sys
  deriving DecidableEq, Repr

/-- The forms of `PVOTE` (R270). -/
inductive Vote where
  | any | all | eq
  deriving DecidableEq, Repr

/-- The forms of `SHFL` (R306). -/
inductive ShflMode where
  | idx | up | down | xor
  deriving DecidableEq, Repr

/-- The kinds of `FENCE` (R336). -/
inductive FenceKind where
  | acq | rel | acqrel
  deriving DecidableEq, Repr

/-- A pennant: a workgroup's, a gang's, or a launch's grid-wide one (R62, R220). -/
inductive PenRef where
  | wg   (wg n : Nat)
  | gang (gang n : Nat)
  | grid (launch : Nat)
  deriving DecidableEq, Repr

/-- A burst command of one channel (R130): op 0 read, 1 write, 2 atomic at the home; kind 0 a stride pattern, with its
start, stride and count, 1 a list; the byte enables of a write. -/
structure Burst where
  op     : Nat
  page   : Nat
  kind   : Nat
  start  : Nat
  stride : Nat
  count  : Nat
  list   : List Nat
  masks  : List (BitVec 4)
  deriving DecidableEq, Repr

/-- An element of a bag's row as a request names it (R353, R361): a word of the owner's memory, a zero in the place of
a missing one, or nothing. -/
inductive BagElem where
  | at (pa : Nat)
  | zero
  | skip
  deriving DecidableEq, Repr

/-- What a `CPYB` request to a peer carries (R361, R418): the requester's own number of the copy, the words of each row
of the bag, the status with which the requester found the row after them to fail (0: none did), the pooling op, the rounding
mode and the generator's state. -/
structure BagReq where
  key   : Nat
  tcols : Nat
  op    : Nat
  mode  : BitVec 3
  seed  : Word
  rows  : List (List BagElem)
  stop  : Nat
  deriving DecidableEq, Repr

/-- What a device of a launch tells the others of its grid-wide pennant (R342): a member arrives, joins, leaves or ends,
the engine expectation rises, a broken phase is abandoned; or a device comes to hold no group that could still arrive, or does no
longer (R436). -/
inductive PenMsg where
  | arrive (member : Nat)
  | join   (member : Nat)
  | leave  (member : Nat)
  | quit   (member : Nat)
  | expect (n : Nat)
  | broken
  | stuck  (dev : Nat) (on : Bool)
  deriving DecidableEq, Repr

/-- What names a launch among devices: the node of its device 0, and that device's generation number (R416). -/
structure LaunchGen where
  lead : Nat
  gen  : Nat
  deriving DecidableEq, Repr

/-- The messages between devices that the rules name. A launch is named by the node of its device 0 and that device's
generation number (R416 to R418, R478). Further: the replica of a launch record (R411, R416) with its generation, device
index, context and launch id; changes of a grid-wide pennant with the number of the phase they are made in (R342); a bag to pool, and its row with the generator's
state after it (R418); the partial state that a peer's home slice takes up of a line, the owner's acknowledgement and
probe, and the partials given back, by word address (R159, R165, R415); a monitor registered at the owner, and its
wake with the release stamp (R340); the report of a reset (R477). -/
inductive HMsg where
  | ready  (lead gen dev : Nat)
  | go     (lead gen : Nat)
  | abort  (lead gen : Nat)
  | ended  (lead gen dev status : Nat)
  | bags   (r : BagReq)
  | rows   (key status : Nat) (words : List Word) (seed : Word)
  | update (line : Nat) (tag : Op)
  | joined (line : Nat)
  | probe  (line : Nat)
  | parts  (line : Nat) (tag : Op) (parts : List (Nat × DWord))
  | pen    (lead gen no : Nat) (m : PenMsg)
  | watch  (key addr : Nat) (cond : Option (Cmp × Word))
  | woke   (key stamp : Nat)
  | launch (lead gen dev ctx id : Nat) (image : List Byte)
  | reset
  deriving DecidableEq, Repr

/-- A Halyard flit (R475): its link sequence number and the message it carries, if any, with the
message's sequence number (R476) and the peer's node; and the last flit that its sender has received, which acknowledges those
up to it (R475, log 34). -/
structure Flit where
  seq  : BitVec 12
  peer : Nat
  mseq : BitVec 16
  body : Option HMsg
  ack  : Option (BitVec 12)
  deriving DecidableEq, Repr

/-- The consumer of an abort completion (R462). -/
inductive AbortWho where
  | thread (g : Nat)
  | matrix (op : Nat)
  | walker (g : Nat)
  | copy (op : Nat)
  | prefetch (i : Nat)
  | merge (line : Nat)
  | command (fn q : Nat)
  deriving DecidableEq, Repr

/-- The instructions and steps of the device, one constructor for each row of the opcode table. -/
inductive Instr where
  /-- `NOP`, opcode 0x000 (R254). -/
  | nop (p : Pre) (uni : Bool)
  /-- `BR`, opcode 0x001 (R249). -/
  | br (p : Pre) (t : BitVec 32)
  /-- `BRC`, opcode 0x002 (R249). -/
  | brc (p : Pre) (z : Bool) (c : SReg) (t : BitVec 32)
  /-- `BRD`, opcode 0x003 (R251). -/
  | brd (p : Pre) (t r : BitVec 17)
  /-- `BRX`, opcode 0x004 (R249). -/
  | brx (p : Pre) (a : SReg)
  /-- `CALL`, opcode 0x005 (R249). -/
  | call (p : Pre) (d : SReg) (t : BitVec 32)
  /-- `RET`, opcode 0x006 (R249). -/
  | ret (p : Pre) (a : SReg)
  /-- `LOOP`, opcode 0x007 (R249). -/
  | loop (p : Pre) (c : SReg) (t : BitVec 32)
  /-- `EXIT`, opcode 0x008 (R253). -/
  | exit (p : Pre)
  /-- `SLEEP`, opcode 0x009 (R255). -/
  | sleep (p : Pre) (n : SI)
  /-- `TRAP`, opcode 0x00a (R256). -/
  | trap (p : Pre) (code : BitVec 8)
  /-- `RTT`, opcode 0x00b (R257). -/
  | rtt (p : Pre)
  /-- `YIELDD_SUSP`, opcode 0x00c (R259). -/
  | yielddSusp (p : Pre)
  /-- `YIELDD_RET`, opcode 0x00c (R259). -/
  | yielddRet (p : Pre)
  /-- `BKPT`, opcode 0x00d (R256). -/
  | bkpt (p : Pre) (code : BitVec 8)
  /-- `SADD`, opcode 0x040 (R262). -/
  | sadd (p : Pre) (ty : IntTy) (d a : SReg) (b : SI)
  /-- `SSUB`, opcode 0x041 (R262). -/
  | ssub (p : Pre) (ty : IntTy) (d a : SReg) (b : SI)
  /-- `SMUL`, opcode 0x042 (R262). -/
  | smul (p : Pre) (d a : SReg) (b : SI)
  /-- `SMULH`, opcode 0x043 (R262). -/
  | smulh (p : Pre) (ty : IntTy) (d a : SReg) (b : SI)
  /-- `SDIV`, opcode 0x044 (R263). -/
  | sdiv (p : Pre) (ty : IntTy) (d a : SReg) (b : SI)
  /-- `SREM`, opcode 0x045 (R263). -/
  | srem (p : Pre) (ty : IntTy) (d a : SReg) (b : SI)
  /-- `SAND`, opcode 0x046 (R262). -/
  | sand (p : Pre) (d a : SReg) (b : SI)
  /-- `SOR`, opcode 0x047 (R262). -/
  | sor (p : Pre) (d a : SReg) (b : SI)
  /-- `SXOR`, opcode 0x048 (R262). -/
  | sxor (p : Pre) (d a : SReg) (b : SI)
  /-- `SSHL`, opcode 0x049 (R264). -/
  | sshl (p : Pre) (ty : IntTy) (d a : SReg) (b : SI)
  /-- `SSHR`, opcode 0x04a (R264). -/
  | sshr (p : Pre) (ty : IntTy) (d a : SReg) (b : SI)
  /-- `SSAR`, opcode 0x04b (R264). -/
  | ssar (p : Pre) (ty : IntTy) (d a : SReg) (b : SI)
  /-- `SMIN`, opcode 0x04c (R262). -/
  | smin (p : Pre) (ty : IntTy) (d a : SReg) (b : SI)
  /-- `SMAX`, opcode 0x04d (R262). -/
  | smax (p : Pre) (ty : IntTy) (d a : SReg) (b : SI)
  /-- `SCMP`, opcode 0x04e (R265). -/
  | scmp (p : Pre) (cc : Cmp) (d a : SReg) (b : SI)
  /-- `SMOV`, opcode 0x04f (R266). -/
  | smov (p : Pre) (ty : IntTy) (d a : SReg)
  /-- `SMOVI`, opcode 0x050 (R266). -/
  | smovi (p : Pre) (d : SReg) (v : BitVec 32)
  /-- `SLEA`, opcode 0x051 (R266). -/
  | slea (p : Pre) (k : BitVec 2) (d a : SReg) (b : SI)
  /-- `SSEL`, opcode 0x052 (R266). -/
  | ssel (p : Pre) (d : SReg) (a b : SI)
  /-- `PSET`, opcode 0x080 (R267). -/
  | pset (p : Pre) (d : PReg) (a : VSI)
  /-- `PLOP`, opcode 0x081 (R268). -/
  | plop (p : Pre) (tt : BitVec 4) (d a b : PReg)
  /-- `PCNT`, opcode 0x082 (R269). -/
  | pcnt (p : Pre) (d : SReg) (a : PReg)
  /-- `PFIRST`, opcode 0x083 (R269). -/
  | pfirst (p : Pre) (d : SReg) (a : PReg)
  /-- `PVOTE`, opcode 0x084 (R270). -/
  | pvote (p : Pre) (m : Vote) (d a : PReg)
  /-- `RDSP`, opcode 0x085 (R271). -/
  | rdsp (p : Pre) (d : VS) (sr : BitVec 6)
  /-- `WRSP`, opcode 0x086 (R272). -/
  | wrsp (p : Pre) (sr : BitVec 6) (a : VSI)
  /-- `SETFMT`, opcode 0x087 (R273). -/
  | setfmt (p : Pre) (v : BitVec 7)
  /-- `SETRM`, opcode 0x088 (R273). -/
  | setrm (p : Pre) (v : BitVec 4)
  /-- `RDFF`, opcode 0x089 (R274). -/
  | rdff (p : Pre) (d : VS)
  /-- `CLRFF`, opcode 0x08a (R275). -/
  | clrff (p : Pre) (m : BitVec 5)
  /-- `IADD`, opcode 0x0c0 (R289). -/
  | iadd (p : Pre) (e : Ext) (ty : IntTy) (d : VReg) (a : VS) (b : VSI)
  /-- `ISUB`, opcode 0x0c1 (R289). -/
  | isub (p : Pre) (e : Ext) (ty : IntTy) (d : VReg) (a : VS) (b : VSI)
  /-- `IMUL`, opcode 0x0c2 (R289). -/
  | imul (p : Pre) (e : Ext) (d : VReg) (a : VS) (b : VSI)
  /-- `IMULH`, opcode 0x0c3 (R289). -/
  | imulh (p : Pre) (e : Ext) (ty : IntTy) (d : VReg) (a : VS) (b : VSI)
  /-- `IMAD`, opcode 0x0c4 (R289). -/
  | imad (p : Pre) (e : Ext) (d : VReg) (a : VS) (b : VSI)
  /-- `IDIV`, opcode 0x0c5 (R289). -/
  | idiv (p : Pre) (e : Ext) (ty : IntTy) (d : VReg) (a : VS) (b : VSI)
  /-- `IREM`, opcode 0x0c6 (R289). -/
  | irem (p : Pre) (e : Ext) (ty : IntTy) (d : VReg) (a : VS) (b : VSI)
  /-- `IMIN`, opcode 0x0c7 (R289). -/
  | imin (p : Pre) (e : Ext) (ty : IntTy) (d : VReg) (a : VS) (b : VSI)
  /-- `IMAX`, opcode 0x0c8 (R289). -/
  | imax (p : Pre) (e : Ext) (ty : IntTy) (d : VReg) (a : VS) (b : VSI)
  /-- `IABS`, opcode 0x0c9 (R289). -/
  | iabs (p : Pre) (e : Ext) (d : VReg) (a : VS)
  /-- `INEG`, opcode 0x0ca (R289). -/
  | ineg (p : Pre) (e : Ext) (d : VReg) (a : VS)
  /-- `ICMP`, opcode 0x0cb (R292). -/
  | icmp (p : Pre) (cc : Cmp) (d : PReg) (a : VS) (b : VSI)
  /-- `ISEL`, opcode 0x0cc (R293). -/
  | isel (p : Pre) (e : Ext) (q : PReg) (d : VReg) (a b : VSI)
  /-- `IMOV`, opcode 0x0cd (R294). -/
  | imov (p : Pre) (e : Ext) (d : VReg) (a : VSI)
  /-- `IMOVI`, opcode 0x0ce (R294). -/
  | imovi (p : Pre) (e : Ext) (d : VReg) (v : BitVec 32)
  /-- `IAND`, opcode 0x100 (R290). -/
  | iand (p : Pre) (e : Ext) (d : VReg) (a : VS) (b : VSI)
  /-- `IOR`, opcode 0x101 (R290). -/
  | ior (p : Pre) (e : Ext) (d : VReg) (a : VS) (b : VSI)
  /-- `IXOR`, opcode 0x102 (R290). -/
  | ixor (p : Pre) (e : Ext) (d : VReg) (a : VS) (b : VSI)
  /-- `INOT`, opcode 0x103 (R290). -/
  | inot (p : Pre) (e : Ext) (d : VReg) (a : VS)
  /-- `ISHL`, opcode 0x104 (R290). -/
  | ishl (p : Pre) (e : Ext) (d : VReg) (a : VS) (b : VSI)
  /-- `ISHR`, opcode 0x105 (R290). -/
  | ishr (p : Pre) (e : Ext) (d : VReg) (a : VS) (b : VSI)
  /-- `ISAR`, opcode 0x106 (R290). -/
  | isar (p : Pre) (e : Ext) (d : VReg) (a : VS) (b : VSI)
  /-- `IROT`, opcode 0x107 (R290). -/
  | irot (p : Pre) (e : Ext) (d : VReg) (a : VS) (b : VSI)
  /-- `BFX`, opcode 0x108 (R291). -/
  | bfx (p : Pre) (e : Ext) (ty : IntTy) (d : VReg) (a : VS) (b : VSI)
  /-- `BFI`, opcode 0x109 (R291). -/
  | bfi (p : Pre) (e : Ext) (d : VReg) (a : VS) (b : VSI)
  /-- `POPC`, opcode 0x10a (R290). -/
  | popc (p : Pre) (e : Ext) (d : VReg) (a : VS)
  /-- `CLZ`, opcode 0x10b (R290). -/
  | clz (p : Pre) (e : Ext) (d : VReg) (a : VS)
  /-- `FADD`, opcode 0x140 (R296). -/
  | fadd (p : Pre) (e : Ext) (rnd : BitVec 3) (d : VReg) (a b : VS)
  /-- `FSUB`, opcode 0x141 (R296). -/
  | fsub (p : Pre) (e : Ext) (rnd : BitVec 3) (d : VReg) (a b : VS)
  /-- `FMUL`, opcode 0x142 (R296). -/
  | fmul (p : Pre) (e : Ext) (rnd : BitVec 3) (d : VReg) (a b : VS)
  /-- `FFMA`, opcode 0x143 (R296). -/
  | ffma (p : Pre) (e : Ext) (rnd : BitVec 3) (d : VReg) (a b : VS)
  /-- `FMIN`, opcode 0x144 (R297). -/
  | fmin (p : Pre) (e : Ext) (d : VReg) (a b : VS)
  /-- `FMAX`, opcode 0x145 (R297). -/
  | fmax (p : Pre) (e : Ext) (d : VReg) (a b : VS)
  /-- `FABS`, opcode 0x146 (R297). -/
  | fabs (p : Pre) (e : Ext) (d : VReg) (a : VS)
  /-- `FNEG`, opcode 0x147 (R297). -/
  | fneg (p : Pre) (e : Ext) (d : VReg) (a : VS)
  /-- `FCMP`, opcode 0x148 (R299). -/
  | fcmp (p : Pre) (cc : FCond) (d : PReg) (a b : VS)
  /-- `FCLASS`, opcode 0x149 (R300). -/
  | fclass (p : Pre) (e : Ext) (d : VReg) (a : VS)
  /-- `FDIV`, opcode 0x14a (R296). -/
  | fdiv (p : Pre) (e : Ext) (rnd : BitVec 3) (d : VReg) (a b : VS)
  /-- `FSQRT`, opcode 0x14b (R296). -/
  | fsqrt (p : Pre) (e : Ext) (rnd : BitVec 3) (d : VReg) (a : VS)
  /-- `FRCP`, opcode 0x14c (R296). -/
  | frcp (p : Pre) (e : Ext) (rnd : BitVec 3) (d : VReg) (a : VS)
  /-- `FRSQ`, opcode 0x14d (R296). -/
  | frsq (p : Pre) (e : Ext) (rnd : BitVec 3) (d : VReg) (a : VS)
  /-- `FEXP2`, opcode 0x14e (R296). -/
  | fexp2 (p : Pre) (e : Ext) (rnd : BitVec 3) (d : VReg) (a : VS)
  /-- `FLOG2`, opcode 0x14f (R296). -/
  | flog2 (p : Pre) (e : Ext) (rnd : BitVec 3) (d : VReg) (a : VS)
  /-- `FSINPI`, opcode 0x150 (R296). -/
  | fsinpi (p : Pre) (e : Ext) (rnd : BitVec 3) (d : VReg) (a : VS)
  /-- `FCOSPI`, opcode 0x151 (R296). -/
  | fcospi (p : Pre) (e : Ext) (rnd : BitVec 3) (d : VReg) (a : VS)
  /-- `FROUND`, opcode 0x152 (R298). -/
  | fround (p : Pre) (e : Ext) (rnd : BitVec 3) (d : VReg) (a : VS)
  /-- `FADD_PACKED`, opcode 0x180 (R235). -/
  | faddPacked (p : Pre) (e : Ext) (bf : Bool) (rnd : BitVec 3) (d : VReg) (a b : VS)
  /-- `FSUB_PACKED`, opcode 0x181 (R235). -/
  | fsubPacked (p : Pre) (e : Ext) (bf : Bool) (rnd : BitVec 3) (d : VReg) (a b : VS)
  /-- `FMUL_PACKED`, opcode 0x182 (R235). -/
  | fmulPacked (p : Pre) (e : Ext) (bf : Bool) (rnd : BitVec 3) (d : VReg) (a b : VS)
  /-- `FFMA_PACKED`, opcode 0x183 (R235). -/
  | ffmaPacked (p : Pre) (e : Ext) (bf : Bool) (rnd : BitVec 3) (d : VReg) (a b : VS)
  /-- `FMIN_PACKED`, opcode 0x184 (R235). -/
  | fminPacked (p : Pre) (e : Ext) (bf : Bool) (d : VReg) (a b : VS)
  /-- `FMAX_PACKED`, opcode 0x185 (R235). -/
  | fmaxPacked (p : Pre) (e : Ext) (bf : Bool) (d : VReg) (a b : VS)
  /-- `FABS_PACKED`, opcode 0x186 (R235). -/
  | fabsPacked (p : Pre) (e : Ext) (bf : Bool) (d : VReg) (a : VS)
  /-- `FNEG_PACKED`, opcode 0x187 (R235). -/
  | fnegPacked (p : Pre) (e : Ext) (bf : Bool) (d : VReg) (a : VS)
  /-- `FCMP_PACKED`, opcode 0x188 (R235). -/
  | fcmpPacked (p : Pre) (bf : Bool) (cc : FCond) (d : PReg) (a b : VS)
  /-- `FCLASS_PACKED`, opcode 0x189 (R235). -/
  | fclassPacked (p : Pre) (e : Ext) (bf : Bool) (d : VReg) (a : VS)
  /-- `FDIV_PACKED`, opcode 0x18a (R235). -/
  | fdivPacked (p : Pre) (e : Ext) (bf : Bool) (rnd : BitVec 3) (d : VReg) (a b : VS)
  /-- `FSQRT_PACKED`, opcode 0x18b (R235). -/
  | fsqrtPacked (p : Pre) (e : Ext) (bf : Bool) (rnd : BitVec 3) (d : VReg) (a : VS)
  /-- `FRCP_PACKED`, opcode 0x18c (R235). -/
  | frcpPacked (p : Pre) (e : Ext) (bf : Bool) (rnd : BitVec 3) (d : VReg) (a : VS)
  /-- `FRSQ_PACKED`, opcode 0x18d (R235). -/
  | frsqPacked (p : Pre) (e : Ext) (bf : Bool) (rnd : BitVec 3) (d : VReg) (a : VS)
  /-- `FEXP2_PACKED`, opcode 0x18e (R235). -/
  | fexp2Packed (p : Pre) (e : Ext) (bf : Bool) (rnd : BitVec 3) (d : VReg) (a : VS)
  /-- `FLOG2_PACKED`, opcode 0x18f (R235). -/
  | flog2Packed (p : Pre) (e : Ext) (bf : Bool) (rnd : BitVec 3) (d : VReg) (a : VS)
  /-- `FSINPI_PACKED`, opcode 0x190 (R235). -/
  | fsinpiPacked (p : Pre) (e : Ext) (bf : Bool) (rnd : BitVec 3) (d : VReg) (a : VS)
  /-- `FCOSPI_PACKED`, opcode 0x191 (R235). -/
  | fcospiPacked (p : Pre) (e : Ext) (bf : Bool) (rnd : BitVec 3) (d : VReg) (a : VS)
  /-- `FROUND_PACKED`, opcode 0x192 (R235). -/
  | froundPacked (p : Pre) (e : Ext) (bf : Bool) (rnd : BitVec 3) (d : VReg) (a : VS)
  /-- `CVT`, opcode 0x1a0 (R302). -/
  | cvt (p : Pre) (e : Ext) (tgt : Fmt) (rnd : BitVec 3) (d : VReg) (a : VS) (src : Fmt) (nosat : Bool)
  /-- `QBLK`, opcode 0x1a1 (R303). -/
  | qblk (p : Pre) (tgt : Fmt) (rnd : BitVec 3) (d a b : VReg)
  /-- `DQBLK`, opcode 0x1a2 (R305). -/
  | dqblk (p : Pre) (src : Fmt) (d a : VReg) (b : VS)
  /-- `SHFL`, opcode 0x1c0 (R306). -/
  | shfl (p : Pre) (m : ShflMode) (d a : VReg) (b : VSI)
  /-- `BCAST`, opcode 0x1c1 (R306). -/
  | bcast (p : Pre) (d a : VReg) (b : SI)
  /-- `VRED`, opcode 0x1c2 (R307). -/
  | vred (p : Pre) (o : Op) (rnd : BitVec 3) (d : VS) (a : VReg)
  /-- `VSCAN`, opcode 0x1c3 (R308). -/
  | vscan (p : Pre) (o : Op) (rnd : BitVec 3) (d a : VReg) (ex : Bool)
  /-- `VCOMPACT`, opcode 0x1c4 (R309). -/
  | vcompact (p : Pre) (d a : VReg) (q : PReg)
  /-- `CKA`, opcode 0x1d0 (R310). -/
  | cka (p : Pre) (e : Ext) (fp : Bool) (d : VS) (a : VReg)
  /-- `CHK`, opcode 0x1d1 (R311). -/
  | chk (p : Pre) (fp : Bool) (d a : VS) (b : SI)
  /-- `LD`, opcode 0x200 (R321). -/
  | ld (p : Pre) (sz : Size) (sc : Scope) (d : VS) (m : MemOp)
  /-- `ST`, opcode 0x201 (R321). -/
  | st (p : Pre) (sz : Size) (sc : Scope) (d : VS) (m : MemOp)
  /-- `LDX`, opcode 0x202 (R323). -/
  | ldx (p : Pre) (e : Ext) (sz : Size) (sc : Scope) (d : VReg) (m : MemOp)
  /-- `STX`, opcode 0x203 (R323). -/
  | stx (p : Pre) (e : Ext) (sz : Size) (sc : Scope) (d : VReg) (m : MemOp)
  /-- `PRF`, opcode 0x204 (R325). -/
  | prf (p : Pre) (m : MemOp)
  /-- `INVL`, opcode 0x205 (R326). -/
  | invl (p : Pre) (m : MemOp)
  /-- `LDS`, opcode 0x240 (R327). -/
  | lds (p : Pre) (sz : Size) (sc : Scope) (d : VS) (m : MemOp)
  /-- `STS`, opcode 0x241 (R327). -/
  | sts (p : Pre) (sz : Size) (sc : Scope) (d : VS) (m : MemOp)
  /-- `WINMAP`, opcode 0x242 (R328). -/
  | winmap (p : Pre) (e : BitVec 3) (a b : SReg)
  /-- `WINFL`, opcode 0x243 (R329). -/
  | winfl (p : Pre) (e : BitVec 3)
  /-- `WINDROP`, opcode 0x244 (R330). -/
  | windrop (p : Pre) (e : BitVec 3)
  /-- `ATOM`, opcode 0x280 (R331). -/
  | atom (p : Pre) (o : Op) (sc : Scope) (d : VS) (m : MemOp)
  /-- `RED`, opcode 0x281 (R331). -/
  | red (p : Pre) (o : Op) (sc : Scope) (d : VS) (m : MemOp)
  /-- `ATOMS`, opcode 0x282 (R331). -/
  | atoms (p : Pre) (o : Op) (sc : Scope) (d : VS) (m : MemOp)
  /-- `UPD`, opcode 0x283 (R334). -/
  | upd (p : Pre) (o : Op) (rnd : BitVec 3) (d : VS) (m : MemOp)
  /-- `FENCE`, opcode 0x2c0 (R336). -/
  | fence (p : Pre) (uni : Bool) (k : FenceKind) (sc : Scope)
  /-- `SEAL`, opcode 0x2c1 (R337). -/
  | seal (p : Pre) (a b : SReg)
  /-- `UNSEAL`, opcode 0x2c2 (R338). -/
  | unseal (p : Pre) (a : SReg)
  /-- `WAITCNT`, opcode 0x2c3 (R339). -/
  | waitcnt (p : Pre) (cl : BitVec 2) (n : BitVec 13)
  /-- `WAITCMP`, opcode 0x2c4 (R340). -/
  | waitcmp (p : Pre) (cc : Cmp) (sc : Scope) (d : VS) (m : MemOp)
  /-- `WAITW`, opcode 0x2c5 (R340). -/
  | waitw (p : Pre) (sc : Scope) (m : MemOp)
  /-- `PJOIN`, opcode 0x2c6 (R341). -/
  | pjoin (p : Pre) (n : BitVec 6)
  /-- `PLEAVE`, opcode 0x2c7 (R341). -/
  | pleave (p : Pre) (n : BitVec 6)
  /-- `PEXPECT`, opcode 0x2c8 (R341). -/
  | pexpect (p : Pre) (n : BitVec 6) (b : SI)
  /-- `PARRIVE`, opcode 0x2c9 (R341). -/
  | parrive (p : Pre) (n : BitVec 6)
  /-- `PWAIT`, opcode 0x2ca (R341). -/
  | pwait (p : Pre) (n : BitVec 6)
  /-- `PSYNC`, opcode 0x2cb (R341). -/
  | psync (p : Pre) (n : BitVec 6)
  /-- `RACQ`, opcode 0x2cc (R343). -/
  | racq (p : Pre) (d : SReg) (ring : BitVec 4)
  /-- `RPUB`, opcode 0x2cd (R343). -/
  | rpub (p : Pre) (ring : BitVec 4) (b : SI)
  /-- `RTAKE`, opcode 0x2ce (R343). -/
  | rtake (p : Pre) (d : SReg) (ring : BitVec 4)
  /-- `RFREE`, opcode 0x2cf (R343). -/
  | rfree (p : Pre) (ring : BitVec 4) (b : SI)
  /-- `TSIG`, opcode 0x2d0 (R344). -/
  | tsig (p : Pre) (a b : SI)
  /-- `CPY`, opcode 0x300 (R357). -/
  | cpy (p : Pre) (a : SReg)
  /-- `CPYG`, opcode 0x301 (R358). -/
  | cpyg (p : Pre) (a : SReg)
  /-- `CPYS`, opcode 0x302 (R359). -/
  | cpys (p : Pre) (a : SReg)
  /-- `CPYR`, opcode 0x303 (R360). -/
  | cpyr (p : Pre) (a : SReg)
  /-- `CPYB`, opcode 0x304 (R361). -/
  | cpyb (p : Pre) (rnd : BitVec 3) (a : SReg)
  /-- `CPYF`, opcode 0x305 (R363). -/
  | cpyf (p : Pre) (a : SReg)
  /-- `CPYQ`, opcode 0x306 (R362). -/
  | cpyq (p : Pre) (a : SReg)
  /-- `SCBIND`, opcode 0x340 (R366). -/
  | scbind (p : Pre) (tid : BitVec 6) (a : SReg)
  /-- `SCDROP`, opcode 0x341 (R366). -/
  | scdrop (p : Pre) (tid : BitVec 6)
  /-- `KSET`, opcode 0x342 (R367). -/
  | kset (p : Pre) (fm : Fmt) (k : BitVec 3) (a b : SReg)
  /-- `KREL`, opcode 0x343 (R369). -/
  | krel (p : Pre) (k : BitVec 3)
  /-- `MZERO`, opcode 0x344 (R369). -/
  | mzero (p : Pre) (acc : BitVec 6)
  /-- `MMA`, opcode 0x345 (R370). -/
  | mma (p : Pre) (e : Ext) (sat : Bool) (rnd : BitVec 3) (acc tid : BitVec 6) (a : VReg) (k : BitVec 3) (km1 : BitVec 7)
  /-- `MMASP`, opcode 0x346 (R372). -/
  | mmasp (p : Pre) (e : Ext) (sat : Bool) (rnd : BitVec 3) (acc tid : BitVec 6) (a : VReg) (k : BitVec 3) (km1 : BitVec 7)
  /-- `MDRAIN`, opcode 0x347 (R373). -/
  | mdrain (p : Pre) (add : Bool) (fm : MFmt) (rnd : BitVec 3) (acc : BitVec 6) (sp pub : Bool) (ring : BitVec 4) (m : MemOp)
  /-- `MLOAD`, opcode 0x348 (R375). -/
  | mload (p : Pre) (fm : MFmt) (acc : BitVec 6) (sp : Bool) (m : MemOp)
  /-- `ITSET`, opcode 0x380 (R376). -/
  | itset (p : Pre) (a : SReg)
  /-- `ITNEXT`, opcode 0x381 (R378). -/
  | itnext (p : Pre) (d : VReg)
  /-- `ITDONE`, opcode 0x382 (R379). -/
  | itdone (p : Pre) (a : VReg)
  /-- `ITEND`, opcode 0x383 (R380). -/
  | itend (p : Pre)
  /-- `RESQ`, opcode 0x384 (R377). -/
  | resq (p : Pre) (d : PReg) (m : MemOp)
  /-- `SPAWN`, opcode 0x388 (R381). -/
  | spawn (p : Pre) (a : VReg) (b : SI)
  /-- `SPQ`, opcode 0x389 (R382). -/
  | spq (p : Pre)
  /-- `SEALSAVE`, opcode 0x3c0 (R278). -/
  | sealsave (p : Pre) (g : BitVec 8) (a b : SReg)
  /-- `SEALLOAD`, opcode 0x3c1 (R279). -/
  | sealload (p : Pre) (g : BitVec 8) (a b : SReg)
  /-- `PTEW`, opcode 0x3c2 (R282). -/
  | ptew (p : Pre) (a b : SReg)
  /-- `POOLGET`, opcode 0x3c3 (R283). -/
  | poolget (p : Pre) (d : SReg)
  /-- `FLTINFO`, opcode 0x3c4 (R284). -/
  | fltinfo (p : Pre) (d : SReg)
  /-- `ISSUE_SELECT` (R197): Each clk each partition issues the head of the overdue list, or else the ready fragment that has been ready longest. -/
  | issueSelect (core part : Nat)
  /-- `FRAGMENT_OVERDUE` (R197): A fragment's pass count reaches 64 and the fragment joins the overdue list. -/
  | fragmentOverdue (g en : Nat)
  /-- `SLEEP_EXPIRY` (R255): The n clk of a SLEEP pass and the fragment becomes ready. -/
  | sleepExpiry (g en : Nat)
  /-- `PENNANT_WAIT_RELEASE` (R65): A group waiting on a completed phase issues again, 6 clk after the completing arrival. -/
  | pennantWaitRelease (g en : Nat)
  /-- `BROKEN_PENNANT` (R436): A phase that can no longer complete is abandoned and its waiters raise kind 0x31. -/
  | brokenPennant (r : PenRef)
  /-- `RING_WAIT_RESUME` (R61): A fragment waiting in RACQ or RTAKE resumes once the slot at the cursor reaches the required state. -/
  | ringWaitResume (g en : Nat)
  /-- `RING_PUBLISH_DEFERRED` (R61): An early publish to slot k takes effect once the slot before it is no longer Held. -/
  | ringPublishDeferred (wg ring : Nat)
  /-- `FULL_LINE_STALL_END` (R118): A Pending scratchpad line becomes Full and the accesses waiting on it proceed with an acquire of that line. -/
  | fullLineStallEnd (wg line : Nat)
  /-- `WINDOW_LINE_FILL` (R121): The first touch of an Unfilled window line translates it, reads its 32 words and makes it Full. -/
  | windowLineFill (wg line : Nat)
  /-- `WAITCNT_RETURN` (R180): The outstanding counter falls to n or below and the waiting fragment continues with the acquire. -/
  | waitcntReturn (g en : Nat)
  /-- `MONITOR_WAKE` (R201): A write that meets a registered monitor's condition makes the waiting fragment ready, or marks a swapped-out fragment satisfied. -/
  | monitorWake (g en : Nat)
  /-- `MONITOR_REREAD` (R200): Every 1,024 clk a fragment without a monitor re-reads its word at the home. -/
  | monitorReread (g en : Nat)
  /-- `SPAWN_ROOM` (R381): The item queue gains room for a waiting SPAWN, which appends its items. -/
  | spawnRoom (g en : Nat)
  /-- `SPQ_QUEUE_EMPTY` (R382): The core's queue holds no item of the launch and the SPQ waiter continues. -/
  | spqQueueEmpty (g en : Nat)
  /-- `UNSEAL_COUNT_ZERO` (R338): A seal entry's copy count reaches 0 and the waiting UNSEAL proceeds. -/
  | unsealCountZero (g en : Nat)
  /-- `PACKING_TIMEOUT` (R69): 2,048 clk pass without an item being added to a partial group. -/
  | packingTimeout (core launch pc : Nat)
  /-- `PACKED_GROUP_START` (R69): The packing unit starts a partial group in a free reserved slot. -/
  | packedGroupStart (core launch pc : Nat)
  /-- `COPY_ROW_LANDS` (R354): A copy's destination row lands, is zero-filled or is skipped, and the engine arrives at its pennant. -/
  | copyRowLands (op : Nat)
  /-- `COPY_COMPLETE` (R354): After the last payload byte lands, the engine sets zero bits, makes the lines Full, writes the completion word, publishes and completes. -/
  | copyComplete (op : Nat)
  /-- `PEER_BAG_POOLING` (R418): The owning device receives a CPYB request for a table in its memory, pools the bags and returns the rows. -/
  | peerBagPooling (peer : Nat) (r : BagReq)
  /-- `SCALE_CACHE_FILL` (R100): A scale-cache miss reads the scale from memory, stalling only its octet pass. -/
  | scaleCacheFill (op key : Nat)
  /-- `OCTET_PASS_COMPLETE` (R102): An octet pass finishes and writes its accumulator and flags. -/
  | octetPassComplete (op : Nat)
  /-- `KSET_COMPLETE` (R367): A kiln slot fill completes and the KSET retires. -/
  | ksetComplete (op : Nat)
  /-- `MDRAIN_COMPLETE` (R374): The last drained element reaches its destination; the lines become Full and the ring slot is published. -/
  | mdrainComplete (op : Nat)
  /-- `MLOAD_COMPLETE` (R375): An accumulator load lands and the MLOAD retires. -/
  | mloadComplete (op : Nat)
  /-- `WALKER_MAP_WRITE_DONE` (R379): A visited-map write made for an ITDONE performs and leaves %cnt.walk. -/
  | walkerMapWriteDone (op : Nat)
  /-- `PREFETCH_LANDS` (R325): A prefetched word is installed in L1 or its home slice. -/
  | prefetchLands (i : Nat)
  /-- `TABLE_WALK` (R135): On a TLB miss the table walker resolves a virtual address through up to five levels. -/
  | tableWalk (core ctx va : Nat)
  /-- `FIRMWARE_POOL_FILL` (R496): The firmware fills a from-pool leaf on behalf of an engine or command, or waits for a pool grant. -/
  | firmwarePoolFill (ctx va : Nat)
  /-- `READ` (R145): A core's Read request for words of a DC line, handled by the home's state transition. -/
  | read (core line : Nat) (mask : Word)
  /-- `OWN` (R145): A core's Own request for writable words, which may enter D, recall holders or merge. -/
  | own (core line : Nat) (mask : Word)
  /-- `UPDATE` (R145): A core's Update request that joins or switches the line's partial state. -/
  | update (core addr : Nat) (tag : Op)
  /-- `WRITEBACK` (R152): A core gives up its copy and returns its dirty words, which may answer a crossing probe. -/
  | writeback (core line : Nat)
  /-- `FLUSH` (R163): A core gives up partial words, which the home combines into the home partial. -/
  | flush (core line : Nat)
  /-- `GRANT` (R150): A core receives the requested copy stamped with the new seq and installs the words. -/
  | grant (core line : Nat)
  /-- `PROBE` (R151): A core receives a recall, downgrade, forward-read or merge probe, discards it if stale, or answers it. -/
  | probe (core line : Nat)
  /-- `ANSWER` (R164): The home receives a probe reply with words or partials; the last one completes a merge or recall. -/
  | answer (core line : Nat)
  /-- `GONE` (R152): The home receives Gone from a core holding no copy, which closes the probe. -/
  | gone (core line : Nat)
  /-- `BURST_COMMAND` (R131): A channel's word devices receive a burst command and supply their words, one per device beat. -/
  | burstCommand (chan : Nat) (b : Burst)
  /-- `BURST_COMPLETE` (R453): A burst completes; the frame CRC and each word's syndrome are checked, and words are delivered, corrected or withheld. -/
  | burstComplete (i : Nat) (frameOk : Bool)
  /-- `DEVICE_BEAT_TIMEOUT` (R455): A word device misses a burst within 64 device beats; the burst is reissued, and a second miss marks the device failed. -/
  | deviceBeatTimeout (i dev : Nat)
  /-- `ABORT_COMPLETION` (R462): A requester receives an abort in place of data and consumes it by a gang kill, a status or a drop. -/
  | abortCompletion (who : AbortWho) (code addr : Nat)
  /-- `PROBE_TIMEOUT` (R468): A core leaves a probe unanswered for 100 µs and is taken as lost. -/
  | probeTimeout (core line : Nat)
  /-- `CORE_LOSS_BROADCAST` (R469): A home slice receives a lost core's broadcast, removes the core and sets lost masks. -/
  | coreLossBroadcast (slice core : Nat)
  /-- `DISPATCHER_PASS` (R192): When resources free, and at least once every 256 clk, the dispatcher serves eligible records and started launches by priority and round robin. -/
  | dispatcherPass
  /-- `YIELD_TRAP` (R204): A group takes the yield trap at an instruction boundary, saves its control state and starts its yield handler, or the firmware's full save. -/
  | yieldTrap (g : Nat)
  /-- `GANG_STATE_SAVE` (R207): After the quiesce drain, the gang's hardware state is saved and its resources are released. -/
  | gangStateSave (gang : Nat)
  /-- `YIELD_BUDGET_EXPIRY` (R440): The 50 µs yield budget runs out; the firmware stops the groups and performs a full save, raising kind 0x34. -/
  | yieldBudgetExpiry (gang : Nat)
  /-- `CORE_MAP_CHANGE` (R491): A new logical core map takes effect when no workgroup or packed group is resident, or at a reset. -/
  | coreMapChange
  /-- `POWER_WINDOW` (R16): Each 1 ms window the power controller lowers, holds or raises the core clock by power and temperature. -/
  | powerWindow (watts hottest : Nat)
  /-- `THERMAL_TRIP` (R492): A sensor reaches 115 °C; issue stops on that half of the module and a trip is recorded. -/
  | thermalTrip (half : Bool)
  /-- `THERMAL_TRIP_END` (R492): Every sensor of the half reads below 95 °C and issue resumes. -/
  | thermalTripEnd (half : Bool)
  /-- `CQDOOR` (R403): Host write of a queue's tail doorbell, making new command entries available. -/
  | cqdoor (fn q : Nat) (tail : BitVec 16)
  /-- `QUEUE_REGISTER` (R404): A CQCFG write with enable 1 registers the queue, or sets error for a bad configuration. -/
  | queueRegister (fn q : Nat) (v : Word)
  /-- `QUEUE_UNREGISTER` (R404): A CQCFG write with enable 0 unregisters the queue after its current command, dropping the others. -/
  | queueUnregister (fn q : Nat) (v : Word)
  /-- `QUEUE_ERROR_CLEAR` (R404): A host write of 1 to CQCFG error clears it. -/
  | queueErrorClear (fn q : Nat)
  /-- `CCHEAD` (R404): Host write of the completion head, which frees entries and lets a held completion proceed. -/
  | cchead (fn q : Nat) (head : BitVec 16)
  /-- `FQHEAD` (R432): Host write of the fault-queue head, freeing entries. -/
  | fqhead (fn : Nat) (head : BitVec 12)
  /-- `FQ_OVERFLOW_CLEAR` (R432): A host write of 1 to the FQTAIL overflow bit clears it. -/
  | fqOverflowClear (fn : Nat)
  /-- `REGISTER_WRITE` (R404): Host write to a register with no behaviour of its own, such as CQBASE, CCBASE, FQBASE or FQCFG. -/
  | registerWrite (fn off : Nat) (v : DWord)
  /-- `COMMAND_START` (R404): The firmware reads a queue's next command entry once the previous command has completed and starts it. -/
  | commandStart (fn q : Nat)
  /-- `LAUNCH` (R407): Command 0x0001 enters a launch record into its queue, replicating it for multi-device launches. -/
  | launch (fn q : Nat)
  /-- `HOST_COPY` (R407): Command 0x0002 checks the pages and copies bytes between device-virtual and host addresses. -/
  | hostCopy (fn q : Nat)
  /-- `MAP` (R409): Command 0x0003 writes leaves, building tables as needed. -/
  | map (fn q : Nat)
  /-- `UNMAP` (R409): Command 0x0004 invalidates leaves, with a TLB shootdown. -/
  | unmap (fn q : Nat)
  /-- `POOL_GRANT` (R407): Command 0x0005 adds frames to a context pool and replays waiting POOLGETs. -/
  | poolGrant (fn q : Nat)
  /-- `TOKEN_SIGNAL` (R407): Command 0x0006 raises a token to the maximum of its value and the given value. -/
  | tokenSignal (fn q : Nat)
  /-- `TOKEN_WAIT` (R407): Command 0x0007 completes when a token reaches a value, holding its queue until then. -/
  | tokenWait (fn q : Nat)
  /-- `CONTEXT_CREATE` (R407): Command 0x0008 creates a context, its key and a run of tokens. -/
  | contextCreate (fn q : Nat)
  /-- `CONTEXT_SAVE` (R407): Command 0x0009 pre-empts every pre-emptable gang of the context and stops its placement. -/
  | contextSave (fn q : Nat)
  /-- `CONTEXT_RESTORE` (R407): Command 0x000A re-places the saved gangs, checking the sealed images of a protected context. -/
  | contextRestore (fn q : Nat)
  /-- `LAUNCH_ABORT` (R412): Command 0x000B kills every gang of a launch, which ends with status 6. -/
  | launchAbort (fn q : Nat)
  /-- `LOAD_IMAGE` (R410): Command 0x000C writes a kernel image's code and data and enters its launch record if present. -/
  | loadImage (fn q : Nat)
  /-- `CONTEXT_DESTROY` (R413): Command 0x000D aborts the context's launches, recalls its lines, and frees its tables, tokens and key. -/
  | contextDestroy (fn q : Nat)
  /-- `HEALTH_QUERY` (R495): Command 0x0010 writes the signed health record to host memory. -/
  | healthQuery (fn q : Nat)
  /-- `SCAN_TEST` (R486): Command 0x0011 starts an in-field scan test of a logical core by draining it. -/
  | scanTest (fn q : Nat)
  /-- `SCAN_DRAIN_DONE` (R486): The core under test is empty; the 200 µs scan pattern runs. -/
  | scanDrainDone (core : Nat)
  /-- `SCAN_DRAIN_TIMEOUT` (R486): The drain exceeds 1 s and the test is abandoned with value 3. -/
  | scanDrainTimeout (core : Nat)
  /-- `SCAN_RUN_DONE` (R488): The scan signature is compared; a failure fences the core, and the core is restored. -/
  | scanRunDone (core : Nat) (pass : Bool)
  /-- `SCAN_TEST_ABORT` (R487): A priority 6 or 7 record becomes eligible and the test stops within 5 µs with value 2. -/
  | scanTestAbort (core : Nat)
  /-- `DECONFIGURE` (R489): Command 0x0012 drains and fences a logical core. -/
  | deconfigure (fn q : Nat)
  /-- `ATTEST` (R420): Command 0x0013 writes a Falcon-signed attestation report for a nonce. -/
  | attest (fn q : Nat)
  /-- `RECLAIM` (R474): Command 0x0014 zeroes the lost words of a line and clears its lost mask. -/
  | reclaim (fn q : Nat)
  /-- `NODE_QUERY` (R407): Command 0x0015 returns this device's Halyard node. -/
  | nodeQuery (fn q : Nat)
  /-- `HALYARD_FLIT_RECEIVE` (R475): A Halyard flit arrives and is checked for CRC and sequence, acknowledged, or discarded with a replay request. -/
  | halyardFlitReceive (link : Nat) (f : Flit) (crcOk : Bool)
  /-- `REPLAY_REQUEST` (R475): A sender receives a replay request and resends from the named flit. -/
  | replayRequest (link : Nat) (seq : BitVec 12)
  /-- `STOP_GO` (R414): A sender receives stop or go flow control from the receiver. -/
  | stopGo (link : Nat) (stop : Bool)
  /-- `LINK_RETRAIN` (R475): After 16 replay requests without progress a link retrains, taking up to 10 ms. -/
  | linkRetrain (link : Nat) (trained : Bool)
  /-- `LINK_DOWN` (R476): A link fails to train; unacknowledged messages are resent over another link. -/
  | linkDown (link : Nat)
  /-- `HALYARD_MESSAGE` (R476): A device receives a message, discarding a duplicate sequence number. -/
  | halyardMessage (peer : Nat) (seq : BitVec 16) (m : HMsg)
  /-- `DEVICE_DROP` (R477): Every path to a device has been down for 1 ms, or it reports a reset, and it is dropped from the launch. -/
  | deviceDrop (node : Nat)
  /-- `LAUNCH_ABORT_MESSAGE` (R478): A launch abort of generation G reaches a device, which kills the launch's gangs. -/
  | launchAbortMessage (gen : LaunchGen)
  /-- `HOIST_READY` (R416): Device 0 receives a ready report of a generation and sends go once all reports are held. -/
  | hoistReady (gen : LaunchGen) (dev : Nat)
  /-- `HOIST_GO` (R416): A device receives go for the current generation and starts placement. -/
  | hoistGo (gen : LaunchGen)
  /-- `LAUNCH_END_REPORT` (R417): Device 0 receives a member's report of the launch end. -/
  | launchEndReport (gen : LaunchGen) (dev status : Nat)
  /-- `HEALTH_RECORD_READ` (R419): Side-band type 0x3F read of the health record. -/
  | healthRecordRead
  /-- `AGEING_MONITOR_READ` (R419): Side-band type 0x3F read of the ageing monitors. -/
  | ageingMonitorRead
  /-- `ERROR_LOG_READ` (R419): Side-band type 0x3F read of the error log. -/
  | errorLogRead
  /-- `WARM_RESET` (R419): Side-band warm reset ends every context as a gang kill does and keeps the error log. -/
  | warmReset
  /-- `COLD_RESET` (R419): Side-band cold reset clears everything but the fuses and the health record. -/
  | coldReset
  /-- `AGEING_SAMPLE` (R484): Once per second the firmware samples the monitors, raising guard-bands or marking units worn. -/
  | ageingSample (unit : Nat) (short : Bool) (slow : BitVec 8)
  /-- `ERROR_FILTER_EPOCH` (R458): Bits 63:46 of %tb change and the Bloom filter and repeat table are cleared. -/
  | errorFilterEpoch
  /-- `HEALTH_REBUILD` (R493): The health record is rebuilt and signed when a field changes, and at least every 60 s. -/
  | healthRebuild
  /-- `HORIZON_REACHED` (R445): An acquire that synchronised with a release completes in the clk in which the acquiring agent's %tb reaches the release stamp. -/
  | horizonReached (g en : Nat)
  /-- `HOST_MEMORY_COMPLETION` (R320): A PCI Express completion from the host returns the data or AtomicOp result of an XC host-memory access that a home slice forwarded. -/
  | hostMemoryCompletion (g en : Nat) (data : List (Nat × Byte))
  /-- `ATOMIC_AT_HOME` (R332): A global atomic, RED or RED-mode UPD request reaches the home slice of its word and is performed there after any recall or merge. -/
  | atomicAtHome (op : Nat)
  /-- `POWER_ON` (R414): Supply returns to the module; registers take their reset values, tokens hold 0, guard-bands start from the health record and the firmware trains the Halyard links, setting the node number. -/
  | powerOn (node : BitVec 7)
  deriving DecidableEq, Repr

end Sys2Proof
end

