-- ==== Sys2Proof/Machine/State.lean ====
section
/-! DEFINITION. The state of the device as plain data: groups and their registers, workgroups, gangs and
launches, cores, matrix units, memory with its directory, contexts, the host interface, the fabric and the
health data. INVENTORY.md lists every field with the rule that names it. -/

namespace Sys2Proof.Machine

/-! ### Groups and fragments -/

/-- The role of a group (R58). -/
inductive Role where
  | C | M | V
  deriving DecidableEq, Repr

/-- The privilege level a group runs at (R84). -/
inductive Level where
  | user | sup
  deriving DecidableEq, Repr

/-- An open join or serialisation frame of a fragment, innermost first in its chain (R51, R56). Program
counters are byte offsets. `id` is the model's own number for a join; `owner` is the entry that executed
the `BRD`. -/
inductive Open where
  | join (id reconv partner owner : Nat) (fmt rmode : Word)
  | frame (taken rest : Mask) (fall reconv : Nat) (fmt rmode : Word) (second : Bool)
  deriving DecidableEq, Repr

/-- What a fragment waits for (R72). -/
inductive Wait where
  /-- it waits for nothing -/
  | none
  /-- at the reconvergence address of its innermost join (R54) -/
  | join
  /-- in `SLEEP` until a clk (R255) -/
  | sleep (clk : Nat)
  /-- for a pennant to have completed a number of phases (R341) -/
  | pennant (r : PenRef) (phases : Nat)
  /-- for the slot at a ring's cursor (R60); the instruction is executed again -/
  | ring (n : Nat) (take : Bool)
  /-- for a Pending line (R118); the instruction is executed again -/
  | line (wg line : Nat)
  /-- for an Unfilled line to be filled (R121); the instruction is executed again -/
  | fill (wg line : Nat)
  /-- for a filling leaf at this physical address (R140); the instruction is executed again -/
  | leaf (pte : Nat)
  /-- in `WAITCNT` of a class until at most `n` operations are outstanding (R339) -/
  | cnt (cls n : Nat)
  /-- on the registered monitor of a number (R200) -/
  | monitor (id : Nat)
  /-- re-reading the word of a monitor's number, last at a clk (R200) -/
  | reread (id since : Nat)
  /-- in `ITEND` until no map write is outstanding (R380) -/
  | itend
  /-- in `SPAWN` for room in the item queue (R381): payload register, target index, lanes -/
  | room (v : VReg) (target : Nat) (lanes : Mask)
  /-- in `SPQ` until the core's queue holds no item of the launch (R382) -/
  | spq
  /-- in `UNSEAL` until the entry's copy count is 0 (R338) -/
  | unseal (entry : Nat)
  /-- for host memory to answer (R320); the instruction is executed again -/
  | host
  /-- for `%tb` to reach the group's horizon after an acquire (R445) -/
  | horizon
  /-- in `POOLGET` for frames of a page size 0, 1 or 2 (R434) -/
  | pool (size : Nat)
  /-- after `YIELDD.susp` (R259) -/
  | susp
  deriving DecidableEq, Repr

/-- A split-table entry (R51), with the clk since which the fragment is ready (R197). -/
structure Frag where
  mask   : Mask
  pc     : Nat
  fmt    : Word
  rmode  : Word
  wait   : Wait
  chain  : List Open
  since  : Nat
  /-- a race replay in progress: the lanes that the next issue runs in, unchecked (R428) -/
  only   : Option Mask
  /-- the host memory access at the pc has been answered (R320) -/
  hostOk : Bool
  /-- it belongs to the supervisor handler (R426) -/
  sup    : Bool
  deriving DecidableEq, Repr

/-- A fault record (R284). -/
structure Record where
  valid : Bool
  kind  : BitVec 16
  code  : BitVec 8
  index : Word
  addr  : DWord
  deriving DecidableEq, Repr

/-- Where `RTT` resumes (R428). -/
inductive Resume where
  | next | replay | race | at
  deriving DecidableEq, Repr

/-- What a handler entry records (R257, R426): the interrupted fragment, the entry that hosts the
handler, the handler's mask, where to resume, the image, and the leaf a first touch is filling (R139). -/
structure Handler where
  entry  : Nat
  frag   : Frag
  mask   : Mask
  resume : Resume
  image  : Nat
  kind   : Nat
  leaf   : Option Nat
  size   : Nat
  deriving DecidableEq, Repr

/-- What a yield trap saves of a group (R204). -/
structure Saved where
  frags   : Table Frag
  fflags  : Table Word
  srseed  : Table Word
  horizon : DWord
  deriving DecidableEq, Repr

/-- Where a group stands in a yield (R204, R205, R210, R260). -/
inductive Yield where
  /-- no yield -/
  | none
  /-- the trap was raised at a `%tb` and is not yet taken -/
  | raised (tb : Nat)
  /-- the yield handler runs; the budget counts from a `%tb` -/
  | running (tb : Nat)
  /-- the handler's suspend has taken effect -/
  | suspended
  /-- the gang is resumed and the group has not executed `YIELDD.ret` -/
  | resumed
  /-- resumed in the handler after the budget ran out: its suspend suspends nothing (R440) -/
  | overrun
  deriving DecidableEq, Repr

/-- A walk in progress (R376); `asked` are the points whose operands the scan that waits for room has prefetched. -/
structure Walk where
  map    : Nat
  obase  : Nat
  sh     : Nat
  olen   : Nat
  bound  : Nat
  n      : Nat
  list   : Nat
  passes : Table Nat
  handed : List Nat
  done   : List Nat
  asked  : List Nat
  deriving DecidableEq, Repr

/-- An engine error waiting for the `WAITCNT` that covers it (R435): class, status, record address. -/
structure Failed where
  cls    : Nat
  status : Nat
  addr   : Nat
  deriving DecidableEq, Repr

/-- A resident group. `gid` numbers it within its launch: workgroup × 16 + group, or from 2^32 up for a
packed group. -/
structure Group where
  launch  : Nat
  gid     : Nat
  wg      : Option Nat
  gang    : Option Nat
  wgNo    : Nat
  no      : Nat
  role    : Role
  regs    : Nat
  npreds  : Nat
  packed  : Bool
  level   : Level
  frags   : Table Frag
  retired : Mask
  joins   : Nat
  vregs   : Table Word
  sregs   : Table Word
  pregs   : Table Mask
  fflags  : Table Word
  srseed  : Table Word
  horizon : DWord
  record  : Record
  handler : Option Handler
  yield   : Yield
  /-- a yield trap held until `YIELDD.ret` (R210) or `RTT` (R204) -/
  held    : Bool
  saved   : Option Saved
  walk    : Option Walk
  failed  : List Failed
  /-- by lane × 8 + scope code: the stamp of the lane's latest release fence of that scope (R175, R444); 0 none -/
  relF    : Table Nat
  /-- by lane × 8 + scope code: the largest release stamp that the lane has read, for a later acquire fence of that
  scope (R175, R445) -/
  seen    : Table Nat
  /-- per class of engine operation: the largest stamp of a completion that has retired (R180, R445) -/
  landed  : Table Nat
  /-- the `%tb` at which it was placed here, last -/
  placed  : Nat
  /-- its accesses before its yields (R211): logical core × 64 + slot, and the span of `%tb` -/
  was     : List (Nat × Nat × Nat)
  deriving DecidableEq, Repr

/-- The fragment whose instruction the next step runs: group key and split-table entry; and the other fragments of its
partition that were ready when it was chosen (R197). -/
structure Cur where
  g  : Nat
  en : Nat
  others : List (Nat × Nat)
  deriving DecidableEq, Repr

/-! ### Workgroups, gangs and launches -/

/-- The state of a scratchpad line (R116); a Pending line holds the copies that marked it, in order. -/
inductive Line where
  | full
  | pending (ops : List Nat)
  | unfilled
  deriving DecidableEq, Repr

/-- A window entry (R120): scratchpad base, length, global base, dirty words per line (R122), and, for Unfilled
lines that copies have marked Pending, the words no copy has written (R123). -/
structure Window where
  base  : Nat
  len   : Nat
  va    : Nat
  dirty : Table Word
  todo  : Table Word
  deriving DecidableEq, Repr

/-- The state of a ring slot (R60). -/
inductive Slot where
  | free | held | full | taken
  deriving DecidableEq, Repr

/-- A stage ring (R59): cursors, slots, phase bits, publishes held back (R61), and per slot the release stamp of its
latest publish or free (R179, R444). -/
structure Ring where
  base  : Nat
  bytes : Nat
  prod  : Nat
  cons  : Nat
  slots : List Slot
  phase : List Bool
  early : List Nat
  stamps : List Nat
  deriving DecidableEq, Repr

/-- A pennant (R62 to R66): members, those joining and leaving with the next phase, E, A, the engine arrivals that C
holds, by their release stamps, the engine arrivals counted in the phase, members that have arrived in it, arrivals
of members toward later phases with their stamps, the lanes of a split group that have arrived, with their stamp (R64), the
phase bit, phases completed, the largest release stamp of the arrivals counted in the phase, and that of each phase
completed (R444). The numbers of the phases abandoned; and of a grid-wide one of several devices: what other devices have told of phases still to
come, the devices that hold no group that could still arrive in the phase, and whether this one has said so (R342, R436). -/
structure Pennant where
  members : List Nat
  joining : List Nat
  leaving : List Nat
  e       : Nat
  a       : Nat
  carry   : List Nat
  eng     : Nat
  arrived : List Nat
  later   : List (Nat × Nat)
  half    : List (Nat × Mask × Nat)
  phase   : Bool
  count   : Nat
  stamp   : Nat
  past    : List (Nat × Nat)
  gone    : List Nat
  ahead   : List (Nat × PenMsg)
  stuck   : List Nat
  said    : Bool
  deriving DecidableEq, Repr

/-- The kind of an access for R172 (R442): plain, `UPD` with its tag, or synchronising with its scope and its
launch and thread: an atomic, or an access with an ordering modifier (log 20). -/
inductive StampKind where
  | plain
  | atomic (sc : Scope) (launch thread : Nat)
  | upd (tag : Op)
  deriving DecidableEq, Repr

/-- Accesses of one agent to bytes of a word: their time, kind (log 20) and bytes (R172, log 18). -/
structure Mark where
  time  : Nat
  kind  : StampKind
  bytes : BitVec 4
  deriving DecidableEq, Repr

/-- A write stamp (R442): the writer, with its latest write of each byte (log 18). -/
structure WStamp where
  agent : BitVec 24
  marks : List Mark
  deriving DecidableEq, Repr

/-- A read stamp (R442): a reader, with its latest read of each byte and kind (log 18), and the many bit. -/
structure RStamp where
  agent : BitVec 24
  marks : List Mark
  many  : Bool
  deriving DecidableEq, Repr

/-- A release that a word's value carries (R171, R444): the releasing agent's launch and thread (gid × 256 +
lane; 200 for a uniform instruction, 255 for an engine), its scope code, its stamp, and the bytes whose value carries it. -/
structure Release where
  launch : Nat
  thread : Nat
  scope  : Nat
  stamp  : Nat
  bytes  : BitVec 4
  deriving DecidableEq, Repr

/-- The stamps of a word (R442), with the releases that its value carries: of its latest plain write, and of
the atomics and updates on top of it (R171). -/
structure Stamps where
  w   : Option WStamp
  r   : Option RStamp
  rel : List Release
  deriving DecidableEq, Repr

/-- A resident workgroup; `base` is where its allocation starts in the core's scratchpad (R113); `zero` holds the lines that carry
their zero bit, each with the copy whose tile it is of (R110, R356). -/
structure Workgroup where
  core   : Nat
  base   : Nat
  launch : Nat
  gang   : Nat
  no     : Nat
  size   : Nat
  swz    : Nat
  bytes  : Memory
  lines  : Table Line
  zero   : Table Nat
  wins   : Table Window
  rings  : Table Ring
  pens   : Table Pennant
  /-- releases carried by scratchpad words, by word number (R170, R171) -/
  rels   : Table Stamps
  deriving DecidableEq, Repr

/-- A placed gang: cores of its members in member order, its pennants, when it was placed, whether it
is yielding and since when (`%tb`), and whether it yields as the victim of a launch that fits nowhere (R202). -/
structure Gang where
  launch : Nat
  no     : Nat
  cores  : List Nat
  pens   : Table Pennant
  placed : Nat
  yielding : Option Nat
  victim : Bool
  deriving DecidableEq, Repr

/-- A queue token a launch waits for or signals (R190). -/
structure Token where
  n     : Nat
  value : Word
  deriving DecidableEq, Repr

/-- A declared ring of a launch (R34): id, slots, base, slot bytes. -/
structure RingDecl where
  id    : Nat
  slots : Nat
  base  : Nat
  bytes : Nat
  deriving DecidableEq, Repr

/-- The contents of a launch record (R190, R411). -/
structure LRec where
  code    : Nat
  entry   : Nat
  yield   : Option Nat
  wg      : Nat
  groups  : Nat
  threads : Nat
  gang    : Nat
  devices : Nat
  regs    : Nat
  preds   : Nat
  swizzle : Nat
  scratch : Nat
  roles   : List Role
  pens    : Nat
  gpens   : Nat
  spawn   : Nat
  cores   : Bool
  again   : Bool
  queue   : Nat
  prio    : Nat
  signal  : Option Token
  waits   : List Token
  rings   : List RingDecl
  pre     : Table Word
  nodes   : List Nat
  deriving DecidableEq, Repr

/-- A launch that has been entered (R190) and has not ended on every device. -/
structure Launch where
  ctx     : Nat
  id      : Nat
  lrec    : LRec
  started : Bool
  /-- the hoist of a launch of several devices has completed here (R416) -/
  go      : Bool
  gen     : Nat
  dev     : Nat
  /-- the next gang never yet placed -/
  next    : Nat
  /-- gangs to be placed again after a kill (R466) -/
  redo    : List Nat
  /-- relaunches made, per gang -/
  tries   : Table Nat
  /-- gangs that have ended -/
  ended   : List Nat
  status  : Nat
  grid    : Pennant
  /-- packed groups started so far -/
  packed  : Nat
  /-- this device has reported its end to device 0 and keeps the record until the launch has ended everywhere (R190, R417) -/
  closed  : Bool
  /-- members of the launch that have reported the end (R417) -/
  reports : List Nat
  /-- the `%tb` before which no group of it is placed (R444) -/
  notBefore : Nat
  deriving DecidableEq, Repr

/-! ### Cores and matrix units -/

/-- The coherence class of a page (R138). -/
inductive Cls where
  | nc | dc | xc
  deriving DecidableEq, Repr

/-- An L1 line (R125): class, grant sequence (R150), valid and dirty words, words, their stamps (R443). -/
structure L1Line where
  cls    : Cls
  seq    : BitVec 8
  valid  : Word
  dirty  : Word
  words  : Table Word
  stamps : Table Stamps
  hint   : BitVec 2
  deriving DecidableEq, Repr

/-- A partial value (R160, R161): up to 128 bits, and the six sticky bits of `xsum32`. -/
structure Partial where
  v    : BitVec 128
  ix   : Bool
  ov   : Bool
  nan  : Bool
  pinf : Bool
  ninf : Bool
  nv   : Bool
  deriving DecidableEq, Repr

/-- An update-buffer slot (R160), oldest slots first in the buffer. -/
structure USlot where
  addr : Nat
  tag  : Op
  p    : Partial
  agent : BitVec 24
  time : Nat
  deriving DecidableEq, Repr

/-- A TLB entry (R137): context, virtual page base, page size in bits, the leaf. -/
structure Tlb where
  ctx  : Nat
  va   : Nat
  bits : Nat
  leaf : DWord
  deriving DecidableEq, Repr

/-- An item of the item queue (R68): launch, pc, payload, the gang that spawned it. -/
structure Item where
  launch  : Nat
  gang    : Option Nat
  pc      : Nat
  payload : List Word
  /-- the clk at which it was queued (R69) -/
  clk     : Nat
  /-- the largest release stamp of the spawning lane (R381) -/
  stamp   : Nat
  deriving DecidableEq, Repr

/-- A partial group that may start (R69): launch and pc. -/
structure Packing where
  launch : Nat
  pc     : Nat
  deriving DecidableEq, Repr

/-- A core (R10): L1, update buffer, TLB, item queue, partial groups made startable by a time-out or an
`SPQ`, overdue fragments, the pass counts of its fragments by 128 × slot + entry, and the vector pipe per partition (R196, R197),
and its service state. -/
structure CoreSt where
  l1      : Table L1Line
  ubuf    : List USlot
  tlb     : List Tlb
  items   : List Item
  start   : List Packing
  overdue : List (Nat × Nat)
  passed  : Table Nat
  pipe    : Table Nat
  fenced  : Bool
  /-- it takes no new work while a scan test or a deconfiguration drains it (R486, R489) -/
  drain   : Bool
  lost    : Bool
  deriving DecidableEq, Repr

/-- A kiln slot's contents (R367): format, elements by 128k + n, scales by 128q + n, zero K-blocks, and the
seal entries it counts in (R156). -/
structure Kiln where
  fmt   : Fmt
  elems : Table (BitVec 16)
  scales : Memory
  zero  : BitVec 4
  seals : List Nat
  deriving DecidableEq, Repr

/-- A partition's matrix unit (R10, R44): its workgroup, accumulators by 1024 a + 128 i + n, kiln slots,
tensor-id bindings, the scale cache keyed 512 t + 4 l + q (R366), and the clk from which it accepts the next
`MMA` (R13, R196). -/
structure Mat where
  owner : Option Nat
  acc   : Table Word
  kiln  : Table Kiln
  binds : Table Nat
  cache : List (Nat × Byte)
  next  : Nat
  deriving DecidableEq, Repr

/-- A gang saved by a pre-emption (R207) under its key: what the hardware saved of it, with the registers and
allocations that the firmware saved whole. Its workgroups and matrix units are listed by workgroup key. -/
structure SavedGang where
  key     : Nat
  launch  : Nat
  no      : Nat
  pens    : Table Pennant
  groups  : List Group
  wgs     : List (Nat × Workgroup)
  mats    : List (Nat × Mat)
  /-- workgroup keys whose allocation and registers the firmware saved whole (R208, R440) -/
  full    : List Nat
  /-- the images that hold it where its context is protected (R215): number of the part, address, payload length -/
  images  : List (Nat × Nat × Nat)
  deriving DecidableEq, Repr

/-! ### Memory side -/

/-- The states of a line (R145). -/
inductive DState where
  | I | S | M | D | P
  deriving DecidableEq, Repr

/-- A request that waits for probes (R145, R146). -/
inductive Req where
  | read | own
  | upd (tag : Op)
  deriving DecidableEq, Repr

/-- A waiting request: the core, what it asks, the words, and the holders that have not answered. -/
structure Pend where
  core : Nat
  req  : Req
  mask : Word
  left : List Nat
  /-- the partials that the holders of a line in P have returned -/
  parts : List (Nat × USlot)
  deriving DecidableEq, Repr

/-- A directory entry (R142), with the home partials (R159), the lost mask (R469) and a waiting request. Of a line of
this device: the peers that hold partial state of it, those asked for theirs, what they have given back (R159, R165), and
those that wait to join with their tags. Of
a peer's line: whether its owner has still to acknowledge that this device holds partial state of it (R415). -/
structure Dir where
  st      : DState
  holders : List Nat
  masks   : Table Word
  tag     : Op
  seq     : BitVec 8
  sealed    : Option Nat
  hpart   : Table Partial
  hstamp  : Table WStamp
  lost    : Word
  pend    : Option Pend
  devs    : List Nat
  asked   : List Nat
  dparts  : List (Nat × List (Nat × DWord))
  joinq   : List (Nat × Op)
  unacked : Bool
  deriving DecidableEq, Repr

/-- A seal entry (R154): context, virtual base, length, copy count. -/
structure Seal where
  ctx    : Nat
  va     : Nat
  len    : Nat
  copies : Nat
  deriving DecidableEq, Repr

/-- A registered monitor (R200) under its number: the fragment (launch, gid, entry), or the peer node that registered it
and its number there (R340), the word, the condition (none for
`WAITW`), the scope, whether the home holds it or the fragment re-reads the word, the value that a `WAITW` of a
host word read (R340), the releases that the value which satisfied it carries, once satisfied (R171), and the address and
the lane of the record of an abort that a re-read receives (R462). -/
structure Monitor where
  id     : Nat
  peer   : Option (Nat × Nat)
  launch : Nat
  gid    : Nat
  en     : Nat
  addr   : Nat
  cond   : Option (Cmp × Word)
  scope  : Scope
  held   : Bool
  old    : Word
  sat    : Option (List Release)
  va     : Nat
  lane   : Nat
  deriving DecidableEq, Repr

/-- The kinds of probe (R143, R146). -/
inductive ProbeKind where
  | recall | forward | merge | downgrade
  deriving DecidableEq, Repr

/-- The words a core returns for a line: values, stamps, and partials of its update buffer (R143). -/
structure Returned where
  words  : Table Word
  stamps : Table Stamps
  parts  : List USlot
  /-- after a forward-read or a downgrade: the words of the copy that the core keeps -/
  kept   : Option Word
  deriving DecidableEq, Repr

/-- A message in flight between a home and a core, about one line (R143). -/
inductive Msg where
  | probe (core line : Nat) (seq : BitVec 8) (k : ProbeKind)
  | answer (core line : Nat) (seq : BitVec 8) (r : Returned)
  | gone (core line : Nat) (seq : BitVec 8)
  | grant (core line : Nat) (seq : BitVec 8) (words : Table Word) (stamps : Table Stamps) (own : Bool)
  | writeback (core line : Nat) (seq : BitVec 8) (mask : Word) (r : Returned)
  | flush (core line : Nat) (tag : Op) (parts : List USlot)
  deriving DecidableEq, Repr

/-- A prefetched word on its way for a context (R325): into a core's L1, or into its home slice only. -/
structure Prefetch where
  id   : Nat
  core : Nat
  addr : Nat
  cls  : Cls
  l1   : Bool
  hint : BitVec 2
  ctx  : Nat
  deriving DecidableEq, Repr

/-- A burst in flight on a channel (R131, R454, R455): reissues after a bad frame, and the word devices
that have missed it once. -/
structure Flight where
  id     : Nat
  chan   : Nat
  b      : Burst
  tries  : Nat
  missed : List Nat
  deriving DecidableEq, Repr

/-- A tensor record as read (R347). -/
structure TRec where
  base    : Nat
  stride  : Nat
  rows    : Nat
  cols    : Nat
  fmt     : Fmt
  trows   : Nat
  tcols   : Nat
  pitch   : Nat
  ragged  : Bool
  zmapOk  : Bool
  offs    : Nat
  zmap    : DWord
  pad     : Word
  deriving DecidableEq, Repr

/-- The copy instructions (R357 to R363). -/
inductive CopyKind where
  | cpy | cpyg | cpys | cpyr | cpyb | cpyf | cpyq
  deriving DecidableEq, Repr

/-- A command block (R349). -/
structure Block where
  done   : Nat
  aux    : DWord
  dest   : Word
  dkind  : Nat
  bounds : Nat
  op     : Nat
  rv     : Bool
  ring   : Nat
  slot   : Nat
  pv     : Bool
  pen    : Nat
  count  : Nat
  recAddr : Nat
  deriving DecidableEq, Repr

/-- A copy in progress: its block, the record read at issue, the list lines fetched (R184), the next row,
rows landed, status, the private generator of `CPYB` (R361) and the rounding mode. -/
structure Copy where
  kind   : CopyKind
  blk    : Block
  trec   : Option TRec
  rows   : Nat
  lists  : Table Word
  row    : Nat
  landed : Nat
  status : Nat
  mode   : BitVec 3
  rng    : Word
  seals  : List Nat
  /-- its tile is declared zero by a valid zero map (R357) -/
  zeroT  : Bool
  /-- the workgroups in whose allocations it lands, and the group and registers it lands in (R351, R352) -/
  dests  : List Nat
  tgt    : Option (Nat × Nat)
  regs   : List Nat
  /-- a peer has been asked to pool the next row's bag, and its answer: status, words and the generator's state (R418) -/
  asked  : Bool
  reply  : Option (Nat × List Word × Word)
  deriving DecidableEq, Repr

/-- An octet pass (R370): accumulator, slot, K, A format, the eight rows' register words by position, the
rows whose lane executed, tensor id, saturation, rounding mode, sparsity, and the clk in which its accumulators are
written (R371). -/
structure Pass where
  acc   : Nat
  octet : Nat
  slot  : Nat
  k     : Nat
  afmt  : Nat
  rows  : List (List Word)
  live  : List Bool
  tid   : Nat
  sat   : Bool
  mode  : BitVec 3
  sparse : Bool
  ready : Nat
  deriving DecidableEq, Repr

/-- A tile transfer of `MDRAIN` or `MLOAD` (R373, R375): accumulator, format, `.add`, the workgroup of a scratchpad
operand, address, rounding mode, the generator's state before it, the ring and slot to publish, and the lane of
its flags. -/
structure Tile where
  acc   : Nat
  fmt   : MFmt
  add   : Bool
  tgt   : Option Nat
  addr  : Nat
  mode  : BitVec 3
  seed  : Word
  ring  : Option (Nat × Nat)
  lane  : Nat
  deriving DecidableEq, Repr

/-- What an outstanding operation does. -/
inductive OpKind where
  | copy (c : Copy)
  | kset (slot : Nat) (fmt : Fmt) (a b : Nat)
  | drain (t : Tile)
  | load (t : Tile)
  | pass (p : Pass)
  | mapbit (addr bit va : Nat)
  /-- a reduction on its way to a peer or the host (R333): address, operator, value, rounding, the issuing thread,
  virtual address and instruction index, whether the forwarding home keeps it as partial state (R159), and the releases
  that it is, by scope code and stamp (R170, R319) -/
  | red (pa : Nat) (op : Op) (d : DWord) (m : BitVec 3) (seed : Word) (partial_ : Bool) (thread va index : Nat)
      (rel : List (Nat × Nat))
  deriving DecidableEq, Repr

/-- An outstanding engine operation (R346): its group (key, launch, gid), workgroup, gang, core and
partition, its class (0 copy, 1 matrix, 2 walker, 3 to a peer, 4 to the host, 5 octet passes), the index of its instruction, and
whether it has completed and waits for older ones to retire (R180). -/
structure EngOp where
  g      : Nat
  launch : Nat
  gid    : Nat
  wg     : Option Nat
  gang   : Option Nat
  core   : Nat
  part   : Nat
  cls    : Nat
  index  : Nat
  done   : Bool
  /-- its completion status and the record address of its command (R355, R435) -/
  status : Nat
  addr   : Nat
  /-- the release stamp of its completion (R445) -/
  stamp  : Nat
  k      : OpKind
  deriving DecidableEq, Repr

/-- A record of the error log (R459). -/
structure LogRec where
  type   : BitVec 16
  unit   : BitVec 16
  row    : Word
  addr   : DWord
  count  : Word
  detail : Word
  time   : DWord
  deriving DecidableEq, Repr

/-! ### Contexts, host interface, fabric, health -/

/-- A context (R212, R407): owning function, key, page-table root, pools of frames by page size, tokens,
newest image counters, launch ids, loaded images (address, bytes; all their bytes for R420), save hold, saved gangs, and
the waiting `POOLGET`s in order: group key, entry, page size, destination (R434). -/
structure Ctx where
  fn     : Nat
  prot   : Bool
  key    : BitVec 256
  root   : Nat
  pool0  : List Nat
  pool1  : List Nat
  pool2  : List Nat
  tok    : Nat
  ntok   : Nat
  latest : Table Nat
  nextId : Nat
  images : List (Nat × Nat)
  loaded : List Byte
  hold   : Bool
  saved  : List SavedGang
  poolq  : List (Nat × Nat × Nat × Nat)
  tables : List Nat
  deriving DecidableEq, Repr

/-- The registers of one host command queue (R404). -/
structure QRegs where
  cqbase : DWord
  ccbase : DWord
  cqcfg  : Word
  cqdoor : Word
  cqhead : Word
  cctail : Word
  cchead : Word
  /-- an unregistration waits for the current command -/
  closing : Bool
  /-- the last write of CQBASE, or of CCBASE, had a reserved bit set: the registration is rejected -/
  cqbad  : Bool
  ccbad  : Bool
  deriving DecidableEq, Repr

/-- A function's register space (R404, R432). -/
structure Fn where
  fqbase : DWord
  fqcfg  : Word
  fqhead : Word
  fqtail : Word
  queues : Table QRegs
  /-- a virtual function that the physical function has enabled (R402); the physical function always is -/
  on     : Bool
  deriving DecidableEq, Repr

/-- A command in progress (R405); `launch` links the launch it waits for; `out` its status and value once
it has completed and its completion entry is held (R404). -/
structure Cmd where
  fn     : Nat
  q      : Nat
  code   : Nat
  flags  : Nat
  tag    : Word
  ctx    : Nat
  ops    : List Byte
  launch : Option Nat
  out    : Option (Nat × DWord)
  deriving DecidableEq, Repr

/-- A Halyard link (R414, R475): up, expected receive sequence, flits since the last acknowledgement, next
send sequence, unacknowledged flits, stopped by the receiver, replay requests received without progress. -/
structure Link where
  up    : Bool
  rx    : BitVec 12
  since : Nat
  tx    : BitVec 12
  sent  : List Flit
  stop  : Bool
  tries : Nat
  /-- replay requests (true) and acknowledgements this device has sent since the link last trained -/
  out   : List (Bool × BitVec 12)
  /-- the receive buffer: the messages of flits received and not yet handed on, whether the sender has been told to stop, and
  the stops (true) and goes sent (R414) -/
  buf   : List (Nat × BitVec 16 × HMsg)
  full  : Bool
  flow  : List Bool
  /-- the node that it leads to, once a flit has come over it (R476), and when it went down (R477) -/
  peer  : Option Nat
  down  : Option Nat
  deriving DecidableEq, Repr

/-- What the device holds of a peer (R415, R476, R477): the messages to send to it, in order, and whether it has reported a
reset. -/
structure Peer where
  rx      : BitVec 16
  tx      : BitVec 16
  dropped : Bool
  outbox  : List HMsg
  back    : Bool
  deriving DecidableEq, Repr

/-- A unit's health entry (R494), consecutive shortfalls, and the `%tb` of its last sample (R484). -/
structure UnitHealth where
  g     : BitVec 4
  st    : BitVec 4
  slow  : BitVec 8
  short : Nat
  last  : Option Nat
  deriving DecidableEq, Repr

/-- What a health record shows, as the firmware last rebuilt it (R493): the sequence number, `%tb`, powered-on seconds, the core map,
the fenced cores, the units' entries, counts, rows, failed word devices, and the number of the free value that signs it. -/
structure Shown where
  seq    : Nat
  tb     : Nat
  secs   : Nat
  cores  : List Nat
  fenced : List Nat
  units  : Table Nat
  counts : List Nat
  rows   : List (Nat × Word)
  wdev   : Table (BitVec 16)
  free   : Nat
  deriving DecidableEq, Repr

/-- The health data (R493) and the record kept of them. Units 0 to 143 are cores in physical order, 144 to 271 home slices. -/
structure Health where
  seq    : Nat
  tb     : DWord
  secs   : Nat
  units  : Table UnitHealth
  counts : List Nat
  rows   : List (Nat × Word)
  wdev   : Table (BitVec 16)
  record : Shown
  deriving DecidableEq, Repr

/-- A from-pool leaf that the firmware fills for an engine or a command (R496): context, virtual address, entry,
level, and whether an empty pool has been reported. -/
structure Fill where
  ctx   : Nat
  va    : Nat
  pte   : Nat
  level : Nat
  told  : Bool
  deriving DecidableEq, Repr

/-- A scan test or deconfiguration in progress on a core (R486, R489): its command's function and queue,
0 drain or 1 run, the `%tb` at which it started, and the launches of priority 6 and 7 that were eligible as it began (R487). -/
structure Scan where
  core  : Nat
  fn    : Nat
  q     : Nat
  run   : Bool
  scan  : Bool
  tb    : Nat
  heads : List Nat
  deriving DecidableEq, Repr

/-- The power controller's data (R16, R17): the last ten window means, and issue stopped per half. -/
structure Power where
  means : List Nat
  trip0 : Bool
  trip1 : Bool
  deriving DecidableEq, Repr

/-- An alert raised to the outside (R460): an MSI-X interrupt of a function's vector 0, or MCTP. -/
inductive Alert where
  | msix (fn : Nat)
  | mctp
  | fatal
  deriving DecidableEq, Repr

/-- A protected store of the device (R456): the word of a line in its home slice, a directory entry, a word of a core's
L1, a slot of its update buffer, a scratchpad word of a workgroup, a lane of a group's vector register, an accumulator
element of a matrix unit, a 32-bit group of elements of its kiln slot. -/
inductive Store where
  | home (pa : Nat)
  | entry (line : Nat)
  | l1 (core pa : Nat)
  | slot (core addr : Nat)
  | spad (wg word : Nat)
  | vreg (g r lane : Nat)
  | acc (unit i : Nat)
  | kiln (unit slot i : Nat)
  deriving DecidableEq, Repr

/-! ### The device -/

/-- A step that follows at once from what has happened (log 4): a pass of the dispatcher (R192), or the step that a Halyard
message starts (R416 to R418, R476, R478). -/
inductive Task where
  | pass
  | message (peer : Nat) (seq : BitVec 16) (m : HMsg)
  | ready (lead gen dev : Nat)
  | go (lead gen : Nat)
  | abort (lead gen : Nat)
  | ended (lead gen dev status : Nat)
  | bags (peer : Nat) (r : BagReq)
  deriving DecidableEq, Repr

/-- The whole device. Groups are keyed 64 × core + slot; workgroups, gangs, launches and operations by
serial number; matrix units 4 × core + partition; directory entries and L1 lines by line number (address
÷ 128); home words by word number (address ÷ 4); `held` the words of a local line valid in its home slice (R128), `wet` those of
them written since they came from DRAM (R456). Cores are in physical order: 8 × cluster + position. -/
structure State where
  clk     : Nat
  tb      : DWord
  tbFrac  : Nat
  mhz     : Nat
  power   : Power
  free    : Nat
  serial  : Nat
  agenda  : List Task
  cur     : Option Cur
  scan    : Nat
  groups  : Table Group
  wgs     : Table Workgroup
  gangs   : Table Gang
  launches : Table Launch
  queues  : Table (List Nat)
  served  : Table Nat
  generation : Nat
  hoists  : Table (List Nat)
  cores   : Table CoreSt
  coreMap : List Nat
  ctlb    : Table (List Tlb)
  mats    : Table Mat
  mem     : Memory
  check   : Table (BitVec 8)
  devFail : Table (BitVec 16)
  homes   : Table Stamps
  held    : Table Word
  wet     : Table Word
  dir     : Table Dir
  seals   : Table Seal
  monitors : List Monitor
  msgs    : List Msg
  prefetches : List Prefetch
  bursts  : List Flight
  ops     : Table EngOp
  bloom   : Table (BitVec 4096)
  repeats : Table (List (Word × Nat))
  epoch   : Nat
  log     : List LogRec
  fatal   : Bool
  ctxs    : Table Ctx
  fills   : List Fill
  tokens  : Table Word
  fns     : Table Fn
  cmds    : List Cmd
  node    : BitVec 7
  links   : Table Link
  peers   : Table Peer
  /-- requests of peers that wait for a line's home: bags and monitors (R153, R340, R418), by node -/
  parked  : List (Nat × HMsg)
  scans   : List Scan
  health  : Health
  alerts  : List Alert
  sideband : List (List Byte)
  fw      : Nat
  fwFree  : List Nat
  /-- words of bursts that have failed for good, until the error is told or the word is written (R454) -/
  spoilt  : List Nat
  /-- the stores that hold an error: true an uncorrectable one, false a single bit (R456) -/
  flaws   : List (Store × Bool)
  /-- the release stamp of the latest `PTEW` of an entry, by its address (R282, R444) -/
  leafRel : Table Nat
  deriving DecidableEq, Repr

/-- The reasons a step ends the run. Architectural events are no faults here: they enter handlers,
escalate or report (R421), all in a next state. -/
inductive Fault where
  /-- a meaning of an instruction word was asked for while no fragment is selected; `step` never asks so.
  Raised by every instruction-word meaning. Safe: the machine stops. -/
  | noFragment
  deriving DecidableEq, Repr

/-- The reasons an instruction has no meaning. -/
inductive Refusal where
  /-- the instruction is not modelled yet; raised by arms of `exec` only. Safe: the machine stops. -/
  | notModelled (mnemonic : String)
  deriving DecidableEq, Repr

/-! ### Reset -/

/-- A core after reset (R45, log 2). -/
def CoreSt.reset : CoreSt :=
  ⟨[], [], [], [], [], [], [], [], false, false, false⟩
/-- A matrix unit that no workgroup holds (R45). -/
def Mat.reset : Mat := ⟨none, [], [], [], [], 0⟩
/-- The directory entry of a line with no entry (R142): state I. -/
def Dir.reset : Dir := ⟨.I, [], [], .iadd32, 0, none, [], [], 0, none, [], [], [], [], false⟩
/-- A word with no stamps (R442). -/
def Stamps.blank : Stamps := ⟨.none, .none, []⟩
/-- A queue's registers on reset (R404). -/
def QRegs.reset : QRegs := ⟨0, 0, 0, 0, 0, 0, 0, false, false, false⟩
/-- A function's registers on reset (R404, R432). -/
def Fn.reset : Fn := ⟨0, 0, 0, 0, [], false⟩
/-- A link after training (R414, log 2). -/
def Link.reset : Link := ⟨true, 0, 0, 0, [], false, 0, [], [], false, [], none, none⟩
/-- A peer before any message (log 2). -/
def Peer.reset : Peer := ⟨0, 0, false, [], false⟩
/-- A unit of a new device (R484, log 2). -/
def UnitHealth.reset : UnitHealth := ⟨0, 0, 0, 0, none⟩
/-- The health data of a new device, and its first record (R493, R495, log 2). -/
def Health.reset : Health :=
  ⟨0, 0, 0, [], List.replicate 8 0, [], [], ⟨0, 0, 0, List.range 144, [], [], List.replicate 8 0, [], [], 0⟩⟩
/-- An empty fault record (R284). -/
def Record.reset : Record := ⟨false, 0, 0, 0, 0⟩
/-- A pennant with a member set (R63). -/
def Pennant.start (members : List Nat) : Pennant := ⟨members, [], [], 0, 0, [], 0, [], [], [], false, 0, 0, [], [], [], [], false⟩

/-- The first address of the memory the firmware keeps for itself: the top 4 GiB of local DRAM (log 6). -/
def fwBase : Nat := 0x5F00000000
/-- The address after local DRAM (R127). -/
def dramEnd : Nat := 0x6000000000

/-- The device right after reset: no context, no launch, every queue register and token 0, memory with
nothing listed, the clock at 950 MHz (R12, R142, R344, R404, R432; the values the spec leaves open: log 2). -/
def State.reset : State where
  clk := 0
  tb := 0
  tbFrac := 0
  mhz := 950
  power := ⟨[], false, false⟩
  free := 0
  serial := 0
  agenda := []
  cur := none
  scan := 0
  groups := []
  wgs := []
  gangs := []
  launches := []
  queues := []
  served := []
  generation := 0
  hoists := []
  cores := []
  coreMap := List.range 144
  ctlb := []
  mats := []
  mem := []
  check := []
  devFail := []
  homes := []
  held := []
  wet := []
  dir := []
  seals := []
  monitors := []
  msgs := []
  prefetches := []
  bursts := []
  ops := []
  bloom := []
  repeats := []
  epoch := 0
  log := []
  fatal := false
  ctxs := []
  fills := []
  tokens := []
  fns := []
  cmds := []
  node := 0
  links := []
  peers := []
  parked := []
  scans := []
  health := Health.reset
  alerts := []
  sideband := []
  fw := fwBase
  fwFree := []
  spoilt := []
  flaws := []
  leafRel := []

end Sys2Proof.Machine
end

