-- ==== Sys2Proof/Machine/Regs.lean ====
section
/-! DEFINITION. The registers of a group, its fragments, lane masks, and the parts of the device by name. -/

namespace Sys2Proof.Machine

/-! ### Lanes -/

/-- Every lane. -/
def allLanes : Mask := BitVec.allOnes 128
/-- The mask of one lane. -/
def laneBit (l : Nat) : Mask := BitVec.twoPow 128 l
/-- The lanes of a mask in ascending order. -/
def lanesOf (m : Mask) : List Nat := (List.range 128).filter fun l => m.getLsbD l
/-- The lanes of a list as a mask. -/
def maskOf (ls : List Nat) : Mask := ls.foldl (fun m l => m ||| laneBit l) 0
/-- The lowest lane of a mask; 0 for an empty one. -/
def lowLane (m : Mask) : Nat := (lanesOf m).headD 0
/-- Lanes 0 to `n` − 1. -/
def firstLanes (n : Nat) : Mask := allLanes >>> (128 - n)
/-- The word indices of a 32-bit word mask in ascending order. -/
def wordsOf (m : Word) : List Nat := (List.range 32).filter fun i => m.getLsbD i
/-- The mask of one word of a line. -/
def wordBit (i : Nat) : Word := BitVec.twoPow 32 i

/-! ### Registers (R76) -/

/-- Lane `l` of `v r`. -/
def Group.vget (g : Group) (r l : Nat) : Word := Table.get 0 g.vregs (r * 128 + l)
/-- Write lane `l` of `v r`. -/
def Group.vset (g : Group) (r l : Nat) (x : Word) : Group :=
  { g with vregs := Table.put 0 g.vregs (r * 128 + l) x }
/-- Scalar register `n`. -/
def Group.sget (g : Group) (n : Nat) : Word := Table.get 0 g.sregs n
/-- Write scalar register `n`. -/
def Group.sset (g : Group) (n : Nat) (x : Word) : Group := { g with sregs := Table.put 0 g.sregs n x }
/-- The pair that the even register `n` names (R3). -/
def Group.sget2 (g : Group) (n : Nat) : DWord := g.sget (n + 1) ++ g.sget n
/-- Write the pair that the even register `n` names (R3). -/
def Group.sset2 (g : Group) (n : Nat) (x : DWord) : Group :=
  (g.sset n (x.truncate 32)).sset (n + 1) ((x >>> 32).truncate 32)
/-- Predicate `n` of every lane. -/
def Group.pmask (g : Group) (n : Nat) : Mask := Table.get 0 g.pregs n
/-- Write predicate `n` in the lanes `m`, each with its bit of `v`. -/
def Group.pwrite (g : Group) (n : Nat) (m v : Mask) : Group :=
  { g with pregs := Table.put 0 g.pregs n ((g.pmask n &&& ~~~m) ||| (v &&& m)) }
/-- `%fflags` of lane `l` (R81). -/
def Group.flags (g : Group) (l : Nat) : Word := Table.get 0 g.fflags l
/-- Write `%fflags` of lane `l`: only bits 4:0 exist (R81). -/
def Group.setFlags (g : Group) (l : Nat) (x : Word) : Group :=
  { g with fflags := Table.put 0 g.fflags l (x &&& 0x1F) }
/-- `%srseed` of lane `l` (R82). -/
def Group.seed (g : Group) (l : Nat) : Word := Table.get 0 g.srseed l
/-- Write `%srseed` of lane `l`; 0 stores 1 (R82). -/
def Group.setSeed (g : Group) (l : Nat) (x : Word) : Group :=
  { g with srseed := Table.put 0 g.srseed l (if x = 0 then 1 else x) }

/-- The registers a block of extent (rows, columns) at `r` names, row by row (R30). -/
def blockRegs (e : Ext) (r : Nat) : List Nat :=
  (List.range (e.h.toNat + 1)).flatMap fun i => (List.range (e.w.toNat + 1)).map fun j => r + 64 * i + j

/-! ### The parts of the device -/

/-- The physical core of a group key. -/
def coreOf (k : Nat) : Nat := k / 64
/-- The group slot of a group key. -/
def slotOf (k : Nat) : Nat := k % 64
/-- The partition of a group key: 16 slots each (R10). -/
def partOf (k : Nat) : Nat := k % 64 / 16
/-- The logical id of a physical core under the map in force (R490). -/
def State.logical (s : State) (core : Nat) : Nat := s.coreMap.idxOf core
/-- The state of a core. -/
def State.core (s : State) (c : Nat) : CoreSt := Table.get CoreSt.reset s.cores c
def State.setCore (s : State) (c : Nat) (x : CoreSt) : State :=
  { s with cores := Table.put CoreSt.reset s.cores c x }
def State.modCore (s : State) (c : Nat) (f : CoreSt → CoreSt) : State := s.setCore c (f (s.core c))
/-- A fragment of a core: 128 × group slot + split-table entry. -/
def fragKey (k en : Nat) : Nat := 128 * slotOf k + en
/-- The pass count of a fragment (R197). -/
def State.passes (s : State) (k en : Nat) : Nat := Table.get 0 (s.core (coreOf k)).passed (fragKey k en)
/-- The pass counts of a group's fragments return to 0. -/
def State.forgetPasses (s : State) (k : Nat) : State :=
  s.modCore (coreOf k) fun c => { c with passed := c.passed.filter fun e => e.1 / 128 != slotOf k }
/-- The matrix unit of partition `p` of core `c`. -/
def State.mat (s : State) (c p : Nat) : Mat := Table.get Mat.reset s.mats (4 * c + p)
def State.setMat (s : State) (c p : Nat) (m : Mat) : State :=
  { s with mats := Table.put Mat.reset s.mats (4 * c + p) m }
/-- A group by key. -/
def State.group? (s : State) (k : Nat) : Option Group := Table.find s.groups k
def State.setGroup (s : State) (k : Nat) (g : Group) : State := { s with groups := Table.insert s.groups k g }
/-- Change a group, where it is resident. -/
def State.modGroup (s : State) (k : Nat) (f : Group → Group) : State :=
  { s with groups := Table.adjust s.groups k f }
/-- Change one fragment of a group, where it exists. -/
def State.modFrag (s : State) (k en : Nat) (f : Frag → Frag) : State :=
  s.modGroup k fun g => { g with frags := Table.adjust g.frags en f }
/-- Change a workgroup, where it is resident. -/
def State.modWg (s : State) (w : Nat) (f : Workgroup → Workgroup) : State :=
  { s with wgs := Table.adjust s.wgs w f }
/-- Change a launch, where it exists. -/
def State.modLaunch (s : State) (l : Nat) (f : Launch → Launch) : State :=
  { s with launches := Table.adjust s.launches l f }
/-- The context id of a launch key; 0 for none. -/
def State.ctxOf (s : State) (l : Nat) : Nat := ((Table.find s.launches l).map (·.ctx)).getD 0
/-- Change a context, where it exists. -/
def State.modCtx (s : State) (c : Nat) (f : Ctx → Ctx) : State := { s with ctxs := Table.adjust s.ctxs c f }
/-- The key of the next group, workgroup, gang, launch or operation, and the state that has given it out. -/
def State.fresh (s : State) : Nat × State := (s.serial, { s with serial := s.serial + 1 })
/-- `%tb` in ns. -/
def State.now (s : State) : Nat := s.tb.toNat

/-- The group has no active lane left (R47): the lanes it did not start with count as retired. -/
def Group.done (g : Group) : Bool := g.retired == allLanes
/-- Whether a fragment may issue while a handler runs (R426). -/
def Group.eligible (g : Group) (f : Frag) : Bool := f.mask != 0 && (g.handler.isNone || f.sup)

/-- The operations a group has outstanding of a class: 0 copy, 1 matrix, 2 walker, 3 peer reductions (R180). -/
def State.opsOf (s : State) (launch gid cls : Nat) : List (Nat × EngOp) :=
  s.ops.filter fun o => o.2.launch == launch && o.2.gid == gid && o.2.cls == cls
/-- The counter `%cnt` of a class (R77, R180): operations issued and not yet retired. -/
def State.count (s : State) (g : Group) (cls : Nat) : Nat := (s.opsOf g.launch g.gid cls).length

end Sys2Proof.Machine
end

