-- ==== Sys2Proof/Machine/Pennants.lean ====
section
/-! DEFINITION. Pennants and stage rings: arrivals, phases, membership, slots (R59 to R67, R341 to R343,
R436). -/

namespace Sys2Proof.Machine

/-! ### Pennants -/

/-- The expected count: members plus E (R62). -/
def Pennant.expected (p : Pennant) : Nat := p.members.length + p.e

/-- The number of the current phase: those completed and those abandoned before it. -/
def Pennant.no (p : Pennant) : Nat := p.count + p.gone.length

/-- C, the count of engine arrivals held (R64). -/
def Pennant.c (p : Pennant) : Nat := p.carry.length
/-- The largest of a list of stamps and a stamp. -/
def maxStamp (x : Nat) (l : List Nat) : Nat := l.foldl max x

/-- Engine arrivals that C holds move into A, the longest held first, as far as E admits (R64); the phase carries their
stamps. -/
def Pennant.letIn (p : Pennant) : Pennant :=
  let k := min p.carry.length (p.e - p.eng)
  { p with carry := p.carry.drop k, eng := p.eng + k, a := p.a + k, stamp := maxStamp p.stamp (p.carry.take k) }

/-- The first arrival of each member among those carried forward, and the rest. -/
def firstArrivals : List (Nat × Nat) → List (Nat × Nat) × List (Nat × Nat)
  | [] => ([], [])
  | x :: r =>
    let (f, l) := firstArrivals r
    (x :: f.filter (fun y => y.1 != x.1), (f.filter fun y => y.1 == x.1) ++ l)

/-- Completed phases whose stamps a pennant keeps: more than any fragment that waits can be behind. -/
def pastPhases : Nat := 64

/-- The phase completes (R65): the phase bit flips, A takes the arrivals carried forward, E returns to 0,
C is kept, and membership changes take effect (R66). -/
def Pennant.complete (p : Pennant) : Pennant :=
  let members := ((p.members ++ p.joining.filter fun x => !p.members.contains x).filter
    fun x => !p.leaving.contains x)
  let (first, rest) := firstArrivals (p.later.filter fun x => members.contains x.1)
  { p with members := members, joining := [], leaving := [], e := 0, eng := 0, a := first.length,
           arrived := first.map (·.1), later := rest,
           phase := !p.phase, count := p.count + 1, past := ((p.count + 1, p.stamp) :: p.past).take pastPhases,
           stamp := maxStamp 0 (first.map (·.2)), stuck := [], said := false }

/-- The release stamp of a completed phase (R171, R178, R444). -/
def Pennant.stampOf (p : Pennant) (n : Nat) : Nat := ((p.past.find? fun x => x.1 == n).map (·.2)).getD 0

/-- Complete the phase if A has reached the expected count, and again while the arrivals carried forward
complete the next one. -/
def Pennant.settleBy : Nat → Pennant → Pennant
  | 0, p => p
  | n + 1, p =>
    if p.expected ≤ p.a then
      let q := p.complete
      if q.arrived.isEmpty then q else Pennant.settleBy n q
    else p
def Pennant.settle (p : Pennant) : Pennant := Pennant.settleBy (p.later.length + 1) p

/-- A member arrives: in the current phase, or toward the next if it has arrived already (R64); the phase
carries the release stamp. -/
def Pennant.arrive (p : Pennant) (x stamp : Nat) : Pennant :=
  if p.arrived.contains x then { p with later := p.later ++ [(x, stamp)] }
  else ({ p with arrived := p.arrived ++ [x], a := p.a + 1, stamp := max p.stamp stamp } : Pennant).settle

/-- Whether an arrival of `x` by the lanes `m` joins an earlier, partial one (R64): layers of lanes. -/
def halfAdd (x : Nat) (m : Mask) (stamp : Nat) : List (Nat × Mask × Nat) → List (Nat × Mask × Nat)
  | [] => [(x, m, stamp)]
  | (y, k, t) :: r =>
    if y = x ∧ (k &&& m) = 0 then (y, k ||| m, max t stamp) :: r
    else (y, k, t) :: halfAdd x m stamp r

/-- The arrivals of a split group that every fragment with active lanes has executed take effect (R64). -/
def Pennant.ripen (p : Pennant) (x : Nat) (live : Mask) : Nat → Pennant
  | 0 => p
  | n + 1 =>
    match p.half.find? fun h => h.1 == x with
    | some h =>
      if live &&& ~~~h.2.1 = 0 then
        Pennant.ripen (({ p with half := p.half.erase h } : Pennant).arrive x h.2.2) x live n
      else p
    | none => p

/-- The lanes `m` of member `x` execute an arrival (R64); `live` are its active lanes. -/
def Pennant.arriveLanes (p : Pennant) (x : Nat) (m live : Mask) (stamp : Nat) : Pennant :=
  let p := { p with half := halfAdd x m stamp p.half }
  p.ripen x live p.half.length

/-- An engine arrival (R64): in A while E admits it, else in C. At a pennant without members whose E is 0 the one that C takes
completes the phase, the expected count being 0 (DESIGN CHOICE, log 113). -/
def Pennant.engine (p : Pennant) (stamp : Nat) : Pennant :=
  (({ p with carry := p.carry ++ [stamp] } : Pennant).letIn).settle

/-- `PEXPECT` (R341): E rises for the current phase, and held arrivals are admitted. -/
def Pennant.expect (p : Pennant) (b : Nat) : Pennant := (({ p with e := p.e + b } : Pennant).letIn).settle

/-- `PJOIN` (R66, R341): a member from the next phase; a member, leaving or not, is unchanged. -/
def Pennant.join (p : Pennant) (x : Nat) : Pennant :=
  if p.members.contains x || p.joining.contains x then p
  else { p with joining := p.joining ++ [x] }

/-- `PLEAVE` (R66, R341): at once if it has not arrived in the current phase, else with the next phase; a group that
is not a member is unchanged. -/
def Pennant.leave (p : Pennant) (x : Nat) : Pennant :=
  if !p.members.contains x || p.leaving.contains x then p
  else
    let p := { p with half := p.half.filter fun h => h.1 != x }
    if p.arrived.contains x then { p with leaving := p.leaving ++ [x] }
    else ({ p with members := p.members.erase x } : Pennant).settle

/-- A group that ends is no member of any phase to come (R47). -/
def Pennant.quit (p : Pennant) (x : Nat) : Pennant := { p with joining := p.joining.erase x }.leave x

/-- The number of completed phases at which `PWAIT` of `x` ends (R341): the phases of its arrivals not yet
completed, with none the current phase. -/
def Pennant.target (p : Pennant) (x : Nat) : Nat :=
  let n := (if p.arrived.contains x then 1 else 0) + (p.later.filter fun h => h.1 == x).length + (p.half.filter fun h => h.1 == x).length
  p.count + max 1 n

/-- A broken phase is abandoned (R436): A and E become 0, the phase bit is unchanged, arrivals made in it
are not carried. C is kept and membership changes stand (log 15). -/
def Pennant.abandon (p : Pennant) : Pennant :=
  { p with a := 0, e := 0, eng := 0, arrived := [], later := [], half := [],
           members := (p.members ++ p.joining).filter fun x => !p.leaving.contains x,
           joining := [], leaving := [], gone := p.gone ++ [p.no], stuck := [], said := false }

/-- The pennant that an operand names, if its launch declares it (R62, R342). -/
def State.pen? (s : State) : PenRef → Option Pennant
  | .wg w n => (Table.find s.wgs w).bind fun x => Table.find x.pens n
  | .gang k n => (Table.find s.gangs k).bind fun x => Table.find x.pens n
  | .grid l => (Table.find s.launches l).map (·.grid)

/-- Write a pennant back. -/
def State.setPen (s : State) (r : PenRef) (p : Pennant) : State :=
  match r with
  | .wg w n => s.modWg w fun x => { x with pens := Table.adjust x.pens n fun _ => p }
  | .gang k n =>
    { s with gangs := Table.adjust s.gangs k fun x => { x with pens := Table.adjust x.pens n fun _ => p } }
  | .grid l => s.modLaunch l fun x => { x with grid := p }

/-- Change a pennant, where it exists. -/
def State.modPen (s : State) (r : PenRef) (f : Pennant → Pennant) : State :=
  match s.pen? r with
  | some p => s.setPen r (f p)
  | none => s

/-- The member number of a group in a launch's grid-wide pennant: its device index, then its number. -/
def gridMember (dev gid : Nat) : Nat := dev * 2 ^ 40 + gid

/-- The group slots of the device: no more gangs are placed at once. -/
def deviceSlots : Nat := 9216
/-- The groups that a grid-wide pennant starts with: those of a co-resident launch on every device (R342). A grid that no
device could hold is never placed. -/
def LRec.gridMembers (r : LRec) : List Nat :=
  if r.cores && r.wg * r.groups ≤ deviceSlots then
    (List.range r.devices).flatMap fun d => (List.range r.wg).flatMap fun w => (List.range r.groups).map fun g => gridMember d (16 * w + g)
  else []

/-- The number under which a group is a member of a pennant. -/
def State.member (s : State) (r : PenRef) (g : Group) : Nat :=
  match r with
  | .grid l => gridMember (((Table.find s.launches l).map (·.dev)).getD 0) g.gid
  | _ => g.gid

/-- The release stamp of an operation performed now: `%tb` plus the skew bound D (R444). -/
def State.stampNow (s : State) : Nat := s.now + 32

/-! ### Members of a launch over devices -/

/-- Send a message to a peer node: it joins the messages to send, in order (R415, R476). -/
def State.send (s : State) (node : Nat) (m : HMsg) : State :=
  let p := Table.get Peer.reset s.peers node
  { s with peers := Table.put Peer.reset s.peers node { p with tx := p.tx + 1, outbox := p.outbox ++ [m] } }

/-- The node of a device of a launch. -/
def LRec.node (r : LRec) (dev : Nat) : Nat := r.nodes.getD dev 0

/-- Whether a member of a launch has not been dropped (R477). -/
def State.standing (s : State) (r : LRec) (dev : Nat) : Bool :=
  r.node dev == s.node.toNat || !(Table.get Peer.reset s.peers (r.node dev)).dropped
/-- The member that collects reports and orders aborts: device 0, or the lowest surviving one (R417, R478). -/
def State.leader (s : State) (r : LRec) : Nat := ((List.range r.devices).find? (s.standing r)).getD 0

/-- Tell the other devices of a launch of several what has happened to its grid-wide pennant here, in phase `no` (R342). -/
def State.tellPen (s : State) (r : PenRef) (no : Nat) (m : PenMsg) : State :=
  match r with
  | .grid l =>
    match Table.find s.launches l with
    | some x =>
      if x.lrec.devices ≤ 1 then s
      else ((List.range x.lrec.devices).filter fun d => d != x.dev && s.standing x.lrec d).foldl
        (fun s d => s.send (x.lrec.node d) (.pen (x.lrec.node 0) x.gen no m)) s
    | none => s
  | _ => s

/-- The pennants that hold a group as member or may. -/
def Group.pens (s : State) (g : Group) : List PenRef :=
  (match g.wg with
    | some w => ((Table.find s.wgs w).map fun x => x.pens.map fun p => PenRef.wg w p.1).getD []
    | none => []) ++
  (match g.gang with
    | some k => ((Table.find s.gangs k).map fun x => x.pens.map fun p => PenRef.gang k p.1).getD []
    | none => []) ++
  (match Table.find s.launches g.launch with
    | some l => if l.lrec.cores then [PenRef.grid g.launch] else []
    | none => [])

/-- A group leaves every pennant it is a member of, as it ends (R47). -/
def State.leaveAll (s : State) (g : Group) : State :=
  (g.pens s).foldl (fun s r => match s.pen? r with
    | some p => (s.setPen r (p.quit (s.member r g))).tellPen r p.no (.quit (s.member r g))
    | none => s) s

/-- The partial arrivals of a member. -/
def Pennant.halves (p : Pennant) (x : Nat) : Nat := (p.half.filter fun h => h.1 == x).length
/-- Replace a pennant after arrivals of a member, of which `n` have taken effect, and tell the other devices of them (R342). -/
def State.arrived (s : State) (r : PenRef) (x n : Nat) (p : Pennant) : State :=
  let no := ((s.pen? r).map Pennant.no).getD 0
  (List.range n).foldl (fun s _ => s.tellPen r no (.arrive x)) (s.setPen r p)

/-- After lanes of a group have retired, its partial arrivals may take effect (R64). -/
def State.ripenAll (s : State) (g : Group) : State :=
  (g.pens s).foldl (fun s r => match s.pen? r with
    | some p =>
      let x := s.member r g
      let q := p.ripen x (~~~g.retired) p.half.length
      s.arrived r x (p.halves x - q.halves x) q
    | none => s) s

/-! ### Stage rings -/

/-- The state of slot `k`. -/
def Ring.slot (r : Ring) (k : Nat) : Slot := r.slots.getD k .free
def Ring.setSlot (r : Ring) (k : Nat) (x : Slot) : Ring := { r with slots := r.slots.set k x }
/-- The slot before `k` around the ring (R61). -/
def Ring.before (r : Ring) (k : Nat) : Nat := (k + r.slots.length - 1) % r.slots.length

/-- A Held slot becomes Full and its phase bit flips (R60). -/
def Ring.fillSlot (r : Ring) (k : Nat) : Ring :=
  { r.setSlot k .full with phase := r.phase.set k (!r.phase.getD k false) }

/-- Whether the publish of Held slot `k` may take effect (R61): the slot before it is not Held, or `k` is the one at the
producer cursor and so the longest Held of all, as when every slot is Held (log 35). -/
def Ring.mayFill (r : Ring) (k : Nat) : Bool := r.slot (r.before k) != .held || k == r.prod

/-- A publish of Held slot `k` (R61): at once when it may take effect, else held back; the slot carries its release stamp
(R179, R444). -/
def Ring.publish (r : Ring) (k stamp : Nat) : Ring :=
  let r := { r with stamps := r.stamps.set k stamp }
  if r.mayFill k then r.fillSlot k else { r with early := r.early ++ [k] }

/-- The publish held back that may take effect now, if any (R61). -/
def Ring.due (r : Ring) : Option Nat := r.early.find? r.mayFill

/-- Take effect of a publish that was held back. -/
def Ring.ripen (r : Ring) : Ring :=
  match r.due with
  | some k => { r.fillSlot k with early := r.early.erase k }
  | none => r

/-- Acquire the slot at the producer cursor, if it is Free (R60). -/
def Ring.acquire (r : Ring) : Option (Nat × Ring) :=
  if r.slot r.prod == .free then
    some (r.prod, { r.setSlot r.prod .held with prod := (r.prod + 1) % r.slots.length })
  else none

/-- Take the slot at the consumer cursor, if it is Full (R60). -/
def Ring.take (r : Ring) : Option (Nat × Ring) :=
  if r.slot r.cons == .full then
    some (r.cons, { r.setSlot r.cons .taken with cons := (r.cons + 1) % r.slots.length })
  else none

/-- Free Taken slot `k` (R60); the slot carries the release stamp (R444). -/
def Ring.free (r : Ring) (k stamp : Nat) : Ring :=
  { r.setSlot k .free with stamps := r.stamps.set k stamp }

/-- A ring of a workgroup, if declared (R59). -/
def State.ring? (s : State) (w n : Nat) : Option Ring := (Table.find s.wgs w).bind fun x => Table.find x.rings n
def State.setRing (s : State) (w n : Nat) (r : Ring) : State :=
  s.modWg w fun x => { x with rings := Table.adjust x.rings n fun _ => r }

end Sys2Proof.Machine
end

