-- ==== Sys2Proof/Machine/Host.lean ====
section
/-! DEFINITION. What the firmware writes to the outside: host memory, the fault queue (R432, R433),
completion entries (R404, R406), the error log (R459) and its alerts (R460). -/

namespace Sys2Proof.Machine

/-- The first physical address of host memory (R127). -/
def hostBase : Nat := 0xC000000000000
/-- The first physical address of peer memory (R127). -/
def peerBase : Nat := 0x8000000000000

/-- Where a physical address falls (R127). -/
inductive Place where
  | local | peer | host | none
  deriving DecidableEq, Repr
def place (pa : Nat) : Place :=
  if pa < dramEnd then .local
  else if pa < peerBase then .none
  else if pa < hostBase then (if pa % 2 ^ 43 < dramEnd then .peer else .none)
  else if pa < 2 ^ 52 then .host
  else .none
/-- The node of a peer address (R127). -/
def nodeOf (pa : Nat) : Nat := pa / 2 ^ 43 % 128

/-- Bytes at a host bus address. -/
def State.hostBytes (s : State) (a n : Nat) : List Byte := s.mem.bytes (hostBase + a % 2 ^ 50) n
/-- Write bytes at a host bus address. -/
def State.setHost (s : State) (a : Nat) (b : List Byte) : State :=
  { s with mem := s.mem.setBytes (hostBase + a % 2 ^ 50) b }

/-- A function's register space. -/
def State.fn (s : State) (f : Nat) : Fn := Table.get Fn.reset s.fns f
def State.setFn (s : State) (f : Nat) (x : Fn) : State := { s with fns := Table.put Fn.reset s.fns f x }
/-- The registers of queue `q` of function `f` (R404). -/
def State.queue (s : State) (f q : Nat) : QRegs := Table.get QRegs.reset (s.fn f).queues q
def State.setQueue (s : State) (f q : Nat) (x : QRegs) : State :=
  s.setFn f { s.fn f with queues := Table.put QRegs.reset (s.fn f).queues q x }

/-! ### The fault queue -/

/-- The 64 bytes of a fault-queue entry (R433). -/
def faultEntry (ctx launch kind code flags index : Nat) (addr : DWord) (core slot agent : Nat) (mask : Mask)
    (tb : Nat) : List Byte :=
  leBytes 4 ctx ++ leBytes 4 launch ++ leBytes 2 kind ++ leBytes 1 code ++ leBytes 1 flags ++ leBytes 4 index
    ++ leBytes 8 addr.toNat ++ leBytes 2 core ++ leBytes 1 slot ++ leBytes 1 0 ++ leBytes 4 agent
    ++ leBytes 16 mask.toNat ++ leBytes 8 tb ++ leBytes 8 0

/-- Append an entry to the fault queue of function `f`: dropped, with overflow set, when the queue is full or
disabled (R432, R433). -/
def State.pushFault (s : State) (f : Nat) (e : List Byte) : State :=
  let r := s.fn f
  let q := (r.fqcfg.toNat / 16) % 16
  let on := r.fqcfg.getLsbD 0 && 4 ≤ q && q ≤ 12
  let tail := r.fqtail.toNat % 4096
  if on && (tail + 1) % 2 ^ q != r.fqhead.toNat % 2 ^ q then
    (s.setHost (r.fqbase.toNat / 4096 * 4096 + 64 * (tail % 2 ^ q)) e).setFn f
      { r with fqtail := (r.fqtail &&& 0x80000000) ||| BitVec.ofNat 32 ((tail + 1) % 2 ^ q) }
  else s.setFn f { r with fqtail := r.fqtail ||| 0x80000000 }

/-- A queue entry about a group's event, to the function that owns its context (R429, R433, R434). -/
def State.reportFault (s : State) (k : Nat) (g : Group) (r : Record) (flags agent : Nat) (mask : Mask) : State :=
  let ctx := s.ctxOf g.launch
  let id := ((Table.find s.launches g.launch).map (·.id)).getD 0
  let f := ((Table.find s.ctxs ctx).map (·.fn)).getD 0
  s.pushFault f (faultEntry ctx id r.kind.toNat r.code.toNat flags r.index.toNat r.addr
    (s.logical (coreOf k)) (slotOf k) agent mask s.now)

/-! ### Completion entries -/

/-- Whether the completion ring of a queue has no room (R404). -/
def QRegs.full (r : QRegs) : Bool :=
  let n := 2 ^ (r.cqcfg.toNat % 32)
  (r.cctail.toNat + 1) % n == r.cchead.toNat % n

/-- End a command (R404, R406): its completion entry is written where its flags ask for one, held while the
completion ring is full. A queue that is being unregistered is unregistered after its last command. -/
def State.retireCmd (s : State) (c : Cmd) (status : Nat) (value : DWord) : State :=
  let r := s.queue c.fn c.q
  if c.flags % 2 == 1 && r.full then
    { s with cmds := s.cmds.map fun d => if d.fn == c.fn && d.q == c.q then { d with out := some (status, value) } else d }
  else
    let s := { s with cmds := s.cmds.filter fun d => !(d.fn == c.fn && d.q == c.q) }
    let s :=
      if c.flags % 2 == 1 then
        let n := 2 ^ (r.cqcfg.toNat % 32)
        let t := r.cctail.toNat % n
        (s.setHost (r.ccbase.toNat / 4096 * 4096 + 16 * t)
          (leBytes 4 c.tag.toNat ++ leBytes 2 status ++ leBytes 2 0 ++ leBytes 8 value.toNat)).setQueue c.fn c.q
            { r with cctail := BitVec.ofNat 32 ((t + 1) % n) }
      else s
    let r := s.queue c.fn c.q
    if r.closing then s.setQueue c.fn c.q { r with closing := false, cqcfg := r.cqcfg &&& 0x7FFFFFFF }
    else s

/-- The command in progress of a queue. -/
def State.cmd? (s : State) (fn q : Nat) : Option Cmd := s.cmds.find? fun c => c.fn == fn && c.q == q

/-! ### Tokens (R344) -/

/-- Queue token `n`. -/
def State.token (s : State) (n : Nat) : Word := Table.get 0 s.tokens n
/-- Raise a token to at least `v`, unsigned, and complete every token-wait command it satisfies (R344, R407): a
launch that waits for it is placed no earlier than its stamp (R187, R444, R445). -/
def State.signal (s : State) (n : Nat) (v : Word) : State :=
  let v := if (s.token n).toNat < v.toNat then v else s.token n
  let s := { s with tokens := Table.put 0 s.tokens n v,
                    launches := s.launches.map fun (l : Nat × Launch) =>
                      if l.2.lrec.waits.any fun t => t.n == n then (l.1, { l.2 with notBefore := max l.2.notBefore s.stampNow }) else l }
  (s.cmds.filter fun c => c.code == 0x0007 && c.out.isNone && leNat (c.ops.take 2) == n
      && leNat ((c.ops.drop 4).take 4) ≤ v.toNat).foldl (fun s c => s.retireCmd c 0 0) s

/-! ### The error log (R459) -/

/-- The count of the health record that a type of log record adds to (R493). -/
def countOf : Nat → Option Nat
  | 1 => some 0
  | 2 => some 1
  | 3 => some 2
  | 5 => some 3
  | _ => none

/-- Add 1 to a count of the health record (R493). -/
def Health.bump (h : Health) (i : Nat) : Health := { h with counts := h.counts.set i (h.counts.getD i 0 + 1) }

/-- Append a record, with its count; the oldest of 4,096 gives way. -/
def State.log1 (s : State) (type unit : Nat) (row : Word) (addr : Nat) (count detail : Word) : State :=
  let r : LogRec := ⟨BitVec.ofNat 16 type, BitVec.ofNat 16 unit, row, BitVec.ofNat 64 addr, count, detail, s.tb⟩
  { s with log := (if s.log.length < 4096 then s.log else s.log.tail) ++ [r],
           health := match countOf type with
             | some i => s.health.bump i
             | none => s.health }

end Sys2Proof.Machine
end

