-- ==== Sys2Proof/Machine/Ecc.lean ====
section
/-! DEFINITION. Local DRAM: where a word lies (R8, R126), its check bits (R129, R452, R453), and the filters that
corrected errors pass (R457, R458); lost lines (R469, R470); errors of the SRAM stores (R456). -/

namespace Sys2Proof.Machine

/-- The channel of a physical address (R126). -/
def chanOf (a : Nat) : Nat :=
  (a / 2 ^ 12 % 256) ^^^ (a / 2 ^ 20 % 256) ^^^ (a / 2 ^ 28 % 256) ^^^ (a / 2 ^ 36 % 256) ^^^ (a / 2 ^ 44 % 256)
/-- The home slice (R8, R126). -/
def homeOf (a : Nat) : Nat := chanOf a / 2
/-- The channel page of a local address (R126). -/
def chanPage (a : Nat) : Nat := a / 2 ^ 20 % 2 ^ 19
/-- The word offset within its granule. -/
def wordOff (a : Nat) : Nat := a / 4 % 1024
/-- The word device of a word offset (R8). -/
def devOf (w : Nat) : Nat := (w % 16) ^^^ (w / 16 % 16) ^^^ (w / 256 % 4)
/-- The granule of a channel page: its low byte of page number follows from the channel (R126). -/
def granuleOf (chan page : Nat) : Nat :=
  let hi := page * 2 ^ 20
  hi + ((chan ^^^ chanOf hi) % 256) * 2 ^ 12

/-! ### The code (R452) -/

/-- The data columns: the 8-bit values with exactly three bits set, ascending. -/
def dataCols : List Nat := ((List.range 256).filter fun v => ((List.range 8).filter fun i => v.testBit i).length == 3).take 32
/-- The column of address bit `i`. -/
def addrCol (i : Nat) : Nat :=
  let v := i + 1
  v + 128 * (((List.range 7).filter fun j => v.testBit j).length % 2)
/-- E(x). -/
def eccE (x : Word) : Nat := (wordsOf x).foldl (fun c i => c ^^^ dataCols.getD i 0) 0
/-- F(w). -/
def eccF (w : Nat) : Nat := ((List.range 29).filter fun i => w.testBit i).foldl (fun c i => c ^^^ addrCol i) 0
/-- The word address within the device's DRAM that F is taken of. -/
def eccAddr (a : Nat) : Nat := chanPage a * 1024 + wordOff a
/-- The stored check bits of the word at `a`: the right ones but for the difference the state holds. -/
def State.checkBits (s : State) (a : Nat) : Nat :=
  eccE (s.mem.word (a / 4 * 4)) ^^^ eccF (eccAddr a) ^^^ (Table.get 0 s.check (a / 4)).toNat
/-- The syndrome of a read (R453). -/
def State.syndrome (s : State) (a : Nat) : Nat :=
  s.checkBits a ^^^ eccE (s.mem.word (a / 4 * 4)) ^^^ eccF (eccAddr a)

/-- What a syndrome means (R453). -/
inductive Syn where
  | clean
  | data (bit : Nat)
  | check
  | bad
  deriving DecidableEq, Repr
def synOf (y : Nat) : Syn :=
  if y = 0 then .clean
  else if dataCols.contains y then .data (dataCols.idxOf y)
  else if y % 256 ∈ [1, 2, 4, 8, 16, 32, 64, 128] then .check
  else .bad

/-- The word a home reads at an address: a single data bit in error is inverted (R453). -/
def State.homeWord (s : State) (a : Nat) : Word :=
  let w := s.mem.word (a / 4 * 4)
  if (Table.find s.check (a / 4)).isNone then w
  else
    match synOf (s.syndrome a) with
    | .data i => w ^^^ wordBit i
    | _ => w

/-! ### Lost lines (R469, R470) -/

/-- The directory entry of a line. -/
def State.entry (s : State) (line : Nat) : Dir := Table.get Dir.reset s.dir line
def State.setEntry (s : State) (line : Nat) (d : Dir) : State := { s with dir := Table.put Dir.reset s.dir line d }
def State.modEntry (s : State) (line : Nat) (f : Dir → Dir) : State := s.setEntry line (f (s.entry line))

/-- Lost lines that a home slice holds itself, and lines that the device-wide table holds (R470). -/
def sliceLost : Nat := 1024
def tableLost : Nat := 65536
/-- The number of lost lines beyond what the home slices hold. -/
def State.lostOver (s : State) : Nat :=
  let homes := (s.dir.filter fun d => d.2.lost != 0).map fun d => homeOf (128 * d.1)
  ((List.range 128).map fun h => homes.count h - sliceLost).foldl (· + ·) 0

/-- Words of a line become lost: a record for a newly lost line, and a fatal error when the table is full (R470). -/
def State.lose (s : State) (line : Nat) (m : Word) : State :=
  let d := s.entry line
  if m &&& ~~~d.lost = 0 then s
  else
    let s := s.setEntry line { d with lost := d.lost ||| m }
    let s := if d.lost = 0 then s.log1 8 (homeOf (128 * line)) 0 (128 * line) (d.lost ||| m) 0 else s
    if d.lost = 0 && tableLost ≤ s.lostOver then { s with fatal := true, alerts := s.alerts ++ [.fatal] } else s

/-- The alerts of an uncorrectable error (R460): to the physical function, to the function of the context whose access it
was, and to the side-band port. -/
def State.alarm (s : State) (ctx : Option Nat) : State :=
  let fns : List Alert := match ctx.bind (Table.find s.ctxs) with
    | some c => if c.fn = 0 then [] else [.msix c.fn]
    | none => []
  { s with alerts := s.alerts ++ [.msix 0] ++ fns ++ [.mctp] }

/-! ### The SRAM stores (R456) -/

/-- The error that a store holds: true an uncorrectable one. -/
def State.flaw (s : State) (x : Store) : Option Bool := (s.flaws.find? fun f => f.1 == x).map (·.2)
/-- A store no longer holds an error: it has been corrected, written, or what it held is gone. -/
def State.mend (s : State) (x : Store) : State := { s with flaws := s.flaws.filter fun f => f.1 != x }

/-- Stores are given up, or filled anew: their errors are gone. -/
def State.mendAll (s : State) (p : Store → Bool) : State := { s with flaws := s.flaws.filter fun f => !p f.1 }
/-- The stores of a group's registers, of a matrix unit, of an allocation, of a core's copy of a line. -/
def Store.ofGroup (k : Nat) : Store → Bool
  | .vreg g _ _ => g == k
  | _ => false
def Store.ofUnit (u : Nat) : Store → Bool
  | .acc m _ | .kiln m _ _ => m == u
  | _ => false
def Store.ofWg (w : Nat) : Store → Bool
  | .spad v _ => v == w
  | _ => false
def Store.ofCopy (c line : Nat) : Store → Bool
  | .l1 d pa => d == c && pa / 128 == line
  | _ => false

/-- The unit that the record of an SRAM error names (R459): the home slice or the logical core. -/
def State.storeUnit (s : State) : Store → Nat
  | .home pa => homeOf pa
  | .entry line => homeOf (128 * line)
  | .l1 c _ | .slot c _ => s.logical c
  | .spad w _ => ((Table.find s.wgs w).map fun x => s.logical x.core).getD 0
  | .vreg k _ _ => s.logical (coreOf k)
  | .acc m _ | .kiln m _ _ => s.logical (m / 4)
/-- The address that the record names (R459). -/
def Store.addr : Store → Nat
  | .home pa | .l1 _ pa | .slot _ pa => pa
  | .entry line => 128 * line
  | _ => 0

/-- A store is read (R456): a single bit is corrected in place, with its record; an uncorrectable error is told of, with its
record and the alerts, and the answer says so. -/
def State.readStore (s : State) (x : Store) (ctx : Option Nat) : State × Bool :=
  match s.flaw x with
  | none => (s, false)
  | some false => ((s.mend x).log1 6 (s.storeUnit x) 0 x.addr 0 0, false)
  | some true => (((s.mend x).log1 7 (s.storeUnit x) 0 x.addr 0 0).alarm ctx, true)

/-- Lines of a home slice: 2 MiB (R128). -/
def sliceLines : Nat := 16384

/-- Whether a word is valid in its home slice (R128). -/
def State.heldWord (s : State) (a : Nat) : Bool := (Table.get 0 s.held (a / 128)).getLsbD (a / 4 % 32)

/-- The home slice reads a word that it holds (R456, R469): where the word is uncorrectable, a clean one is no longer valid and a
dirty one is lost. -/
def State.readHome (s : State) (ctx : Option Nat) (a : Nat) : State :=
  if !s.heldWord a then s
  else
    let (s, bad) := s.readStore (.home (a / 4 * 4)) ctx
    if !bad then s
    else if (Table.get 0 s.wet (a / 128)).getLsbD (a / 4 % 32) then s.lose (a / 128) (wordBit (a / 4 % 32))
    else { s with held := Table.put 0 s.held (a / 128) (Table.get 0 s.held (a / 128) &&& ~~~(wordBit (a / 4 % 32))) }

/-- A home slice lets a line go: what was written of it is read and goes to DRAM, its stamps are gone (R442, R456). -/
def State.letGo (s : State) (line : Nat) : State :=
  let s := if s.flaws.isEmpty then s
    else ((wordsOf (Table.get 0 s.wet line)).foldl (fun s i => s.readHome none (128 * line + 4 * i)) s).mendAll fun x => match x with
      | .home a => a / 128 == line
      | _ => false
  { s with held := Table.erase s.held line, wet := Table.erase s.wet line, homes := s.homes.filter fun w => w.1 / 32 != line }

/-- A word becomes valid in its home slice. A full slice lets its lowest line go that has no lost word, with its stamps;
what was written of it goes to DRAM (R442, R470; the choice is log 21). -/
def State.fetched (s : State) (a : Nat) : State :=
  if place a != .local then s
  else
    let line := a / 128
    let add (s : State) : State :=
      { s with held := Table.put 0 s.held line (Table.get 0 s.held line ||| wordBit (a / 4 % 32)) }
    if (Table.find s.held line).isSome then add s
    else
      let here := s.held.filter fun l => homeOf (128 * l.1) == homeOf a
      let s := if here.length < sliceLines then s
        else
          match here.find? fun l => (Table.get Dir.reset s.dir l.1).lost == 0 with
          | some v => s.letGo v.1
          | none => s
      add s

/-- A word of a home slice that has been written since it came from DRAM. -/
def State.wetted (s : State) (a : Nat) : State :=
  if place a != .local then s
  else { s with wet := Table.put 0 s.wet (a / 128) (Table.get 0 s.wet (a / 128) ||| wordBit (a / 4 % 32)) }

/-- Write a word at its home; its check bits are right from now on, and no error of it remains (R461). -/
def State.putWord (s : State) (a : Nat) (w : Word) : State :=
  (({ s with mem := s.mem.setWord (a / 4 * 4) w, check := Table.erase s.check (a / 4),
             spoilt := s.spoilt.filter (· != a / 4), flaws := s.flaws.filter fun f => f.1 != .home (a / 4 * 4) } : State).fetched a).wetted a

/-- The lost mask bit of a word (R469). -/
def State.lostWord (s : State) (a : Nat) : Bool := (Table.get Dir.reset s.dir (a / 128)).lost.getLsbD (a / 4 % 32)

/-- Whether a word lies in the memory of a dropped device (R477). -/
def State.unreachable (s : State) (a : Nat) : Bool :=
  place a == .peer && (Table.get Peer.reset s.peers (a / 2 ^ 43 % 128)).dropped

/-- Why a word cannot be delivered from its home, as the code of R463; none where it can. A word that is valid in its home
slice needs no device (R128). -/
def State.badWord (s : State) (a : Nat) : Option Nat :=
  if s.lostWord a then some 6
  else
    match place a with
    | .peer => if s.unreachable a then some 4 else none
    | .local =>
      if s.heldWord a then none
      else if s.spoilt.contains (a / 4) then some 1
      else if (Table.get 0 s.devFail (chanOf a)).getLsbD (devOf (wordOff a)) then some 2
      else if (Table.find s.check (a / 4)).isNone then none
      else if synOf (s.syndrome a) = .bad then some 0 else none
    | _ => none

/-! ### Corrected errors (R457, R458) -/

/-- The row identity of a word (R457). -/
def rowId (a : Nat) : Word :=
  BitVec.ofNat 32 (devOf (wordOff a) * 2 ^ 28 + (Config.bankRow (chanOf a) (chanPage a) (wordOff a)).toNat)
/-- The bits of the filter that a row identity tests. -/
def bloomBits (x : Word) : List Nat :=
  [0x9E3779B1, 0x85EBCA77, 0xC2B2AE3D].map fun k => x.toNat * k % 2 ^ 32 / 2 ^ 20

/-- Remove the entry with the lowest count, the oldest among equals. -/
def dropLeast (t : List (Word × Nat)) : List (Word × Nat) :=
  match t with
  | [] => []
  | c :: r => t.erase (r.foldl (fun m d => if d.2 < m.2 then d else m) c)

/-- The repeat table takes one error of a row: its new contents and the row's count (R458). -/
def repeatAdd (t : List (Word × Nat)) (x : Word) : List (Word × Nat) × Nat :=
  match t.find? fun e => e.1 == x with
  | some e => (t.map fun d => if d.1 == x then (x, e.2 + 1) else d, e.2 + 1)
  | none => ((if 64 ≤ t.length then dropLeast t else t) ++ [(x, 2)], 2)

/-- A corrected error: the filter, then the record or the repeat table (R457, R458). -/
def State.corrected (s : State) (a syn : Nat) : State :=
  let ch := chanOf a
  let x := rowId a
  let b := Table.get 0 s.bloom ch
  let d : Word := BitVec.ofNat 32 syn
  if (bloomBits x).all fun i => b.getLsbD i then
    let (t, n) := repeatAdd (Table.get [] s.repeats ch) x
    let s := { s with repeats := Table.put [] s.repeats ch t }
    if n = 4 then
      let s := s.log1 3 ch x a 4 d
      { s with health := { s.health with rows := s.health.rows ++ [(ch, x)] } }
    else s
  else
    let s := { s with bloom := Table.put 0 s.bloom ch ((bloomBits x).foldl (fun b i => b ||| BitVec.twoPow 4096 i) b) }
    s.log1 1 ch x a 0 d

/-- An uncorrectable word: its record with the syndrome, then the alerts (R459, R460). -/
def State.uncorrectable (s : State) (a : Nat) (ctx : Option Nat) : State :=
  (if place a = .local then s.log1 2 (chanOf a) (rowId a) a 0 (BitVec.ofNat 32 (s.syndrome a)) else s.log1 2 (chanOf a) 0 a 0 0).alarm ctx
/-- The record and alerts of a word that DRAM cannot deliver, by the code of R463 (R459, R460). -/
def State.noteAbort (s : State) (a code : Nat) (ctx : Option Nat) : State :=
  if code = 0 ∨ code = 1 ∨ code = 2 then s.uncorrectable a ctx else s

/-- A home slice reads a word: one that it does not hold is fetched from DRAM, which notes its corrected error, if any; one
that cannot be delivered is not installed (R128, R453 to R455). -/
def State.noteRead (s : State) (a : Nat) : State :=
  if place a != .local || s.heldWord a || (s.badWord a).isSome then s
  else
    let s := s.fetched a
    if (Table.find s.check (a / 4)).isSome then
      match synOf (s.syndrome a) with
      | .data _ | .check => s.corrected a (s.syndrome a)
      | _ => s
    else s

/-! ### Bursts (R128, R130, R132) -/

/-- The word offsets that a burst command names, by position (R130). -/
def burstOffs (b : Burst) : List Nat :=
  if b.kind = 0 then (List.range b.count).map fun j => b.start + j * b.stride else b.list.take b.count

/-- Insert into an ascending list without repeats. -/
def addSorted (x : Nat) : List Nat → List Nat
  | [] => [x]
  | y :: r => if x < y then x :: y :: r else if x = y then y :: r else y :: addSorted x r
/-- A list in pieces of at most 16. -/
def pieces : Nat → List Nat → List (List Nat)
  | 0, _ => []
  | _, [] => []
  | n + 1, l => l.take 16 :: pieces n (l.drop 16)

/-- The read command for at most 16 ascending offsets of a channel page: a stride pattern when they form an arithmetic
progression, else a list (R132). -/
def readBurst (page : Nat) (offs : List Nat) : Burst :=
  let a := offs.headD 0
  let d := max 1 (offs.getD 1 (a + 1) - a)
  if (offs.zip (List.range offs.length)).all fun q => q.1 == a + q.2 * d then ⟨0, page, 0, a, d, offs.length, [], []⟩
  else ⟨0, page, 1, 0, 1, offs.length, offs, []⟩

/-- The burst commands for words of local memory: by channel page, one for each 16 distinct words in ascending order of
offset (R132). -/
def burstsFor (ws : List Nat) : List (Nat × Burst) :=
  (ws.map fun a => (chanOf a, chanPage a)).dedup.flatMap fun k =>
    let offs := (ws.filter fun a => (chanOf a, chanPage a) == k).foldl (fun l a => addSorted (wordOff a) l) []
    (pieces offs.length offs).map fun p => (k.1, readBurst k.2 p)

/-- The physical address of a word of a burst on a channel (R126). -/
def burstAddr (chan : Nat) (b : Burst) (w : Nat) : Nat := granuleOf chan b.page + 4 * w

/-- A word of a burst (R453): it is delivered to its home slice, corrected, or withheld. A write stores the home's word, which
is read for it (R456), with fresh check bits: written whole, it no longer differs from DRAM. -/
def State.burstWord (s : State) (op a : Nat) (m : BitVec 4) : State :=
  if op = 1 then
    let s := s.readHome none a
    if !s.heldWord a || m = 0 || s.lostWord a then s
    else
      let s := s.putWord a (s.homeWord a)
      if m = 0xF then { s with wet := Table.put 0 s.wet (a / 128) (Table.get 0 s.wet (a / 128) &&& ~~~(wordBit (a / 4 % 32))) } else s
  else
    match s.badWord a with
    | some code => s.noteAbort a code none
    | none => s.noteRead a

/-- Read bursts arrive whole: the words that their home slices do not hold are installed (R128). -/
def State.fetchBursts (s : State) (l : List (Nat × Burst)) : State :=
  l.foldl (fun s b => (burstOffs b.2).foldl (fun s w => s.noteRead (burstAddr b.1 b.2 w)) s) s
/-- The home slices fetch words that they do not hold, with the burst commands of R132. -/
def State.fetchWords (s : State) (ws : List Nat) : State :=
  s.fetchBursts (burstsFor (ws.filter fun a => place a == .local && !s.heldWord a))

/-- Home slices read words that they are to serve: those that they hold with the errors of their stores (R456), the others with
the burst commands of R132 (R128). -/
def State.readHomes (s : State) (ctx : Option Nat) (ws : List Nat) : State :=
  (if s.flaws.isEmpty then s else ws.foldl (fun s a => s.readHome ctx a) s).fetchWords ws

end Sys2Proof.Machine
end

