-- ==== Sys2Proof/Machine/Translate.lean ====
section
/-! DEFINITION. Address translation: page-table entries, the walk, the TLBs, changes of a leaf (R134 to R141,
R282). -/

namespace Sys2Proof.Machine

/-! ### Page-table entries (R136) -/

def pteValid (e : DWord) : Bool := e.getLsbD 63
def pteLeaf (e : DWord) : Bool := e.getLsbD 62
def pteClass (e : DWord) : Nat := (e >>> 60).toNat % 4
def ptePop (e : DWord) : Nat := (e >>> 58).toNat % 4
def pteW (e : DWord) : Bool := e.getLsbD 57
def pteX (e : DWord) : Bool := e.getLsbD 56
/-- The frame bits as a physical address. -/
def pteFrame (e : DWord) : Nat := e.toNat % 2 ^ 52 / 4096 * 4096
/-- Replace the pop field. -/
def pteSetPop (e : DWord) (p : Nat) : DWord := (e &&& ~~~(0x0C00000000000000#64)) ||| BitVec.ofNat 64 (p * 2 ^ 58)
/-- Replace the frame. -/
def pteSetFrame (e : DWord) (a : Nat) : DWord := (e &&& ~~~(0x000FFFFFFFFFF000#64)) ||| BitVec.ofNat 64 (a % 2 ^ 52)

/-- Whether the reserved fields of an entry are 0 (R136). -/
def pteTidy (e : DWord) : Bool := (e.toNat / 2 ^ 52) % 16 == 0 && e.toNat % 4096 == 0

def clsOf : Nat → Cls
  | 0 => .nc
  | 1 => .dc
  | _ => .xc

/-- Address bits below the page of a leaf at a level (R135). -/
def levelBits : Nat → Nat
  | 2 => 30
  | 3 => 21
  | _ => 16

/-- A frame that a class may map (R138). -/
def frameOk (c : Cls) (pa : Nat) : Bool :=
  match place pa, c with
  | .local, _ => true
  | .peer, .dc => false
  | .peer, _ => true
  | .host, .xc => true
  | .host, _ => false
  | .none, _ => false

/-- A leaf whose fields hold accepted values at a level (R136, R282, R409). -/
def leafForm (e : DWord) (level : Nat) : Bool :=
  pteValid e && pteTidy e && pteClass e != 3 && ptePop e != 3 && (level == 4 || pteLeaf e)
    && pteFrame e % 2 ^ levelBits level == 0
/-- A leaf that an access may use (R136, R138): the frame of one that is not populated names no page yet. -/
def leafOk (e : DWord) (level : Nat) : Bool :=
  leafForm e level && (ptePop e != 0 || frameOk (clsOf (pteClass e)) (pteFrame e))

/-! ### The walk (R135) -/

/-- Where a walk ends. -/
inductive Walked where
  | bad
  | leaf (pte level : Nat) (e : DWord)
  deriving DecidableEq, Repr

/-- A page-table entry as a read of its home gives it (R453); none where it cannot be read. -/
def State.pte (s : State) (a : Nat) : Option DWord :=
  if (s.badWord a).isSome || (s.badWord (a + 4)).isSome then none else some (s.homeWord (a + 4) ++ s.homeWord a)

/-- One level of the walk at the table `base`; the list holds the levels still to go, with their lowest index bit. An
entry that cannot be read ends the walk as one that is not valid (log 36). -/
def State.walkFrom (s : State) (va base : Nat) : List (Nat × Nat) → Walked
  | [] => .bad
  | (lv, lo) :: r =>
    let a := base + 8 * (va / 2 ^ lo % (if lv == 4 then 32 else 512))
    match s.pte a with
    | none => .bad
    | some e =>
      if !pteValid e then .bad
      else if lv == 4 || (2 ≤ lv && pteLeaf e) then .leaf a lv e
      else if pteTidy e then s.walkFrom va (pteFrame e) r
      else .bad

/-- The levels with their lowest index bits (R135). -/
def walkLevels : List (Nat × Nat) := [(0, 48), (1, 39), (2, 30), (3, 21), (4, 16)]

/-- The walk of a context's page table for a virtual address. -/
def State.walk (s : State) (ctx va : Nat) : Walked :=
  match Table.find s.ctxs ctx with
  | some c => s.walkFrom va c.root walkLevels
  | none => .bad

/-- The entries that a walk of the levels of a list reads. -/
def State.walkReads (s : State) (va base : Nat) : List (Nat × Nat) → List Nat
  | [] => []
  | (lv, lo) :: r =>
    let a := base + 8 * (va / 2 ^ lo % (if lv == 4 then 32 else 512))
    match s.pte a with
    | none => [a]
    | some e => a :: (if pteValid e && !(lv == 4 || (2 ≤ lv && pteLeaf e)) && pteTidy e then s.walkReads va (pteFrame e) r else [])

/-- What the reads of a walk leave at their homes: the words held there, corrected errors noted, and the record and alerts of a
word that cannot be read (R128, R453, R456, R460). -/
def State.noteWalk (s : State) (ctx va : Nat) : State :=
  match Table.find s.ctxs ctx with
  | some c => ((s.walkReads va c.root walkLevels).flatMap fun a => [a, a + 4]).foldl (fun s a =>
      let s := s.readHome (some ctx) a
      match s.badWord a with
      | some code => s.noteAbort a code (some ctx)
      | none => s.noteRead a) s
  | none => s

/-! ### Translation -/

/-- What a translation answers: a fault, a from-pool or filling leaf, or a page. -/
inductive Tr where
  | fault
  | pool (pte level : Nat) (e : DWord)
  | filling (pte level : Nat)
  | page (pa : Nat) (cls : Cls) (w x : Bool)
  deriving DecidableEq, Repr

/-- A peer address of this device's own node is local memory (R127). -/
def State.ownPa (s : State) (pa : Nat) : Nat :=
  if place pa == .peer && pa / 2 ^ 43 % 128 == s.node.toNat then pa % 2 ^ 43 else pa

/-- The page of a populated leaf that covers `va` with pages of `bits` bits. -/
def State.pageOf (s : State) (e : DWord) (bits va : Nat) : Tr :=
  .page (s.ownPa (pteFrame e + va % 2 ^ bits)) (clsOf (pteClass e)) (pteW e) (pteX e)

/-- The release stamp of the `PTEW` that wrote the leaf of an address, which accesses through it are ordered after (R282);
0 where no `PTEW` has. -/
def State.leafStamp (s : State) (ctx va : Nat) : Nat :=
  if s.leafRel.isEmpty then 0
  else
    match s.walk ctx va with
    | .leaf a _ _ => Table.get 0 s.leafRel a
    | .bad => 0

/-- Whether a TLB entry covers an address. -/
def Tlb.covers (t : Tlb) (ctx va : Nat) : Bool := t.ctx == ctx && t.va == va / 2 ^ t.bits * 2 ^ t.bits

/-- The cluster of a physical core. -/
def clusterOf (core : Nat) : Nat := core / 8
/-- The TLB entry of a core's own or its cluster's TLB that covers an address (R137). -/
def State.tlbHit (s : State) (core ctx va : Nat) : Option Tlb :=
  ((s.core core).tlb ++ Table.get [] s.ctlb (clusterOf core)).find? fun t => t.covers ctx va

/-- Translate a virtual address for an access from a core: the TLBs, else the walk (R135 to R140). -/
def State.translate (s : State) (core ctx va : Nat) : Tr :=
  if 2 ^ 57 ≤ va then .fault
  else
  match s.tlbHit core ctx va with
  | some t => s.pageOf t.leaf t.bits va
  | none =>
    match s.walk ctx va with
    | .bad => .fault
    | .leaf a lv e =>
      if !leafOk e lv then .fault
      else if ptePop e == 1 then .pool a lv e
      else if ptePop e == 2 then .filling a lv
      else s.pageOf e (levelBits lv) va

/-- A walk that finds no page is noted, with an entry that it could not read (R460). -/
def State.noteFault (s : State) (core ctx va : Nat) : State :=
  if s.translate core ctx va == .fault then s.noteWalk ctx va else s

/-- Remove the entries of a leaf from every TLB of the device (R137). -/
def State.shootdown (s : State) (ctx va bits : Nat) : State :=
  let keep (t : Tlb) : Bool := !(t.ctx == ctx && t.va / 2 ^ bits == va / 2 ^ bits)
  { s with cores := s.cores.map (fun c => (c.1, { c.2 with tlb := c.2.tlb.filter keep })),
           ctlb := s.ctlb.map (fun c => (c.1, c.2.filter keep)) }

/-- Write the 8 bytes of a page-table entry (R282). -/
def State.putPte (s : State) (a : Nat) (e : DWord) : State :=
  (s.putWord a (e.truncate 32)).putWord (a + 4) ((e >>> 32).truncate 32)

/-- Write a leaf: the 8-byte write, and the removal of the old translation (R137, R282). -/
def State.setLeaf (s : State) (ctx va pte bits : Nat) (e : DWord) : State :=
  ({ s.putPte pte e with leafRel := Table.erase s.leafRel pte } : State).shootdown ctx va bits

/-- A filling leaf returns to from pool (R141). -/
def State.revertLeaf (s : State) (pte : Nat) : State :=
  match s.pte pte with
  | some e => if pteValid e && ptePop e == 2 then s.putPte pte (pteSetPop e 1) else s
  | none => s

/-- A leaf becomes filling (R139). -/
def State.fillLeaf (s : State) (pte : Nat) : State :=
  match s.pte pte with
  | some e => s.putPte pte (pteSetPop e 2)
  | none => s

/-- A TLB of at most `n` entries takes one more, the oldest giving way (R137; the choice is log 16). -/
def tlbAdd (n : Nat) (l : List Tlb) (t : Tlb) : List Tlb := (l ++ [t]).drop (l.length + 1 - n)

/-- The page size 0, 1 or 2 of a level (R283). -/
def levelSize : Nat → Nat
  | 2 => 2
  | 3 => 1
  | _ => 0

/-- The pool of a page size (R283). -/
def Ctx.pool (c : Ctx) : Nat → List Nat
  | 0 => c.pool0
  | 1 => c.pool1
  | _ => c.pool2
def Ctx.setPool (c : Ctx) (size : Nat) (l : List Nat) : Ctx :=
  match size with
  | 0 => { c with pool0 := l }
  | 1 => { c with pool1 := l }
  | _ => { c with pool2 := l }
/-- Bytes of a page of a size. -/
def sizeBytes : Nat → Nat
  | 0 => 2 ^ 16
  | 1 => 2 ^ 21
  | _ => 2 ^ 30

/-- Every byte of a range reads as 0 from now on (R283). -/
def Memory.zero (m : Memory) (a n : Nat) : Memory := m.filter fun c => !(a ≤ c.1 && c.1 < a + n)

/-- Waiting fragments that a leaf's write releases replay at once (R140). -/
def State.releaseLeaf (s : State) (pte : Nat) : State :=
  { s with groups := s.groups.map fun g => (g.1, { g.2 with frags := g.2.frags.map fun f =>
      (f.1, if f.2.wait == .leaf pte then { f.2 with wait := .none, since := s.clk } else f.2) }) }

end Sys2Proof.Machine
end

