-- ==== Sys2Proof/Machine/Reconv.lean ====
section
/-! DEFINITION. Fragments: splitting, waiting at a reconvergence address, merging, serialised paths, retirement
of lanes (R46 to R56). -/

namespace Sys2Proof.Machine

def Open.isJoin : Open → Bool
  | .join .. => true
  | .frame .. => false
def Open.isFrame (o : Open) : Bool := !o.isJoin
/-- The number of an open join. -/
def Open.id? : Open → Option Nat
  | .join id .. => some id
  | .frame .. => none

/-- The fragment of an entry. -/
def Group.frag (g : Group) (en : Nat) : Option Frag := Table.find g.frags en
def Group.setFrag (g : Group) (en : Nat) (f : Frag) : Group := { g with frags := Table.insert g.frags en f }
/-- The lowest-numbered free entry of the split table (R51, R53). -/
def Group.freeEntry (g : Group) : Option Nat := (List.range 16).find? fun n => (g.frag n).isNone
/-- The frames on the group's serialisation stack (R56). -/
def Group.depth (g : Group) : Nat :=
  (g.frags.map fun f => (f.2.chain.filter Open.isFrame).length).foldl (· + ·) 0 +
    ((g.handler.map fun h => (h.frag.chain.filter Open.isFrame).length).getD 0)

/-- The entries whose fragments belong to join `id`. -/
def Group.membersOf (g : Group) (id : Nat) : List Nat :=
  (g.frags.filter fun f => f.2.chain.any fun o => o.id? == some id).map (·.1)

/-- Whether the innermost open thing of a fragment is join `id`. -/
def Frag.at (f : Frag) (id : Nat) : Bool :=
  match f.chain with
  | o :: _ => o.id? == some id
  | [] => false

/-- A fragment that may go on: its clk of readiness starts now (R197). -/
def Frag.ready (f : Frag) (clk : Nat) : Frag := { f with wait := .none, since := clk }

/-- A fragment acts on a reconvergence address when it waits for nothing else. -/
def Frag.resting (f : Frag) : Bool := f.wait == .none || f.wait == .join

/-- Whether the fragment that a handler interrupted belongs to join `id` and holds active lanes: it waits nowhere. -/
def Group.awaits (g : Group) (id : Nat) : Bool :=
  (g.handler.map fun h => h.frag.mask != 0 && h.frag.chain.any fun o => o.id? == some id).getD false

/-- Merge join `id` if every fragment of it that still holds active lanes waits there (R54): into the entry that
executed the `BRD`, or, where that entry has been freed (R55), into the lowest-numbered one that remains
(log 12). Answers the entry merged into. -/
def Group.merge (g : Group) (clk id : Nat) : Group × Option Nat :=
  let ms := g.membersOf id
  let fs := ms.filterMap g.frag
  let ok := fs.all (fun f => f.at id && (f.mask == 0 || f.wait == .join)) && !g.awaits id
  if ok && fs.any (fun f => f.mask != 0) then
    match ms, fs with
    | m0 :: _, f0 :: _ =>
      match f0.chain with
      | .join _ reconv _ owner fmt rmode :: _ =>
        let t := if ms.contains owner then owner else m0
        match g.frag t with
        | some ft =>
          let u := fs.foldl (fun m f => m ||| f.mask) 0
          let f' : Frag := { (ft.ready clk) with mask := u, pc := reconv, fmt := fmt, rmode := rmode, chain := ft.chain.tail }
          ({ g with frags := Table.insert (g.frags.filter fun c => !(ms.contains c.1)) t f' }, some t)
        | none => (g, none)
      | _ => (g, none)
    | _, _ => (g, none)
  else (g, none)

/-- The entries of join `id` without a lane: those kept for a frame that the entry's fragment opened before (R56). -/
def Group.emptyOf (g : Group) (id : Nat) : List Nat :=
  (g.membersOf id).filter fun m => (g.frag m).any fun f => f.mask == 0

/-- The lanes of a frame's paths that have not retired. -/
def liveOf (g : Group) (m : Mask) : Mask := m &&& ~~~g.retired

/-- Bring one entry to rest: a fragment at the reconvergence address of its innermost join waits, and merges
if it can (R54); one at the address of its innermost frame, or whose running path has retired, goes on with
the other path or pops the frame (R56); one with no lane and no frame is freed, and what remains of its joins merges or
closes (R55). -/
def Group.settle (clk : Nat) : Nat → Group → Nat → Group
  | 0, g, _ => g
  | n + 1, g, en =>
    match g.frag en with
    | none => g
    | some f =>
      match f.chain with
      | [] => if f.mask = 0 then { g with frags := Table.erase g.frags en } else g
      | .join id reconv _ _ _ _ :: rest =>
        if f.mask = 0 then
          if rest.any Open.isFrame then
            if (g.membersOf id).all (· == en) then Group.settle clk n (g.setFrag en { f with chain := rest }) en
            else
              match (g.setFrag en { f with wait := .join }).merge clk id with
              | (g', some t) => Group.settle clk n g' t
              | (g', none) => g'
          else
            let g := { g with frags := Table.erase g.frags en }
            (f.chain.filterMap Open.id?).foldl (fun g id =>
              match g.merge clk id with
              | (g', some t) => Group.settle clk n g' t
              | (g', none) => (g'.emptyOf id).foldl (fun g m => Group.settle clk n g m) g') g
        else if f.pc = reconv ∧ f.resting then
          match (g.setFrag en { f with wait := .join }).merge clk id with
          | (g', some t) => Group.settle clk n g' t
          | (g', none) => g'
        else g
      | .frame taken others fall reconv fmt rmode second :: rest =>
        if f.mask ≠ 0 ∧ ¬(f.pc = reconv ∧ f.resting) then g
        else if !second && liveOf g others != 0 then
          Group.settle clk n (g.setFrag en { (f.ready clk) with mask := liveOf g others, pc := fall, fmt := fmt, rmode := rmode, chain := .frame taken others fall reconv fmt rmode true :: rest }) en
        else
          Group.settle clk n (g.setFrag en { (f.ready clk) with mask := liveOf g (taken ||| others), pc := reconv, fmt := fmt, rmode := rmode, chain := rest }) en

/-- Rounds enough for every chain of a group to come to rest. -/
def settleFuel : Nat := 256

/-- A fragment whose pc has changed comes to rest. -/
def Group.rest (g : Group) (clk en : Nat) : Group := Group.settle clk settleFuel g en

/-- Retire lanes (R46): they leave every fragment, and fragments left empty come to rest. -/
def Group.retire (g : Group) (clk : Nat) (lanes : Mask) : Group :=
  let g := { g with retired := g.retired ||| lanes,
                    frags := g.frags.map fun (f : Nat × Frag) => (f.1, { f.2 with mask := f.2.mask &&& ~~~lanes }),
                    handler := g.handler.map fun (h : Handler) => { h with frag := { h.frag with mask := h.frag.mask &&& ~~~lanes } } }
  let hit := (g.frags.filter fun f => f.2.mask == 0 && g.handler.isNone || f.2.mask == 0 && f.2.sup).map (·.1)
  hit.foldl (fun g en => g.rest clk en) g

/-- Split a fragment at `BRD` (R53): the taken lanes move to the free entry `b`, the others stay. -/
def Group.split (g : Group) (clk en b : Nat) (f : Frag) (taken : Mask) (target fall reconv : Nat) : Group :=
  let j (partner : Nat) : Open := .join g.joins reconv partner en f.fmt f.rmode
  let stay : Frag := { (f.ready clk) with mask := f.mask &&& ~~~taken, pc := fall, chain := j b :: f.chain }
  let go : Frag := { (f.ready clk) with mask := taken, pc := target, chain := j en :: f.chain.takeWhile Open.isJoin }
  let g := { (g.setFrag en stay).setFrag b go with joins := g.joins + 1 }
  (g.rest clk en).rest clk b

/-- Serialise a fragment at `BRD` (R56): a frame is pushed and the taken lanes run first. -/
def Group.serialise (g : Group) (clk en : Nat) (f : Frag) (taken : Mask) (target fall reconv : Nat) : Group :=
  (g.setFrag en { (f.ready clk) with mask := taken, pc := target, chain := .frame taken (f.mask &&& ~~~taken) fall reconv f.fmt f.rmode false :: f.chain }).rest clk en

/-- The fragments that act now: those of the handler while one runs (R426). -/
def Group.acting (g : Group) : List (Nat × Frag) := g.frags.filter fun f => g.eligible f.2

/-- Reconvergence deadlock (R439): every fragment that holds active lanes waits at a reconvergence address. -/
def Group.deadlocked (g : Group) : Bool := !g.acting.isEmpty && g.acting.all fun f => f.2.wait == .join

end Sys2Proof.Machine
end

