-- ==== Sys2Proof/Machine/Ending.lean ====
section
/-! DEFINITION. How groups, workgroups, gangs and launches end, and the gang kill (R47, R71, R188, R428, R429,
R464 to R466, R478). -/

namespace Sys2Proof.Machine

/-! ### Resources -/

/-- Release one copy count of each seal entry of a list (R156). -/
def State.releaseSeals (s : State) (l : List Nat) : State :=
  { s with seals := l.foldl (fun t e => Table.adjust t e fun x => { x with copies := x.copies - 1 }) s.seals }

/-- The seal entries that a matrix unit's slots count in. -/
def Mat.seals (m : Mat) : List Nat := m.kiln.flatMap fun k => k.2.seals

/-- Release the matrix units of a core that a workgroup holds (R44, R47, R156). -/
def State.releaseMats (s : State) (core w : Nat) : State :=
  (List.range 4).foldl (fun s p =>
    if (s.mat core p).owner == some w then ((s.releaseSeals (s.mat core p).seals).setMat core p Mat.reset).mendAll (Store.ofUnit (4 * core + p)) else s) s

/-- The seal entries an outstanding operation counts in. -/
def EngOp.seals (o : EngOp) : List Nat :=
  match o.k with
  | .copy c => c.seals
  | _ => []

/-- Gangs of a launch on each device (R39). -/
def LRec.gangs (r : LRec) : Nat := r.wg / r.gang

/-! ### The end of a launch -/

/-- A launch has ended on every device: its token is signalled if it ended with status 0, its launch command and the abort
commands that name it complete, and its record is released (R188, R190, R412). -/
def State.finishLaunch (s : State) (l : Nat) (x : Launch) (status : Nat) : State :=
  let s := { s with launches := Table.erase s.launches l }
  let s := match x.lrec.signal with
    | some t => if status == 0 then s.signal t.n t.value else s
    | none => s
  (s.cmds.filter fun c => c.launch == some l && c.out.isNone).foldl
    (fun s c => if c.code == 0x0001 then s.retireCmd c status (BitVec.ofNat 64 x.id) else if c.code == 0x000B then s.retireCmd c 0 0 else s) s

/-- Whether an owner has still to acknowledge partial state that this device has begun to hold of its memory (R415). -/
def State.owing (s : State) : Bool := s.dir.any fun d => d.2.unacked

/-- Whether work of a launch remains on this device (R38, R71): an access that an operation has still to perform is work, and one to
a peer's memory that its owner has still to acknowledge, since the end is a system-scope release (R170, R187, R188, R415). -/
def State.working (s : State) (l : Nat) : Bool :=
  s.groups.any (fun g => g.2.launch == l) || s.wgs.any (fun w => w.2.launch == l)
    || s.cores.any (fun c => c.2.items.any fun i => i.launch == l)
    || s.ops.any (fun o => o.2.launch == l && !o.2.done) || s.owing

/-- The other members of a launch that this device reaches. -/
def State.others (s : State) (x : Launch) : List Nat :=
  (List.range x.lrec.devices).filter fun d => d != x.dev && s.standing x.lrec d

/-- Once every member of a launch that its leader reaches has reported, the leader ends it, and tells the members, which have
kept its record until then (R190, R417). -/
def State.endEverywhereIf (s : State) (l : Nat) : State :=
  match Table.find s.launches l with
  | none => s
  | some x =>
    if x.dev == s.leader x.lrec && ((List.range x.lrec.devices).filter (s.standing x.lrec)).all x.reports.contains then
      ((s.others x).foldl (fun s d => s.send (x.lrec.node d) (.ended (x.lrec.node 0) x.gen x.dev x.status)) s).finishLaunch l x x.status
    else s

/-- End a launch on this device if all its work has ended: with one device it ends; with several, a member
reports to device 0 and keeps the record, and device 0 ends it once every member that it reaches has reported (R188, R190,
R417, R478). -/
def State.endLaunchIf (s : State) (l : Nat) : State :=
  match Table.find s.launches l with
  | none => s
  | some x =>
    if x.lrec.gangs ≤ x.ended.length && x.redo.isEmpty && !x.closed && !s.working l then
      if x.lrec.devices ≤ 1 then s.finishLaunch l x x.status
      else
        let s := s.modLaunch l fun x => { x with closed := true, reports := x.reports ++ [x.dev] }
        if x.dev == s.leader x.lrec then s.endEverywhereIf l
        else s.send (x.lrec.node (s.leader x.lrec)) (.ended (x.lrec.node 0) x.gen x.dev x.status)
    else s

/-- A gang ends when its last workgroup has (R38). -/
def State.endGangIf (s : State) (k : Nat) : State :=
  match Table.find s.gangs k with
  | none => s
  | some x =>
    if s.wgs.any (fun w => w.2.gang == k) then s
    else
      let s := { s with gangs := Table.erase s.gangs k }
      (s.modLaunch x.launch fun y => { y with ended := y.ended ++ [x.no] }).endLaunchIf x.launch

/-- A workgroup ends when its last group has ended and its engine operations have completed (R47; matrix
operations are waited for as well, log 13). -/
def State.endWgIf (s : State) (w : Nat) : State :=
  match Table.find s.wgs w with
  | none => s
  | some x =>
    if s.groups.any (fun g => g.2.wg == some w) || s.ops.any (fun o => o.2.wg == some w && (o.2.cls < 2 || o.2.cls == 5)) then s
    else
      let s := s.releaseMats x.core w
      (({ s with wgs := Table.erase s.wgs w } : State).mendAll (Store.ofWg w)).endGangIf x.gang

/-- Forget the fragment chosen for the next step if it belongs to a group. -/
def State.dropCur (s : State) (k : Nat) : State :=
  { s with cur := match s.cur with
      | some c => if c.g == k then none else some c
      | none => none }

/-- A handler ends without a `PTEW` of its leaf: the leaf returns to from pool and the waiting accesses replay
(R141). -/
def State.revertOf (s : State) (g : Group) : State :=
  match g.handler with
  | some h =>
    match h.leaf with
    | some a => (s.revertLeaf a).releaseLeaf a
    | none => s
  | none => s

/-- Take a group out of the device: its slot and rows are free at once, as R47 states, where R41 keeps a workgroup's
resources to its end (DESIGN CHOICE, log 37); its fragment is no longer chosen, and no `POOLGET` of it waits. -/
def State.removeGroup (s : State) (k : Nat) : State :=
  let s := s.dropCur k
  let s := (s.forgetPasses k).modCore (coreOf k) fun c => { c with overdue := c.overdue.filter fun o => o.1 != k }
  let s := s.mendAll (Store.ofGroup k)
  { s with groups := Table.erase s.groups k,
           ctxs := s.ctxs.map fun c => (c.1, { c.2 with poolq := c.2.poolq.filter fun w => w.1 != k }) }

/-- A group ends (R47): it leaves its pennants, and its workgroup may end. -/
def State.endGroup (s : State) (k : Nat) : State :=
  match s.group? k with
  | none => s
  | some g =>
    let s := ((s.revertOf g).removeGroup k).leaveAll g
    match g.wg with
    | some w => s.endWgIf w
    | none => s.endLaunchIf g.launch

/-! ### Kills -/

/-- Remove what groups of a launch hold outside themselves: monitors, and operations with their sealed-copy
counts (R464). -/
def State.dropWork (s : State) (launch : Nat) (gids : List Nat) : State :=
  let mine (o : Nat × EngOp) : Bool := o.2.launch == launch && gids.contains o.2.gid
  let s := s.releaseSeals ((s.ops.filter mine).flatMap fun o => o.2.seals)
  { s with ops := s.ops.filter (fun o => !mine o),
           monitors := s.monitors.filter fun m => m.peer.isSome || !(m.launch == launch && gids.contains m.gid) }

/-- The effects of a gang kill on the gang's groups, workgroups and items (R464, steps 1 to 8). -/
def State.clearGang (s : State) (k : Nat) (x : Gang) : State :=
  let gs := s.groups.filter fun g => g.2.gang == some k
  let s := gs.foldl (fun s g => (s.revertOf g.2).removeGroup g.1) s
  let s := s.dropWork x.launch ((gs.map fun g => g.2.gid) ++
    ((s.ops.filter fun o => o.2.gang == some k).map fun o => o.2.gid))
  let ws := s.wgs.filter fun w => w.2.gang == k
  let s := ws.foldl (fun s w => s.releaseMats w.2.core w.1) s
  { s with wgs := s.wgs.filter (fun w => w.2.gang != k), gangs := Table.erase s.gangs k,
           cores := s.cores.map fun c => (c.1, { c.2 with items := c.2.items.filter fun i => i.gang != some k }) }

/-- Kill one gang. With `again`, a relaunchable launch has it placed again, at most three times (R466);
otherwise it has ended and the launch ends with status 6. -/
def State.killGang (s : State) (k : Nat) (again : Bool) : State :=
  match Table.find s.gangs k with
  | none => s
  | some x =>
    let core := s.logical (x.cores.headD 0)
    let id := ((Table.find s.launches x.launch).map (·.id)).getD 0
    let s := (s.clearGang k x).log1 9 core 0 0 0 (BitVec.ofNat 32 id)
    let s := s.modLaunch x.launch fun y =>
      let n := Table.get 0 y.tries x.no
      if again && y.lrec.again && n < 3 then
        { y with redo := y.redo ++ [x.no], tries := Table.put 0 y.tries x.no (n + 1), notBefore := max y.notBefore s.stampNow }
      else { y with ended := y.ended ++ [x.no], status := 6 }
    s.endLaunchIf x.launch

/-- Every gang of a launch that is resident on this device. -/
def State.gangsOf (s : State) (l : Nat) : List Nat := (s.gangs.filter fun g => g.2.launch == l).map (·.1)

/-- The saved gangs of a launch are discarded, with their monitors, sealed-copy counts and queued items (R412, R464). -/
def State.dropSaved (s : State) (l : Nat) : State :=
  let gone := s.ctxs.flatMap fun (c : Nat × Ctx) => c.2.saved.filter fun g => g.launch == l
  let s := s.releaseSeals (gone.flatMap fun g => g.mats.flatMap fun m => m.2.seals)
  let s := s.dropWork l (gone.flatMap fun g => g.groups.map (·.gid))
  { s with ctxs := s.ctxs.map fun (c : Nat × Ctx) => (c.1, { c.2 with saved := c.2.saved.filter fun g => g.launch != l }),
           cores := s.cores.map fun (c : Nat × CoreSt) => (c.1, { c.2 with items := c.2.items.filter fun i =>
             !(gone.any fun g => i.gang == some g.key) }) }

/-- Abort a launch on this device (R412, R478): its record leaves its queue, every gang of it is killed, saved
or not yet placed ones included, none is relaunched, and it ends with status 6. -/
def State.abortLaunch (s : State) (l : Nat) : State :=
  match Table.find s.launches l with
  | none => s
  | some x =>
    if x.closed then s.modLaunch l fun y => { y with status := 6 } else
    let s := s.dropSaved l
    let s := { s with queues := s.queues.map fun (q : Nat × List Nat) => (q.1, q.2.filter (· != l)) }
    let s := s.modLaunch l fun y => { y with status := 6, started := true, next := x.lrec.gangs }
    let s := (s.gangsOf l).foldl (fun s k => s.killGang k false) s
    (s.modLaunch l fun y => { y with redo := [], ended := List.range y.lrec.gangs }).endLaunchIf l

/-- A device that finds a launch of several devices at an end tells device 0, which tells the others (R478). -/
def State.abortEverywhere (s : State) (l : Nat) : State :=
  match Table.find s.launches l with
  | none => s
  | some x =>
    let s :=
      if x.dev == s.leader x.lrec then
        (s.others x).foldl (fun s d => s.send (x.lrec.node d) (.abort (x.lrec.node 0) x.gen))
          { s with generation := s.generation + 1 }
      else s.send (x.lrec.node (s.leader x.lrec)) (.abort (x.lrec.node 0) x.gen)
    s.abortLaunch l

/-- A gang kill with its consequences for a co-resident launch (R465, R466): every gang of it on the device is
killed, one that is saved too, a launch of several devices is aborted, and a relaunch is of the whole, with a grid-wide pennant as it
starts. -/
def State.kill (s : State) (k : Nat) (again : Bool) : State :=
  match Table.find s.gangs k with
  | none => s
  | some x =>
    match Table.find s.launches x.launch with
    | none => s.killGang k again
    | some l =>
      if !l.lrec.cores then s.killGang k again
      else if 1 < l.lrec.devices then s.abortEverywhere x.launch
      else
        let whole := again && l.lrec.again && (List.range l.lrec.gangs).all fun n => Table.get 0 l.tries n < 3
        if whole then
          let s := (s.gangsOf x.launch).foldl (fun (s : State) j =>
            match Table.find s.gangs j with
            | some y => (s.clearGang j y).log1 9 (s.logical (y.cores.headD 0)) 0 0 0 (BitVec.ofNat 32 l.id)
            | none => s) (s.dropSaved x.launch)
          s.modLaunch x.launch fun y =>
            { y with redo := List.range y.lrec.gangs, ended := [], grid := Pennant.start y.lrec.gridMembers, notBefore := max y.notBefore s.stampNow,
                     tries := (List.range y.lrec.gangs).foldl (fun t n => Table.put 0 t n (Table.get 0 t n + 1)) y.tries }
        else s.abortLaunch x.launch

/-- End a packed group that an escalation or an abort stops; it has no gang (log 14). -/
def State.killPacked (s : State) (k : Nat) (g : Group) : State :=
  let s := ((s.revertOf g).removeGroup k).dropWork g.launch [g.gid]
  (s.modLaunch g.launch fun y => { y with status := 6 }).endLaunchIf g.launch

/-- Kill the gang of a group. -/
def State.killGroup (s : State) (k : Nat) (again : Bool) : State :=
  match s.group? k with
  | none => s
  | some g =>
    match g.gang with
    | some j => s.kill j again
    | none => s.killPacked k g

/-- Escalation (R429): a fault-queue entry with the killed flag, and the gang's kill without relaunch. -/
def State.escalate (s : State) (k : Nat) (r : Record) (agent : Nat) (mask : Mask) : State :=
  match s.group? k with
  | none => s
  | some g =>
    let s := (s.setGroup k { g with record := r }).reportFault k g r 1 agent mask
    s.killGroup k false

/-- A kill that an abort causes (R462, R463): the record, a queue entry, and a kill that relaunches. -/
def State.abortKill (s : State) (k : Nat) (r : Record) (mask : Mask) : State :=
  match s.group? k with
  | none => s
  | some g =>
    let s := (s.setGroup k { g with record := r }).reportFault k g r 1 0 mask
    s.killGroup k true

end Sys2Proof.Machine
end

