-- ==== Sys2Proof/Machine/Ops.lean ====
section
/-! DEFINITION. Taking an event and returning from a handler (R421 to R430), and the common course of an
instruction word: decode checks, guard, effect, advance (R246, R247). -/

namespace Sys2Proof.Machine

/-! ### Event kinds (R431) -/

def kIllegal : Nat := 0x01
def kRole : Nat := 0x02
def kPrivilege : Nat := 0x03
def kRange : Nat := 0x04
def kFetch : Nat := 0x05
def kDepth : Nat := 0x06
def kDeadlock : Nat := 0x07
def kYield : Nat := 0x08
def kOperand : Nat := 0x09
def kTrap : Nat := 0x0A
def kBkpt : Nat := 0x0B
def kDivided : Nat := 0x0C
def kAbort : Nat := 0x0D
def kAddress : Nat := 0x10
def kAlign : Nat := 0x11
def kTranslation : Nat := 0x12
def kProtection : Nat := 0x13
def kSpad : Nat := 0x14
def kGang : Nat := 0x15
def kSealed : Nat := 0x16
def kAtomic : Nat := 0x17
def kBurst : Nat := 0x18
def kWindow : Nat := 0x19
def kSeal : Nat := 0x1A
def kTouch : Nat := 0x1B
def kPool : Nat := 0x1C
def kRace : Nat := 0x20
def kChecksum : Nat := 0x21
def kCommand : Nat := 0x22
def kEngine : Nat := 0x23
def kMatrix : Nat := 0x24
def kWalker : Nat := 0x25
def kSpawn : Nat := 0x26
def kNoSeal : Nat := 0x27
def kRefusal : Nat := 0x28
def kToken : Nat := 0x29
def kPennant : Nat := 0x30
def kBroken : Nat := 0x31
def kScope : Nat := 0x32
def kRing : Nat := 0x33
def kOverrun : Nat := 0x34
def kMemory : Nat := 0x38
def kLost : Nat := 0x39

/-- Where a kind of delivery H resumes (R431, R472). -/
def resumeOf (kind : Nat) : Resume :=
  if kind = kFetch ∨ kind = kDepth then .at
  else if kind = kRace then .race
  else if (kAddress ≤ kind ∧ kind ≤ kBurst) ∨ kind = kTouch ∨ kind = kLost then .replay
  else .next

/-- The kinds that escalate at user level too (R431). -/
def escalates (kind : Nat) : Bool := kind == kDeadlock || kind == kDivided || kind == kAbort

/-- An event: kind, code and address of the record, the lanes of R423, the agent of a conflicting access
(R433), and the leaf and page size of a first touch (R139). -/
structure Event where
  kind  : Nat
  code  : Nat
  addr  : DWord
  lanes : Mask
  agent : Nat
  leaf  : Option (Nat × Nat)
  deriving DecidableEq, Repr

/-- An event with nothing but a kind, a code and its lanes. -/
def Event.plain (kind code : Nat) (lanes : Mask) : Event := ⟨kind, code, 0, lanes, 0, none⟩

/-- The fault record that an event of a fragment at `pc` writes (R284). -/
def Event.record (e : Event) (pc : Nat) : Record :=
  ⟨true, BitVec.ofNat 16 e.kind, BitVec.ofNat 8 e.code, BitVec.ofNat 32 (pc / 12), e.addr⟩

/-! ### Reading the newest bytes -/

/-- The core whose L1 holds a newer value of a word than its home, if any (R145, R148). -/
def State.dirtyAt (s : State) (pa : Nat) : Option Nat :=
  (Table.get Dir.reset s.dir (pa / 128)).holders.find? fun c =>
    match Table.find (s.core c).l1 (pa / 128) with
    | some l => l.dirty.getLsbD (pa / 4 % 32)
    | none => false

/-- The value of a word that a Writeback or an answer carries on its way to the home, the latest of several (R143, R153). -/
def State.carried (s : State) (pa : Nat) : Option Word :=
  s.msgs.foldl (fun v m => (match m with
    | .writeback _ l _ _ r | .answer _ l _ r => if l = pa / 128 then Table.find r.words (pa / 4 % 32) else none
    | _ => none : Option Word).or v) none

/-- The value of a word that is newer than its home's: in a holder's dirty copy, or on its way from one (R153). -/
def State.newer (s : State) (pa : Nat) : Option Word :=
  ((s.dirtyAt pa).bind fun c => (Table.find (s.core c).l1 (pa / 128)).map fun l => Table.get 0 l.words (pa / 4 % 32)).or (s.carried pa)
/-- The newest value of a word: the newer one, else the home's, as a read of it is corrected (R453). -/
def State.newest (s : State) (pa : Nat) : Word := (s.newer pa).getD (s.homeWord pa)
/-- Why the newest value of a word cannot be read, as the code of R463; none where it can. -/
def State.badNewest (s : State) (pa : Nat) : Option Nat := if (s.newer pa).isSome then none else s.badWord pa
/-- What reading the newest value of a word leaves at its home (R128, R453). -/
def State.noteNewest (s : State) (pa : Nat) : State := if (s.newer pa).isSome then s else s.noteRead pa

/-! ### Taking an event -/

/-- The address of entry `k` of the trap vector (R424). -/
def vectorAddr (k : Nat) : Nat := 0x1FFFFFFFFFF0000 + 8 * k

/-- The image that the trap vector of a context names for a kind; none where the entry cannot be read or is
not valid (R424). -/
def State.handlerImage (s : State) (core ctx kind : Nat) : Option Nat :=
  match s.translate core ctx (vectorAddr kind) with
  | .page pa _ _ _ =>
    let lo := s.newest pa
    let hi := s.newest (pa + 4)
    if (s.badNewest pa).isSome || (s.badNewest (pa + 4)).isSome then none
    else if hi.getLsbD 31 then some ((lo.toNat + 2 ^ 32 * hi.toNat) % 2 ^ 57) else none
  | _ => none
/-- What reading the entry of the trap vector leaves at its home (R453, R456), with the record and alerts of a word that cannot be
read (R460). -/
def State.noteVector (s : State) (core ctx kind : Nat) : State :=
  match s.translate core ctx (vectorAddr kind) with
  | .page pa _ _ _ => [pa, pa + 4].foldl (fun s a =>
      let s := s.readHome (some ctx) a
      match s.badNewest a with
      | some code => s.noteAbort a code (some ctx)
      | none => s.noteNewest a) s
  | _ => s.noteFault core ctx (vectorAddr kind)

/-- A fragment as `RTT` is to reinstate it for a resume point (R257, R428). -/
def Frag.resumed (f : Frag) (r : Resume) (lanes : Mask) : Frag :=
  match r with
  | .next => { f with pc := f.pc + 12, wait := .none, only := none, hostOk := false }
  | .race => { f with wait := .none, only := some lanes }
  | .replay | .at => { f with wait := .none }

/-- The handler's one fragment (R426). -/
def Frag.handler (lanes : Mask) (clk : Nat) : Frag :=
  ⟨lanes, 0, 0, 1, .none, [], clk, none, false, true⟩

/-- Enter the supervisor handler (R426): the interrupted fragment, the mask and the resume point are recorded,
the other fragments are held, and the handler starts in the same entry at pc 0 of its image. -/
def Group.enter (g : Group) (clk en : Nat) (f : Frag) (e : Event) (image : Nat) : Group :=
  let lanes := e.lanes &&& f.mask
  let r := resumeOf e.kind
  { g with level := .sup,
           handler := some ⟨en, f.resumed r lanes, lanes, r, image, e.kind, e.leaf.map (·.1), (e.leaf.map (·.2)).getD 0⟩,
           frags := Table.insert g.frags en (Frag.handler lanes clk) }

/-- TAKING AN EVENT (R421 to R430): the fault record is written; at supervisor level, for a kind that
escalates, for a mask without an active lane or without a handler, the event escalates; otherwise the group
enters its handler. -/
def State.takeEvent (s : State) (k en : Nat) (e : Event) : State :=
  match s.group? k with
  | none => s
  | some g =>
    match g.frag en with
    | none => s
    | some f =>
      let r := e.record f.pc
      let stop (s : State) : State :=
        let s := match e.leaf with
          | some (a, _) => (s.revertLeaf a).releaseLeaf a
          | none => s
        s.escalate k r e.agent e.lanes
      if g.level = .sup ∨ escalates e.kind = true ∨ e.lanes &&& f.mask = 0 then stop s
      else
        let s := s.noteVector (coreOf k) (s.ctxOf g.launch) e.kind
        match s.handlerImage (coreOf k) (s.ctxOf g.launch) e.kind with
        | none => stop s
        | some image => s.setGroup k { (g.enter s.clk en f e image) with record := r }

/-! ### Returning -/

/-- Every entry of a group comes to rest. -/
def Group.restAll (g : Group) (clk : Nat) : Group := (g.frags.map (·.1)).foldl (fun g en => g.rest clk en) g

/-- The handler is over: its fragments go, the recorded one is reinstated in the handler's entry, and the
others are no longer held (R257, R428). A race replay whose lanes have all retired resumes at the next
instruction (R428), where an acquire of the other lanes still waits for `%tb` to reach the horizon (R445). -/
def Group.leave (g : Group) (clk now : Nat) (h : Handler) : Group :=
  let f := h.frag.ready clk
  let f := match h.resume with
    | .race =>
      if liveOf g h.mask = 0 then
        { f with pc := f.pc + 12, only := none, wait := if now < g.horizon.toNat then .horizon else .none }
      else { f with only := some (liveOf g h.mask) }
    | _ => f
  ({ g with level := .user, handler := none,
            frags := Table.insert (g.frags.filter fun c => !c.2.sup) h.entry f } : Group).restAll clk

/-- THE RETURN FROM A HANDLER (R257, R428), by `RTT` or with its last lane: a leaf still filling reverts
(R141). -/
def State.endHandler (s : State) (k : Nat) : State :=
  match s.group? k with
  | none => s
  | some g =>
    match g.handler with
    | none => s
    | some h => (s.revertOf g).setGroup k (g.leave s.clk s.now h)

/-- The one fragment of a group that suspends or resumes: every lane not retired, modes at their reset values
(R204, R210). -/
def wholeFrag (g : Group) (pc clk : Nat) (w : Wait) : Frag :=
  ⟨~~~g.retired, pc, 0, 1, w, [], clk, none, false, false⟩

/-- The fragment of a yield handler that executed `YIELDD.susp` last, where every one of its fragments has (R205). -/
def Group.lastSusp (g : Group) : Option Frag :=
  match g.yield, g.handler with
  | .running _, none =>
    if g.acting.all fun c => c.2.wait == .susp then
      (g.acting.map (·.2)).foldl (fun m f => match m with
        | none => some f
        | some q => some (if q.since < f.since then f else q)) none
    else none
  | _, _ => none

/-- The suspend of a yield handler takes effect with its last fragment (R205, R259). -/
def Group.suspend (g : Group) (clk : Nat) : Group :=
  match g.lastSusp with
  | none => g
  | some f => { g with frags := [(0, wholeFrag g (f.pc + 12) clk .susp)], yield := .suspended }

/-- After a group's fragments have changed: a handler without lanes ends, a group without lanes ends (R47), a yield
handler suspends with its last fragment, a group whose fragments all wait to reconverge escalates (R439). -/
def State.tidy (s : State) (k : Nat) : State :=
  match s.group? k with
  | none => s
  | some g =>
    if g.done then s.endGroup k
    else
      let s := if g.handler.isSome && g.acting.isEmpty then s.endHandler k else s
      match s.group? k with
      | none => s
      | some g =>
        if g.done then s.endGroup k
        else if g.deadlocked then
          match g.acting with
          | (en, f) :: _ => s.takeEvent k en (Event.plain kDeadlock 0 f.mask)
          | [] => s
        else if g.lastSusp.isSome then s.setGroup k (g.suspend s.clk)
        else s

/-- Move a fragment to `pc` with a wait, bring it to rest, and see what follows for its group. A completed
instruction ends a race replay and uses up a host answer. -/
def State.move (s : State) (k en pc : Nat) (w : Wait) : State :=
  let s := s.modGroup k fun g =>
    match g.frag en with
    | none => g
    | some f =>
      (g.setFrag en { f with pc := pc, wait := w, since := s.clk, only := none, hostOk := false }).rest s.clk en
  s.tidy k

/-! ### The course of an instruction word -/

/-- The fragment whose instruction executes, its group, and the lanes for which it executes. -/
structure X where
  k     : Nat
  en    : Nat
  g     : Group
  f     : Frag
  lanes : Mask
  deriving DecidableEq, Repr

/-- The fragment's lowest-numbered active lane (R49). -/
def X.low (x : X) : Nat := lowLane x.f.mask
def X.core (x : X) : Nat := coreOf x.k

/-- How an instruction leaves its fragment. -/
inductive Done where
  /-- it has completed: the next instruction -/
  | next
  /-- it has completed and goes to a byte offset -/
  | goto (pc : Nat)
  /-- it cannot be accepted now and is issued again -/
  | hold
  /-- it waits and is executed again -/
  | wait (w : Wait)
  /-- it has completed but for a wait after which the fragment goes on at the next instruction -/
  | pass (w : Wait)
  /-- it stays, and its fragment is given over to what has happened to the group -/
  | gone
  /-- it raises an event -/
  | event (e : Event)
  deriving DecidableEq, Repr

/-- Leave the fragment as `d` says. -/
def State.finish (s : State) (x : X) (d : Done) : State :=
  match d with
  | .next => s.move x.k x.en (x.f.pc + 12) .none
  | .goto pc => s.move x.k x.en pc .none
  | .hold => s.modFrag x.k x.en fun f => { f with since := s.clk + 1 }
  | .wait w => s.modFrag x.k x.en fun f => { f with wait := w }
  | .pass w => s.move x.k x.en (x.f.pc + 12) w
  | .gone => s.tidy x.k
  | .event e => s.takeEvent x.k x.en e

/-- What a word names, for the decode checks (R246): its class, whether it is for the supervisor, the vector
registers and predicates it names, the positions of its block, and the registers
that it writes, which come first among those it names. -/
structure Need where
  cls   : Nat
  sup   : Bool
  vs    : List Nat
  ps    : List Nat
  size  : Nat
  dst   : List Nat
  deriving DecidableEq, Repr

/-- The roles a class is permitted to (R58). -/
def roleOk (cls : Nat) (r : Role) : Bool :=
  if cls == 12 then r == .C
  else if cls == 13 then r == .M
  else if (3 ≤ cls && cls ≤ 10) || cls == 14 then r == .V
  else true

/-- The first decode check of R246 after the word's own legality that fails, by its kind. -/
def Need.fault (n : Need) (p : Pre) (g : Group) : Option Nat :=
  if !roleOk n.cls g.role then some kRole
  else if n.sup && g.level != .sup then some kPrivilege
  else if n.vs.all (fun r => r < g.regs) && n.ps.all (fun q => q < g.npreds)
      && (p.guard == 63#6 || p.guard.toNat < g.npreds) then none
  else some kRange

/-- The lanes of a fragment in which a guard holds (R21). Guard 63, always, ignores neg (DESIGN CHOICE, log 111: R217 says nothing
of the pair). -/
def guardLanes (p : Pre) (g : Group) (f : Frag) : Mask :=
  if p.guard = 63#6 then f.mask
  else if p.neg then f.mask &&& ~~~(g.pmask p.guard.toNat)
  else f.mask &&& g.pmask p.guard.toNat

/-- The lanes for which an instruction executes: of a uniform one every active lane or none, as the guard
holds in the lowest one (R49); of a race replay only the lanes that conflicted (R428). -/
def execLanes (p : Pre) (uni : Bool) (g : Group) (f : Frag) : Mask :=
  let m := guardLanes p g f
  let m := if uni then (if m.getLsbD (lowLane f.mask) then f.mask else 0) else m
  match f.only with
  | some o => m &&& o
  | none => m

/-- Beats with an active lane (R48). -/
def beats (m : Mask) : Nat :=
  ((List.range 4).filter fun b => (m >>> (32 * b)).truncate 32 != (0 : Word)).length

/-- A vector instruction occupies its partition's pipe (R196), with `more` clk for bank conflicts (R115). -/
def State.occupy (s : State) (k : Nat) (f : Frag) (n : Need) (uni : Bool) (more : Nat) : State :=
  if uni || n.cls == 13 then s
  else s.modCore (coreOf k) fun c =>
    { c with pipe := Table.put 0 c.pipe (partOf k) (s.clk + max 1 (beats f.mask * n.size) + more) }

/-- The fragment that `cur` names. -/
def State.selected (s : State) : Option (Nat × Nat × Group × Frag) :=
  match s.cur with
  | none => none
  | some c =>
    match s.group? c.g with
    | none => none
    | some g =>
      match g.frag c.en with
      | none => none
      | some f => some (c.g, c.en, g, f)

/-- The issue slot of a clk is spent on the chosen fragment (R197): it leaves the overdue list and its count returns to 0,
and the counts of the others that were ready rise. -/
def State.spend (s : State) (k en : Nat) : State :=
  let others := (s.cur.map (·.others)).getD []
  ({ s with cur := none } : State).modCore (coreOf k) fun c => { c with
    overdue := c.overdue.filter (· != (k, en)),
    passed := Table.erase (others.foldl (fun t o => Table.insert t (fragKey o.1 o.2) (Table.get 0 t (fragKey o.1 o.2) + 1)) c.passed)
      (fragKey k en) }

/-- The chosen fragment turns out not to be ready (R195): the slot is not spent, its partition is looked at again, and its pass count
starts anew when it is ready (R197). -/
def State.unspent (s : State) (k en : Nat) : State :=
  ({ s with cur := none, scan := 4 * coreOf k + partOf k } : State).modCore (coreOf k) fun c => { c with passed := Table.erase c.passed (fragKey k en) }

/-- The state in which a selected instruction takes effect: its choice is used up and its pipe occupied. -/
def State.issued (s : State) (k en : Nat) (f : Frag) (n : Need) (uni : Bool) (more : Nat) : State :=
  (s.spend k en).occupy k f n uni more

/-- The registers of a group that hold an error (R456), with their lanes. -/
def State.flawedRegs (s : State) (k : Nat) (rs : List Nat) (m : Mask) : List (Nat × Nat) :=
  s.flaws.filterMap fun f => match f.1 with
    | .vreg j r l => if j == k && rs.contains r && m.getLsbD l then some (r, l) else none
    | _ => none

/-- The registers that an instruction names are read or written in its lanes (R456): what it only writes holds no error any
longer; an error of what it reads is corrected, or is found uncorrectable in the lanes of the answer. -/
def State.readRegs (s : State) (k : Nat) (n : Need) (ctx : Nat) (m : Mask) : State × Mask :=
  (s.flawedRegs k n.vs m).foldl (fun (acc : State × Mask) c =>
    if !(n.vs.drop n.dst.length).contains c.1 then (acc.1.mend (.vreg k c.1 c.2), acc.2)
    else
      let (s, bad) := acc.1.readStore (.vreg k c.1 c.2) (some ctx)
      (s, if bad then acc.2 ||| laneBit c.2 else acc.2)) (s, 0)

/-- The fault record of a kill that an abort causes (R463). -/
def abortRecord (code va index : Nat) : Record :=
  ⟨true, BitVec.ofNat 16 (if code = 6 then kLost else kMemory), BitVec.ofNat 8 code, BitVec.ofNat 32 index, BitVec.ofNat 64 va⟩

/-- The registers of a group that copies are to land in (R352): no instruction that names one is ready (R195). -/
def State.heldRegs (s : State) (k gid : Nat) : List Nat :=
  s.ops.flatMap fun o => match o.2.k with
    | .copy c => if c.tgt == some (k, gid) && !o.2.done then c.regs else []
    | _ => []

/-- Whether matrix work of a group that is to raise flags in its lanes is under way (R107, R373). -/
def State.flagsBusy (s : State) (g : Group) : Bool :=
  s.ops.any fun o => o.2.launch == g.launch && o.2.gid == g.gid && !o.2.done &&
    match o.2.k with
    | .pass _ | .drain _ => true
    | _ => false

/-- An effect on `%fflags` that waits for matrix work which is to raise flags (R107). -/
def afterFlags (body : State → X → State × Done) (s : State) (x : X) : State × Done :=
  if s.flagsBusy x.g then (s, .hold) else body s x

/-- THE COURSE OF AN INSTRUCTION WORD (R246, R247): the decode checks, whatever the guard; then, where the
guard holds, its effect; then the pc. One that cannot be accepted now has not issued (R195). `stall` adds to the time it takes the
vector pipe. -/
def issue (n : Need) (p : Pre) (uni : Bool) (stall : X → Nat) (body : State → X → State × Done) (s : State) :
    Host.Outcome State Fault Refusal :=
  match s.selected with
  | none => .fault .noFragment
  | some (k, en, g, f) =>
    let x : X := ⟨k, en, g, f, execLanes p uni g f⟩
    let t := s.issued k en f n uni (stall x)
    let held := s.heldRegs k g.gid
    if n.vs.any held.contains then .next ((s.unspent k en).finish ⟨k, en, g, f, 0⟩ .hold)
    else
    match n.fault p g with
    | some kind => .next (t.takeEvent k en (Event.plain kind 0 f.mask))
    | none =>
      if x.lanes = 0 then .next (t.finish x .next)
      else
        let q := t.readRegs k n (s.ctxOf g.launch) x.lanes
        if q.2 ≠ 0 then .next (q.1.abortKill k (abortRecord 3 0 (f.pc / 12)) q.2)
        else
          match (body q.1 x).2 with
          | .hold => .next ((body (s.unspent k en) x).1.finish x .hold)
          | d => .next ((body q.1 x).1.finish x d)

end Sys2Proof.Machine
end

