-- ==== Sys2Proof/WellFormed.lean ====
section
/-! DEFINITION. Which terms of `Instr` an instruction word of the map can stand for: the ranges, register
alignments, block limits and accepted codes of R219 to R244 that the operand types do not already say.
A step that is no instruction word is always well formed. -/

namespace Sys2Proof

/-- A guard is a predicate 0 to 47 or 63, always (R217). -/
def Pre.ok (p : Pre) : Bool := p.guard.toNat < 48 || p.guard == 63#6

/-- Block rows (R30). -/
def Ext.rows (e : Ext) : Nat := e.h.toNat + 1
/-- Block columns (R30). -/
def Ext.cols (e : Ext) : Nat := e.w.toNat + 1

/-- A block that starts at `v` lies on the register grid (R30). -/
def Ext.onGrid (e : Ext) (v : VReg) : Bool :=
  v.toNat % 64 + e.cols ≤ 64 && v.toNat / 64 + e.rows ≤ 32

def Ext.onGridVS (e : Ext) : VS → Bool
  | .v r => e.onGrid r
  | .s _ => true
def Ext.onGridVSI (e : Ext) : VSI → Bool
  | .v r => e.onGrid r
  | .s _ => true
  | .i _ => true

/-- A predicate number (R220). -/
def predOk (q : PReg) : Bool := q.toNat < 48
/-- An even scalar register names a pair (R219). -/
def even (r : SReg) : Bool := r.toNat % 2 == 0
def evenSI : SI → Bool
  | .s r => even r
  | .i _ => true
def mult (n : Nat) (r : SReg) : Bool := r.toNat % n == 0
/-- An immediate within `[lo, hi]`; a scalar is always accepted (R228). -/
def immIn (lo hi : Nat) : SI → Bool
  | .s _ => true
  | .i x => lo ≤ x.toNat && x.toNat ≤ hi

/-- The types of a row that accepts the signed and unsigned 32-bit codes. -/
def IntTy.su : IntTy → Bool
  | .s32 | .u32 => true
  | _ => false
/-- The types of a row that accepts 32-bit and pair codes; under `.d64` every register is even (R261). -/
def IntTy.sd (ty : IntTy) (d a : SReg) (b : SI) : Bool :=
  match ty with
  | .s32 => true
  | .d64 => even d && even a && evenSI b
  | _ => false
/-- The types of `IADD` and `ISUB` (R232). -/
def IntTy.sat : IntTy → Bool
  | .s32 | .sats | .satu => true
  | _ => false
/-- `.u` only with the four order conditions (R223). -/
def Cmp.ok (c : Cmp) : Bool :=
  !c.u || (match c.cond with
    | .lt | .le | .gt | .ge => true
    | _ => false)

/-- The special registers of R77. -/
def srListed (n : BitVec 6) : Bool := n.toNat ≤ 14 || (16 ≤ n.toNat && n.toNat ≤ 19)
/-- The 64-bit special registers (R77). -/
def sr64 (n : BitVec 6) : Bool := n.toNat == 12 || n.toNat == 13

/-- The destination of a two-register access: an even scalar, or vN with N mod 64 ≤ 62 (R317). -/
def VS.pairOk : VS → Bool
  | .s r => even r
  | .v r => r.toNat % 64 ≤ 62
/-- The operand of `.cas64`: a scalar multiple of 4, or vN with N mod 64 ≤ 60 (R317). -/
def VS.quadOk : VS → Bool
  | .s r => mult 4 r
  | .v r => r.toNat % 64 ≤ 60

/-- How many consecutive registers D names under an operator (R239). -/
def Op.regs : Op → Nat
  | .iadd64 | .exch64 | .cas32 => 2
  | .cas64 => 4
  | _ => 1
def Op.destOk (o : Op) (d : VS) : Bool :=
  match o.regs with
  | 1 => true
  | 2 => d.pairOk
  | _ => d.quadOk

/-- The operators of `ATOM` and `ATOMS`: 0 to 11 and 13 to 16 (R239). -/
def Op.atomOk (o : Op) : Bool := o != .xsum32
/-- The operators of `RED`: 0 to 11 (R239). -/
def Op.redOk : Op → Bool
  | .xsum32 | .exch32 | .exch64 | .cas32 | .cas64 => false
  | _ => true
/-- The tags: 0 to 12 (R158). -/
def Op.isTag : Op → Bool
  | .exch32 | .exch64 | .cas32 | .cas64 => false
  | _ => true

/-- The 8-bit floating targets of `QBLK` and `DQBLK`, and `.f8` (R235). -/
def Fmt.blk : Fmt → Bool
  | .tf8 | .e4m3 | .e5m2 | .f8 => true
  | _ => false
/-- The element formats of `KSET`: codes 3 to 8 (R242). -/
def Fmt.kiln : Fmt → Bool
  | .f16 | .bf16 | .tf8 | .e4m3 | .e5m2 | .i8 => true
  | _ => false
/-- How many elements a register holds (R301). -/
def Fmt.elems : Fmt → Nat
  | .f16x2 | .bf16x2 => 2
  | _ => 1

/-- The fields of a memory operand that do not apply are zero (R222). -/
def MemOp.tidy (m : MemOp) : Bool :=
  (m.remote || m.pos == 0) && (m.based || m.base == 0) && (m.indexed || (m.scale == 0 && m.index == 0))
/-- A `gl:` operand: a base pair, no cluster position (R221, R222). -/
def MemOp.gl (m : MemOp) : Bool := m.tidy && !m.remote && m.based && even m.base
/-- An `sp:` or `gangC:` operand. -/
def MemOp.spad (m : MemOp) : Bool := m.tidy
/-- The operand of `LDX` and `STX`: the index field names the pattern's first scalar (R237, R322). -/
def MemOp.pattern (m : MemOp) : Bool :=
  !m.remote && m.pos == 0 && m.based && even m.base && m.indexed && m.scale == 0 &&
    m.index.toNat ≤ 120 && m.index.toNat % 8 == 0

/-- The orderings an operation accepts, with the scope that R225 ties to them: none exactly when plain. -/
def ordScope (acq rel : Bool) (m : MemOp) (sc : Scope) : Bool :=
  (match m.ord.toNat with
    | 0 => true
    | 1 => acq
    | 2 => rel
    | _ => acq && rel) && ((m.ord == 0) == (sc == .none))
/-- A scope of at most gang (R238). -/
def Scope.toGang : Scope → Bool
  | .dev | .sys => false
  | _ => true
/-- `.b64` names two registers (R237). -/
def Size.destOk (sz : Size) (d : VS) : Bool := sz != .b64 || d.pairOk
/-- The sizes of a store: 0, 2, 4 and 5 (R237). -/
def Size.store : Size → Bool
  | .s8 | .s16 => false
  | _ => true
/-- The sizes of `LDX` and `STX`, with the extent `.b64` requires (R322). -/
def Size.burst (sz : Size) (e : Ext) (d : VReg) : Bool :=
  match sz with
  | .b32 => e.onGrid d
  | .b64 => e.h == 0 && e.w == 0 && d.toNat % 64 ≤ 62
  | _ => false
/-- A pennant operand: 0 to 39, or 63 (R220). -/
def penOk (n : BitVec 6) : Bool := n.toNat < 40 || n == 63#6
/-- The memory operand of `MDRAIN` and `MLOAD` (R242). -/
def MemOp.tile (m : MemOp) (sp : Bool) : Bool := m.tidy && !m.remote && m.ord == 0 && (sp || (m.based && even m.base))

/-- Well-formedness of an instruction (R245). -/
def Instr.wf : Instr → Bool
  | .nop p _ => p.ok
  | .br p _ => p.ok
  | .brc p _ _ _ => p.ok
  | .brd p _ _ => p.ok
  | .brx p _ => p.ok
  | .call p _ _ => p.ok
  | .ret p _ => p.ok
  | .loop p _ _ => p.ok
  | .exit p => p.ok
  | .sleep p n => p.ok && immIn 1 131071 n
  | .trap p _ => p.ok
  | .rtt p => p.ok
  | .yielddSusp p => p.ok
  | .yielddRet p => p.ok
  | .bkpt p _ => p.ok
  | .sadd p ty d a b => p.ok && ty.sd d a b
  | .ssub p ty d a b => p.ok && ty.sd d a b
  | .smul p _ _ _ => p.ok
  | .smulh p ty _ _ _ => p.ok && ty.su
  | .sdiv p ty _ _ _ => p.ok && ty.su
  | .srem p ty _ _ _ => p.ok && ty.su
  | .sand p _ _ _ => p.ok
  | .sor p _ _ _ => p.ok
  | .sxor p _ _ _ => p.ok
  | .sshl p ty d a b => p.ok && ty.sd d a b
  | .sshr p ty d a b => p.ok && ty.sd d a b
  | .ssar p ty d a b => p.ok && ty.sd d a b
  | .smin p ty _ _ _ => p.ok && ty.su
  | .smax p ty _ _ _ => p.ok && ty.su
  | .scmp p cc _ _ _ => p.ok && cc.ok
  | .smov p ty d a => p.ok && ty.sd d a (.s a)
  | .smovi p _ _ => p.ok
  | .slea p _ d a _ => p.ok && even d && even a
  | .ssel p _ _ _ => p.ok
  | .pset p d _ => p.ok && predOk d
  | .plop p _ d a b => p.ok && predOk d && predOk a && predOk b
  | .pcnt p _ a => p.ok && predOk a
  | .pfirst p _ a => p.ok && predOk a
  | .pvote p _ d a => p.ok && predOk d && predOk a
  | .rdsp p d sr => p.ok && srListed sr && (!sr64 sr || d.pairOk)
  | .wrsp p sr _ => p.ok && 8 ≤ sr.toNat && sr.toNat ≤ 11
  | .setfmt p _ => p.ok
  | .setrm p _ => p.ok
  | .rdff p _ => p.ok
  | .clrff p _ => p.ok
  | .iadd p e ty d a b => p.ok && ty.sat && e.onGrid d && e.onGridVS a && e.onGridVSI b
  | .isub p e ty d a b => p.ok && ty.sat && e.onGrid d && e.onGridVS a && e.onGridVSI b
  | .imul p e d a b => p.ok && e.onGrid d && e.onGridVS a && e.onGridVSI b
  | .imulh p e ty d a b => p.ok && ty.su && e.onGrid d && e.onGridVS a && e.onGridVSI b
  | .imad p e d a b => p.ok && e.onGrid d && e.onGridVS a && e.onGridVSI b
  | .idiv p e ty d a b => p.ok && ty.su && e.onGrid d && e.onGridVS a && e.onGridVSI b
  | .irem p e ty d a b => p.ok && ty.su && e.onGrid d && e.onGridVS a && e.onGridVSI b
  | .imin p e ty d a b => p.ok && ty.su && e.onGrid d && e.onGridVS a && e.onGridVSI b
  | .imax p e ty d a b => p.ok && ty.su && e.onGrid d && e.onGridVS a && e.onGridVSI b
  | .iabs p e d a => p.ok && e.onGrid d && e.onGridVS a
  | .ineg p e d a => p.ok && e.onGrid d && e.onGridVS a
  | .icmp p cc d _ _ => p.ok && cc.ok && predOk d
  | .isel p e q d a b => p.ok && predOk q && e.onGrid d && e.onGridVSI a && e.onGridVSI b
  | .imov p e d a => p.ok && e.onGrid d && e.onGridVSI a
  | .imovi p e d _ => p.ok && e.onGrid d
  | .iand p e d a b => p.ok && e.onGrid d && e.onGridVS a && e.onGridVSI b
  | .ior p e d a b => p.ok && e.onGrid d && e.onGridVS a && e.onGridVSI b
  | .ixor p e d a b => p.ok && e.onGrid d && e.onGridVS a && e.onGridVSI b
  | .inot p e d a => p.ok && e.onGrid d && e.onGridVS a
  | .ishl p e d a b => p.ok && e.onGrid d && e.onGridVS a && e.onGridVSI b
  | .ishr p e d a b => p.ok && e.onGrid d && e.onGridVS a && e.onGridVSI b
  | .isar p e d a b => p.ok && e.onGrid d && e.onGridVS a && e.onGridVSI b
  | .irot p e d a b => p.ok && e.onGrid d && e.onGridVS a && e.onGridVSI b
  | .bfx p e ty d a b => p.ok && ty.su && e.onGrid d && e.onGridVS a && e.onGridVSI b
  | .bfi p e d a b => p.ok && e.onGrid d && e.onGridVS a && e.onGridVSI b
  | .popc p e d a => p.ok && e.onGrid d && e.onGridVS a
  | .clz p e d a => p.ok && e.onGrid d && e.onGridVS a
  | .fadd p e _ d a b => p.ok && e.onGrid d && e.onGridVS a && e.onGridVS b
  | .fsub p e _ d a b => p.ok && e.onGrid d && e.onGridVS a && e.onGridVS b
  | .fmul p e _ d a b => p.ok && e.onGrid d && e.onGridVS a && e.onGridVS b
  | .ffma p e _ d a b => p.ok && e.onGrid d && e.onGridVS a && e.onGridVS b
  | .fmin p e d a b => p.ok && e.onGrid d && e.onGridVS a && e.onGridVS b
  | .fmax p e d a b => p.ok && e.onGrid d && e.onGridVS a && e.onGridVS b
  | .fabs p e d a => p.ok && e.onGrid d && e.onGridVS a
  | .fneg p e d a => p.ok && e.onGrid d && e.onGridVS a
  | .fcmp p _ d _ _ => p.ok && predOk d
  | .fclass p e d a => p.ok && e.onGrid d && e.onGridVS a
  | .fdiv p e _ d a b => p.ok && e.onGrid d && e.onGridVS a && e.onGridVS b
  | .fsqrt p e _ d a => p.ok && e.onGrid d && e.onGridVS a
  | .frcp p e _ d a => p.ok && e.onGrid d && e.onGridVS a
  | .frsq p e _ d a => p.ok && e.onGrid d && e.onGridVS a
  | .fexp2 p e _ d a => p.ok && e.onGrid d && e.onGridVS a
  | .flog2 p e _ d a => p.ok && e.onGrid d && e.onGridVS a
  | .fsinpi p e _ d a => p.ok && e.onGrid d && e.onGridVS a
  | .fcospi p e _ d a => p.ok && e.onGrid d && e.onGridVS a
  | .fround p e _ d a => p.ok && e.onGrid d && e.onGridVS a
  | .faddPacked p e _ _ d a b => p.ok && e.onGrid d && e.onGridVS a && e.onGridVS b
  | .fsubPacked p e _ _ d a b => p.ok && e.onGrid d && e.onGridVS a && e.onGridVS b
  | .fmulPacked p e _ _ d a b => p.ok && e.onGrid d && e.onGridVS a && e.onGridVS b
  | .ffmaPacked p e _ _ d a b => p.ok && e.onGrid d && e.onGridVS a && e.onGridVS b
  | .fminPacked p e _ d a b => p.ok && e.onGrid d && e.onGridVS a && e.onGridVS b
  | .fmaxPacked p e _ d a b => p.ok && e.onGrid d && e.onGridVS a && e.onGridVS b
  | .fabsPacked p e _ d a => p.ok && e.onGrid d && e.onGridVS a
  | .fnegPacked p e _ d a => p.ok && e.onGrid d && e.onGridVS a
  | .fcmpPacked p _ _ d _ _ => p.ok && predOk d && d.toNat % 2 == 0
  | .fclassPacked p e _ d a => p.ok && e.onGrid d && e.onGridVS a
  | .fdivPacked p e _ _ d a b => p.ok && e.onGrid d && e.onGridVS a && e.onGridVS b
  | .fsqrtPacked p e _ _ d a => p.ok && e.onGrid d && e.onGridVS a
  | .frcpPacked p e _ _ d a => p.ok && e.onGrid d && e.onGridVS a
  | .frsqPacked p e _ _ d a => p.ok && e.onGrid d && e.onGridVS a
  | .fexp2Packed p e _ _ d a => p.ok && e.onGrid d && e.onGridVS a
  | .flog2Packed p e _ _ d a => p.ok && e.onGrid d && e.onGridVS a
  | .fsinpiPacked p e _ _ d a => p.ok && e.onGrid d && e.onGridVS a
  | .fcospiPacked p e _ _ d a => p.ok && e.onGrid d && e.onGridVS a
  | .froundPacked p e _ _ d a => p.ok && e.onGrid d && e.onGridVS a
  | .cvt p e tgt _ d a src _ => p.ok && e.onGrid d && e.onGridVS a && tgt.elems == src.elems
  | .qblk p tgt _ d a _ => p.ok && tgt.blk && d.toNat % 64 ≤ 56 && a.toNat % 64 ≤ 32
  | .dqblk p src d a _ => p.ok && src.blk && a.toNat % 64 ≤ 56 && d.toNat % 64 ≤ 32
  | .shfl p _ _ _ _ => p.ok
  | .bcast p _ _ b => p.ok && immIn 0 127 b
  | .vred p o rnd _ _ => p.ok && o.isTag && o != .iadd64 && (rnd == 0 || o == .fadd32 || o == .xsum32)
  | .vscan p o rnd _ _ _ => p.ok && o.isTag && o != .iadd64 && o != .xsum32 && (rnd == 0 || o == .fadd32)
  | .vcompact p _ _ q => p.ok && predOk q
  | .cka p e _ _ a => p.ok && e.onGrid a
  | .chk p _ _ _ _ => p.ok
  | .ld p sz sc d m => p.ok && m.gl && ordScope true false m sc && sz.destOk d
  | .st p sz sc d m => p.ok && sz.store && m.gl && ordScope false true m sc && sz.destOk d
  | .ldx p e sz sc d m => p.ok && m.pattern && ordScope true false m sc && sz.burst e d
  | .stx p e sz sc d m => p.ok && m.pattern && ordScope false true m sc && sz.burst e d
  | .prf p m => p.ok && m.gl && m.ord == 0
  | .invl p m => p.ok && m.gl && m.ord == 0
  | .lds p sz sc d m => p.ok && m.spad && ordScope true false m sc && sc.toGang && sz.destOk d
  | .sts p sz sc d m => p.ok && sz.store && m.spad && ordScope false true m sc && sc.toGang && sz.destOk d
  | .winmap p _ a b => p.ok && even a && even b
  | .winfl p _ => p.ok
  | .windrop p _ => p.ok
  | .atom p o sc d m => p.ok && o.atomOk && m.gl && ordScope true true m sc && o.destOk d
  | .red p o sc d m => p.ok && o.redOk && m.gl && ordScope false true m sc && o.destOk d
  | .atoms p o sc d m => p.ok && o.atomOk && m.spad && ordScope true true m sc && sc.toGang && o.destOk d
  | .upd p o rnd d m => p.ok && o.isTag && m.gl && m.ord == 0 && (rnd == 0 || o == .fadd32) && o.destOk d
  | .fence p _ _ sc => p.ok && sc != .none
  | .seal p a _ => p.ok && even a
  | .unseal p a => p.ok && even a
  | .waitcnt p _ n => p.ok && n.toNat ≤ 4096
  | .waitcmp p cc sc _ m => p.ok && cc.ok && m.gl && m.ord == 0 && sc != .none
  | .waitw p sc m => p.ok && m.gl && m.ord == 0 && sc != .none
  | .pjoin p n => p.ok && penOk n
  | .pleave p n => p.ok && penOk n
  | .pexpect p n b => p.ok && penOk n && immIn 1 65535 b
  | .parrive p n => p.ok && penOk n
  | .pwait p n => p.ok && penOk n
  | .psync p n => p.ok && penOk n
  | .racq p _ _ => p.ok
  | .rpub p _ b => p.ok && immIn 0 15 b
  | .rtake p _ _ => p.ok
  | .rfree p _ b => p.ok && immIn 0 15 b
  | .tsig p _ _ => p.ok
  | .cpy p a => p.ok && mult 8 a
  | .cpyg p a => p.ok && mult 8 a
  | .cpys p a => p.ok && mult 8 a
  | .cpyr p a => p.ok && mult 8 a
  | .cpyb p _ a => p.ok && mult 8 a
  | .cpyf p a => p.ok && mult 8 a
  | .cpyq p a => p.ok && mult 8 a
  | .scbind p _ a => p.ok && even a
  | .scdrop p _ => p.ok
  | .kset p fm _ _ _ => p.ok && fm.kiln
  | .krel p _ => p.ok
  | .mzero p _ => p.ok
  | .mma p e _ rnd _ _ a _ _ => p.ok && rnd != 7#3 && e.onGrid a
  | .mmasp p e _ rnd _ _ a _ _ => p.ok && rnd != 7#3 && e.onGrid a
  | .mdrain p _ _ _ _ sp _ _ m => p.ok && m.tile sp
  | .mload p _ _ sp m => p.ok && m.tile sp
  | .itset p a => p.ok && mult 8 a
  | .itnext p _ => p.ok
  | .itdone p _ => p.ok
  | .itend p => p.ok
  | .resq p d m => p.ok && predOk d && m.gl && m.ord == 0
  | .spawn p a b => p.ok && a.toNat % 64 ≤ 56 && immIn 0 131071 b
  | .spq p => p.ok
  | .sealsave p g a b => p.ok && g.toNat ≤ 254 && even a && mult 4 b
  | .sealload p g a b => p.ok && g.toNat ≤ 254 && even a && mult 4 b
  | .ptew p a b => p.ok && even a && even b
  | .poolget p d => p.ok && even d
  | .fltinfo p d => p.ok && mult 4 d
  | .issueSelect _ _ => true
  | .fragmentOverdue _ _ => true
  | .sleepExpiry _ _ => true
  | .pennantWaitRelease _ _ => true
  | .brokenPennant _ => true
  | .ringWaitResume _ _ => true
  | .ringPublishDeferred _ _ => true
  | .fullLineStallEnd _ _ => true
  | .windowLineFill _ _ => true
  | .waitcntReturn _ _ => true
  | .monitorWake _ _ => true
  | .monitorReread _ _ => true
  | .spawnRoom _ _ => true
  | .spqQueueEmpty _ _ => true
  | .unsealCountZero _ _ => true
  | .packingTimeout _ _ _ => true
  | .packedGroupStart _ _ _ => true
  | .copyRowLands _ => true
  | .copyComplete _ => true
  | .peerBagPooling _ _ => true
  | .scaleCacheFill _ _ => true
  | .octetPassComplete _ => true
  | .ksetComplete _ => true
  | .mdrainComplete _ => true
  | .mloadComplete _ => true
  | .walkerMapWriteDone _ => true
  | .prefetchLands _ => true
  | .tableWalk _ _ _ => true
  | .firmwarePoolFill _ _ => true
  | .read _ _ _ => true
  | .own _ _ _ => true
  | .update _ _ _ => true
  | .writeback _ _ => true
  | .flush _ _ => true
  | .grant _ _ => true
  | .probe _ _ => true
  | .answer _ _ => true
  | .gone _ _ => true
  | .burstCommand _ _ => true
  | .burstComplete _ _ => true
  | .deviceBeatTimeout _ _ => true
  | .abortCompletion _ _ _ => true
  | .probeTimeout _ _ => true
  | .coreLossBroadcast _ _ => true
  | .dispatcherPass => true
  | .yieldTrap _ => true
  | .gangStateSave _ => true
  | .yieldBudgetExpiry _ => true
  | .coreMapChange => true
  | .powerWindow _ _ => true
  | .thermalTrip _ => true
  | .thermalTripEnd _ => true
  | .cqdoor _ _ _ => true
  | .queueRegister _ _ _ => true
  | .queueUnregister _ _ _ => true
  | .queueErrorClear _ _ => true
  | .cchead _ _ _ => true
  | .fqhead _ _ => true
  | .fqOverflowClear _ => true
  | .registerWrite _ _ _ => true
  | .commandStart _ _ => true
  | .launch _ _ => true
  | .hostCopy _ _ => true
  | .map _ _ => true
  | .unmap _ _ => true
  | .poolGrant _ _ => true
  | .tokenSignal _ _ => true
  | .tokenWait _ _ => true
  | .contextCreate _ _ => true
  | .contextSave _ _ => true
  | .contextRestore _ _ => true
  | .launchAbort _ _ => true
  | .loadImage _ _ => true
  | .contextDestroy _ _ => true
  | .healthQuery _ _ => true
  | .scanTest _ _ => true
  | .scanDrainDone _ => true
  | .scanDrainTimeout _ => true
  | .scanRunDone _ _ => true
  | .scanTestAbort _ => true
  | .deconfigure _ _ => true
  | .attest _ _ => true
  | .reclaim _ _ => true
  | .nodeQuery _ _ => true
  | .halyardFlitReceive _ _ _ => true
  | .replayRequest _ _ => true
  | .stopGo _ _ => true
  | .linkRetrain _ _ => true
  | .linkDown _ => true
  | .halyardMessage _ _ _ => true
  | .deviceDrop _ => true
  | .launchAbortMessage _ => true
  | .hoistReady _ _ => true
  | .hoistGo _ => true
  | .launchEndReport _ _ _ => true
  | .healthRecordRead => true
  | .ageingMonitorRead => true
  | .errorLogRead => true
  | .warmReset => true
  | .coldReset => true
  | .ageingSample _ _ _ => true
  | .errorFilterEpoch => true
  | .healthRebuild => true
  | .horizonReached _ _ => true
  | .hostMemoryCompletion _ _ _ => true
  | .atomicAtHome _ => true
  | .powerOn _ => true

end Sys2Proof
end

