-- ==== Sys2Proof/Machine/Needs.lean ====
section
/-! DEFINITION. What each instruction word names: its guard and hint, whether it is uniform (R226), its class,
level, vector registers and predicates (R229 to R244, R246). -/

namespace Sys2Proof.Machine

/-- The vector registers of a block operand. -/
def vsBlock (e : Ext) : VS → List Nat
  | .v r => blockRegs e r.toNat
  | .s _ => []
def vsiBlock (e : Ext) : VSI → List Nat
  | .v r => blockRegs e r.toNat
  | _ => []
/-- `n` vector registers from an operand. -/
def runRegs (n : Nat) (r : VReg) : List Nat := (List.range n).map fun k => r.toNat + k
def vsRun (n : Nat) : VS → List Nat
  | .v r => runRegs n r
  | .s _ => []
def vsiOne : VSI → List Nat
  | .v r => [r.toNat]
  | _ => []
/-- The vector index of a memory operand. -/
def memIdx (m : MemOp) : List Nat := if m.indexed then [m.index.toNat] else []
/-- Registers an access of a size names. -/
def sizeRegs (sz : Size) : Nat := if sz == .b64 then 2 else 1
/-- Positions of a block. -/
def extSize (e : Ext) : Nat := e.rows * e.cols
def isScalar : VS → Bool
  | .s _ => true
  | .v _ => false
def isVector : VSI → Bool
  | .v _ => true
  | _ => false

/-- The fields every word shares (R217); none for a step that is no word. -/
def pre : Instr → Pre
  | .nop p _ => p
  | .br p _ => p
  | .brc p _ _ _ => p
  | .brd p _ _ => p
  | .brx p _ => p
  | .call p _ _ => p
  | .ret p _ => p
  | .loop p _ _ => p
  | .exit p => p
  | .sleep p _ => p
  | .trap p _ => p
  | .rtt p => p
  | .yielddSusp p => p
  | .yielddRet p => p
  | .bkpt p _ => p
  | .sadd p _ _ _ _ => p
  | .ssub p _ _ _ _ => p
  | .smul p _ _ _ => p
  | .smulh p _ _ _ _ => p
  | .sdiv p _ _ _ _ => p
  | .srem p _ _ _ _ => p
  | .sand p _ _ _ => p
  | .sor p _ _ _ => p
  | .sxor p _ _ _ => p
  | .sshl p _ _ _ _ => p
  | .sshr p _ _ _ _ => p
  | .ssar p _ _ _ _ => p
  | .smin p _ _ _ _ => p
  | .smax p _ _ _ _ => p
  | .scmp p _ _ _ _ => p
  | .smov p _ _ _ => p
  | .smovi p _ _ => p
  | .slea p _ _ _ _ => p
  | .ssel p _ _ _ => p
  | .pset p _ _ => p
  | .plop p _ _ _ _ => p
  | .pcnt p _ _ => p
  | .pfirst p _ _ => p
  | .pvote p _ _ _ => p
  | .rdsp p _ _ => p
  | .wrsp p _ _ => p
  | .setfmt p _ => p
  | .setrm p _ => p
  | .rdff p _ => p
  | .clrff p _ => p
  | .iadd p _ _ _ _ _ => p
  | .isub p _ _ _ _ _ => p
  | .imul p _ _ _ _ => p
  | .imulh p _ _ _ _ _ => p
  | .imad p _ _ _ _ => p
  | .idiv p _ _ _ _ _ => p
  | .irem p _ _ _ _ _ => p
  | .imin p _ _ _ _ _ => p
  | .imax p _ _ _ _ _ => p
  | .iabs p _ _ _ => p
  | .ineg p _ _ _ => p
  | .icmp p _ _ _ _ => p
  | .isel p _ _ _ _ _ => p
  | .imov p _ _ _ => p
  | .imovi p _ _ _ => p
  | .iand p _ _ _ _ => p
  | .ior p _ _ _ _ => p
  | .ixor p _ _ _ _ => p
  | .inot p _ _ _ => p
  | .ishl p _ _ _ _ => p
  | .ishr p _ _ _ _ => p
  | .isar p _ _ _ _ => p
  | .irot p _ _ _ _ => p
  | .bfx p _ _ _ _ _ => p
  | .bfi p _ _ _ _ => p
  | .popc p _ _ _ => p
  | .clz p _ _ _ => p
  | .fadd p _ _ _ _ _ => p
  | .fsub p _ _ _ _ _ => p
  | .fmul p _ _ _ _ _ => p
  | .ffma p _ _ _ _ _ => p
  | .fmin p _ _ _ _ => p
  | .fmax p _ _ _ _ => p
  | .fabs p _ _ _ => p
  | .fneg p _ _ _ => p
  | .fcmp p _ _ _ _ => p
  | .fclass p _ _ _ => p
  | .fdiv p _ _ _ _ _ => p
  | .fsqrt p _ _ _ _ => p
  | .frcp p _ _ _ _ => p
  | .frsq p _ _ _ _ => p
  | .fexp2 p _ _ _ _ => p
  | .flog2 p _ _ _ _ => p
  | .fsinpi p _ _ _ _ => p
  | .fcospi p _ _ _ _ => p
  | .fround p _ _ _ _ => p
  | .faddPacked p _ _ _ _ _ _ => p
  | .fsubPacked p _ _ _ _ _ _ => p
  | .fmulPacked p _ _ _ _ _ _ => p
  | .ffmaPacked p _ _ _ _ _ _ => p
  | .fminPacked p _ _ _ _ _ => p
  | .fmaxPacked p _ _ _ _ _ => p
  | .fabsPacked p _ _ _ _ => p
  | .fnegPacked p _ _ _ _ => p
  | .fcmpPacked p _ _ _ _ _ => p
  | .fclassPacked p _ _ _ _ => p
  | .fdivPacked p _ _ _ _ _ _ => p
  | .fsqrtPacked p _ _ _ _ _ => p
  | .frcpPacked p _ _ _ _ _ => p
  | .frsqPacked p _ _ _ _ _ => p
  | .fexp2Packed p _ _ _ _ _ => p
  | .flog2Packed p _ _ _ _ _ => p
  | .fsinpiPacked p _ _ _ _ _ => p
  | .fcospiPacked p _ _ _ _ _ => p
  | .froundPacked p _ _ _ _ _ => p
  | .cvt p _ _ _ _ _ _ _ => p
  | .qblk p _ _ _ _ _ => p
  | .dqblk p _ _ _ _ => p
  | .shfl p _ _ _ _ => p
  | .bcast p _ _ _ => p
  | .vred p _ _ _ _ => p
  | .vscan p _ _ _ _ _ => p
  | .vcompact p _ _ _ => p
  | .cka p _ _ _ _ => p
  | .chk p _ _ _ _ => p
  | .ld p _ _ _ _ => p
  | .st p _ _ _ _ => p
  | .ldx p _ _ _ _ _ => p
  | .stx p _ _ _ _ _ => p
  | .prf p _ => p
  | .invl p _ => p
  | .lds p _ _ _ _ => p
  | .sts p _ _ _ _ => p
  | .winmap p _ _ _ => p
  | .winfl p _ => p
  | .windrop p _ => p
  | .atom p _ _ _ _ => p
  | .red p _ _ _ _ => p
  | .atoms p _ _ _ _ => p
  | .upd p _ _ _ _ => p
  | .fence p _ _ _ => p
  | .seal p _ _ => p
  | .unseal p _ => p
  | .waitcnt p _ _ => p
  | .waitcmp p _ _ _ _ => p
  | .waitw p _ _ => p
  | .pjoin p _ => p
  | .pleave p _ => p
  | .pexpect p _ _ => p
  | .parrive p _ => p
  | .pwait p _ => p
  | .psync p _ => p
  | .racq p _ _ => p
  | .rpub p _ _ => p
  | .rtake p _ _ => p
  | .rfree p _ _ => p
  | .tsig p _ _ => p
  | .cpy p _ => p
  | .cpyg p _ => p
  | .cpys p _ => p
  | .cpyr p _ => p
  | .cpyb p _ _ => p
  | .cpyf p _ => p
  | .cpyq p _ => p
  | .scbind p _ _ => p
  | .scdrop p _ => p
  | .kset p _ _ _ _ => p
  | .krel p _ => p
  | .mzero p _ => p
  | .mma p _ _ _ _ _ _ _ _ => p
  | .mmasp p _ _ _ _ _ _ _ _ => p
  | .mdrain p _ _ _ _ _ _ _ _ => p
  | .mload p _ _ _ _ => p
  | .itset p _ => p
  | .itnext p _ => p
  | .itdone p _ => p
  | .itend p => p
  | .resq p _ _ => p
  | .spawn p _ _ => p
  | .spq p => p
  | .sealsave p _ _ _ => p
  | .sealload p _ _ _ => p
  | .ptew p _ _ => p
  | .poolget p _ => p
  | .fltinfo p _ => p
  | .issueSelect _ _ => ⟨false, 63#6, 0#2⟩
  | .fragmentOverdue _ _ => ⟨false, 63#6, 0#2⟩
  | .sleepExpiry _ _ => ⟨false, 63#6, 0#2⟩
  | .pennantWaitRelease _ _ => ⟨false, 63#6, 0#2⟩
  | .brokenPennant _ => ⟨false, 63#6, 0#2⟩
  | .ringWaitResume _ _ => ⟨false, 63#6, 0#2⟩
  | .ringPublishDeferred _ _ => ⟨false, 63#6, 0#2⟩
  | .fullLineStallEnd _ _ => ⟨false, 63#6, 0#2⟩
  | .windowLineFill _ _ => ⟨false, 63#6, 0#2⟩
  | .waitcntReturn _ _ => ⟨false, 63#6, 0#2⟩
  | .monitorWake _ _ => ⟨false, 63#6, 0#2⟩
  | .monitorReread _ _ => ⟨false, 63#6, 0#2⟩
  | .spawnRoom _ _ => ⟨false, 63#6, 0#2⟩
  | .spqQueueEmpty _ _ => ⟨false, 63#6, 0#2⟩
  | .unsealCountZero _ _ => ⟨false, 63#6, 0#2⟩
  | .packingTimeout _ _ _ => ⟨false, 63#6, 0#2⟩
  | .packedGroupStart _ _ _ => ⟨false, 63#6, 0#2⟩
  | .copyRowLands _ => ⟨false, 63#6, 0#2⟩
  | .copyComplete _ => ⟨false, 63#6, 0#2⟩
  | .peerBagPooling _ _ => ⟨false, 63#6, 0#2⟩
  | .scaleCacheFill _ _ => ⟨false, 63#6, 0#2⟩
  | .octetPassComplete _ => ⟨false, 63#6, 0#2⟩
  | .ksetComplete _ => ⟨false, 63#6, 0#2⟩
  | .mdrainComplete _ => ⟨false, 63#6, 0#2⟩
  | .mloadComplete _ => ⟨false, 63#6, 0#2⟩
  | .walkerMapWriteDone _ => ⟨false, 63#6, 0#2⟩
  | .prefetchLands _ => ⟨false, 63#6, 0#2⟩
  | .tableWalk _ _ _ => ⟨false, 63#6, 0#2⟩
  | .firmwarePoolFill _ _ => ⟨false, 63#6, 0#2⟩
  | .read _ _ _ => ⟨false, 63#6, 0#2⟩
  | .own _ _ _ => ⟨false, 63#6, 0#2⟩
  | .update _ _ _ => ⟨false, 63#6, 0#2⟩
  | .writeback _ _ => ⟨false, 63#6, 0#2⟩
  | .flush _ _ => ⟨false, 63#6, 0#2⟩
  | .grant _ _ => ⟨false, 63#6, 0#2⟩
  | .probe _ _ => ⟨false, 63#6, 0#2⟩
  | .answer _ _ => ⟨false, 63#6, 0#2⟩
  | .gone _ _ => ⟨false, 63#6, 0#2⟩
  | .burstCommand _ _ => ⟨false, 63#6, 0#2⟩
  | .burstComplete _ _ => ⟨false, 63#6, 0#2⟩
  | .deviceBeatTimeout _ _ => ⟨false, 63#6, 0#2⟩
  | .abortCompletion _ _ _ => ⟨false, 63#6, 0#2⟩
  | .probeTimeout _ _ => ⟨false, 63#6, 0#2⟩
  | .coreLossBroadcast _ _ => ⟨false, 63#6, 0#2⟩
  | .dispatcherPass => ⟨false, 63#6, 0#2⟩
  | .yieldTrap _ => ⟨false, 63#6, 0#2⟩
  | .gangStateSave _ => ⟨false, 63#6, 0#2⟩
  | .yieldBudgetExpiry _ => ⟨false, 63#6, 0#2⟩
  | .coreMapChange => ⟨false, 63#6, 0#2⟩
  | .powerWindow _ _ => ⟨false, 63#6, 0#2⟩
  | .thermalTrip _ => ⟨false, 63#6, 0#2⟩
  | .thermalTripEnd _ => ⟨false, 63#6, 0#2⟩
  | .cqdoor _ _ _ => ⟨false, 63#6, 0#2⟩
  | .queueRegister _ _ _ => ⟨false, 63#6, 0#2⟩
  | .queueUnregister _ _ _ => ⟨false, 63#6, 0#2⟩
  | .queueErrorClear _ _ => ⟨false, 63#6, 0#2⟩
  | .cchead _ _ _ => ⟨false, 63#6, 0#2⟩
  | .fqhead _ _ => ⟨false, 63#6, 0#2⟩
  | .fqOverflowClear _ => ⟨false, 63#6, 0#2⟩
  | .registerWrite _ _ _ => ⟨false, 63#6, 0#2⟩
  | .commandStart _ _ => ⟨false, 63#6, 0#2⟩
  | .launch _ _ => ⟨false, 63#6, 0#2⟩
  | .hostCopy _ _ => ⟨false, 63#6, 0#2⟩
  | .map _ _ => ⟨false, 63#6, 0#2⟩
  | .unmap _ _ => ⟨false, 63#6, 0#2⟩
  | .poolGrant _ _ => ⟨false, 63#6, 0#2⟩
  | .tokenSignal _ _ => ⟨false, 63#6, 0#2⟩
  | .tokenWait _ _ => ⟨false, 63#6, 0#2⟩
  | .contextCreate _ _ => ⟨false, 63#6, 0#2⟩
  | .contextSave _ _ => ⟨false, 63#6, 0#2⟩
  | .contextRestore _ _ => ⟨false, 63#6, 0#2⟩
  | .launchAbort _ _ => ⟨false, 63#6, 0#2⟩
  | .loadImage _ _ => ⟨false, 63#6, 0#2⟩
  | .contextDestroy _ _ => ⟨false, 63#6, 0#2⟩
  | .healthQuery _ _ => ⟨false, 63#6, 0#2⟩
  | .scanTest _ _ => ⟨false, 63#6, 0#2⟩
  | .scanDrainDone _ => ⟨false, 63#6, 0#2⟩
  | .scanDrainTimeout _ => ⟨false, 63#6, 0#2⟩
  | .scanRunDone _ _ => ⟨false, 63#6, 0#2⟩
  | .scanTestAbort _ => ⟨false, 63#6, 0#2⟩
  | .deconfigure _ _ => ⟨false, 63#6, 0#2⟩
  | .attest _ _ => ⟨false, 63#6, 0#2⟩
  | .reclaim _ _ => ⟨false, 63#6, 0#2⟩
  | .nodeQuery _ _ => ⟨false, 63#6, 0#2⟩
  | .halyardFlitReceive _ _ _ => ⟨false, 63#6, 0#2⟩
  | .replayRequest _ _ => ⟨false, 63#6, 0#2⟩
  | .stopGo _ _ => ⟨false, 63#6, 0#2⟩
  | .linkRetrain _ _ => ⟨false, 63#6, 0#2⟩
  | .linkDown _ => ⟨false, 63#6, 0#2⟩
  | .halyardMessage _ _ _ => ⟨false, 63#6, 0#2⟩
  | .deviceDrop _ => ⟨false, 63#6, 0#2⟩
  | .launchAbortMessage _ => ⟨false, 63#6, 0#2⟩
  | .hoistReady _ _ => ⟨false, 63#6, 0#2⟩
  | .hoistGo _ => ⟨false, 63#6, 0#2⟩
  | .launchEndReport _ _ _ => ⟨false, 63#6, 0#2⟩
  | .healthRecordRead => ⟨false, 63#6, 0#2⟩
  | .ageingMonitorRead => ⟨false, 63#6, 0#2⟩
  | .errorLogRead => ⟨false, 63#6, 0#2⟩
  | .warmReset => ⟨false, 63#6, 0#2⟩
  | .coldReset => ⟨false, 63#6, 0#2⟩
  | .ageingSample _ _ _ => ⟨false, 63#6, 0#2⟩
  | .errorFilterEpoch => ⟨false, 63#6, 0#2⟩
  | .healthRebuild => ⟨false, 63#6, 0#2⟩
  | .horizonReached _ _ => ⟨false, 63#6, 0#2⟩
  | .hostMemoryCompletion _ _ _ => ⟨false, 63#6, 0#2⟩
  | .atomicAtHome _ => ⟨false, 63#6, 0#2⟩
  | .powerOn _ => ⟨false, 63#6, 0#2⟩

/-- Whether a word issues on the scalar unit: bit 78 (R226). -/
def uniform : Instr → Bool
  | .nop _ uni => uni
  | .br _ _ => true
  | .brc _ _ _ _ => true
  | .brd _ _ _ => false
  | .brx _ _ => true
  | .call _ _ _ => true
  | .ret _ _ => true
  | .loop _ _ _ => true
  | .exit _ => false
  | .sleep _ _ => true
  | .trap _ _ => true
  | .rtt _ => true
  | .yielddSusp _ => true
  | .yielddRet _ => true
  | .bkpt _ _ => true
  | .sadd _ _ _ _ _ => true
  | .ssub _ _ _ _ _ => true
  | .smul _ _ _ _ => true
  | .smulh _ _ _ _ _ => true
  | .sdiv _ _ _ _ _ => true
  | .srem _ _ _ _ _ => true
  | .sand _ _ _ _ => true
  | .sor _ _ _ _ => true
  | .sxor _ _ _ _ => true
  | .sshl _ _ _ _ _ => true
  | .sshr _ _ _ _ _ => true
  | .ssar _ _ _ _ _ => true
  | .smin _ _ _ _ _ => true
  | .smax _ _ _ _ _ => true
  | .scmp _ _ _ _ _ => true
  | .smov _ _ _ _ => true
  | .smovi _ _ _ => true
  | .slea _ _ _ _ _ => true
  | .ssel _ _ _ _ => true
  | .pset _ _ _ => false
  | .plop _ _ _ _ _ => false
  | .pcnt _ _ _ => true
  | .pfirst _ _ _ => true
  | .pvote _ _ _ _ => false
  | .rdsp _ d _ => isScalar d
  | .wrsp _ sr _ => sr == 8#6 || sr == 9#6
  | .setfmt _ _ => true
  | .setrm _ _ => true
  | .rdff _ d => isScalar d
  | .clrff _ _ => false
  | .iadd _ _ _ _ _ _ => false
  | .isub _ _ _ _ _ _ => false
  | .imul _ _ _ _ _ => false
  | .imulh _ _ _ _ _ _ => false
  | .imad _ _ _ _ _ => false
  | .idiv _ _ _ _ _ _ => false
  | .irem _ _ _ _ _ _ => false
  | .imin _ _ _ _ _ _ => false
  | .imax _ _ _ _ _ _ => false
  | .iabs _ _ _ _ => false
  | .ineg _ _ _ _ => false
  | .icmp _ _ _ _ _ => false
  | .isel _ _ _ _ _ _ => false
  | .imov _ _ _ _ => false
  | .imovi _ _ _ _ => false
  | .iand _ _ _ _ _ => false
  | .ior _ _ _ _ _ => false
  | .ixor _ _ _ _ _ => false
  | .inot _ _ _ _ => false
  | .ishl _ _ _ _ _ => false
  | .ishr _ _ _ _ _ => false
  | .isar _ _ _ _ _ => false
  | .irot _ _ _ _ _ => false
  | .bfx _ _ _ _ _ _ => false
  | .bfi _ _ _ _ _ => false
  | .popc _ _ _ _ => false
  | .clz _ _ _ _ => false
  | .fadd _ _ _ _ _ _ => false
  | .fsub _ _ _ _ _ _ => false
  | .fmul _ _ _ _ _ _ => false
  | .ffma _ _ _ _ _ _ => false
  | .fmin _ _ _ _ _ => false
  | .fmax _ _ _ _ _ => false
  | .fabs _ _ _ _ => false
  | .fneg _ _ _ _ => false
  | .fcmp _ _ _ _ _ => false
  | .fclass _ _ _ _ => false
  | .fdiv _ _ _ _ _ _ => false
  | .fsqrt _ _ _ _ _ => false
  | .frcp _ _ _ _ _ => false
  | .frsq _ _ _ _ _ => false
  | .fexp2 _ _ _ _ _ => false
  | .flog2 _ _ _ _ _ => false
  | .fsinpi _ _ _ _ _ => false
  | .fcospi _ _ _ _ _ => false
  | .fround _ _ _ _ _ => false
  | .faddPacked _ _ _ _ _ _ _ => false
  | .fsubPacked _ _ _ _ _ _ _ => false
  | .fmulPacked _ _ _ _ _ _ _ => false
  | .ffmaPacked _ _ _ _ _ _ _ => false
  | .fminPacked _ _ _ _ _ _ => false
  | .fmaxPacked _ _ _ _ _ _ => false
  | .fabsPacked _ _ _ _ _ => false
  | .fnegPacked _ _ _ _ _ => false
  | .fcmpPacked _ _ _ _ _ _ => false
  | .fclassPacked _ _ _ _ _ => false
  | .fdivPacked _ _ _ _ _ _ _ => false
  | .fsqrtPacked _ _ _ _ _ _ => false
  | .frcpPacked _ _ _ _ _ _ => false
  | .frsqPacked _ _ _ _ _ _ => false
  | .fexp2Packed _ _ _ _ _ _ => false
  | .flog2Packed _ _ _ _ _ _ => false
  | .fsinpiPacked _ _ _ _ _ _ => false
  | .fcospiPacked _ _ _ _ _ _ => false
  | .froundPacked _ _ _ _ _ _ => false
  | .cvt _ _ _ _ _ _ _ _ => false
  | .qblk _ _ _ _ _ _ => false
  | .dqblk _ _ _ _ _ => false
  | .shfl _ _ _ _ _ => false
  | .bcast _ _ _ _ => false
  | .vred _ _ _ d _ => isScalar d
  | .vscan _ _ _ _ _ _ => false
  | .vcompact _ _ _ _ => false
  | .cka _ _ _ d _ => isScalar d
  | .chk _ _ d _ _ => isScalar d
  | .ld _ _ _ d _ => isScalar d
  | .st _ _ _ d _ => isScalar d
  | .ldx _ _ _ _ _ _ => false
  | .stx _ _ _ _ _ _ => false
  | .prf _ _ => false
  | .invl _ _ => false
  | .lds _ _ _ d _ => isScalar d
  | .sts _ _ _ d _ => isScalar d
  | .winmap _ _ _ _ => true
  | .winfl _ _ => true
  | .windrop _ _ => true
  | .atom _ _ _ d _ => isScalar d
  | .red _ _ _ d _ => isScalar d
  | .atoms _ _ _ d _ => isScalar d
  | .upd _ _ _ d _ => isScalar d
  | .fence _ uni _ _ => uni
  | .seal _ _ _ => true
  | .unseal _ _ => true
  | .waitcnt _ _ _ => true
  | .waitcmp _ _ _ _ _ => false
  | .waitw _ _ _ => false
  | .pjoin _ _ => true
  | .pleave _ _ => true
  | .pexpect _ _ _ => true
  | .parrive _ _ => true
  | .pwait _ _ => true
  | .psync _ _ => true
  | .racq _ _ _ => true
  | .rpub _ _ _ => true
  | .rtake _ _ _ => true
  | .rfree _ _ _ => true
  | .tsig _ _ _ => true
  | .cpy _ _ => true
  | .cpyg _ _ => true
  | .cpys _ _ => true
  | .cpyr _ _ => true
  | .cpyb _ _ _ => true
  | .cpyf _ _ => true
  | .cpyq _ _ => true
  | .scbind _ _ _ => true
  | .scdrop _ _ => true
  | .kset _ _ _ _ _ => true
  | .krel _ _ => true
  | .mzero _ _ => true
  | .mma _ _ _ _ _ _ _ _ _ => false
  | .mmasp _ _ _ _ _ _ _ _ _ => false
  | .mdrain _ _ _ _ _ _ _ _ _ => true
  | .mload _ _ _ _ _ => true
  | .itset _ _ => true
  | .itnext _ _ => false
  | .itdone _ _ => false
  | .itend _ => true
  | .resq _ _ _ => false
  | .spawn _ _ _ => false
  | .spq _ => true
  | .sealsave _ _ _ _ => true
  | .sealload _ _ _ _ => true
  | .ptew _ _ _ => true
  | .poolget _ _ => true
  | .fltinfo _ _ => true
  | .issueSelect _ _ => true
  | .fragmentOverdue _ _ => true
  | .sleepExpiry _ _ => true
  | .pennantWaitRelease _ _ => true
  | .brokenPennant _ => true
  | .ringWaitResume _ _ => true
  | .ringPublishDeferred _ _ => true
  | .fullLineStallEnd _ _ => true
  | .windowLineFill _ _ => true
  | .waitcntReturn _ _ => true
  | .monitorWake _ _ => true
  | .monitorReread _ _ => true
  | .spawnRoom _ _ => true
  | .spqQueueEmpty _ _ => true
  | .unsealCountZero _ _ => true
  | .packingTimeout _ _ _ => true
  | .packedGroupStart _ _ _ => true
  | .copyRowLands _ => true
  | .copyComplete _ => true
  | .peerBagPooling _ _ => true
  | .scaleCacheFill _ _ => true
  | .octetPassComplete _ => true
  | .ksetComplete _ => true
  | .mdrainComplete _ => true
  | .mloadComplete _ => true
  | .walkerMapWriteDone _ => true
  | .prefetchLands _ => true
  | .tableWalk _ _ _ => true
  | .firmwarePoolFill _ _ => true
  | .read _ _ _ => true
  | .own _ _ _ => true
  | .update _ _ _ => true
  | .writeback _ _ => true
  | .flush _ _ => true
  | .grant _ _ => true
  | .probe _ _ => true
  | .answer _ _ => true
  | .gone _ _ => true
  | .burstCommand _ _ => true
  | .burstComplete _ _ => true
  | .deviceBeatTimeout _ _ => true
  | .abortCompletion _ _ _ => true
  | .probeTimeout _ _ => true
  | .coreLossBroadcast _ _ => true
  | .dispatcherPass => true
  | .yieldTrap _ => true
  | .gangStateSave _ => true
  | .yieldBudgetExpiry _ => true
  | .coreMapChange => true
  | .powerWindow _ _ => true
  | .thermalTrip _ => true
  | .thermalTripEnd _ => true
  | .cqdoor _ _ _ => true
  | .queueRegister _ _ _ => true
  | .queueUnregister _ _ _ => true
  | .queueErrorClear _ _ => true
  | .cchead _ _ _ => true
  | .fqhead _ _ => true
  | .fqOverflowClear _ => true
  | .registerWrite _ _ _ => true
  | .commandStart _ _ => true
  | .launch _ _ => true
  | .hostCopy _ _ => true
  | .map _ _ => true
  | .unmap _ _ => true
  | .poolGrant _ _ => true
  | .tokenSignal _ _ => true
  | .tokenWait _ _ => true
  | .contextCreate _ _ => true
  | .contextSave _ _ => true
  | .contextRestore _ _ => true
  | .launchAbort _ _ => true
  | .loadImage _ _ => true
  | .contextDestroy _ _ => true
  | .healthQuery _ _ => true
  | .scanTest _ _ => true
  | .scanDrainDone _ => true
  | .scanDrainTimeout _ => true
  | .scanRunDone _ _ => true
  | .scanTestAbort _ => true
  | .deconfigure _ _ => true
  | .attest _ _ => true
  | .reclaim _ _ => true
  | .nodeQuery _ _ => true
  | .halyardFlitReceive _ _ _ => true
  | .replayRequest _ _ => true
  | .stopGo _ _ => true
  | .linkRetrain _ _ => true
  | .linkDown _ => true
  | .halyardMessage _ _ _ => true
  | .deviceDrop _ => true
  | .launchAbortMessage _ => true
  | .hoistReady _ _ => true
  | .hoistGo _ => true
  | .launchEndReport _ _ _ => true
  | .healthRecordRead => true
  | .ageingMonitorRead => true
  | .errorLogRead => true
  | .warmReset => true
  | .coldReset => true
  | .ageingSample _ _ _ => true
  | .errorFilterEpoch => true
  | .healthRebuild => true
  | .horizonReached _ _ => true
  | .hostMemoryCompletion _ _ _ => true
  | .atomicAtHome _ => true
  | .powerOn _ => true

/-- What the decode checks of R246 need of a word. -/
def need : Instr → Need
  | .nop _ _ => ⟨0, false, [], [], 1, []⟩
  | .br _ _ => ⟨0, false, [], [], 1, []⟩
  | .brc _ _ _ _ => ⟨0, false, [], [], 1, []⟩
  | .brd _ _ _ => ⟨0, false, [], [], 1, []⟩
  | .brx _ _ => ⟨0, false, [], [], 1, []⟩
  | .call _ _ _ => ⟨0, false, [], [], 1, []⟩
  | .ret _ _ => ⟨0, false, [], [], 1, []⟩
  | .loop _ _ _ => ⟨0, false, [], [], 1, []⟩
  | .exit _ => ⟨0, false, [], [], 1, []⟩
  | .sleep _ _ => ⟨0, false, [], [], 1, []⟩
  | .trap _ _ => ⟨0, false, [], [], 1, []⟩
  | .rtt _ => ⟨0, true, [], [], 1, []⟩
  | .yielddSusp _ => ⟨0, false, [], [], 1, []⟩
  | .yielddRet _ => ⟨0, false, [], [], 1, []⟩
  | .bkpt _ _ => ⟨0, false, [], [], 1, []⟩
  | .sadd _ _ _ _ _ => ⟨1, false, [], [], 1, []⟩
  | .ssub _ _ _ _ _ => ⟨1, false, [], [], 1, []⟩
  | .smul _ _ _ _ => ⟨1, false, [], [], 1, []⟩
  | .smulh _ _ _ _ _ => ⟨1, false, [], [], 1, []⟩
  | .sdiv _ _ _ _ _ => ⟨1, false, [], [], 1, []⟩
  | .srem _ _ _ _ _ => ⟨1, false, [], [], 1, []⟩
  | .sand _ _ _ _ => ⟨1, false, [], [], 1, []⟩
  | .sor _ _ _ _ => ⟨1, false, [], [], 1, []⟩
  | .sxor _ _ _ _ => ⟨1, false, [], [], 1, []⟩
  | .sshl _ _ _ _ _ => ⟨1, false, [], [], 1, []⟩
  | .sshr _ _ _ _ _ => ⟨1, false, [], [], 1, []⟩
  | .ssar _ _ _ _ _ => ⟨1, false, [], [], 1, []⟩
  | .smin _ _ _ _ _ => ⟨1, false, [], [], 1, []⟩
  | .smax _ _ _ _ _ => ⟨1, false, [], [], 1, []⟩
  | .scmp _ _ _ _ _ => ⟨1, false, [], [], 1, []⟩
  | .smov _ _ _ _ => ⟨1, false, [], [], 1, []⟩
  | .smovi _ _ _ => ⟨1, false, [], [], 1, []⟩
  | .slea _ _ _ _ _ => ⟨1, false, [], [], 1, []⟩
  | .ssel _ _ _ _ => ⟨1, false, [], [], 1, []⟩
  | .pset _ d a => ⟨2, false, vsiOne a, [d.toNat], 1, []⟩
  | .plop _ _ d a b => ⟨2, false, [], [d.toNat, a.toNat, b.toNat], 1, []⟩
  | .pcnt _ _ a => ⟨2, false, [], [a.toNat], 1, []⟩
  | .pfirst _ _ a => ⟨2, false, [], [a.toNat], 1, []⟩
  | .pvote _ _ d a => ⟨2, false, [], [d.toNat, a.toNat], 1, []⟩
  | .rdsp _ d sr => ⟨2, false, vsRun (if sr64 sr then 2 else 1) d, [], 1, vsRun (if sr64 sr then 2 else 1) d⟩
  | .wrsp _ _ a => ⟨2, false, vsiOne a, [], 1, []⟩
  | .setfmt _ _ => ⟨2, false, [], [], 1, []⟩
  | .setrm _ _ => ⟨2, false, [], [], 1, []⟩
  | .rdff _ d => ⟨2, false, vsRun 1 d, [], 1, vsRun 1 d⟩
  | .clrff _ _ => ⟨2, false, [], [], 1, []⟩
  | .iadd _ e _ d a b => ⟨3, false, blockRegs e d.toNat ++ vsBlock e a ++ vsiBlock e b, [], extSize e, blockRegs e d.toNat⟩
  | .isub _ e _ d a b => ⟨3, false, blockRegs e d.toNat ++ vsBlock e a ++ vsiBlock e b, [], extSize e, blockRegs e d.toNat⟩
  | .imul _ e d a b => ⟨3, false, blockRegs e d.toNat ++ vsBlock e a ++ vsiBlock e b, [], extSize e, blockRegs e d.toNat⟩
  | .imulh _ e _ d a b => ⟨3, false, blockRegs e d.toNat ++ vsBlock e a ++ vsiBlock e b, [], extSize e, blockRegs e d.toNat⟩
  | .imad _ e d a b => ⟨3, false, blockRegs e d.toNat ++ vsBlock e a ++ vsiBlock e b, [], extSize e, []⟩
  | .idiv _ e _ d a b => ⟨3, false, blockRegs e d.toNat ++ vsBlock e a ++ vsiBlock e b, [], extSize e, blockRegs e d.toNat⟩
  | .irem _ e _ d a b => ⟨3, false, blockRegs e d.toNat ++ vsBlock e a ++ vsiBlock e b, [], extSize e, blockRegs e d.toNat⟩
  | .imin _ e _ d a b => ⟨3, false, blockRegs e d.toNat ++ vsBlock e a ++ vsiBlock e b, [], extSize e, blockRegs e d.toNat⟩
  | .imax _ e _ d a b => ⟨3, false, blockRegs e d.toNat ++ vsBlock e a ++ vsiBlock e b, [], extSize e, blockRegs e d.toNat⟩
  | .iabs _ e d a => ⟨3, false, blockRegs e d.toNat ++ vsBlock e a, [], extSize e, blockRegs e d.toNat⟩
  | .ineg _ e d a => ⟨3, false, blockRegs e d.toNat ++ vsBlock e a, [], extSize e, blockRegs e d.toNat⟩
  | .icmp _ _ d a b => ⟨3, false, vsRun 1 a ++ vsiOne b, [d.toNat], 1, []⟩
  | .isel _ e q d a b => ⟨3, false, blockRegs e d.toNat ++ vsiBlock e a ++ vsiBlock e b, [q.toNat], extSize e, blockRegs e d.toNat⟩
  | .imov _ e d a => ⟨3, false, blockRegs e d.toNat ++ vsiBlock e a, [], extSize e, blockRegs e d.toNat⟩
  | .imovi _ e d _ => ⟨3, false, blockRegs e d.toNat, [], extSize e, blockRegs e d.toNat⟩
  | .iand _ e d a b => ⟨4, false, blockRegs e d.toNat ++ vsBlock e a ++ vsiBlock e b, [], extSize e, blockRegs e d.toNat⟩
  | .ior _ e d a b => ⟨4, false, blockRegs e d.toNat ++ vsBlock e a ++ vsiBlock e b, [], extSize e, blockRegs e d.toNat⟩
  | .ixor _ e d a b => ⟨4, false, blockRegs e d.toNat ++ vsBlock e a ++ vsiBlock e b, [], extSize e, blockRegs e d.toNat⟩
  | .inot _ e d a => ⟨4, false, blockRegs e d.toNat ++ vsBlock e a, [], extSize e, blockRegs e d.toNat⟩
  | .ishl _ e d a b => ⟨4, false, blockRegs e d.toNat ++ vsBlock e a ++ vsiBlock e b, [], extSize e, blockRegs e d.toNat⟩
  | .ishr _ e d a b => ⟨4, false, blockRegs e d.toNat ++ vsBlock e a ++ vsiBlock e b, [], extSize e, blockRegs e d.toNat⟩
  | .isar _ e d a b => ⟨4, false, blockRegs e d.toNat ++ vsBlock e a ++ vsiBlock e b, [], extSize e, blockRegs e d.toNat⟩
  | .irot _ e d a b => ⟨4, false, blockRegs e d.toNat ++ vsBlock e a ++ vsiBlock e b, [], extSize e, blockRegs e d.toNat⟩
  | .bfx _ e _ d a b => ⟨4, false, blockRegs e d.toNat ++ vsBlock e a ++ vsiBlock e b, [], extSize e, blockRegs e d.toNat⟩
  | .bfi _ e d a b => ⟨4, false, blockRegs e d.toNat ++ vsBlock e a ++ vsiBlock e b, [], extSize e, []⟩
  | .popc _ e d a => ⟨4, false, blockRegs e d.toNat ++ vsBlock e a, [], extSize e, blockRegs e d.toNat⟩
  | .clz _ e d a => ⟨4, false, blockRegs e d.toNat ++ vsBlock e a, [], extSize e, blockRegs e d.toNat⟩
  | .fadd _ e _ d a b => ⟨5, false, blockRegs e d.toNat ++ vsBlock e a ++ vsBlock e b, [], extSize e, blockRegs e d.toNat⟩
  | .fsub _ e _ d a b => ⟨5, false, blockRegs e d.toNat ++ vsBlock e a ++ vsBlock e b, [], extSize e, blockRegs e d.toNat⟩
  | .fmul _ e _ d a b => ⟨5, false, blockRegs e d.toNat ++ vsBlock e a ++ vsBlock e b, [], extSize e, blockRegs e d.toNat⟩
  | .ffma _ e _ d a b => ⟨5, false, blockRegs e d.toNat ++ vsBlock e a ++ vsBlock e b, [], extSize e, []⟩
  | .fmin _ e d a b => ⟨5, false, blockRegs e d.toNat ++ vsBlock e a ++ vsBlock e b, [], extSize e, blockRegs e d.toNat⟩
  | .fmax _ e d a b => ⟨5, false, blockRegs e d.toNat ++ vsBlock e a ++ vsBlock e b, [], extSize e, blockRegs e d.toNat⟩
  | .fabs _ e d a => ⟨5, false, blockRegs e d.toNat ++ vsBlock e a, [], extSize e, blockRegs e d.toNat⟩
  | .fneg _ e d a => ⟨5, false, blockRegs e d.toNat ++ vsBlock e a, [], extSize e, blockRegs e d.toNat⟩
  | .fcmp _ _ d a b => ⟨5, false, vsRun 1 a ++ vsRun 1 b, [d.toNat], 1, []⟩
  | .fclass _ e d a => ⟨5, false, blockRegs e d.toNat ++ vsBlock e a, [], extSize e, blockRegs e d.toNat⟩
  | .fdiv _ e _ d a b => ⟨5, false, blockRegs e d.toNat ++ vsBlock e a ++ vsBlock e b, [], extSize e, blockRegs e d.toNat⟩
  | .fsqrt _ e _ d a => ⟨5, false, blockRegs e d.toNat ++ vsBlock e a, [], extSize e, blockRegs e d.toNat⟩
  | .frcp _ e _ d a => ⟨5, false, blockRegs e d.toNat ++ vsBlock e a, [], extSize e, blockRegs e d.toNat⟩
  | .frsq _ e _ d a => ⟨5, false, blockRegs e d.toNat ++ vsBlock e a, [], extSize e, blockRegs e d.toNat⟩
  | .fexp2 _ e _ d a => ⟨5, false, blockRegs e d.toNat ++ vsBlock e a, [], extSize e, blockRegs e d.toNat⟩
  | .flog2 _ e _ d a => ⟨5, false, blockRegs e d.toNat ++ vsBlock e a, [], extSize e, blockRegs e d.toNat⟩
  | .fsinpi _ e _ d a => ⟨5, false, blockRegs e d.toNat ++ vsBlock e a, [], extSize e, blockRegs e d.toNat⟩
  | .fcospi _ e _ d a => ⟨5, false, blockRegs e d.toNat ++ vsBlock e a, [], extSize e, blockRegs e d.toNat⟩
  | .fround _ e _ d a => ⟨5, false, blockRegs e d.toNat ++ vsBlock e a, [], extSize e, blockRegs e d.toNat⟩
  | .faddPacked _ e _ _ d a b => ⟨6, false, blockRegs e d.toNat ++ vsBlock e a ++ vsBlock e b, [], extSize e, blockRegs e d.toNat⟩
  | .fsubPacked _ e _ _ d a b => ⟨6, false, blockRegs e d.toNat ++ vsBlock e a ++ vsBlock e b, [], extSize e, blockRegs e d.toNat⟩
  | .fmulPacked _ e _ _ d a b => ⟨6, false, blockRegs e d.toNat ++ vsBlock e a ++ vsBlock e b, [], extSize e, blockRegs e d.toNat⟩
  | .ffmaPacked _ e _ _ d a b => ⟨6, false, blockRegs e d.toNat ++ vsBlock e a ++ vsBlock e b, [], extSize e, []⟩
  | .fminPacked _ e _ d a b => ⟨6, false, blockRegs e d.toNat ++ vsBlock e a ++ vsBlock e b, [], extSize e, blockRegs e d.toNat⟩
  | .fmaxPacked _ e _ d a b => ⟨6, false, blockRegs e d.toNat ++ vsBlock e a ++ vsBlock e b, [], extSize e, blockRegs e d.toNat⟩
  | .fabsPacked _ e _ d a => ⟨6, false, blockRegs e d.toNat ++ vsBlock e a, [], extSize e, blockRegs e d.toNat⟩
  | .fnegPacked _ e _ d a => ⟨6, false, blockRegs e d.toNat ++ vsBlock e a, [], extSize e, blockRegs e d.toNat⟩
  | .fcmpPacked _ _ _ d a b => ⟨6, false, vsRun 1 a ++ vsRun 1 b, [d.toNat, d.toNat + 1], 1, []⟩
  | .fclassPacked _ e _ d a => ⟨6, false, blockRegs e d.toNat ++ vsBlock e a, [], extSize e, blockRegs e d.toNat⟩
  | .fdivPacked _ e _ _ d a b => ⟨6, false, blockRegs e d.toNat ++ vsBlock e a ++ vsBlock e b, [], extSize e, blockRegs e d.toNat⟩
  | .fsqrtPacked _ e _ _ d a => ⟨6, false, blockRegs e d.toNat ++ vsBlock e a, [], extSize e, blockRegs e d.toNat⟩
  | .frcpPacked _ e _ _ d a => ⟨6, false, blockRegs e d.toNat ++ vsBlock e a, [], extSize e, blockRegs e d.toNat⟩
  | .frsqPacked _ e _ _ d a => ⟨6, false, blockRegs e d.toNat ++ vsBlock e a, [], extSize e, blockRegs e d.toNat⟩
  | .fexp2Packed _ e _ _ d a => ⟨6, false, blockRegs e d.toNat ++ vsBlock e a, [], extSize e, blockRegs e d.toNat⟩
  | .flog2Packed _ e _ _ d a => ⟨6, false, blockRegs e d.toNat ++ vsBlock e a, [], extSize e, blockRegs e d.toNat⟩
  | .fsinpiPacked _ e _ _ d a => ⟨6, false, blockRegs e d.toNat ++ vsBlock e a, [], extSize e, blockRegs e d.toNat⟩
  | .fcospiPacked _ e _ _ d a => ⟨6, false, blockRegs e d.toNat ++ vsBlock e a, [], extSize e, blockRegs e d.toNat⟩
  | .froundPacked _ e _ _ d a => ⟨6, false, blockRegs e d.toNat ++ vsBlock e a, [], extSize e, blockRegs e d.toNat⟩
  | .cvt _ e _ _ d a _ _ => ⟨6, false, blockRegs e d.toNat ++ vsBlock e a, [], extSize e, blockRegs e d.toNat⟩
  | .qblk _ _ _ d a b => ⟨6, false, runRegs 8 d ++ runRegs 32 a ++ [b.toNat], [], 8, runRegs 8 d⟩
  | .dqblk _ _ d a b => ⟨6, false, runRegs 32 d ++ runRegs 8 a ++ vsRun 1 b, [], 8, runRegs 32 d⟩
  | .shfl _ _ d a b => ⟨7, false, [d.toNat] ++ [a.toNat] ++ vsiOne b, [], 1, [d.toNat]⟩
  | .bcast _ d a _ => ⟨7, false, [d.toNat] ++ [a.toNat], [], 1, [d.toNat]⟩
  | .vred _ _ _ d a => ⟨7, false, vsRun 1 d ++ [a.toNat], [], 1, vsRun 1 d⟩
  | .vscan _ _ _ d a _ => ⟨7, false, [d.toNat] ++ [a.toNat], [], 1, [d.toNat]⟩
  | .vcompact _ d a q => ⟨7, false, [d.toNat] ++ [a.toNat], [q.toNat], 1, [d.toNat]⟩
  | .cka _ e _ d a => ⟨7, false, vsRun 1 d ++ blockRegs e a.toNat, [], extSize e, vsRun 1 d⟩
  | .chk _ _ d a _ => ⟨7, false, vsRun 1 d ++ vsRun 1 a, [], 1, []⟩
  | .ld _ sz _ d m => ⟨8, false, vsRun (sizeRegs sz) d ++ memIdx m, [], 1, vsRun (sizeRegs sz) d⟩
  | .st _ sz _ d m => ⟨8, false, vsRun (sizeRegs sz) d ++ memIdx m, [], 1, []⟩
  | .ldx _ e sz _ d _ => ⟨8, false, blockRegs e d.toNat ++ runRegs (sizeRegs sz) d, [], extSize e, blockRegs e d.toNat ++ runRegs (sizeRegs sz) d⟩
  | .stx _ e sz _ d _ => ⟨8, false, blockRegs e d.toNat ++ runRegs (sizeRegs sz) d, [], extSize e, []⟩
  | .prf _ m => ⟨8, false, memIdx m, [], 1, []⟩
  | .invl _ m => ⟨8, false, memIdx m, [], 1, []⟩
  | .lds _ sz _ d m => ⟨9, false, vsRun (sizeRegs sz) d ++ memIdx m, [], 1, vsRun (sizeRegs sz) d⟩
  | .sts _ sz _ d m => ⟨9, false, vsRun (sizeRegs sz) d ++ memIdx m, [], 1, []⟩
  | .winmap _ _ _ _ => ⟨9, false, [], [], 1, []⟩
  | .winfl _ _ => ⟨9, false, [], [], 1, []⟩
  | .windrop _ _ => ⟨9, false, [], [], 1, []⟩
  | .atom _ o _ d m => ⟨10, false, vsRun o.regs d ++ memIdx m, [], 1, []⟩
  | .red _ o _ d m => ⟨10, false, vsRun o.regs d ++ memIdx m, [], 1, []⟩
  | .atoms _ o _ d m => ⟨10, false, vsRun o.regs d ++ memIdx m, [], 1, []⟩
  | .upd _ o _ d m => ⟨10, false, vsRun o.regs d ++ memIdx m, [], 1, []⟩
  | .fence _ _ _ _ => ⟨11, false, [], [], 1, []⟩
  | .seal _ _ _ => ⟨11, false, [], [], 1, []⟩
  | .unseal _ _ => ⟨11, false, [], [], 1, []⟩
  | .waitcnt _ _ _ => ⟨11, false, [], [], 1, []⟩
  | .waitcmp _ _ _ d m => ⟨11, false, vsRun 1 d ++ memIdx m, [], 1, []⟩
  | .waitw _ _ m => ⟨11, false, memIdx m, [], 1, []⟩
  | .pjoin _ _ => ⟨11, false, [], [], 1, []⟩
  | .pleave _ _ => ⟨11, false, [], [], 1, []⟩
  | .pexpect _ _ _ => ⟨11, false, [], [], 1, []⟩
  | .parrive _ _ => ⟨11, false, [], [], 1, []⟩
  | .pwait _ _ => ⟨11, false, [], [], 1, []⟩
  | .psync _ _ => ⟨11, false, [], [], 1, []⟩
  | .racq _ _ _ => ⟨11, false, [], [], 1, []⟩
  | .rpub _ _ _ => ⟨11, false, [], [], 1, []⟩
  | .rtake _ _ _ => ⟨11, false, [], [], 1, []⟩
  | .rfree _ _ _ => ⟨11, false, [], [], 1, []⟩
  | .tsig _ _ _ => ⟨11, false, [], [], 1, []⟩
  | .cpy _ _ => ⟨12, false, [], [], 1, []⟩
  | .cpyg _ _ => ⟨12, false, [], [], 1, []⟩
  | .cpys _ _ => ⟨12, false, [], [], 1, []⟩
  | .cpyr _ _ => ⟨12, false, [], [], 1, []⟩
  | .cpyb _ _ _ => ⟨12, false, [], [], 1, []⟩
  | .cpyf _ _ => ⟨12, false, [], [], 1, []⟩
  | .cpyq _ _ => ⟨12, false, [], [], 1, []⟩
  | .scbind _ _ _ => ⟨13, false, [], [], 1, []⟩
  | .scdrop _ _ => ⟨13, false, [], [], 1, []⟩
  | .kset _ _ _ _ _ => ⟨13, false, [], [], 1, []⟩
  | .krel _ _ => ⟨13, false, [], [], 1, []⟩
  | .mzero _ _ => ⟨13, false, [], [], 1, []⟩
  | .mma _ e _ _ _ _ a _ _ => ⟨13, false, blockRegs e a.toNat, [], extSize e, []⟩
  | .mmasp _ e _ _ _ _ a _ _ => ⟨13, false, blockRegs e a.toNat, [], extSize e, []⟩
  | .mdrain _ _ _ _ _ _ _ _ m => ⟨13, false, memIdx m, [], 1, []⟩
  | .mload _ _ _ _ m => ⟨13, false, memIdx m, [], 1, []⟩
  | .itset _ _ => ⟨14, false, [], [], 1, []⟩
  | .itnext _ d => ⟨14, false, [d.toNat], [], 1, [d.toNat]⟩
  | .itdone _ a => ⟨14, false, [a.toNat], [], 1, []⟩
  | .itend _ => ⟨14, false, [], [], 1, []⟩
  | .resq _ d m => ⟨14, false, memIdx m, [d.toNat], 1, []⟩
  | .spawn _ a _ => ⟨14, false, runRegs 8 a, [], 1, []⟩
  | .spq _ => ⟨14, false, [], [], 1, []⟩
  | .sealsave _ _ _ _ => ⟨15, false, [], [], 1, []⟩
  | .sealload _ _ _ _ => ⟨15, false, [], [], 1, []⟩
  | .ptew _ _ _ => ⟨15, true, [], [], 1, []⟩
  | .poolget _ _ => ⟨15, true, [], [], 1, []⟩
  | .fltinfo _ _ => ⟨15, false, [], [], 1, []⟩
  | .issueSelect _ _ => ⟨0, false, [], [], 1, []⟩
  | .fragmentOverdue _ _ => ⟨0, false, [], [], 1, []⟩
  | .sleepExpiry _ _ => ⟨0, false, [], [], 1, []⟩
  | .pennantWaitRelease _ _ => ⟨0, false, [], [], 1, []⟩
  | .brokenPennant _ => ⟨0, false, [], [], 1, []⟩
  | .ringWaitResume _ _ => ⟨0, false, [], [], 1, []⟩
  | .ringPublishDeferred _ _ => ⟨0, false, [], [], 1, []⟩
  | .fullLineStallEnd _ _ => ⟨0, false, [], [], 1, []⟩
  | .windowLineFill _ _ => ⟨0, false, [], [], 1, []⟩
  | .waitcntReturn _ _ => ⟨0, false, [], [], 1, []⟩
  | .monitorWake _ _ => ⟨0, false, [], [], 1, []⟩
  | .monitorReread _ _ => ⟨0, false, [], [], 1, []⟩
  | .spawnRoom _ _ => ⟨0, false, [], [], 1, []⟩
  | .spqQueueEmpty _ _ => ⟨0, false, [], [], 1, []⟩
  | .unsealCountZero _ _ => ⟨0, false, [], [], 1, []⟩
  | .packingTimeout _ _ _ => ⟨0, false, [], [], 1, []⟩
  | .packedGroupStart _ _ _ => ⟨0, false, [], [], 1, []⟩
  | .copyRowLands _ => ⟨0, false, [], [], 1, []⟩
  | .copyComplete _ => ⟨0, false, [], [], 1, []⟩
  | .peerBagPooling _ _ => ⟨0, false, [], [], 1, []⟩
  | .scaleCacheFill _ _ => ⟨0, false, [], [], 1, []⟩
  | .octetPassComplete _ => ⟨0, false, [], [], 1, []⟩
  | .ksetComplete _ => ⟨0, false, [], [], 1, []⟩
  | .mdrainComplete _ => ⟨0, false, [], [], 1, []⟩
  | .mloadComplete _ => ⟨0, false, [], [], 1, []⟩
  | .walkerMapWriteDone _ => ⟨0, false, [], [], 1, []⟩
  | .prefetchLands _ => ⟨0, false, [], [], 1, []⟩
  | .tableWalk _ _ _ => ⟨0, false, [], [], 1, []⟩
  | .firmwarePoolFill _ _ => ⟨0, false, [], [], 1, []⟩
  | .read _ _ _ => ⟨0, false, [], [], 1, []⟩
  | .own _ _ _ => ⟨0, false, [], [], 1, []⟩
  | .update _ _ _ => ⟨0, false, [], [], 1, []⟩
  | .writeback _ _ => ⟨0, false, [], [], 1, []⟩
  | .flush _ _ => ⟨0, false, [], [], 1, []⟩
  | .grant _ _ => ⟨0, false, [], [], 1, []⟩
  | .probe _ _ => ⟨0, false, [], [], 1, []⟩
  | .answer _ _ => ⟨0, false, [], [], 1, []⟩
  | .gone _ _ => ⟨0, false, [], [], 1, []⟩
  | .burstCommand _ _ => ⟨0, false, [], [], 1, []⟩
  | .burstComplete _ _ => ⟨0, false, [], [], 1, []⟩
  | .deviceBeatTimeout _ _ => ⟨0, false, [], [], 1, []⟩
  | .abortCompletion _ _ _ => ⟨0, false, [], [], 1, []⟩
  | .probeTimeout _ _ => ⟨0, false, [], [], 1, []⟩
  | .coreLossBroadcast _ _ => ⟨0, false, [], [], 1, []⟩
  | .dispatcherPass => ⟨0, false, [], [], 1, []⟩
  | .yieldTrap _ => ⟨0, false, [], [], 1, []⟩
  | .gangStateSave _ => ⟨0, false, [], [], 1, []⟩
  | .yieldBudgetExpiry _ => ⟨0, false, [], [], 1, []⟩
  | .coreMapChange => ⟨0, false, [], [], 1, []⟩
  | .powerWindow _ _ => ⟨0, false, [], [], 1, []⟩
  | .thermalTrip _ => ⟨0, false, [], [], 1, []⟩
  | .thermalTripEnd _ => ⟨0, false, [], [], 1, []⟩
  | .cqdoor _ _ _ => ⟨0, false, [], [], 1, []⟩
  | .queueRegister _ _ _ => ⟨0, false, [], [], 1, []⟩
  | .queueUnregister _ _ _ => ⟨0, false, [], [], 1, []⟩
  | .queueErrorClear _ _ => ⟨0, false, [], [], 1, []⟩
  | .cchead _ _ _ => ⟨0, false, [], [], 1, []⟩
  | .fqhead _ _ => ⟨0, false, [], [], 1, []⟩
  | .fqOverflowClear _ => ⟨0, false, [], [], 1, []⟩
  | .registerWrite _ _ _ => ⟨0, false, [], [], 1, []⟩
  | .commandStart _ _ => ⟨0, false, [], [], 1, []⟩
  | .launch _ _ => ⟨0, false, [], [], 1, []⟩
  | .hostCopy _ _ => ⟨0, false, [], [], 1, []⟩
  | .map _ _ => ⟨0, false, [], [], 1, []⟩
  | .unmap _ _ => ⟨0, false, [], [], 1, []⟩
  | .poolGrant _ _ => ⟨0, false, [], [], 1, []⟩
  | .tokenSignal _ _ => ⟨0, false, [], [], 1, []⟩
  | .tokenWait _ _ => ⟨0, false, [], [], 1, []⟩
  | .contextCreate _ _ => ⟨0, false, [], [], 1, []⟩
  | .contextSave _ _ => ⟨0, false, [], [], 1, []⟩
  | .contextRestore _ _ => ⟨0, false, [], [], 1, []⟩
  | .launchAbort _ _ => ⟨0, false, [], [], 1, []⟩
  | .loadImage _ _ => ⟨0, false, [], [], 1, []⟩
  | .contextDestroy _ _ => ⟨0, false, [], [], 1, []⟩
  | .healthQuery _ _ => ⟨0, false, [], [], 1, []⟩
  | .scanTest _ _ => ⟨0, false, [], [], 1, []⟩
  | .scanDrainDone _ => ⟨0, false, [], [], 1, []⟩
  | .scanDrainTimeout _ => ⟨0, false, [], [], 1, []⟩
  | .scanRunDone _ _ => ⟨0, false, [], [], 1, []⟩
  | .scanTestAbort _ => ⟨0, false, [], [], 1, []⟩
  | .deconfigure _ _ => ⟨0, false, [], [], 1, []⟩
  | .attest _ _ => ⟨0, false, [], [], 1, []⟩
  | .reclaim _ _ => ⟨0, false, [], [], 1, []⟩
  | .nodeQuery _ _ => ⟨0, false, [], [], 1, []⟩
  | .halyardFlitReceive _ _ _ => ⟨0, false, [], [], 1, []⟩
  | .replayRequest _ _ => ⟨0, false, [], [], 1, []⟩
  | .stopGo _ _ => ⟨0, false, [], [], 1, []⟩
  | .linkRetrain _ _ => ⟨0, false, [], [], 1, []⟩
  | .linkDown _ => ⟨0, false, [], [], 1, []⟩
  | .halyardMessage _ _ _ => ⟨0, false, [], [], 1, []⟩
  | .deviceDrop _ => ⟨0, false, [], [], 1, []⟩
  | .launchAbortMessage _ => ⟨0, false, [], [], 1, []⟩
  | .hoistReady _ _ => ⟨0, false, [], [], 1, []⟩
  | .hoistGo _ => ⟨0, false, [], [], 1, []⟩
  | .launchEndReport _ _ _ => ⟨0, false, [], [], 1, []⟩
  | .healthRecordRead => ⟨0, false, [], [], 1, []⟩
  | .ageingMonitorRead => ⟨0, false, [], [], 1, []⟩
  | .errorLogRead => ⟨0, false, [], [], 1, []⟩
  | .warmReset => ⟨0, false, [], [], 1, []⟩
  | .coldReset => ⟨0, false, [], [], 1, []⟩
  | .ageingSample _ _ _ => ⟨0, false, [], [], 1, []⟩
  | .errorFilterEpoch => ⟨0, false, [], [], 1, []⟩
  | .healthRebuild => ⟨0, false, [], [], 1, []⟩
  | .horizonReached _ _ => ⟨0, false, [], [], 1, []⟩
  | .hostMemoryCompletion _ _ _ => ⟨0, false, [], [], 1, []⟩
  | .atomicAtHome _ => ⟨0, false, [], [], 1, []⟩
  | .powerOn _ => ⟨0, false, [], [], 1, []⟩

/-! ### Addresses (R313) -/

/-- The exact address that a memory operand gives a lane. -/
def memAddr (m : MemOp) (g : Group) (sp : Bool) (unit l : Nat) : Int :=
  (if !m.based then 0 else if sp then ((g.sget m.base.toNat).toNat : Int) else ((g.sget2 m.base.toNat).toNat : Int))
    + (if m.indexed then (g.vget m.index.toNat l).toInt * 2 ^ m.scale.toNat else 0)
    + m.off.toInt * unit

/-! ### Scratchpad banks (R112, R114, R115) -/

/-- The banks of a scratchpad. -/
def spadBanks : Nat := 128
/-- The bank of a word of an allocation with a swizzle (R114). -/
def bankOf (swz w : Nat) : Nat :=
  let g := 4 * 2 ^ swz
  (w % spadBanks) ^^^ (w / spadBanks % (spadBanks / g) * g)
/-- The clk that bank conflicts add to one beat whose lanes name the words of a list: for each bank, every distinct word
beyond the first (R115). -/
def conflicts (swz : Nat) (ws : List Nat) : Nat :=
  let banks := ws.dedup.map (bankOf swz)
  banks.length - banks.dedup.length
/-- The clk that bank conflicts add to an access of words of scratchpad by each of several lanes. -/
def bankStall (swz : Nat) (lanes : List (Nat × List Nat)) : Nat :=
  ((List.range 4).map fun b => conflicts swz ((lanes.filter fun l => l.1 / 32 == b).flatMap (·.2))).foldl (· + ·) 0
/-- The clk by which bank conflicts hold the vector pipe longer for an instruction of the scratchpad (R115, R196). -/
def stall (i : Instr) (s : State) (x : X) : Nat :=
  let access (m : MemOp) (n : Nat) : Nat :=
    let swz := ((x.g.wg.bind (Table.find s.wgs)).map (·.swz)).getD 0
    bankStall swz ((lanesOf x.lanes).map fun l =>
      let a := (memAddr m x.g true n l).toNat / 4
      (l, if n = 8 then [a, a + 1] else [a]))
  if uniform i then 0
  else
    match i with
    | .lds _ sz _ _ m | .sts _ sz _ _ m => access m (if sz == .b64 then 8 else 4)
    | .atoms _ o _ _ m => access m (if o.regs = 1 ∨ o = .cas32 then 4 else 8)
    | _ => 0

/-- The course of instruction word `i` with its effect. -/
def run (i : Instr) (body : State → X → State × Done) (s : State) : Host.Outcome State Fault Refusal :=
  issue (need i) (pre i) (uniform i) (stall i s) body s

end Sys2Proof.Machine
end

