-- ==== Sys2Proof/Machine/Operands.lean ====
section
/-! DEFINITION. Operand values of instruction words (R30, R49, R219, R261, R286, R313), and the ways an effect
writes its group. -/

namespace Sys2Proof.Machine

/-- An 18-bit immediate, sign-extended to 32 bits (R219). -/
def imm18 (x : BitVec 18) : Word := x.signExtend 32
/-- A scalar or immediate as 32 bits (R261). -/
def SIval (g : Group) : SI → Word
  | .s r => g.sget r.toNat
  | .i x => imm18 x
/-- A scalar pair or immediate as 64 bits (R261). -/
def SIval2 (g : Group) : SI → DWord
  | .s r => g.sget2 r.toNat
  | .i x => x.signExtend 64
/-- A vector or scalar in a lane, at offset `o` of its block (R30). -/
def VSval (g : Group) (o l : Nat) : VS → Word
  | .v r => g.vget (r.toNat + o) l
  | .s r => g.sget r.toNat
/-- A vector, scalar or immediate in a lane, at offset `o` of its block (R30). -/
def VSIval (g : Group) (o l : Nat) : VSI → Word
  | .v r => g.vget (r.toNat + o) l
  | .s r => g.sget r.toNat
  | .i x => imm18 x

/-- The offsets of a block's positions from its first register, row by row (R30). -/
def blockOffs (e : Ext) : List Nat := blockRegs e 0

/-- An effect that only writes the issuing group. -/
def upd (f : X → Group → Group) (s : State) (x : X) : State × Done := (s.modGroup x.k (f x), .next)

/-- Write a scalar with a value computed from the group. -/
def writeS (d : SReg) (f : X → Word) : State → X → State × Done := upd fun x g => g.sset d.toNat (f x)
/-- Write a scalar pair with a value computed from the group. -/
def writeS2 (d : SReg) (f : X → DWord) : State → X → State × Done := upd fun x g => g.sset2 d.toNat (f x)

/-- Write lanes of one register from a function of the lane. -/
def Group.vwrite (g : Group) (r : Nat) (lanes : Mask) (f : Nat → Word) : Group :=
  (lanesOf lanes).foldl (fun g l => g.vset r l (f l)) g

/-- Write the lanes of every position of a block; every source is read before any destination is written
(R48). -/
def writeBlock (e : Ext) (d : VReg) (f : X → Nat → Nat → Word) : State → X → State × Done :=
  upd fun x g => (blockOffs e).foldl (fun g o => g.vwrite (d.toNat + o) x.lanes (f x o)) g

/-- Write a predicate in the executing lanes. -/
def writeP (d : PReg) (f : X → Nat → Bool) : State → X → State × Done :=
  upd fun x g => g.pwrite d.toNat x.lanes (maskOf ((lanesOf x.lanes).filter (f x)))

/-- Write a destination that is a vector, per lane, or a scalar, from the lowest active lane's value (R49). -/
def writeVS (d : VS) (f : X → Nat → Word) : State → X → State × Done :=
  upd fun x g =>
    match d with
    | .v r => g.vwrite r.toNat x.lanes (f x)
    | .s r => g.sset r.toNat (f x x.low)

end Sys2Proof.Machine
end

