-- ==== Sys2Proof/Machine/Control.lean ====
section
/-! DEFINITION. Class 0: branches, divergence, ending, idling, traps, handler and yield returns (R249 to R260). -/

namespace Sys2Proof.Machine

/-- `NOP` (R254). -/
def execNop (p : Pre) (uni : Bool) : State → Host.Outcome State Fault Refusal :=
  run (.nop p uni) fun s _ => (s, .next)

/-- `BR` (R249). -/
def execBr (p : Pre) (t : BitVec 32) : State → Host.Outcome State Fault Refusal :=
  run (.br p t) fun s _ => (s, .goto (12 * t.toNat))

/-- `BRC` (R249): `.z` branches on zero, `.nz` on nonzero. -/
def execBrc (p : Pre) (z : Bool) (c : SReg) (t : BitVec 32) : State → Host.Outcome State Fault Refusal :=
  run (.brc p z c t) fun s x => (s, if (x.g.sget c.toNat == 0) == z then .goto (12 * t.toNat) else .next)

/-- `BRD` (R251, R53, R56): the whole fragment branches or splits, or is serialised when no entry is free; a
65th frame raises kind 0x06 (R438). -/
def execBrd (p : Pre) (t r : BitVec 17) : State → Host.Outcome State Fault Refusal :=
  run (.brd p t r) fun s x =>
    let target := 12 * t.toNat
    let fall := x.f.pc + 12
    let reconv := 12 * r.toNat
    if x.lanes = x.f.mask then (s, .goto target)
    else
      match x.g.freeEntry with
      | some b => (s.modGroup x.k fun g => g.split s.clk x.en b x.f x.lanes target fall reconv, .gone)
      | none =>
        if x.g.depth < 64 then (s.modGroup x.k fun g => g.serialise s.clk x.en x.f x.lanes target fall reconv, .gone)
        else (s, .event (Event.plain kDepth 0 x.f.mask))

/-- `BRX` (R249). -/
def execBrx (p : Pre) (a : SReg) : State → Host.Outcome State Fault Refusal :=
  run (.brx p a) fun s x => (s, .goto (12 * (x.g.sget a.toNat).toNat))

/-- `CALL` (R249): the link takes the index of the next instruction. -/
def execCall (p : Pre) (d : SReg) (t : BitVec 32) : State → Host.Outcome State Fault Refusal :=
  run (.call p d t) fun s x =>
    (s.modGroup x.k fun g => g.sset d.toNat (BitVec.ofNat 32 ((x.f.pc + 12) / 12)), .goto (12 * t.toNat))

/-- `RET` (R249). -/
def execRet (p : Pre) (a : SReg) : State → Host.Outcome State Fault Refusal :=
  run (.ret p a) fun s x => (s, .goto (12 * (x.g.sget a.toNat).toNat))

/-- `LOOP` (R249). -/
def execLoop (p : Pre) (c : SReg) (t : BitVec 32) : State → Host.Outcome State Fault Refusal :=
  run (.loop p c t) fun s x =>
    let n := x.g.sget c.toNat
    if 1 < n.toNat then (s.modGroup x.k fun g => g.sset c.toNat (n - 1), .goto (12 * t.toNat))
    else (s.modGroup x.k fun g => g.sset c.toNat 0, .next)

/-- `EXIT` (R253): the executing lanes retire, pennant arrivals that waited for them take effect (R64), and
the others go on. -/
def execExit (p : Pre) : State → Host.Outcome State Fault Refusal :=
  run (.exit p) fun s x =>
    let t := s.modGroup x.k fun g => g.retire s.clk x.lanes
    let t := match t.group? x.k with
      | some g => t.ripenAll g
      | none => t
    (t, if x.f.mask &&& ~~~x.lanes = 0 then .gone else .next)

/-- `SLEEP` (R255): not ready for n clk; a scalar of 0 does not wait, one above 131,071 is taken as that. -/
def execSleep (p : Pre) (n : SI) : State → Host.Outcome State Fault Refusal :=
  run (.sleep p n) fun s x =>
    let k := min (SIval x.g n).toNat 131071
    (s, if k = 0 then .next else .pass (.sleep (s.clk + k)))

/-- `TRAP` (R256): the supervisor's handler as a user trap; at supervisor level a supervisor abort (R430). -/
def execTrap (p : Pre) (code : BitVec 8) : State → Host.Outcome State Fault Refusal :=
  run (.trap p code) fun s x =>
    (s, .event (Event.plain (if x.g.level = .sup then kAbort else kTrap) code.toNat x.f.mask))

/-- `BKPT` (R256): a breakpoint; at supervisor level a `NOP` (R430). -/
def execBkpt (p : Pre) (code : BitVec 8) : State → Host.Outcome State Fault Refusal :=
  run (.bkpt p code) fun s x =>
    (s, if x.g.level = .sup then .next else .event (Event.plain kBkpt code.toNat x.f.mask))

/-- Whether a handler may return (R258): one fragment, every lane it was entered with active or retired, and
no other lane active. -/
def mayReturn (g : Group) (f : Frag) (h : Handler) : Bool :=
  (g.acting.length == 1) && (f.mask &&& ~~~h.mask == 0) && (liveOf g h.mask &&& ~~~f.mask == 0)

/-- `RTT` (R257, R258): the return from the handler; from a divided handler it escalates as kind 0x0C. -/
def execRtt (p : Pre) : State → Host.Outcome State Fault Refusal :=
  run (.rtt p) fun s x =>
    match x.g.handler with
    | none => (s, .event (Event.plain kDivided 0 x.f.mask))
    | some h =>
      if mayReturn x.g x.f h then (s.endHandler x.k, .gone)
      else (s, .event (Event.plain kDivided 0 x.f.mask))

/-- `YIELDD.susp` (R259, R260): in a yield handler it suspends; in one resumed after its budget ran out it
suspends nothing (R440); elsewhere, a supervisor handler and a trap that is raised and not yet taken among it, it raises the
yield-sequence fault (DESIGN CHOICE for these two, log 117: R260 speaks of a pending yield trap). -/
def execYielddSusp (p : Pre) : State → Host.Outcome State Fault Refusal :=
  run (.yielddSusp p) fun s x =>
    match x.g.handler, x.g.yield with
    | none, .running _ => (s.modGroup x.k fun g => g.setFrag x.en { x.f with wait := .susp, since := s.clk }, .gone)
    | none, .overrun => (s, .next)
    | _, _ => (s, .event (Event.plain kYield 0 x.f.mask))

/-- Reinstate what the yield trap saved, less the lanes that have retired since; a trap held meanwhile is
raised (R210). -/
def Group.reinstate (g : Group) (clk now : Nat) (v : Saved) : Group :=
  ({ g with frags := v.frags.map fun f => (f.1, { f.2 with mask := f.2.mask &&& ~~~g.retired, since := clk }),
            fflags := v.fflags, srseed := v.srseed, horizon := v.horizon, saved := none,
            yield := if g.held then .raised now else .none, held := false } : Group).restAll clk

/-- `YIELDD.ret` (R259, R260, R210): it waits for matrix work that is to raise flags, so that the flags reinstated are those that the
trap saved (R81, R107). -/
def execYielddRet (p : Pre) : State → Host.Outcome State Fault Refusal :=
  run (.yielddRet p) fun s x =>
    let back : Bool := match x.g.yield with
      | .resumed | .overrun => true
      | _ => false
    match x.g.handler, back, x.g.saved with
    | none, true, some v => if s.flagsBusy x.g then (s, .hold) else (s.modGroup x.k fun g => g.reinstate s.clk s.now v, .gone)
    | _, _, _ => (s, .event (Event.plain kYield 0 x.f.mask))

end Sys2Proof.Machine
end

