-- ==== Sys2Proof/Decode.lean ====
section
/-! DEFINITION. The instruction word (R216 to R228): its fields, the operand encodings, the encoder of
every instruction word of the map (R229 to R244), and the decoder. The decoder reads the fields, names
the instruction by its opcode and operands, and accepts it only when it is well formed and its own
encoding is the word read, so that a bit the row does not use must hold what the row requires (R245). -/

namespace Sys2Proof

/-- The fields of a word (R217), with class and operation joined into the opcode (R218). -/
structure Fields where
  op     : BitVec 10
  neg    : BitVec 1
  guard  : BitVec 6
  uni    : BitVec 1
  h      : BitVec 3
  w      : BitVec 3
  policy : BitVec 2
  res    : BitVec 2
  rf     : BitVec 3
  ty     : BitVec 5
  d      : BitVec 20
  a      : BitVec 20
  b      : BitVec 20
  deriving DecidableEq, Repr

/-- The word that holds the fields, highest field first (R217). -/
def Fields.pack (f : Fields) : InstrWord :=
  f.op ++ f.neg ++ f.guard ++ f.uni ++ f.h ++ f.w ++ f.policy ++ f.res ++ f.rf ++ f.ty ++ f.d ++ f.a ++ f.b

/-- The fields of a word (R217). -/
def Fields.unpack (x : InstrWord) : Fields where
  op     := x.extractLsb' 86 10
  neg    := x.extractLsb' 85 1
  guard  := x.extractLsb' 79 6
  uni    := x.extractLsb' 78 1
  h      := x.extractLsb' 75 3
  w      := x.extractLsb' 72 3
  policy := x.extractLsb' 70 2
  res    := x.extractLsb' 68 2
  rf     := x.extractLsb' 65 3
  ty     := x.extractLsb' 60 5
  d      := x.extractLsb' 40 20
  a      := x.extractLsb' 20 20
  b      := x.extractLsb' 0 20

/-! ### Code sets (R223, R224) -/

def encBool1 (x : Bool) : BitVec 1 := if x then 1#1 else 0#1
def encBool5 (x : Bool) : BitVec 5 := if x then 1#5 else 0#5
def encBool18 (x : Bool) : BitVec 18 := if x then 1#18 else 0#18
def decBit (x : BitVec 1) : Bool := x == 1#1

/-- The packed types of class 6 (R235): 1 `.f16x2`, 2 `.bf16x2`. -/
def encPk (bf : Bool) : BitVec 5 := if bf then 2#5 else 1#5

def IntTy.code : IntTy → BitVec 5
  | .s32 => 0 | .u32 => 1 | .d64 => 2 | .sats => 4 | .satu => 5
def IntTy.ofCode (c : BitVec 5) : Option IntTy :=
  match c.toNat with
  | 0 => some .s32 | 1 => some .u32 | 2 => some .d64 | 4 => some .sats | 5 => some .satu | _ => none

def Cond.code : Cond → BitVec 3
  | .eq => 0 | .ne => 1 | .lt => 2 | .le => 3 | .gt => 4 | .ge => 5
def Cond.ofCode (c : BitVec 3) : Option Cond :=
  match c.toNat with
  | 0 => some .eq | 1 => some .ne | 2 => some .lt | 3 => some .le | 4 => some .gt | 5 => some .ge | _ => none

/-- Bits 64:62 the condition, bit 61 zero, bit 60 unsigned (R223). -/
def Cmp.code (c : Cmp) : BitVec 5 := c.cond.code ++ 0#1 ++ encBool1 c.u
def Cmp.ofCode (c : BitVec 5) : Option Cmp :=
  (Cond.ofCode (c.extractLsb' 2 3)).map fun k => ⟨k, decBit (c.extractLsb' 0 1)⟩

def Size.code : Size → BitVec 5
  | .b8 => 0 | .s8 => 1 | .b16 => 2 | .s16 => 3 | .b32 => 4 | .b64 => 5
def Size.ofCode (c : BitVec 5) : Option Size :=
  match c.toNat with
  | 0 => some .b8 | 1 => some .s8 | 2 => some .b16 | 3 => some .s16 | 4 => some .b32 | 5 => some .b64 | _ => none

def Fmt.code : Fmt → BitVec 5
  | .f32 => 0 | .f16x2 => 1 | .bf16x2 => 2 | .f16 => 3 | .bf16 => 4 | .tf8 => 5 | .e4m3 => 6 | .e5m2 => 7
  | .i8 => 8 | .u8 => 9 | .i16 => 10 | .u16 => 11 | .i32 => 12 | .u32 => 13 | .f8 => 14
def Fmt.ofCode (c : BitVec 5) : Option Fmt :=
  match c.toNat with
  | 0 => some .f32 | 1 => some .f16x2 | 2 => some .bf16x2 | 3 => some .f16 | 4 => some .bf16 | 5 => some .tf8
  | 6 => some .e4m3 | 7 => some .e5m2 | 8 => some .i8 | 9 => some .u8 | 10 => some .i16 | 11 => some .u16
  | 12 => some .i32 | 13 => some .u32 | 14 => some .f8 | _ => none

/-- The fmt codes that `MDRAIN` and `MLOAD` accept in bits 63:60 (R242). -/
def MFmt.code : MFmt → BitVec 4
  | .f32 => 0 | .f16 => 3 | .bf16 => 4 | .i32 => 12
def MFmt.ofCode (c : BitVec 4) : Option MFmt :=
  match c.toNat with
  | 0 => some .f32 | 3 => some .f16 | 4 => some .bf16 | 12 => some .i32 | _ => none
/-- `MDRAIN`'s type field: bit 64 add-on-store, bits 63:60 the format (R242). -/
def encMdr (add : Bool) (fm : MFmt) : BitVec 5 := encBool1 add ++ fm.code

def Op.code : Op → BitVec 5
  | .iadd32 => 0 | .iadd64 => 1 | .imin => 2 | .imax => 3 | .umin => 4 | .umax => 5 | .and => 6 | .or => 7
  | .xor => 8 | .fadd32 => 9 | .fmin32 => 10 | .fmax32 => 11 | .xsum32 => 12
  | .exch32 => 13 | .exch64 => 14 | .cas32 => 15 | .cas64 => 16
def Op.ofCode (c : BitVec 5) : Option Op :=
  match c.toNat with
  | 0 => some .iadd32 | 1 => some .iadd64 | 2 => some .imin | 3 => some .imax | 4 => some .umin
  | 5 => some .umax | 6 => some .and | 7 => some .or | 8 => some .xor | 9 => some .fadd32
  | 10 => some .fmin32 | 11 => some .fmax32 | 12 => some .xsum32 | 13 => some .exch32
  | 14 => some .exch64 | 15 => some .cas32 | 16 => some .cas64 | _ => none

def FCond.code : FCond → BitVec 3
  | .eq => 0 | .ne => 1 | .lt => 2 | .le => 3 | .gt => 4 | .ge => 5 | .un => 6 | .ord => 7
def FCond.ofCode (c : BitVec 3) : Option FCond :=
  match c.toNat with
  | 0 => some .eq | 1 => some .ne | 2 => some .lt | 3 => some .le | 4 => some .gt | 5 => some .ge
  | 6 => some .un | _ => some .ord

def Scope.code : Scope → BitVec 3
  | .none => 0 | .thread => 1 | .group => 2 | .wg => 3 | .gang => 4 | .dev => 5 | .sys => 6
def Scope.ofCode (c : BitVec 3) : Option Scope :=
  match c.toNat with
  | 0 => some .none | 1 => some .thread | 2 => some .group | 3 => some .wg | 4 => some .gang
  | 5 => some .dev | 6 => some .sys | _ => none

def Vote.code : Vote → BitVec 5
  | .any => 0 | .all => 1 | .eq => 2
def Vote.ofCode (c : BitVec 5) : Option Vote :=
  match c.toNat with
  | 0 => some .any | 1 => some .all | 2 => some .eq | _ => none

def ShflMode.code : ShflMode → BitVec 5
  | .idx => 0 | .up => 1 | .down => 2 | .xor => 3
def ShflMode.ofCode (c : BitVec 5) : Option ShflMode :=
  match c.toNat with
  | 0 => some .idx | 1 => some .up | 2 => some .down | 3 => some .xor | _ => none

def FenceKind.code : FenceKind → BitVec 5
  | .acq => 1 | .rel => 2 | .acqrel => 3
def FenceKind.ofCode (c : BitVec 5) : Option FenceKind :=
  match c.toNat with
  | 1 => some .acq | 2 => some .rel | 3 => some .acqrel | _ => none

/-! ### Operand fields (R219 to R222) -/

/-- A vector register operand: kind 0b00, bits 17:11 zero. -/
def encV (r : VReg) : BitVec 20 := 0#2 ++ 0#7 ++ r
/-- A scalar register operand: kind 0b01, bits 17:7 zero. -/
def encS (r : SReg) : BitVec 20 := 1#2 ++ 0#11 ++ r
/-- An 18-bit immediate operand: kind 0b10. -/
def encImm (x : BitVec 18) : BitVec 20 := 2#2 ++ x
/-- An other operand: kind 0b11, bit 17 zero, subkind, payload (R220). -/
def encO (sub : BitVec 3) (payload : BitVec 14) : BitVec 20 := 3#2 ++ 0#1 ++ sub ++ payload
/-- A predicate operand, subkind 0. -/
def encP (r : PReg) : BitVec 20 := encO 0 (r.setWidth 14)

/-- The kind bits 19:18 of an operand field (R33). -/
def kindOf (x : BitVec 20) : BitVec 2 := x.extractLsb' 18 2

def VS.enc : VS → BitVec 20
  | .v r => encV r
  | .s r => encS r
def VS.dec (x : BitVec 20) : Option VS :=
  if kindOf x = 0 then some (.v (x.extractLsb' 0 11))
  else if kindOf x = 1 then some (.s (x.extractLsb' 0 7)) else none
/-- Bit 78 of an instruction of issue D: 1 exactly when operand D is a scalar (R226). -/
def VS.uniBit : VS → BitVec 1
  | .v _ => 0
  | .s _ => 1

def VSI.enc : VSI → BitVec 20
  | .v r => encV r
  | .s r => encS r
  | .i x => encImm x
def VSI.dec (x : BitVec 20) : Option VSI :=
  if kindOf x = 0 then some (.v (x.extractLsb' 0 11))
  else if kindOf x = 1 then some (.s (x.extractLsb' 0 7))
  else if kindOf x = 2 then some (.i (x.extractLsb' 0 18)) else none

def SI.enc : SI → BitVec 20
  | .s r => encS r
  | .i x => encImm x
def SI.dec (x : BitVec 20) : Option SI :=
  if kindOf x = 1 then some (.s (x.extractLsb' 0 7))
  else if kindOf x = 2 then some (.i (x.extractLsb' 0 18)) else none

/-- The A half of a 32-bit immediate: value bits 31:16 (map code `j`). -/
def encJHi (v : Word) : BitVec 20 := 2#2 ++ 0#2 ++ v.extractLsb' 16 16
/-- The B half: value bits 15:0. -/
def encJLo (v : Word) : BitVec 20 := 2#2 ++ 0#2 ++ v.extractLsb' 0 16

/-- Operand A of a memory operand (R221). -/
def MemOp.encA (m : MemOp) : BitVec 20 :=
  3#2 ++ 1#1 ++ m.ord ++ encBool1 m.remote ++ m.pos ++ encBool1 m.based ++ m.off.extractLsb' 6 3 ++ m.base
/-- Operand B of a memory operand (R221). -/
def MemOp.encB (m : MemOp) : BitVec 20 :=
  encBool1 m.indexed ++ m.scale ++ m.index ++ m.off.extractLsb' 0 6
def MemOp.dec (a b : BitVec 20) : MemOp where
  ord     := a.extractLsb' 15 2
  remote  := decBit (a.extractLsb' 14 1)
  pos     := a.extractLsb' 11 3
  based   := decBit (a.extractLsb' 10 1)
  off     := a.extractLsb' 7 3 ++ b.extractLsb' 0 6
  base    := a.extractLsb' 0 7
  indexed := decBit (b.extractLsb' 19 1)
  scale   := b.extractLsb' 17 2
  index   := b.extractLsb' 6 11

/-- `MMA`'s D operand: accumulator in 5:0, tensor id of A's scales in 11:6 (R242). -/
def encAccTid (acc tid : BitVec 6) : BitVec 20 := encO 1 (0#2 ++ tid ++ acc)
/-- `MMA`'s B operand: kiln slot in 2:0, K − 1 in 13:7 (R242). -/
def encKK (k : BitVec 3) (km1 : BitVec 7) : BitVec 20 := encO 2 (km1 ++ 0#4 ++ k)
/-- `MDRAIN`'s D operand: accumulator, ring 9:6, publish bit 10, space bit 11 (R242). -/
def encAccSp3 (acc : BitVec 6) (sp pub : Bool) (ring : BitVec 4) : BitVec 20 :=
  encO 1 (0#2 ++ encBool1 sp ++ encBool1 pub ++ ring ++ acc)
/-- `CVT`'s B operand: source format in 4:0, `.nosat` in 5 (R235). -/
def encCvtB (src : Fmt) (nosat : Bool) : BitVec 20 := encImm (0#12 ++ encBool1 nosat ++ src.code)
/-- `WRSP`'s uniform marker: 1 for special registers 8 and 9, 0 for 10 and 11 (R231). -/
def wrspUni (sr : BitVec 6) : BitVec 1 := if sr = 8 ∨ sr = 9 then 1 else 0

/-- The fields of a word of opcode `op` with prefix `p` (R217). -/
def mkF (op : BitVec 10) (p : Pre) (uni : BitVec 1) (h w : BitVec 3) (rf : BitVec 3) (ty : BitVec 5)
    (d a b : BitVec 20) : Fields :=
  ⟨op, encBool1 p.neg, p.guard, uni, h, w, p.policy, 0, rf, ty, d, a, b⟩

/-- The prefix of a word (R217). -/
def Fields.pre (f : Fields) : Pre := ⟨decBit f.neg, f.guard, f.policy⟩
/-- The extent of a word (R217). -/
def Fields.ext (f : Fields) : Ext := ⟨f.h, f.w⟩

/-- The fields of an instruction's word, from its row of the map (R229 to R244); `none` for a step that
is no instruction word. -/
def Instr.fields : Instr → Option Fields
  | .nop p uni =>
    some (mkF 0x000 p (encBool1 uni) 0#3 0#3 0#3 0#5 0#20 0#20 0#20)
  | .br p t =>
    some (mkF 0x001 p 1#1 0#3 0#3 0#3 0#5 0#20 (encJHi t) (encJLo t))
  | .brc p z c t =>
    some (mkF 0x002 p 1#1 0#3 0#3 0#3 (encBool5 z) (encS c) (encJHi t) (encJLo t))
  | .brd p t r =>
    some (mkF 0x003 p 0#1 0#3 0#3 0#3 0#5 0#20 (encImm (t.setWidth 18)) (encImm (r.setWidth 18)))
  | .brx p a =>
    some (mkF 0x004 p 1#1 0#3 0#3 0#3 0#5 0#20 (encS a) 0#20)
  | .call p d t =>
    some (mkF 0x005 p 1#1 0#3 0#3 0#3 0#5 (encS d) (encJHi t) (encJLo t))
  | .ret p a =>
    some (mkF 0x006 p 1#1 0#3 0#3 0#3 0#5 0#20 (encS a) 0#20)
  | .loop p c t =>
    some (mkF 0x007 p 1#1 0#3 0#3 0#3 0#5 (encS c) (encJHi t) (encJLo t))
  | .exit p =>
    some (mkF 0x008 p 0#1 0#3 0#3 0#3 0#5 0#20 0#20 0#20)
  | .sleep p n =>
    some (mkF 0x009 p 1#1 0#3 0#3 0#3 0#5 0#20 n.enc 0#20)
  | .trap p code =>
    some (mkF 0x00a p 1#1 0#3 0#3 0#3 0#5 0#20 (encImm (code.setWidth 18)) 0#20)
  | .rtt p =>
    some (mkF 0x00b p 1#1 0#3 0#3 0#3 0#5 0#20 0#20 0#20)
  | .yielddSusp p =>
    some (mkF 0x00c p 1#1 0#3 0#3 0#3 0#5 0#20 0#20 0#20)
  | .yielddRet p =>
    some (mkF 0x00c p 1#1 0#3 0#3 0#3 1#5 0#20 0#20 0#20)
  | .bkpt p code =>
    some (mkF 0x00d p 1#1 0#3 0#3 0#3 0#5 0#20 (encImm (code.setWidth 18)) 0#20)
  | .sadd p ty d a b =>
    some (mkF 0x040 p 1#1 0#3 0#3 0#3 ty.code (encS d) (encS a) b.enc)
  | .ssub p ty d a b =>
    some (mkF 0x041 p 1#1 0#3 0#3 0#3 ty.code (encS d) (encS a) b.enc)
  | .smul p d a b =>
    some (mkF 0x042 p 1#1 0#3 0#3 0#3 0#5 (encS d) (encS a) b.enc)
  | .smulh p ty d a b =>
    some (mkF 0x043 p 1#1 0#3 0#3 0#3 ty.code (encS d) (encS a) b.enc)
  | .sdiv p ty d a b =>
    some (mkF 0x044 p 1#1 0#3 0#3 0#3 ty.code (encS d) (encS a) b.enc)
  | .srem p ty d a b =>
    some (mkF 0x045 p 1#1 0#3 0#3 0#3 ty.code (encS d) (encS a) b.enc)
  | .sand p d a b =>
    some (mkF 0x046 p 1#1 0#3 0#3 0#3 0#5 (encS d) (encS a) b.enc)
  | .sor p d a b =>
    some (mkF 0x047 p 1#1 0#3 0#3 0#3 0#5 (encS d) (encS a) b.enc)
  | .sxor p d a b =>
    some (mkF 0x048 p 1#1 0#3 0#3 0#3 0#5 (encS d) (encS a) b.enc)
  | .sshl p ty d a b =>
    some (mkF 0x049 p 1#1 0#3 0#3 0#3 ty.code (encS d) (encS a) b.enc)
  | .sshr p ty d a b =>
    some (mkF 0x04a p 1#1 0#3 0#3 0#3 ty.code (encS d) (encS a) b.enc)
  | .ssar p ty d a b =>
    some (mkF 0x04b p 1#1 0#3 0#3 0#3 ty.code (encS d) (encS a) b.enc)
  | .smin p ty d a b =>
    some (mkF 0x04c p 1#1 0#3 0#3 0#3 ty.code (encS d) (encS a) b.enc)
  | .smax p ty d a b =>
    some (mkF 0x04d p 1#1 0#3 0#3 0#3 ty.code (encS d) (encS a) b.enc)
  | .scmp p cc d a b =>
    some (mkF 0x04e p 1#1 0#3 0#3 0#3 cc.code (encS d) (encS a) b.enc)
  | .smov p ty d a =>
    some (mkF 0x04f p 1#1 0#3 0#3 0#3 ty.code (encS d) (encS a) 0#20)
  | .smovi p d v =>
    some (mkF 0x050 p 1#1 0#3 0#3 0#3 0#5 (encS d) (encJHi v) (encJLo v))
  | .slea p k d a b =>
    some (mkF 0x051 p 1#1 0#3 0#3 0#3 (k.setWidth 5) (encS d) (encS a) b.enc)
  | .ssel p d a b =>
    some (mkF 0x052 p 1#1 0#3 0#3 0#3 0#5 (encS d) a.enc b.enc)
  | .pset p d a =>
    some (mkF 0x080 p 0#1 0#3 0#3 0#3 0#5 (encP d) a.enc 0#20)
  | .plop p tt d a b =>
    some (mkF 0x081 p 0#1 0#3 0#3 0#3 (tt.setWidth 5) (encP d) (encP a) (encP b))
  | .pcnt p d a =>
    some (mkF 0x082 p 1#1 0#3 0#3 0#3 0#5 (encS d) (encP a) 0#20)
  | .pfirst p d a =>
    some (mkF 0x083 p 1#1 0#3 0#3 0#3 0#5 (encS d) (encP a) 0#20)
  | .pvote p m d a =>
    some (mkF 0x084 p 0#1 0#3 0#3 0#3 m.code (encP d) (encP a) 0#20)
  | .rdsp p d sr =>
    some (mkF 0x085 p d.uniBit 0#3 0#3 0#3 0#5 d.enc (encO 3 (sr.setWidth 14)) 0#20)
  | .wrsp p sr a =>
    some (mkF 0x086 p (wrspUni sr) 0#3 0#3 0#3 0#5 (encO 3 (sr.setWidth 14)) a.enc 0#20)
  | .setfmt p v =>
    some (mkF 0x087 p 1#1 0#3 0#3 0#3 0#5 0#20 (encImm (v.setWidth 18)) 0#20)
  | .setrm p v =>
    some (mkF 0x088 p 1#1 0#3 0#3 0#3 0#5 0#20 (encImm (v.setWidth 18)) 0#20)
  | .rdff p d =>
    some (mkF 0x089 p d.uniBit 0#3 0#3 0#3 0#5 d.enc 0#20 0#20)
  | .clrff p m =>
    some (mkF 0x08a p 0#1 0#3 0#3 0#3 0#5 0#20 (encImm (m.setWidth 18)) 0#20)
  | .iadd p e ty d a b =>
    some (mkF 0x0c0 p 0#1 e.h e.w 0#3 ty.code (encV d) a.enc b.enc)
  | .isub p e ty d a b =>
    some (mkF 0x0c1 p 0#1 e.h e.w 0#3 ty.code (encV d) a.enc b.enc)
  | .imul p e d a b =>
    some (mkF 0x0c2 p 0#1 e.h e.w 0#3 0#5 (encV d) a.enc b.enc)
  | .imulh p e ty d a b =>
    some (mkF 0x0c3 p 0#1 e.h e.w 0#3 ty.code (encV d) a.enc b.enc)
  | .imad p e d a b =>
    some (mkF 0x0c4 p 0#1 e.h e.w 0#3 0#5 (encV d) a.enc b.enc)
  | .idiv p e ty d a b =>
    some (mkF 0x0c5 p 0#1 e.h e.w 0#3 ty.code (encV d) a.enc b.enc)
  | .irem p e ty d a b =>
    some (mkF 0x0c6 p 0#1 e.h e.w 0#3 ty.code (encV d) a.enc b.enc)
  | .imin p e ty d a b =>
    some (mkF 0x0c7 p 0#1 e.h e.w 0#3 ty.code (encV d) a.enc b.enc)
  | .imax p e ty d a b =>
    some (mkF 0x0c8 p 0#1 e.h e.w 0#3 ty.code (encV d) a.enc b.enc)
  | .iabs p e d a =>
    some (mkF 0x0c9 p 0#1 e.h e.w 0#3 0#5 (encV d) a.enc 0#20)
  | .ineg p e d a =>
    some (mkF 0x0ca p 0#1 e.h e.w 0#3 0#5 (encV d) a.enc 0#20)
  | .icmp p cc d a b =>
    some (mkF 0x0cb p 0#1 0#3 0#3 0#3 cc.code (encP d) a.enc b.enc)
  | .isel p e q d a b =>
    some (mkF 0x0cc p 0#1 e.h e.w ((q.extractLsb' 5 1).setWidth 3) (q.extractLsb' 0 5) (encV d) a.enc b.enc)
  | .imov p e d a =>
    some (mkF 0x0cd p 0#1 e.h e.w 0#3 0#5 (encV d) a.enc 0#20)
  | .imovi p e d v =>
    some (mkF 0x0ce p 0#1 e.h e.w 0#3 0#5 (encV d) (encJHi v) (encJLo v))
  | .iand p e d a b =>
    some (mkF 0x100 p 0#1 e.h e.w 0#3 0#5 (encV d) a.enc b.enc)
  | .ior p e d a b =>
    some (mkF 0x101 p 0#1 e.h e.w 0#3 0#5 (encV d) a.enc b.enc)
  | .ixor p e d a b =>
    some (mkF 0x102 p 0#1 e.h e.w 0#3 0#5 (encV d) a.enc b.enc)
  | .inot p e d a =>
    some (mkF 0x103 p 0#1 e.h e.w 0#3 0#5 (encV d) a.enc 0#20)
  | .ishl p e d a b =>
    some (mkF 0x104 p 0#1 e.h e.w 0#3 0#5 (encV d) a.enc b.enc)
  | .ishr p e d a b =>
    some (mkF 0x105 p 0#1 e.h e.w 0#3 0#5 (encV d) a.enc b.enc)
  | .isar p e d a b =>
    some (mkF 0x106 p 0#1 e.h e.w 0#3 0#5 (encV d) a.enc b.enc)
  | .irot p e d a b =>
    some (mkF 0x107 p 0#1 e.h e.w 0#3 0#5 (encV d) a.enc b.enc)
  | .bfx p e ty d a b =>
    some (mkF 0x108 p 0#1 e.h e.w 0#3 ty.code (encV d) a.enc b.enc)
  | .bfi p e d a b =>
    some (mkF 0x109 p 0#1 e.h e.w 0#3 0#5 (encV d) a.enc b.enc)
  | .popc p e d a =>
    some (mkF 0x10a p 0#1 e.h e.w 0#3 0#5 (encV d) a.enc 0#20)
  | .clz p e d a =>
    some (mkF 0x10b p 0#1 e.h e.w 0#3 0#5 (encV d) a.enc 0#20)
  | .fadd p e rnd d a b =>
    some (mkF 0x140 p 0#1 e.h e.w rnd 0#5 (encV d) a.enc b.enc)
  | .fsub p e rnd d a b =>
    some (mkF 0x141 p 0#1 e.h e.w rnd 0#5 (encV d) a.enc b.enc)
  | .fmul p e rnd d a b =>
    some (mkF 0x142 p 0#1 e.h e.w rnd 0#5 (encV d) a.enc b.enc)
  | .ffma p e rnd d a b =>
    some (mkF 0x143 p 0#1 e.h e.w rnd 0#5 (encV d) a.enc b.enc)
  | .fmin p e d a b =>
    some (mkF 0x144 p 0#1 e.h e.w 0#3 0#5 (encV d) a.enc b.enc)
  | .fmax p e d a b =>
    some (mkF 0x145 p 0#1 e.h e.w 0#3 0#5 (encV d) a.enc b.enc)
  | .fabs p e d a =>
    some (mkF 0x146 p 0#1 e.h e.w 0#3 0#5 (encV d) a.enc 0#20)
  | .fneg p e d a =>
    some (mkF 0x147 p 0#1 e.h e.w 0#3 0#5 (encV d) a.enc 0#20)
  | .fcmp p cc d a b =>
    some (mkF 0x148 p 0#1 0#3 0#3 cc.code 0#5 (encP d) a.enc b.enc)
  | .fclass p e d a =>
    some (mkF 0x149 p 0#1 e.h e.w 0#3 0#5 (encV d) a.enc 0#20)
  | .fdiv p e rnd d a b =>
    some (mkF 0x14a p 0#1 e.h e.w rnd 0#5 (encV d) a.enc b.enc)
  | .fsqrt p e rnd d a =>
    some (mkF 0x14b p 0#1 e.h e.w rnd 0#5 (encV d) a.enc 0#20)
  | .frcp p e rnd d a =>
    some (mkF 0x14c p 0#1 e.h e.w rnd 0#5 (encV d) a.enc 0#20)
  | .frsq p e rnd d a =>
    some (mkF 0x14d p 0#1 e.h e.w rnd 0#5 (encV d) a.enc 0#20)
  | .fexp2 p e rnd d a =>
    some (mkF 0x14e p 0#1 e.h e.w rnd 0#5 (encV d) a.enc 0#20)
  | .flog2 p e rnd d a =>
    some (mkF 0x14f p 0#1 e.h e.w rnd 0#5 (encV d) a.enc 0#20)
  | .fsinpi p e rnd d a =>
    some (mkF 0x150 p 0#1 e.h e.w rnd 0#5 (encV d) a.enc 0#20)
  | .fcospi p e rnd d a =>
    some (mkF 0x151 p 0#1 e.h e.w rnd 0#5 (encV d) a.enc 0#20)
  | .fround p e rnd d a =>
    some (mkF 0x152 p 0#1 e.h e.w rnd 0#5 (encV d) a.enc 0#20)
  | .faddPacked p e bf rnd d a b =>
    some (mkF 0x180 p 0#1 e.h e.w rnd (encPk bf) (encV d) a.enc b.enc)
  | .fsubPacked p e bf rnd d a b =>
    some (mkF 0x181 p 0#1 e.h e.w rnd (encPk bf) (encV d) a.enc b.enc)
  | .fmulPacked p e bf rnd d a b =>
    some (mkF 0x182 p 0#1 e.h e.w rnd (encPk bf) (encV d) a.enc b.enc)
  | .ffmaPacked p e bf rnd d a b =>
    some (mkF 0x183 p 0#1 e.h e.w rnd (encPk bf) (encV d) a.enc b.enc)
  | .fminPacked p e bf d a b =>
    some (mkF 0x184 p 0#1 e.h e.w 0#3 (encPk bf) (encV d) a.enc b.enc)
  | .fmaxPacked p e bf d a b =>
    some (mkF 0x185 p 0#1 e.h e.w 0#3 (encPk bf) (encV d) a.enc b.enc)
  | .fabsPacked p e bf d a =>
    some (mkF 0x186 p 0#1 e.h e.w 0#3 (encPk bf) (encV d) a.enc 0#20)
  | .fnegPacked p e bf d a =>
    some (mkF 0x187 p 0#1 e.h e.w 0#3 (encPk bf) (encV d) a.enc 0#20)
  | .fcmpPacked p bf cc d a b =>
    some (mkF 0x188 p 0#1 0#3 0#3 cc.code (encPk bf) (encP d) a.enc b.enc)
  | .fclassPacked p e bf d a =>
    some (mkF 0x189 p 0#1 e.h e.w 0#3 (encPk bf) (encV d) a.enc 0#20)
  | .fdivPacked p e bf rnd d a b =>
    some (mkF 0x18a p 0#1 e.h e.w rnd (encPk bf) (encV d) a.enc b.enc)
  | .fsqrtPacked p e bf rnd d a =>
    some (mkF 0x18b p 0#1 e.h e.w rnd (encPk bf) (encV d) a.enc 0#20)
  | .frcpPacked p e bf rnd d a =>
    some (mkF 0x18c p 0#1 e.h e.w rnd (encPk bf) (encV d) a.enc 0#20)
  | .frsqPacked p e bf rnd d a =>
    some (mkF 0x18d p 0#1 e.h e.w rnd (encPk bf) (encV d) a.enc 0#20)
  | .fexp2Packed p e bf rnd d a =>
    some (mkF 0x18e p 0#1 e.h e.w rnd (encPk bf) (encV d) a.enc 0#20)
  | .flog2Packed p e bf rnd d a =>
    some (mkF 0x18f p 0#1 e.h e.w rnd (encPk bf) (encV d) a.enc 0#20)
  | .fsinpiPacked p e bf rnd d a =>
    some (mkF 0x190 p 0#1 e.h e.w rnd (encPk bf) (encV d) a.enc 0#20)
  | .fcospiPacked p e bf rnd d a =>
    some (mkF 0x191 p 0#1 e.h e.w rnd (encPk bf) (encV d) a.enc 0#20)
  | .froundPacked p e bf rnd d a =>
    some (mkF 0x192 p 0#1 e.h e.w rnd (encPk bf) (encV d) a.enc 0#20)
  | .cvt p e tgt rnd d a src nosat =>
    some (mkF 0x1a0 p 0#1 e.h e.w rnd tgt.code (encV d) a.enc (encCvtB src nosat))
  | .qblk p tgt rnd d a b =>
    some (mkF 0x1a1 p 0#1 0#3 7#3 rnd tgt.code (encV d) (encV a) (encV b))
  | .dqblk p src d a b =>
    some (mkF 0x1a2 p 0#1 0#3 7#3 0#3 src.code (encV d) (encV a) b.enc)
  | .shfl p m d a b =>
    some (mkF 0x1c0 p 0#1 0#3 0#3 0#3 m.code (encV d) (encV a) b.enc)
  | .bcast p d a b =>
    some (mkF 0x1c1 p 0#1 0#3 0#3 0#3 0#5 (encV d) (encV a) b.enc)
  | .vred p o rnd d a =>
    some (mkF 0x1c2 p d.uniBit 0#3 0#3 rnd o.code d.enc (encV a) 0#20)
  | .vscan p o rnd d a ex =>
    some (mkF 0x1c3 p 0#1 0#3 0#3 rnd o.code (encV d) (encV a) (encImm (encBool18 ex)))
  | .vcompact p d a q =>
    some (mkF 0x1c4 p 0#1 0#3 0#3 0#3 0#5 (encV d) (encV a) (encP q))
  | .cka p e fp d a =>
    some (mkF 0x1d0 p d.uniBit e.h e.w 0#3 (encBool5 fp) d.enc (encV a) 0#20)
  | .chk p fp d a b =>
    some (mkF 0x1d1 p d.uniBit 0#3 0#3 0#3 (encBool5 fp) d.enc a.enc b.enc)
  | .ld p sz sc d m =>
    some (mkF 0x200 p d.uniBit 0#3 0#3 sc.code sz.code d.enc m.encA m.encB)
  | .st p sz sc d m =>
    some (mkF 0x201 p d.uniBit 0#3 0#3 sc.code sz.code d.enc m.encA m.encB)
  | .ldx p e sz sc d m =>
    some (mkF 0x202 p 0#1 e.h e.w sc.code sz.code (encV d) m.encA m.encB)
  | .stx p e sz sc d m =>
    some (mkF 0x203 p 0#1 e.h e.w sc.code sz.code (encV d) m.encA m.encB)
  | .prf p m =>
    some (mkF 0x204 p 0#1 0#3 0#3 0#3 4#5 0#20 m.encA m.encB)
  | .invl p m =>
    some (mkF 0x205 p 0#1 0#3 0#3 0#3 4#5 0#20 m.encA m.encB)
  | .lds p sz sc d m =>
    some (mkF 0x240 p d.uniBit 0#3 0#3 sc.code sz.code d.enc m.encA m.encB)
  | .sts p sz sc d m =>
    some (mkF 0x241 p d.uniBit 0#3 0#3 sc.code sz.code d.enc m.encA m.encB)
  | .winmap p e a b =>
    some (mkF 0x242 p 1#1 0#3 0#3 0#3 0#5 (encImm (e.setWidth 18)) (encS a) (encS b))
  | .winfl p e =>
    some (mkF 0x243 p 1#1 0#3 0#3 0#3 0#5 (encImm (e.setWidth 18)) 0#20 0#20)
  | .windrop p e =>
    some (mkF 0x244 p 1#1 0#3 0#3 0#3 0#5 (encImm (e.setWidth 18)) 0#20 0#20)
  | .atom p o sc d m =>
    some (mkF 0x280 p d.uniBit 0#3 0#3 sc.code o.code d.enc m.encA m.encB)
  | .red p o sc d m =>
    some (mkF 0x281 p d.uniBit 0#3 0#3 sc.code o.code d.enc m.encA m.encB)
  | .atoms p o sc d m =>
    some (mkF 0x282 p d.uniBit 0#3 0#3 sc.code o.code d.enc m.encA m.encB)
  | .upd p o rnd d m =>
    some (mkF 0x283 p d.uniBit 0#3 0#3 rnd o.code d.enc m.encA m.encB)
  | .fence p uni k sc =>
    some (mkF 0x2c0 p (encBool1 uni) 0#3 0#3 sc.code k.code 0#20 0#20 0#20)
  | .seal p a b =>
    some (mkF 0x2c1 p 1#1 0#3 0#3 0#3 0#5 0#20 (encS a) (encS b))
  | .unseal p a =>
    some (mkF 0x2c2 p 1#1 0#3 0#3 0#3 0#5 0#20 (encS a) 0#20)
  | .waitcnt p cl n =>
    some (mkF 0x2c3 p 1#1 0#3 0#3 0#3 0#5 0#20 (encO 6 (cl.setWidth 14)) (encImm (n.setWidth 18)))
  | .waitcmp p cc sc d m =>
    some (mkF 0x2c4 p 0#1 0#3 0#3 sc.code cc.code d.enc m.encA m.encB)
  | .waitw p sc m =>
    some (mkF 0x2c5 p 0#1 0#3 0#3 sc.code 0#5 0#20 m.encA m.encB)
  | .pjoin p n =>
    some (mkF 0x2c6 p 1#1 0#3 0#3 0#3 0#5 0#20 (encO 4 (n.setWidth 14)) 0#20)
  | .pleave p n =>
    some (mkF 0x2c7 p 1#1 0#3 0#3 0#3 0#5 0#20 (encO 4 (n.setWidth 14)) 0#20)
  | .pexpect p n b =>
    some (mkF 0x2c8 p 1#1 0#3 0#3 0#3 0#5 0#20 (encO 4 (n.setWidth 14)) b.enc)
  | .parrive p n =>
    some (mkF 0x2c9 p 1#1 0#3 0#3 0#3 0#5 0#20 (encO 4 (n.setWidth 14)) 0#20)
  | .pwait p n =>
    some (mkF 0x2ca p 1#1 0#3 0#3 0#3 0#5 0#20 (encO 4 (n.setWidth 14)) 0#20)
  | .psync p n =>
    some (mkF 0x2cb p 1#1 0#3 0#3 0#3 0#5 0#20 (encO 4 (n.setWidth 14)) 0#20)
  | .racq p d ring =>
    some (mkF 0x2cc p 1#1 0#3 0#3 0#3 0#5 (encS d) (encO 5 (ring.setWidth 14)) 0#20)
  | .rpub p ring b =>
    some (mkF 0x2cd p 1#1 0#3 0#3 0#3 0#5 0#20 (encO 5 (ring.setWidth 14)) b.enc)
  | .rtake p d ring =>
    some (mkF 0x2ce p 1#1 0#3 0#3 0#3 0#5 (encS d) (encO 5 (ring.setWidth 14)) 0#20)
  | .rfree p ring b =>
    some (mkF 0x2cf p 1#1 0#3 0#3 0#3 0#5 0#20 (encO 5 (ring.setWidth 14)) b.enc)
  | .tsig p a b =>
    some (mkF 0x2d0 p 1#1 0#3 0#3 0#3 0#5 0#20 a.enc b.enc)
  | .cpy p a =>
    some (mkF 0x300 p 1#1 0#3 0#3 0#3 0#5 0#20 (encS a) 0#20)
  | .cpyg p a =>
    some (mkF 0x301 p 1#1 0#3 0#3 0#3 0#5 0#20 (encS a) 0#20)
  | .cpys p a =>
    some (mkF 0x302 p 1#1 0#3 0#3 0#3 0#5 0#20 (encS a) 0#20)
  | .cpyr p a =>
    some (mkF 0x303 p 1#1 0#3 0#3 0#3 0#5 0#20 (encS a) 0#20)
  | .cpyb p rnd a =>
    some (mkF 0x304 p 1#1 0#3 0#3 rnd 0#5 0#20 (encS a) 0#20)
  | .cpyf p a =>
    some (mkF 0x305 p 1#1 0#3 0#3 0#3 0#5 0#20 (encS a) 0#20)
  | .cpyq p a =>
    some (mkF 0x306 p 1#1 0#3 0#3 0#3 0#5 0#20 (encS a) 0#20)
  | .scbind p tid a =>
    some (mkF 0x340 p 1#1 0#3 0#3 0#3 0#5 (encO 7 (tid.setWidth 14)) (encS a) 0#20)
  | .scdrop p tid =>
    some (mkF 0x341 p 1#1 0#3 0#3 0#3 0#5 (encO 7 (tid.setWidth 14)) 0#20 0#20)
  | .kset p fm k a b =>
    some (mkF 0x342 p 1#1 0#3 0#3 0#3 fm.code (encO 2 (k.setWidth 14)) (encS a) (encS b))
  | .krel p k =>
    some (mkF 0x343 p 1#1 0#3 0#3 0#3 0#5 (encO 2 (k.setWidth 14)) 0#20 0#20)
  | .mzero p acc =>
    some (mkF 0x344 p 1#1 0#3 0#3 0#3 0#5 (encO 1 (acc.setWidth 14)) 0#20 0#20)
  | .mma p e sat rnd acc tid a k km1 =>
    some (mkF 0x345 p 0#1 e.h e.w rnd (encBool5 sat) (encAccTid acc tid) (encV a) (encKK k km1))
  | .mmasp p e sat rnd acc tid a k km1 =>
    some (mkF 0x346 p 0#1 e.h e.w rnd (encBool5 sat) (encAccTid acc tid) (encV a) (encKK k km1))
  | .mdrain p add fm rnd acc sp pub ring m =>
    some (mkF 0x347 p 1#1 0#3 0#3 rnd (encMdr add fm) (encAccSp3 acc sp pub ring) m.encA m.encB)
  | .mload p fm acc sp m =>
    some (mkF 0x348 p 1#1 0#3 0#3 0#3 (fm.code.setWidth 5) (encAccSp3 acc sp false 0#4) m.encA m.encB)
  | .itset p a =>
    some (mkF 0x380 p 1#1 0#3 0#3 0#3 0#5 0#20 (encS a) 0#20)
  | .itnext p d =>
    some (mkF 0x381 p 0#1 0#3 0#3 0#3 0#5 (encV d) 0#20 0#20)
  | .itdone p a =>
    some (mkF 0x382 p 0#1 0#3 0#3 0#3 0#5 0#20 (encV a) 0#20)
  | .itend p =>
    some (mkF 0x383 p 1#1 0#3 0#3 0#3 0#5 0#20 0#20 0#20)
  | .resq p d m =>
    some (mkF 0x384 p 0#1 0#3 0#3 0#3 4#5 (encP d) m.encA m.encB)
  | .spawn p a b =>
    some (mkF 0x388 p 0#1 0#3 0#3 0#3 0#5 0#20 (encV a) b.enc)
  | .spq p =>
    some (mkF 0x389 p 1#1 0#3 0#3 0#3 0#5 0#20 0#20 0#20)
  | .sealsave p g a b =>
    some (mkF 0x3c0 p 1#1 0#3 0#3 0#3 0#5 (encImm (g.setWidth 18)) (encS a) (encS b))
  | .sealload p g a b =>
    some (mkF 0x3c1 p 1#1 0#3 0#3 0#3 0#5 (encImm (g.setWidth 18)) (encS a) (encS b))
  | .ptew p a b =>
    some (mkF 0x3c2 p 1#1 0#3 0#3 0#3 0#5 0#20 (encS a) (encS b))
  | .poolget p d =>
    some (mkF 0x3c3 p 1#1 0#3 0#3 0#3 0#5 (encS d) 0#20 0#20)
  | .fltinfo p d =>
    some (mkF 0x3c4 p 1#1 0#3 0#3 0#3 0#5 (encS d) 0#20 0#20)
  | .issueSelect _ _ => none
  | .fragmentOverdue _ _ => none
  | .sleepExpiry _ _ => none
  | .pennantWaitRelease _ _ => none
  | .brokenPennant _ => none
  | .ringWaitResume _ _ => none
  | .ringPublishDeferred _ _ => none
  | .fullLineStallEnd _ _ => none
  | .windowLineFill _ _ => none
  | .waitcntReturn _ _ => none
  | .monitorWake _ _ => none
  | .monitorReread _ _ => none
  | .spawnRoom _ _ => none
  | .spqQueueEmpty _ _ => none
  | .unsealCountZero _ _ => none
  | .packingTimeout _ _ _ => none
  | .packedGroupStart _ _ _ => none
  | .copyRowLands _ => none
  | .copyComplete _ => none
  | .peerBagPooling _ _ => none
  | .scaleCacheFill _ _ => none
  | .octetPassComplete _ => none
  | .ksetComplete _ => none
  | .mdrainComplete _ => none
  | .mloadComplete _ => none
  | .walkerMapWriteDone _ => none
  | .prefetchLands _ => none
  | .tableWalk _ _ _ => none
  | .firmwarePoolFill _ _ => none
  | .read _ _ _ => none
  | .own _ _ _ => none
  | .update _ _ _ => none
  | .writeback _ _ => none
  | .flush _ _ => none
  | .grant _ _ => none
  | .probe _ _ => none
  | .answer _ _ => none
  | .gone _ _ => none
  | .burstCommand _ _ => none
  | .burstComplete _ _ => none
  | .deviceBeatTimeout _ _ => none
  | .abortCompletion _ _ _ => none
  | .probeTimeout _ _ => none
  | .coreLossBroadcast _ _ => none
  | .dispatcherPass => none
  | .yieldTrap _ => none
  | .gangStateSave _ => none
  | .yieldBudgetExpiry _ => none
  | .coreMapChange => none
  | .powerWindow _ _ => none
  | .thermalTrip _ => none
  | .thermalTripEnd _ => none
  | .cqdoor _ _ _ => none
  | .queueRegister _ _ _ => none
  | .queueUnregister _ _ _ => none
  | .queueErrorClear _ _ => none
  | .cchead _ _ _ => none
  | .fqhead _ _ => none
  | .fqOverflowClear _ => none
  | .registerWrite _ _ _ => none
  | .commandStart _ _ => none
  | .launch _ _ => none
  | .hostCopy _ _ => none
  | .map _ _ => none
  | .unmap _ _ => none
  | .poolGrant _ _ => none
  | .tokenSignal _ _ => none
  | .tokenWait _ _ => none
  | .contextCreate _ _ => none
  | .contextSave _ _ => none
  | .contextRestore _ _ => none
  | .launchAbort _ _ => none
  | .loadImage _ _ => none
  | .contextDestroy _ _ => none
  | .healthQuery _ _ => none
  | .scanTest _ _ => none
  | .scanDrainDone _ => none
  | .scanDrainTimeout _ => none
  | .scanRunDone _ _ => none
  | .scanTestAbort _ => none
  | .deconfigure _ _ => none
  | .attest _ _ => none
  | .reclaim _ _ => none
  | .nodeQuery _ _ => none
  | .halyardFlitReceive _ _ _ => none
  | .replayRequest _ _ => none
  | .stopGo _ _ => none
  | .linkRetrain _ _ => none
  | .linkDown _ => none
  | .halyardMessage _ _ _ => none
  | .deviceDrop _ => none
  | .launchAbortMessage _ => none
  | .hoistReady _ _ => none
  | .hoistGo _ => none
  | .launchEndReport _ _ _ => none
  | .healthRecordRead => none
  | .ageingMonitorRead => none
  | .errorLogRead => none
  | .warmReset => none
  | .coldReset => none
  | .ageingSample _ _ _ => none
  | .errorFilterEpoch => none
  | .healthRebuild => none
  | .horizonReached _ _ => none
  | .hostMemoryCompletion _ _ _ => none
  | .atomicAtHome _ => none
  | .powerOn _ => none

/-- The word of an instruction (R216); `none` for a step that is no instruction word. -/
def encode (i : Instr) : Option InstrWord := i.fields.map Fields.pack

/-- The instruction a word's opcode and operands name, before its unused bits are checked. -/
def Instr.ofFields (f : Fields) : Option Instr :=
  match f.op.toNat with
  | 0x000 => some (.nop f.pre (decBit f.uni))
  | 0x001 => some (.br f.pre ((f.a.extractLsb' 0 16 ++ f.b.extractLsb' 0 16 : BitVec 32)))
  | 0x002 => some (.brc f.pre (decBit (f.ty.extractLsb' 0 1)) (f.d.extractLsb' 0 7) ((f.a.extractLsb' 0 16 ++ f.b.extractLsb' 0 16 : BitVec 32)))
  | 0x003 => some (.brd f.pre (f.a.extractLsb' 0 17) (f.b.extractLsb' 0 17))
  | 0x004 => some (.brx f.pre (f.a.extractLsb' 0 7))
  | 0x005 => some (.call f.pre (f.d.extractLsb' 0 7) ((f.a.extractLsb' 0 16 ++ f.b.extractLsb' 0 16 : BitVec 32)))
  | 0x006 => some (.ret f.pre (f.a.extractLsb' 0 7))
  | 0x007 => some (.loop f.pre (f.d.extractLsb' 0 7) ((f.a.extractLsb' 0 16 ++ f.b.extractLsb' 0 16 : BitVec 32)))
  | 0x008 => some (.exit f.pre)
  | 0x009 => (SI.dec f.a).map fun n => .sleep f.pre n
  | 0x00a => some (.trap f.pre (f.a.extractLsb' 0 8))
  | 0x00b => some (.rtt f.pre)
  | 0x00c => if f.ty = 0 then some (.yielddSusp f.pre) else some (.yielddRet f.pre)
  | 0x00d => some (.bkpt f.pre (f.a.extractLsb' 0 8))
  | 0x040 => (IntTy.ofCode f.ty).bind fun ty => (SI.dec f.b).map fun b => .sadd f.pre ty (f.d.extractLsb' 0 7) (f.a.extractLsb' 0 7) b
  | 0x041 => (IntTy.ofCode f.ty).bind fun ty => (SI.dec f.b).map fun b => .ssub f.pre ty (f.d.extractLsb' 0 7) (f.a.extractLsb' 0 7) b
  | 0x042 => (SI.dec f.b).map fun b => .smul f.pre (f.d.extractLsb' 0 7) (f.a.extractLsb' 0 7) b
  | 0x043 => (IntTy.ofCode f.ty).bind fun ty => (SI.dec f.b).map fun b => .smulh f.pre ty (f.d.extractLsb' 0 7) (f.a.extractLsb' 0 7) b
  | 0x044 => (IntTy.ofCode f.ty).bind fun ty => (SI.dec f.b).map fun b => .sdiv f.pre ty (f.d.extractLsb' 0 7) (f.a.extractLsb' 0 7) b
  | 0x045 => (IntTy.ofCode f.ty).bind fun ty => (SI.dec f.b).map fun b => .srem f.pre ty (f.d.extractLsb' 0 7) (f.a.extractLsb' 0 7) b
  | 0x046 => (SI.dec f.b).map fun b => .sand f.pre (f.d.extractLsb' 0 7) (f.a.extractLsb' 0 7) b
  | 0x047 => (SI.dec f.b).map fun b => .sor f.pre (f.d.extractLsb' 0 7) (f.a.extractLsb' 0 7) b
  | 0x048 => (SI.dec f.b).map fun b => .sxor f.pre (f.d.extractLsb' 0 7) (f.a.extractLsb' 0 7) b
  | 0x049 => (IntTy.ofCode f.ty).bind fun ty => (SI.dec f.b).map fun b => .sshl f.pre ty (f.d.extractLsb' 0 7) (f.a.extractLsb' 0 7) b
  | 0x04a => (IntTy.ofCode f.ty).bind fun ty => (SI.dec f.b).map fun b => .sshr f.pre ty (f.d.extractLsb' 0 7) (f.a.extractLsb' 0 7) b
  | 0x04b => (IntTy.ofCode f.ty).bind fun ty => (SI.dec f.b).map fun b => .ssar f.pre ty (f.d.extractLsb' 0 7) (f.a.extractLsb' 0 7) b
  | 0x04c => (IntTy.ofCode f.ty).bind fun ty => (SI.dec f.b).map fun b => .smin f.pre ty (f.d.extractLsb' 0 7) (f.a.extractLsb' 0 7) b
  | 0x04d => (IntTy.ofCode f.ty).bind fun ty => (SI.dec f.b).map fun b => .smax f.pre ty (f.d.extractLsb' 0 7) (f.a.extractLsb' 0 7) b
  | 0x04e => (Cmp.ofCode f.ty).bind fun cc => (SI.dec f.b).map fun b => .scmp f.pre cc (f.d.extractLsb' 0 7) (f.a.extractLsb' 0 7) b
  | 0x04f => (IntTy.ofCode f.ty).map fun ty => .smov f.pre ty (f.d.extractLsb' 0 7) (f.a.extractLsb' 0 7)
  | 0x050 => some (.smovi f.pre (f.d.extractLsb' 0 7) ((f.a.extractLsb' 0 16 ++ f.b.extractLsb' 0 16 : BitVec 32)))
  | 0x051 => (SI.dec f.b).map fun b => .slea f.pre (f.ty.extractLsb' 0 2) (f.d.extractLsb' 0 7) (f.a.extractLsb' 0 7) b
  | 0x052 => (SI.dec f.a).bind fun a => (SI.dec f.b).map fun b => .ssel f.pre (f.d.extractLsb' 0 7) a b
  | 0x080 => (VSI.dec f.a).map fun a => .pset f.pre (f.d.extractLsb' 0 6) a
  | 0x081 => some (.plop f.pre (f.ty.extractLsb' 0 4) (f.d.extractLsb' 0 6) (f.a.extractLsb' 0 6) (f.b.extractLsb' 0 6))
  | 0x082 => some (.pcnt f.pre (f.d.extractLsb' 0 7) (f.a.extractLsb' 0 6))
  | 0x083 => some (.pfirst f.pre (f.d.extractLsb' 0 7) (f.a.extractLsb' 0 6))
  | 0x084 => (Vote.ofCode f.ty).map fun m => .pvote f.pre m (f.d.extractLsb' 0 6) (f.a.extractLsb' 0 6)
  | 0x085 => (VS.dec f.d).map fun d => .rdsp f.pre d (f.a.extractLsb' 0 6)
  | 0x086 => (VSI.dec f.a).map fun a => .wrsp f.pre (f.d.extractLsb' 0 6) a
  | 0x087 => some (.setfmt f.pre (f.a.extractLsb' 0 7))
  | 0x088 => some (.setrm f.pre (f.a.extractLsb' 0 4))
  | 0x089 => (VS.dec f.d).map fun d => .rdff f.pre d
  | 0x08a => some (.clrff f.pre (f.a.extractLsb' 0 5))
  | 0x0c0 => (IntTy.ofCode f.ty).bind fun ty => (VS.dec f.a).bind fun a => (VSI.dec f.b).map fun b => .iadd f.pre f.ext ty (f.d.extractLsb' 0 11) a b
  | 0x0c1 => (IntTy.ofCode f.ty).bind fun ty => (VS.dec f.a).bind fun a => (VSI.dec f.b).map fun b => .isub f.pre f.ext ty (f.d.extractLsb' 0 11) a b
  | 0x0c2 => (VS.dec f.a).bind fun a => (VSI.dec f.b).map fun b => .imul f.pre f.ext (f.d.extractLsb' 0 11) a b
  | 0x0c3 => (IntTy.ofCode f.ty).bind fun ty => (VS.dec f.a).bind fun a => (VSI.dec f.b).map fun b => .imulh f.pre f.ext ty (f.d.extractLsb' 0 11) a b
  | 0x0c4 => (VS.dec f.a).bind fun a => (VSI.dec f.b).map fun b => .imad f.pre f.ext (f.d.extractLsb' 0 11) a b
  | 0x0c5 => (IntTy.ofCode f.ty).bind fun ty => (VS.dec f.a).bind fun a => (VSI.dec f.b).map fun b => .idiv f.pre f.ext ty (f.d.extractLsb' 0 11) a b
  | 0x0c6 => (IntTy.ofCode f.ty).bind fun ty => (VS.dec f.a).bind fun a => (VSI.dec f.b).map fun b => .irem f.pre f.ext ty (f.d.extractLsb' 0 11) a b
  | 0x0c7 => (IntTy.ofCode f.ty).bind fun ty => (VS.dec f.a).bind fun a => (VSI.dec f.b).map fun b => .imin f.pre f.ext ty (f.d.extractLsb' 0 11) a b
  | 0x0c8 => (IntTy.ofCode f.ty).bind fun ty => (VS.dec f.a).bind fun a => (VSI.dec f.b).map fun b => .imax f.pre f.ext ty (f.d.extractLsb' 0 11) a b
  | 0x0c9 => (VS.dec f.a).map fun a => .iabs f.pre f.ext (f.d.extractLsb' 0 11) a
  | 0x0ca => (VS.dec f.a).map fun a => .ineg f.pre f.ext (f.d.extractLsb' 0 11) a
  | 0x0cb => (Cmp.ofCode f.ty).bind fun cc => (VS.dec f.a).bind fun a => (VSI.dec f.b).map fun b => .icmp f.pre cc (f.d.extractLsb' 0 6) a b
  | 0x0cc => (VSI.dec f.a).bind fun a => (VSI.dec f.b).map fun b => .isel f.pre f.ext ((f.rf.extractLsb' 0 1 ++ f.ty : BitVec 6)) (f.d.extractLsb' 0 11) a b
  | 0x0cd => (VSI.dec f.a).map fun a => .imov f.pre f.ext (f.d.extractLsb' 0 11) a
  | 0x0ce => some (.imovi f.pre f.ext (f.d.extractLsb' 0 11) ((f.a.extractLsb' 0 16 ++ f.b.extractLsb' 0 16 : BitVec 32)))
  | 0x100 => (VS.dec f.a).bind fun a => (VSI.dec f.b).map fun b => .iand f.pre f.ext (f.d.extractLsb' 0 11) a b
  | 0x101 => (VS.dec f.a).bind fun a => (VSI.dec f.b).map fun b => .ior f.pre f.ext (f.d.extractLsb' 0 11) a b
  | 0x102 => (VS.dec f.a).bind fun a => (VSI.dec f.b).map fun b => .ixor f.pre f.ext (f.d.extractLsb' 0 11) a b
  | 0x103 => (VS.dec f.a).map fun a => .inot f.pre f.ext (f.d.extractLsb' 0 11) a
  | 0x104 => (VS.dec f.a).bind fun a => (VSI.dec f.b).map fun b => .ishl f.pre f.ext (f.d.extractLsb' 0 11) a b
  | 0x105 => (VS.dec f.a).bind fun a => (VSI.dec f.b).map fun b => .ishr f.pre f.ext (f.d.extractLsb' 0 11) a b
  | 0x106 => (VS.dec f.a).bind fun a => (VSI.dec f.b).map fun b => .isar f.pre f.ext (f.d.extractLsb' 0 11) a b
  | 0x107 => (VS.dec f.a).bind fun a => (VSI.dec f.b).map fun b => .irot f.pre f.ext (f.d.extractLsb' 0 11) a b
  | 0x108 => (IntTy.ofCode f.ty).bind fun ty => (VS.dec f.a).bind fun a => (VSI.dec f.b).map fun b => .bfx f.pre f.ext ty (f.d.extractLsb' 0 11) a b
  | 0x109 => (VS.dec f.a).bind fun a => (VSI.dec f.b).map fun b => .bfi f.pre f.ext (f.d.extractLsb' 0 11) a b
  | 0x10a => (VS.dec f.a).map fun a => .popc f.pre f.ext (f.d.extractLsb' 0 11) a
  | 0x10b => (VS.dec f.a).map fun a => .clz f.pre f.ext (f.d.extractLsb' 0 11) a
  | 0x140 => (VS.dec f.a).bind fun a => (VS.dec f.b).map fun b => .fadd f.pre f.ext (f.rf) (f.d.extractLsb' 0 11) a b
  | 0x141 => (VS.dec f.a).bind fun a => (VS.dec f.b).map fun b => .fsub f.pre f.ext (f.rf) (f.d.extractLsb' 0 11) a b
  | 0x142 => (VS.dec f.a).bind fun a => (VS.dec f.b).map fun b => .fmul f.pre f.ext (f.rf) (f.d.extractLsb' 0 11) a b
  | 0x143 => (VS.dec f.a).bind fun a => (VS.dec f.b).map fun b => .ffma f.pre f.ext (f.rf) (f.d.extractLsb' 0 11) a b
  | 0x144 => (VS.dec f.a).bind fun a => (VS.dec f.b).map fun b => .fmin f.pre f.ext (f.d.extractLsb' 0 11) a b
  | 0x145 => (VS.dec f.a).bind fun a => (VS.dec f.b).map fun b => .fmax f.pre f.ext (f.d.extractLsb' 0 11) a b
  | 0x146 => (VS.dec f.a).map fun a => .fabs f.pre f.ext (f.d.extractLsb' 0 11) a
  | 0x147 => (VS.dec f.a).map fun a => .fneg f.pre f.ext (f.d.extractLsb' 0 11) a
  | 0x148 => (FCond.ofCode f.rf).bind fun cc => (VS.dec f.a).bind fun a => (VS.dec f.b).map fun b => .fcmp f.pre cc (f.d.extractLsb' 0 6) a b
  | 0x149 => (VS.dec f.a).map fun a => .fclass f.pre f.ext (f.d.extractLsb' 0 11) a
  | 0x14a => (VS.dec f.a).bind fun a => (VS.dec f.b).map fun b => .fdiv f.pre f.ext (f.rf) (f.d.extractLsb' 0 11) a b
  | 0x14b => (VS.dec f.a).map fun a => .fsqrt f.pre f.ext (f.rf) (f.d.extractLsb' 0 11) a
  | 0x14c => (VS.dec f.a).map fun a => .frcp f.pre f.ext (f.rf) (f.d.extractLsb' 0 11) a
  | 0x14d => (VS.dec f.a).map fun a => .frsq f.pre f.ext (f.rf) (f.d.extractLsb' 0 11) a
  | 0x14e => (VS.dec f.a).map fun a => .fexp2 f.pre f.ext (f.rf) (f.d.extractLsb' 0 11) a
  | 0x14f => (VS.dec f.a).map fun a => .flog2 f.pre f.ext (f.rf) (f.d.extractLsb' 0 11) a
  | 0x150 => (VS.dec f.a).map fun a => .fsinpi f.pre f.ext (f.rf) (f.d.extractLsb' 0 11) a
  | 0x151 => (VS.dec f.a).map fun a => .fcospi f.pre f.ext (f.rf) (f.d.extractLsb' 0 11) a
  | 0x152 => (VS.dec f.a).map fun a => .fround f.pre f.ext (f.rf) (f.d.extractLsb' 0 11) a
  | 0x180 => (VS.dec f.a).bind fun a => (VS.dec f.b).map fun b => .faddPacked f.pre f.ext (decBit (f.ty.extractLsb' 1 1)) (f.rf) (f.d.extractLsb' 0 11) a b
  | 0x181 => (VS.dec f.a).bind fun a => (VS.dec f.b).map fun b => .fsubPacked f.pre f.ext (decBit (f.ty.extractLsb' 1 1)) (f.rf) (f.d.extractLsb' 0 11) a b
  | 0x182 => (VS.dec f.a).bind fun a => (VS.dec f.b).map fun b => .fmulPacked f.pre f.ext (decBit (f.ty.extractLsb' 1 1)) (f.rf) (f.d.extractLsb' 0 11) a b
  | 0x183 => (VS.dec f.a).bind fun a => (VS.dec f.b).map fun b => .ffmaPacked f.pre f.ext (decBit (f.ty.extractLsb' 1 1)) (f.rf) (f.d.extractLsb' 0 11) a b
  | 0x184 => (VS.dec f.a).bind fun a => (VS.dec f.b).map fun b => .fminPacked f.pre f.ext (decBit (f.ty.extractLsb' 1 1)) (f.d.extractLsb' 0 11) a b
  | 0x185 => (VS.dec f.a).bind fun a => (VS.dec f.b).map fun b => .fmaxPacked f.pre f.ext (decBit (f.ty.extractLsb' 1 1)) (f.d.extractLsb' 0 11) a b
  | 0x186 => (VS.dec f.a).map fun a => .fabsPacked f.pre f.ext (decBit (f.ty.extractLsb' 1 1)) (f.d.extractLsb' 0 11) a
  | 0x187 => (VS.dec f.a).map fun a => .fnegPacked f.pre f.ext (decBit (f.ty.extractLsb' 1 1)) (f.d.extractLsb' 0 11) a
  | 0x188 => (FCond.ofCode f.rf).bind fun cc => (VS.dec f.a).bind fun a => (VS.dec f.b).map fun b => .fcmpPacked f.pre (decBit (f.ty.extractLsb' 1 1)) cc (f.d.extractLsb' 0 6) a b
  | 0x189 => (VS.dec f.a).map fun a => .fclassPacked f.pre f.ext (decBit (f.ty.extractLsb' 1 1)) (f.d.extractLsb' 0 11) a
  | 0x18a => (VS.dec f.a).bind fun a => (VS.dec f.b).map fun b => .fdivPacked f.pre f.ext (decBit (f.ty.extractLsb' 1 1)) (f.rf) (f.d.extractLsb' 0 11) a b
  | 0x18b => (VS.dec f.a).map fun a => .fsqrtPacked f.pre f.ext (decBit (f.ty.extractLsb' 1 1)) (f.rf) (f.d.extractLsb' 0 11) a
  | 0x18c => (VS.dec f.a).map fun a => .frcpPacked f.pre f.ext (decBit (f.ty.extractLsb' 1 1)) (f.rf) (f.d.extractLsb' 0 11) a
  | 0x18d => (VS.dec f.a).map fun a => .frsqPacked f.pre f.ext (decBit (f.ty.extractLsb' 1 1)) (f.rf) (f.d.extractLsb' 0 11) a
  | 0x18e => (VS.dec f.a).map fun a => .fexp2Packed f.pre f.ext (decBit (f.ty.extractLsb' 1 1)) (f.rf) (f.d.extractLsb' 0 11) a
  | 0x18f => (VS.dec f.a).map fun a => .flog2Packed f.pre f.ext (decBit (f.ty.extractLsb' 1 1)) (f.rf) (f.d.extractLsb' 0 11) a
  | 0x190 => (VS.dec f.a).map fun a => .fsinpiPacked f.pre f.ext (decBit (f.ty.extractLsb' 1 1)) (f.rf) (f.d.extractLsb' 0 11) a
  | 0x191 => (VS.dec f.a).map fun a => .fcospiPacked f.pre f.ext (decBit (f.ty.extractLsb' 1 1)) (f.rf) (f.d.extractLsb' 0 11) a
  | 0x192 => (VS.dec f.a).map fun a => .froundPacked f.pre f.ext (decBit (f.ty.extractLsb' 1 1)) (f.rf) (f.d.extractLsb' 0 11) a
  | 0x1a0 => (Fmt.ofCode f.ty).bind fun tgt => (VS.dec f.a).bind fun a => (Fmt.ofCode (f.b.extractLsb' 0 5)).map fun src => .cvt f.pre f.ext tgt (f.rf) (f.d.extractLsb' 0 11) a src (decBit (f.b.extractLsb' 5 1))
  | 0x1a1 => (Fmt.ofCode f.ty).map fun tgt => .qblk f.pre tgt (f.rf) (f.d.extractLsb' 0 11) (f.a.extractLsb' 0 11) (f.b.extractLsb' 0 11)
  | 0x1a2 => (Fmt.ofCode f.ty).bind fun src => (VS.dec f.b).map fun b => .dqblk f.pre src (f.d.extractLsb' 0 11) (f.a.extractLsb' 0 11) b
  | 0x1c0 => (ShflMode.ofCode f.ty).bind fun m => (VSI.dec f.b).map fun b => .shfl f.pre m (f.d.extractLsb' 0 11) (f.a.extractLsb' 0 11) b
  | 0x1c1 => (SI.dec f.b).map fun b => .bcast f.pre (f.d.extractLsb' 0 11) (f.a.extractLsb' 0 11) b
  | 0x1c2 => (Op.ofCode f.ty).bind fun o => (VS.dec f.d).map fun d => .vred f.pre o (f.rf) d (f.a.extractLsb' 0 11)
  | 0x1c3 => (Op.ofCode f.ty).map fun o => .vscan f.pre o (f.rf) (f.d.extractLsb' 0 11) (f.a.extractLsb' 0 11) (decBit (f.b.extractLsb' 0 1))
  | 0x1c4 => some (.vcompact f.pre (f.d.extractLsb' 0 11) (f.a.extractLsb' 0 11) (f.b.extractLsb' 0 6))
  | 0x1d0 => (VS.dec f.d).map fun d => .cka f.pre f.ext (decBit (f.ty.extractLsb' 0 1)) d (f.a.extractLsb' 0 11)
  | 0x1d1 => (VS.dec f.d).bind fun d => (VS.dec f.a).bind fun a => (SI.dec f.b).map fun b => .chk f.pre (decBit (f.ty.extractLsb' 0 1)) d a b
  | 0x200 => (Size.ofCode f.ty).bind fun sz => (Scope.ofCode f.rf).bind fun sc => (VS.dec f.d).map fun d => .ld f.pre sz sc d (MemOp.dec f.a f.b)
  | 0x201 => (Size.ofCode f.ty).bind fun sz => (Scope.ofCode f.rf).bind fun sc => (VS.dec f.d).map fun d => .st f.pre sz sc d (MemOp.dec f.a f.b)
  | 0x202 => (Size.ofCode f.ty).bind fun sz => (Scope.ofCode f.rf).map fun sc => .ldx f.pre f.ext sz sc (f.d.extractLsb' 0 11) (MemOp.dec f.a f.b)
  | 0x203 => (Size.ofCode f.ty).bind fun sz => (Scope.ofCode f.rf).map fun sc => .stx f.pre f.ext sz sc (f.d.extractLsb' 0 11) (MemOp.dec f.a f.b)
  | 0x204 => some (.prf f.pre (MemOp.dec f.a f.b))
  | 0x205 => some (.invl f.pre (MemOp.dec f.a f.b))
  | 0x240 => (Size.ofCode f.ty).bind fun sz => (Scope.ofCode f.rf).bind fun sc => (VS.dec f.d).map fun d => .lds f.pre sz sc d (MemOp.dec f.a f.b)
  | 0x241 => (Size.ofCode f.ty).bind fun sz => (Scope.ofCode f.rf).bind fun sc => (VS.dec f.d).map fun d => .sts f.pre sz sc d (MemOp.dec f.a f.b)
  | 0x242 => some (.winmap f.pre (f.d.extractLsb' 0 3) (f.a.extractLsb' 0 7) (f.b.extractLsb' 0 7))
  | 0x243 => some (.winfl f.pre (f.d.extractLsb' 0 3))
  | 0x244 => some (.windrop f.pre (f.d.extractLsb' 0 3))
  | 0x280 => (Op.ofCode f.ty).bind fun o => (Scope.ofCode f.rf).bind fun sc => (VS.dec f.d).map fun d => .atom f.pre o sc d (MemOp.dec f.a f.b)
  | 0x281 => (Op.ofCode f.ty).bind fun o => (Scope.ofCode f.rf).bind fun sc => (VS.dec f.d).map fun d => .red f.pre o sc d (MemOp.dec f.a f.b)
  | 0x282 => (Op.ofCode f.ty).bind fun o => (Scope.ofCode f.rf).bind fun sc => (VS.dec f.d).map fun d => .atoms f.pre o sc d (MemOp.dec f.a f.b)
  | 0x283 => (Op.ofCode f.ty).bind fun o => (VS.dec f.d).map fun d => .upd f.pre o (f.rf) d (MemOp.dec f.a f.b)
  | 0x2c0 => (FenceKind.ofCode f.ty).bind fun k => (Scope.ofCode f.rf).map fun sc => .fence f.pre (decBit f.uni) k sc
  | 0x2c1 => some (.seal f.pre (f.a.extractLsb' 0 7) (f.b.extractLsb' 0 7))
  | 0x2c2 => some (.unseal f.pre (f.a.extractLsb' 0 7))
  | 0x2c3 => some (.waitcnt f.pre (f.a.extractLsb' 0 2) (f.b.extractLsb' 0 13))
  | 0x2c4 => (Cmp.ofCode f.ty).bind fun cc => (Scope.ofCode f.rf).bind fun sc => (VS.dec f.d).map fun d => .waitcmp f.pre cc sc d (MemOp.dec f.a f.b)
  | 0x2c5 => (Scope.ofCode f.rf).map fun sc => .waitw f.pre sc (MemOp.dec f.a f.b)
  | 0x2c6 => some (.pjoin f.pre (f.a.extractLsb' 0 6))
  | 0x2c7 => some (.pleave f.pre (f.a.extractLsb' 0 6))
  | 0x2c8 => (SI.dec f.b).map fun b => .pexpect f.pre (f.a.extractLsb' 0 6) b
  | 0x2c9 => some (.parrive f.pre (f.a.extractLsb' 0 6))
  | 0x2ca => some (.pwait f.pre (f.a.extractLsb' 0 6))
  | 0x2cb => some (.psync f.pre (f.a.extractLsb' 0 6))
  | 0x2cc => some (.racq f.pre (f.d.extractLsb' 0 7) (f.a.extractLsb' 0 4))
  | 0x2cd => (SI.dec f.b).map fun b => .rpub f.pre (f.a.extractLsb' 0 4) b
  | 0x2ce => some (.rtake f.pre (f.d.extractLsb' 0 7) (f.a.extractLsb' 0 4))
  | 0x2cf => (SI.dec f.b).map fun b => .rfree f.pre (f.a.extractLsb' 0 4) b
  | 0x2d0 => (SI.dec f.a).bind fun a => (SI.dec f.b).map fun b => .tsig f.pre a b
  | 0x300 => some (.cpy f.pre (f.a.extractLsb' 0 7))
  | 0x301 => some (.cpyg f.pre (f.a.extractLsb' 0 7))
  | 0x302 => some (.cpys f.pre (f.a.extractLsb' 0 7))
  | 0x303 => some (.cpyr f.pre (f.a.extractLsb' 0 7))
  | 0x304 => some (.cpyb f.pre (f.rf) (f.a.extractLsb' 0 7))
  | 0x305 => some (.cpyf f.pre (f.a.extractLsb' 0 7))
  | 0x306 => some (.cpyq f.pre (f.a.extractLsb' 0 7))
  | 0x340 => some (.scbind f.pre (f.d.extractLsb' 0 6) (f.a.extractLsb' 0 7))
  | 0x341 => some (.scdrop f.pre (f.d.extractLsb' 0 6))
  | 0x342 => (Fmt.ofCode f.ty).map fun fm => .kset f.pre fm (f.d.extractLsb' 0 3) (f.a.extractLsb' 0 7) (f.b.extractLsb' 0 7)
  | 0x343 => some (.krel f.pre (f.d.extractLsb' 0 3))
  | 0x344 => some (.mzero f.pre (f.d.extractLsb' 0 6))
  | 0x345 => some (.mma f.pre f.ext (decBit (f.ty.extractLsb' 0 1)) (f.rf) (f.d.extractLsb' 0 6) (f.d.extractLsb' 6 6) (f.a.extractLsb' 0 11) (f.b.extractLsb' 0 3) (f.b.extractLsb' 7 7))
  | 0x346 => some (.mmasp f.pre f.ext (decBit (f.ty.extractLsb' 0 1)) (f.rf) (f.d.extractLsb' 0 6) (f.d.extractLsb' 6 6) (f.a.extractLsb' 0 11) (f.b.extractLsb' 0 3) (f.b.extractLsb' 7 7))
  | 0x347 => (MFmt.ofCode (f.ty.extractLsb' 0 4)).map fun fm => .mdrain f.pre (decBit (f.ty.extractLsb' 4 1)) fm (f.rf) (f.d.extractLsb' 0 6) (decBit (f.d.extractLsb' 11 1)) (decBit (f.d.extractLsb' 10 1)) (f.d.extractLsb' 6 4) (MemOp.dec f.a f.b)
  | 0x348 => (MFmt.ofCode (f.ty.extractLsb' 0 4)).map fun fm => .mload f.pre fm (f.d.extractLsb' 0 6) (decBit (f.d.extractLsb' 11 1)) (MemOp.dec f.a f.b)
  | 0x380 => some (.itset f.pre (f.a.extractLsb' 0 7))
  | 0x381 => some (.itnext f.pre (f.d.extractLsb' 0 11))
  | 0x382 => some (.itdone f.pre (f.a.extractLsb' 0 11))
  | 0x383 => some (.itend f.pre)
  | 0x384 => some (.resq f.pre (f.d.extractLsb' 0 6) (MemOp.dec f.a f.b))
  | 0x388 => (SI.dec f.b).map fun b => .spawn f.pre (f.a.extractLsb' 0 11) b
  | 0x389 => some (.spq f.pre)
  | 0x3c0 => some (.sealsave f.pre (f.d.extractLsb' 0 8) (f.a.extractLsb' 0 7) (f.b.extractLsb' 0 7))
  | 0x3c1 => some (.sealload f.pre (f.d.extractLsb' 0 8) (f.a.extractLsb' 0 7) (f.b.extractLsb' 0 7))
  | 0x3c2 => some (.ptew f.pre (f.a.extractLsb' 0 7) (f.b.extractLsb' 0 7))
  | 0x3c3 => some (.poolget f.pre (f.d.extractLsb' 0 7))
  | 0x3c4 => some (.fltinfo f.pre (f.d.extractLsb' 0 7))
  | _ => none

/-- Why a word is illegal (R245). -/
inductive DecodeError where
  /-- the opcode is unassigned, or an operand holds a kind or code the row does not accept -/
  | unassigned
  /-- a value the row does not accept -/
  | illFormed
  /-- nonzero bits where the row requires zero, or a wrong uniform marker -/
  | reservedBits
  /-- fewer than twelve bytes -/
  | short
  deriving DecidableEq, Repr

/-- Decode one word (R245): total, rejecting by name. -/
def decodeWord (x : InstrWord) : Except DecodeError Instr :=
  match Instr.ofFields (Fields.unpack x) with
  | none => .error .unassigned
  | some i =>
    if i.wf = false then .error .illFormed
    else if encode i = some x then .ok i else .error .reservedBits

/-- The word stored in twelve bytes, least significant first (R3, R216). -/
def wordOfBytes (bs : List Byte) : InstrWord :=
  BitVec.ofNat 96 (bs.foldr (fun b n => b.toNat + 256 * n) 0)

/-- The twelve bytes of a word, least significant first (R3, R216). -/
def bytesOfWord (x : InstrWord) : List Byte :=
  (List.range 12).map fun k => x.extractLsb' (8 * k) 8

/-- Decode an instruction from the bytes at the pc, and the bytes after it. -/
def decode (bs : List Byte) : Except DecodeError (Instr × List Byte) :=
  if bs.length < 12 then .error .short
  else (decodeWord (wordOfBytes (bs.take 12))).map fun i => (i, bs.drop 12)

/-- The bytes of an instruction word whose bits are numbered as spec/opcode_table.json numbers them;
the bits from `nbits` up are zero. -/
def tableBytes (nbits w : Nat) : List Byte := bytesOfWord (BitVec.ofNat 96 (w % 2 ^ nbits))

/-- The instruction this decoder reads from a word numbered as the opcode table numbers its bits. -/
def decodeTableWord (nbits w : Nat) : Option Instr :=
  match decode (tableBytes nbits w) with
  | .ok (i, _) => some i
  | .error _ => none

end Sys2Proof
end

