-- ==== Sys2Proof/Machine/Crypto.lean ====
section
/-! DEFINITION. The public algorithms that the spec names: AES-256-GCM (R212 to R215) and SHAKE256 (R420), as FIPS 197,
SP 800-38D and FIPS 202 define them (log 22). Bytes are numbers below 256. -/

namespace Sys2Proof.Machine

/-! ### AES-256 -/

/-- Multiplication by x in the field of AES. -/
def xtime (a : Nat) : Nat := if 128 ≤ a then (2 * a) ^^^ 0x11B else 2 * a
/-- Multiplication in the field of AES. -/
def gmul (a b : Nat) : Nat :=
  ((List.range 8).foldl (fun (r : Nat × Nat) i => (if b.testBit i then r.1 ^^^ r.2 else r.1, xtime r.2)) (0, a)).1
/-- The inverse in the field of AES, as the 254th power; 0 for 0. -/
def ginv (a : Nat) : Nat :=
  let a2 := gmul a a
  let a4 := gmul a2 a2
  let a8 := gmul a4 a4
  let a16 := gmul a8 a8
  let a32 := gmul a16 a16
  let a64 := gmul a32 a32
  let a128 := gmul a64 a64
  gmul a128 (gmul a64 (gmul a32 (gmul a16 (gmul a8 (gmul a4 a2)))))
/-- Rotate a byte left. -/
def rotl8 (a n : Nat) : Nat := (a * 2 ^ n ||| a / 2 ^ (8 - n)) % 256
/-- The substitution of a byte. -/
def sbox (a : Nat) : Nat :=
  let b := ginv a
  b ^^^ rotl8 b 1 ^^^ rotl8 b 2 ^^^ rotl8 b 3 ^^^ rotl8 b 4 ^^^ 0x63

/-- XOR of byte strings. -/
def xorBytes (a b : List Nat) : List Nat := (a.zip b).map fun p => p.1 ^^^ p.2

/-- The words of the expanded key: `n` more words after those given, the last word first. -/
def expandKey : Nat → Nat → List (List Nat) → List (List Nat)
  | 0, _, ws => ws
  | n + 1, i, ws =>
    let t := ws.headD []
    let t := if i % 8 = 0 then
        (xorBytes ((t.drop 1 ++ t.take 1).map sbox) [(List.range (i / 8 - 1)).foldl (fun r _ => xtime r) 1, 0, 0, 0])
      else if i % 8 = 4 then t.map sbox
      else t
    expandKey n (i + 1) (xorBytes (ws.getD 7 []) t :: ws)

/-- The fifteen round keys of a 32-byte key. -/
def roundKeys (key : List Nat) : List (List Nat) :=
  let ws := (expandKey 52 8 (((List.range 8).map fun i => (key.drop (4 * i)).take 4).reverse)).reverse
  (List.range 15).map fun r => ((ws.drop (4 * r)).take 4).flatten

def shiftRows (s : List Nat) : List Nat := (List.range 16).map fun i => s.getD (4 * ((i / 4 + i % 4) % 4) + i % 4) 0
def mixColumns (s : List Nat) : List Nat :=
  (List.range 16).map fun i =>
    let c := i / 4 * 4
    let g (k : Nat) : Nat := s.getD (c + (i + k) % 4) 0
    xtime (g 0) ^^^ (xtime (g 1) ^^^ g 1) ^^^ g 2 ^^^ g 3

/-- AES-256 of one block. -/
def aesBlock (ks : List (List Nat)) (b : List Nat) : List Nat :=
  let s := xorBytes b (ks.getD 0 [])
  let s := (List.range 13).foldl (fun s r => xorBytes (mixColumns (shiftRows (s.map sbox))) (ks.getD (r + 1) [])) s
  xorBytes (shiftRows (s.map sbox)) (ks.getD 14 [])

/-! ### GCM -/

/-- A big-endian number as bytes. -/
def beBytes (n v : Nat) : List Nat := (List.range n).map fun i => v / 2 ^ (8 * (n - 1 - i)) % 256
def beNat (l : List Nat) : Nat := l.foldl (fun n b => 256 * n + b) 0

/-- Multiplication of blocks. -/
def ghMul (x y : Nat) : Nat :=
  ((List.range 128).foldl (fun (r : Nat × Nat) i =>
    (if x.testBit (127 - i) then r.1 ^^^ r.2 else r.1,
     if r.2 % 2 = 1 then (r.2 / 2) ^^^ (0xE1 * 2 ^ 120) else r.2 / 2)) (0, y)).1
/-- Blocks of 16 bytes, the last one padded with zeros. -/
def blocks16 (l : List Nat) : List (List Nat) :=
  (List.range ((l.length + 15) / 16)).map fun i => (((l.drop (16 * i)).take 16) ++ List.replicate 16 0).take 16
def ghash (h : Nat) (bs : List (List Nat)) : Nat := bs.foldl (fun y b => ghMul (y ^^^ beNat b) h) 0

/-- Encryption or decryption of a byte string in counter mode, the counter beginning at 2. -/
def gcmCrypt (ks : List (List Nat)) (iv data : List Nat) : List Nat :=
  (((blocks16 data).zip (List.range (blocks16 data).length)).flatMap fun b =>
    xorBytes b.1 (aesBlock ks (iv ++ beBytes 4 ((b.2 + 2) % 2 ^ 32)))).take data.length
/-- The tag over the additional data and the ciphertext. -/
def gcmTag (ks : List (List Nat)) (iv aad ct : List Nat) : List Nat :=
  let h := beNat (aesBlock ks (List.replicate 16 0))
  let s := ghash h (blocks16 aad ++ blocks16 ct ++ [beBytes 8 (8 * aad.length) ++ beBytes 8 (8 * ct.length)])
  xorBytes (beBytes 16 s) (aesBlock ks (iv ++ [0, 0, 0, 1]))

/-! ### SHAKE256 -/

/-- Rotate a 64-bit lane left. -/
def rotl64 (a n : Nat) : Nat := (a * 2 ^ (n % 64) ||| a / 2 ^ (64 - n % 64)) % 2 ^ 64

/-- The rotation offsets of rho, by lane x + 5y. -/
def rhoOffsets : List Nat :=
  [0, 1, 62, 28, 27, 36, 44, 6, 55, 20, 3, 10, 43, 25, 39, 41, 45, 15, 21, 8, 18, 2, 61, 56, 14]
/-- One bit of the round-constant register of iota: a step of its shift register. -/
def rcStep (r : Nat) : Nat := if 128 ≤ r then (2 * r) % 256 ^^^ 0x71 else 2 * r
/-- The round constants of iota. -/
def rcOf (round : Nat) : Nat :=
  (List.range 7).foldl (fun c j =>
    if ((List.range (7 * round + j)).foldl (fun r _ => rcStep r) 1) % 2 = 1 then c ||| 2 ^ (2 ^ j - 1) else c) 0

/-- One round of the permutation on 25 lanes. -/
def keccakRound (a : List Nat) (round : Nat) : List Nat :=
  let at_ (l : List Nat) (x y : Nat) : Nat := l.getD (x % 5 + 5 * (y % 5)) 0
  let c := (List.range 5).map fun x => (List.range 5).foldl (fun v y => v ^^^ at_ a x y) 0
  let d := (List.range 5).map fun x => c.getD ((x + 4) % 5) 0 ^^^ rotl64 (c.getD ((x + 1) % 5) 0) 1
  let a := (List.range 25).map fun i => a.getD i 0 ^^^ d.getD (i % 5) 0
  let r := (List.range 25).map fun i => rotl64 (a.getD i 0) (rhoOffsets.getD i 0)
  let b := (List.range 25).map fun i => at_ r (i % 5 + 3 * (i / 5)) (i % 5)
  let n := (List.range 25).map fun i =>
    at_ b (i % 5) (i / 5) ^^^ ((2 ^ 64 - 1 - at_ b (i % 5 + 1) (i / 5)) &&& at_ b (i % 5 + 2) (i / 5))
  (n.headD 0 ^^^ rcOf round) :: n.drop 1
def keccak (a : List Nat) : List Nat := (List.range 24).foldl keccakRound a

/-- The rate of SHAKE256 in bytes. -/
def shakeRate : Nat := 136
/-- A message with its padding. -/
def shakePad (m : List Nat) : List Nat :=
  let k := shakeRate - m.length % shakeRate
  m ++ (if k = 1 then [0x9F] else 0x1F :: (List.replicate (k - 2) 0 ++ [0x80]))
def leNat8 (l : List Nat) : Nat := l.foldr (fun b n => b + 256 * n) 0
/-- Absorb one block of the rate. -/
def absorb (a b : List Nat) : List Nat :=
  keccak ((List.range 25).map fun i => a.getD i 0 ^^^ (if i < 17 then leNat8 ((b.drop (8 * i)).take 8) else 0))
/-- SHAKE256 with at most 136 bytes of output. -/
def shake256 (m : List Nat) (n : Nat) : List Nat :=
  let p := shakePad m
  let a := (List.range (p.length / shakeRate)).foldl (fun a i => absorb a ((p.drop (shakeRate * i)).take shakeRate)) (List.replicate 25 0)
  (a.flatMap fun v => (List.range 8).map fun i => v / 2 ^ (8 * i) % 256).take n

end Sys2Proof.Machine
end

