-- ==== Sys2Proof/Machine/Num.lean ====
section
/-! DEFINITION. Number formats, exact values and the one rounding operation `RND` (R85 to R98). -/

namespace Sys2Proof.Machine

/-- Flags in the bit order of R81: nv 0, dz 1, of 2, uf 3, nx 4. -/
abbrev Fl := BitVec 5
def Fl.nv : Fl := 1
def Fl.dz : Fl := 2
def Fl.of : Fl := 4
def Fl.uf : Fl := 8
def Fl.nx : Fl := 16

/-- An exact nonnegative magnitude with a sign: `m × 2^e`, or, when `sticky`, a value strictly between
`m × 2^e` and `(m + 1) × 2^e`. Producers of sticky values take `2^e` at least 34 binades below the last
place of every format they are rounded to, so that no rounding decision falls between the two. -/
structure Exact where
  neg    : Bool
  m      : Nat
  e      : Int
  sticky : Bool
  deriving DecidableEq, Repr

/-- A zero with a sign. -/
def Exact.zero (neg : Bool) : Exact := ⟨neg, 0, 0, false⟩
def Exact.isZero (x : Exact) : Bool := x.m == 0 && !x.sticky

/-- A value read from a floating format: a NaN (signalling or quiet), an infinity, or a finite value. -/
inductive XVal where
  | nan (sig : Bool)
  | inf (neg : Bool)
  | fin (x : Exact)
  deriving DecidableEq, Repr

/-- A binary floating format (R85): fraction bits, exponent bits, bias; `e4m3` marks the format without
infinities whose top exponent is finite but for one code. -/
structure BinFmt where
  fb   : Nat
  eb   : Nat
  bias : Nat
  e4m3 : Bool
  deriving DecidableEq, Repr

def BinFmt.f32 : BinFmt := ⟨23, 8, 127, false⟩
def BinFmt.f16 : BinFmt := ⟨10, 5, 15, false⟩
def BinFmt.bf16 : BinFmt := ⟨7, 8, 127, false⟩
def BinFmt.E4M3 : BinFmt := ⟨3, 4, 7, true⟩
def BinFmt.E5M2 : BinFmt := ⟨2, 5, 15, false⟩

/-- Width of the format in bits. -/
def BinFmt.width (f : BinFmt) : Nat := 1 + f.eb + f.fb
/-- The exponent of the smallest normal. -/
def BinFmt.emin (f : BinFmt) : Int := 1 - (f.bias : Int)
/-- The largest finite magnitude as an integer and the exponent of its last place (R85). -/
def BinFmt.maxFin (f : BinFmt) : Nat × Int :=
  if f.e4m3 then (14, 5) else (2 ^ (f.fb + 1) - 1, (2 ^ f.eb : Nat) - 2 - (f.bias : Int) - f.fb)
/-- The code of the largest finite magnitude. -/
def BinFmt.maxCode (f : BinFmt) : Nat :=
  if f.e4m3 then 0x7E else (2 ^ f.eb - 1) * 2 ^ f.fb - 1
/-- The code of the infinity of a format that has one. -/
def BinFmt.infCode (f : BinFmt) : Nat := (2 ^ f.eb - 1) * 2 ^ f.fb
/-- The canonical NaN (R86). -/
def BinFmt.nanCode (f : BinFmt) : Nat :=
  if f.e4m3 then 0x7F else f.infCode + 2 ^ (f.fb - 1)
def BinFmt.signBit (f : BinFmt) (neg : Bool) : Nat := if neg then 2 ^ (f.eb + f.fb) else 0

/-- Read a code of a binary format (R85, R86); `ftz` reads a subnormal as zero of its sign (R87). -/
def BinFmt.read (f : BinFmt) (ftz : Bool) (c : Nat) : XVal :=
  let neg := (c >>> (f.eb + f.fb)) % 2 == 1
  let ex := (c >>> f.fb) % 2 ^ f.eb
  let fr := c % 2 ^ f.fb
  if f.e4m3 then
    if ex == 15 && fr == 7 then .nan false
    else if ex == 0 then .fin ⟨neg, fr, f.emin - f.fb, false⟩
    else .fin ⟨neg, 2 ^ f.fb + fr, (ex : Int) - f.bias - f.fb, false⟩
  else if ex == 2 ^ f.eb - 1 then
    if fr == 0 then .inf neg else .nan (f.width != 8 && fr < 2 ^ (f.fb - 1))
  else if ex == 0 then
    if ftz then .fin (Exact.zero neg) else .fin ⟨neg, fr, f.emin - f.fb, false⟩
  else .fin ⟨neg, 2 ^ f.fb + fr, (ex : Int) - f.bias - f.fb, false⟩

/-- Which neighbour a rounding takes (R93): `true` for the one farther from zero. The value lies `r` (and,
when sticky, a little more) above the nearer-to-zero neighbour, and the neighbours are `d` apart. -/
def pickUp (mode : BitVec 3) (neg : Bool) (r d : Nat) (sticky loEven : Bool) (s : Word) : Bool :=
  match mode.toNat with
  | 1 => if 2 * r < d then false else if 2 * r == d && !sticky then !loEven else true
  | 2 => false
  | 3 => neg
  | 4 => !neg
  | 5 => decide (d ≤ 2 * r)
  | 6 => loEven
  | 7 => if sticky then decide (s.toNat * d ≤ r * 2 ^ 32) else decide (s.toNat * d < r * 2 ^ 32)
  | _ => false

/-- `⌊log₂ m⌋ + e`, the binade of a nonzero value. -/
def Exact.binade (x : Exact) : Int := (Nat.log2 x.m : Int) + x.e

/-- The integer multiple of `2^u` at or below the magnitude, what is left, and the unit it is left in:
`|x| = (q + (r [+ sticky]) / d) × 2^u`. -/
def Exact.splitAt (x : Exact) (u : Int) : Nat × Nat × Nat :=
  if u ≤ x.e then (x.m * 2 ^ (x.e - u).toNat, 0, 1)
  else
    let k := (u - x.e).toNat
    (x.m / 2 ^ k, x.m % 2 ^ k, 2 ^ k)

/-- Encode `q × 2^u`, with `u` the last place of its binade. -/
def BinFmt.encode (f : BinFmt) (neg : Bool) (q : Nat) (u : Int) : Nat :=
  let (q, u) := if q == 2 ^ (f.fb + 1) then (q / 2, u + 1) else (q, u)
  f.signBit neg + (if q < 2 ^ f.fb then q else (u + f.fb + f.bias).toNat * 2 ^ f.fb + (q - 2 ^ f.fb))

/-- The result of an overflow in the special column of R96. -/
def BinFmt.overSpecial (f : BinFmt) (mode : BitVec 3) (neg : Bool) : Nat :=
  let toInf := match mode.toNat with
    | 2 | 6 => false
    | 3 => neg
    | 4 => !neg
    | _ => true
  f.signBit neg + (if toInf then f.infCode else f.maxCode)

/-- `RND(x, f, m)` for a binary format (R93 to R97): the code and the flags. `sat` selects the saturate
column of R96, `ftz` the flush of a tiny result (R87); `s` is the generator's state for mode 0b111. -/
def BinFmt.round (f : BinFmt) (mode : BitVec 3) (sat ftz : Bool) (s : Word) (x : Exact) : Nat × Fl :=
  if x.isZero then (f.signBit x.neg, 0)
  else
    let tiny := decide (x.binade < f.emin)
    if ftz && tiny then (f.signBit x.neg, Fl.uf ||| Fl.nx)
    else
      let u := max (x.binade - f.fb) (f.emin - f.fb)
      let (q, r, d) := x.splitAt u
      let exact := r == 0 && !x.sticky
      let q' := if exact then q else if pickUp mode x.neg r d x.sticky (q % 2 == 0) s then q + 1 else q
      let (mq, mu) := f.maxFin
      let huge := if mu ≤ u then decide (mq < q' * 2 ^ (u - mu).toNat) else false
      if huge then
        if sat then (f.signBit x.neg + f.maxCode, Fl.of ||| Fl.nx)
        else if f.e4m3 then (f.nanCode, Fl.of ||| Fl.nx ||| Fl.nv)
        else (f.overSpecial mode x.neg, Fl.of ||| Fl.nx)
      else (f.encode x.neg q' u, if exact then 0 else if tiny then Fl.uf ||| Fl.nx else Fl.nx)

/-! ### TF8 (R89 to R91, R94) -/

/-- The value of a nonzero TF8 body, in units of 2^−21 (R90). -/
def tf8Units (b : Nat) : Nat :=
  if b == 0 then 0
  else if b == 0x01 then 2 ^ 42
  else if b == 0x02 then 1
  else if b == 0x03 then 2 ^ 41
  else if b ≤ 0x05 then 2 ^ (b - 3)
  else if b ≤ 0x07 then 2 ^ (b + 33)
  else if b ≤ 0x0B then 2 ^ (b - 5)
  else if b ≤ 0x0F then 2 ^ (b + 23)
  else if b ≤ 0x17 then 2 ^ (b - 9)
  else if b ≤ 0x1F then 2 ^ (b + 3)
  else if b ≤ 0x2F then (4 + b % 4) * 2 ^ ((b - 32) / 4 + 13)
  else if b ≤ 0x3F then (4 + b % 4) * 2 ^ ((b - 48) / 4 + 21)
  else if b ≤ 0x4F then (b - 48) * 2 ^ 15
  else if b ≤ 0x5F then (b - 64) * 2 ^ 16
  else if b ≤ 0x6F then (b - 80) * 2 ^ 17
  else (b - 96) * 2 ^ 18

/-- Read a TF8 code (R89): NaR as a quiet NaN. -/
def tf8Read (c : Nat) : XVal :=
  let b := c % 128
  let neg := (c >>> 7) % 2 == 1
  if b == 0 then (if neg then .nan false else .fin (Exact.zero false))
  else .fin ⟨neg, tf8Units b, -21, false⟩

/-- The positive bodies in ascending order of value, zero first (R91). -/
def tf8Order : List Nat :=
  [0x00, 0x02, 0x04, 0x05] ++ (List.range 4).map (· + 0x08) ++ (List.range 8).map (· + 0x10)
    ++ (List.range 16).map (· + 0x20) ++ (List.range 64).map (· + 0x40) ++ (List.range 16).map (· + 0x30)
    ++ (List.range 8).map (· + 0x18) ++ (List.range 4).map (· + 0x0C) ++ [0x06, 0x07, 0x03, 0x01]

/-- The neighbours of a magnitude `M` (in units of which a TF8 unit is `k`) among the bodies: the largest at
or below it and the next. -/
def tf8Between (k M : Nat) : List Nat → Nat × Option Nat
  | [] => (0, none)
  | [b] => (b, none)
  | b :: c :: r => if tf8Units c * k ≤ M then tf8Between k M (c :: r) else (b, some c)

/-- Which of two neighbouring bodies is even (R94): `true` when the smaller is. -/
def tf8LoEven (lo hi : Nat) : Bool := if lo % 2 == hi % 2 then true else lo % 2 == 0

/-- `RND(x, TF8, m)` (R93 to R97): the code and the flags; `sat` is the saturate column of R96. -/
def tf8Round (mode : BitVec 3) (sat : Bool) (s : Word) (x : Exact) : Nat × Fl :=
  if x.isZero then (0, 0)
  else
    let sign := if x.neg then 128 else 0
    let k := (-21 - x.e).toNat
    let M := if x.e ≤ -21 then x.m else x.m * 2 ^ (x.e + 21).toNat
    let unit := 2 ^ k
    let big := decide (2 ^ 42 * unit < M) || (M == 2 ^ 42 * unit && x.sticky)
    if big then
      if sat then (sign + 1, Fl.of ||| Fl.nx) else (0x80, Fl.of ||| Fl.nx ||| Fl.nv)
    else
      let (lo, hi) := tf8Between unit M tf8Order
      let L := tf8Units lo * unit
      if M == L && !x.sticky then (if lo == 0 then 0 else sign + lo, 0)
      else
        match hi with
        | none => (sign + 1, 0)
        | some h =>
          let b := if pickUp mode x.neg (M - L) (tf8Units h * unit - L) x.sticky (tf8LoEven lo h) s then h else lo
          (if b == 0 then 0 else sign + b, if lo == 0 then Fl.uf ||| Fl.nx else Fl.nx)

/-- `RND(x, integers, m)` (R92, R298): the rounded magnitude and whether it is inexact. -/
def roundInt (mode : BitVec 3) (s : Word) (x : Exact) : Nat × Bool :=
  if x.isZero then (0, false)
  else
    let (q, r, d) := x.splitAt 0
    if r == 0 && !x.sticky then (q, false)
    else (if pickUp mode x.neg r d x.sticky (q % 2 == 0) s then q + 1 else q, true)

/-! ### Exact arithmetic -/

/-- A signed integer times a power of two. -/
def Exact.ofInt (n : Int) (e : Int) : Exact := ⟨decide (n < 0), n.natAbs, e, false⟩

/-- The sign an exact zero sum of operands of different signs takes (R95, IEEE 754). -/
def zeroSign (mode : BitVec 3) (a b : Bool) : Bool := if a == b then a else mode == 3

/-- The exact sum of two values that are not sticky; a zero sum takes the sign of R95. -/
def Exact.add (mode : BitVec 3) (x y : Exact) : Exact :=
  let e := min x.e y.e
  let n (z : Exact) : Int := (if z.neg then -1 else 1) * ((z.m * 2 ^ (z.e - e).toNat : Nat) : Int)
  let t := n x + n y
  if t = 0 then Exact.zero (zeroSign mode x.neg y.neg) else Exact.ofInt t e

/-- The exact product of two values that are not sticky. -/
def Exact.mul (x y : Exact) : Exact := ⟨x.neg != y.neg, x.m * y.m, x.e + y.e, false⟩

/-- The quotient by a nonzero divisor, to more than 128 places. -/
def Exact.div (x y : Exact) : Exact :=
  if x.m == 0 then Exact.zero (x.neg != y.neg)
  else
    let k := 160 + Nat.log2 y.m
    ⟨x.neg != y.neg, x.m * 2 ^ k / y.m, x.e - y.e - k, x.m * 2 ^ k % y.m != 0⟩

/-- `⌊√n⌋`, bit by bit: `isqrtFrom k` decides the bits below `2^k` of the root. -/
def isqrtFrom (n : Nat) : Nat → Nat → Nat
  | 0, r => r
  | k + 1, r =>
    let c := r + 2 ^ k
    isqrtFrom n k (if c * c ≤ n then c else r)
/-- `⌊√n⌋`. -/
def isqrt (n : Nat) : Nat := isqrtFrom n (Nat.log2 n / 2 + 1) 0

/-- The square root of a positive value, to more than 128 places. -/
def Exact.sqrt (x : Exact) : Exact :=
  let k : Nat := 320 + (if (x.e - 320) % 2 = 0 then 0 else 1)
  let M := x.m * 2 ^ k
  let r := isqrt M
  ⟨false, r, (x.e - k) / 2, r * r != M⟩

/-- The reciprocal square root of a positive value, to more than 128 places. -/
def Exact.rsqrt (x : Exact) : Exact :=
  let x := if x.e % 2 = 0 then x else ⟨x.neg, x.m * 2, x.e - 1, x.sticky⟩
  let j := 200 + Nat.log2 x.m
  let q := 2 ^ (2 * j) / x.m
  let r := isqrt q
  ⟨false, r, -(j : Int) - x.e / 2, r * r * x.m != 2 ^ (2 * j)⟩

/-! ### The transcendental functions (R296)

Each is irrational but at the operands whose exact value the definitions below single out, so a value taken
to `workBits` places and marked sticky rounds as the exact one does (log 9). -/

/-- Working precision of the transcendental functions, in places after the binary point. -/
def workBits : Nat := 420
/-- Places kept of a result. -/
def keepBits : Nat := 320

/-- The product of the roots `2^(2^−i)` over the set bits of a fraction of `n` bits, scaled by
`2^workBits`: `f`'s bit `n − i` weighs `2^−i`. -/
def exp2Frac (f : Nat) : Nat → Nat → Nat → Nat
  | 0, _, acc => acc
  | n + 1, root, acc =>
    let root' := isqrt (root * 2 ^ workBits)
    exp2Frac f n root' (if (f >>> n) % 2 == 1 then acc * root' / 2 ^ workBits else acc)

/-- `2^x` (R296): exact for an integer `x`; magnitudes beyond 4,096 are taken as 4,096, which overflows or
underflows every format alike. -/
def Exact.exp2 (x : Exact) : Exact :=
  let (q, r, d) := x.splitAt 0
  let q := min q 4096
  if r == 0 then ⟨false, 1, if x.neg then -(q : Int) else q, false⟩
  else
    let n := Nat.log2 d
    let f := if x.neg then d - r else r
    let w : Int := if x.neg then -(q : Int) - 1 else q
    let y := exp2Frac f n (2 ^ (workBits + 1)) (2 ^ workBits)
    ⟨false, y / 2 ^ (workBits - keepBits), w - keepBits, true⟩

/-- Binary digits of `log₂` of a number in [1, 2) scaled by `2^workBits`, by repeated squaring. -/
def log2Digits : Nat → Nat → Nat → Nat
  | 0, _, acc => acc
  | n + 1, y, acc =>
    let z := y * y / 2 ^ workBits
    if 2 ^ (workBits + 1) ≤ z then log2Digits n (z / 2) (2 * acc + 1) else log2Digits n z (2 * acc)

/-- `log₂ x` of a positive value (R296): exact for a power of two. -/
def Exact.log2 (x : Exact) : Exact :=
  let k := Nat.log2 x.m
  let w : Int := (k : Int) + x.e
  if x.m == 2 ^ k then Exact.ofInt w 0
  else
    let f := log2Digits 200 (x.m * 2 ^ workBits / 2 ^ k) 0 / 2 ^ 40
    if 0 ≤ w then ⟨false, w.toNat * 2 ^ 160 + f, -160, true⟩
    else ⟨true, (-w).toNat * 2 ^ 160 - f - 1, -160, true⟩

/-- `arctan(1/k)` scaled by `2^workBits`, summed term by term. -/
def atanInv (k : Nat) : Nat → Nat → Nat → Int → Int
  | 0, _, _, acc => acc
  | n + 1, i, p, acc =>
    let t : Int := (p / (2 * i + 1) : Nat)
    atanInv k n (i + 1) (p / (k * k)) (if i % 2 == 0 then acc + t else acc - t)
/-- π scaled by `2^workBits`, as 16 arctan(1/5) − 4 arctan(1/239). -/
def piFix : Nat :=
  (16 * atanInv 5 100 0 (2 ^ workBits / 5) 0 - 4 * atanInv 239 40 0 (2 ^ workBits / 239) 0).toNat

/-- The sine series at `t` (scaled by `2^workBits`), `t2` its square. -/
def sinSeries (t2 : Nat) : Nat → Nat → Nat → Int → Int
  | 0, _, _, acc => acc
  | n + 1, i, p, acc =>
    sinSeries t2 n (i + 1) (p * t2 / 2 ^ workBits / ((2 * i + 2) * (2 * i + 3)))
      (if i % 2 == 0 then acc + (p : Int) else acc - (p : Int))

/-- `sin(π r / d)` for `0 < r/d ≤ 1/2`: exactly 1 at one half. -/
def sinPiFrac (neg : Bool) (r d : Nat) : Exact :=
  if 2 * r == d then ⟨neg, 1, 0, false⟩
  else
    let t := piFix * r / d
    ⟨neg, (sinSeries (t * t / 2 ^ workBits) 60 0 t 0).toNat / 2 ^ (workBits - keepBits), -(keepBits : Int), true⟩

/-- `sin(π x)` (R296): an integer gives a zero of its sign. -/
def Exact.sinpi (x : Exact) : Exact :=
  let (q, r, d) := x.splitAt 0
  if r == 0 then Exact.zero x.neg
  else sinPiFrac (x.neg != (q % 2 == 1)) (if 2 * r ≤ d then r else d - r) d

/-- `cos(π x)` (R296): an integer plus one half gives +0. -/
def Exact.cospi (x : Exact) : Exact :=
  let (q, r, d) := x.splitAt 0
  let s := q % 2 == 1
  if r == 0 then ⟨s, 1, 0, false⟩
  else if 2 * r == d then Exact.zero false
  else if 2 * r < d then sinPiFrac s (d - 2 * r) (2 * d) else sinPiFrac (!s) (2 * r - d) (2 * d)

end Sys2Proof.Machine
end

