-- ==== Sys2Proof/Machine/Flags.lean ====
section
/-! DEFINITION. Floating-point results with their flags and the stochastic-rounding state: one operation for
every vector form that rounds (R80, R81, R86, R87, R98, R288, R295). -/

namespace Sys2Proof.Machine

/-- What one lane of a rounding instruction accumulates: flags and the generator's state. -/
structure Acc where
  fl   : Fl
  seed : Word
  deriving DecidableEq, Repr

/-- One advance of the generator (R98). -/
def srNext (s : Word) : Word :=
  let s := s ^^^ (s <<< 13)
  let s := s ^^^ (s >>> 17)
  s ^^^ (s <<< 5)

/-- Produce one result under a mode: stochastic rounding advances the state first, whatever the result (R98). -/
def Acc.result (a : Acc) (mode : BitVec 3) (f : Word → Nat × Fl) : Nat × Acc :=
  let s := if mode = 7 then srNext a.seed else a.seed
  ((f s).1, ⟨a.fl ||| (f s).2, s⟩)

/-- The rounding mode of a field: 0 takes `%rmode` (R24, R80). -/
def modeOf (f : Frag) (rnd : BitVec 3) : BitVec 3 := if rnd = 0 then f.rmode.truncate 3 else rnd
/-- The ftz bit of `%rmode` (R80). -/
def ftzOf (f : Frag) : Bool := f.rmode.getLsbD 3

/-- OR flags into a lane's `%fflags` and store its generator state (R81, R98). -/
def Group.account (g : Group) (l : Nat) (a : Acc) : Group :=
  let g := if a.fl = 0 then g else g.setFlags l (g.flags l ||| a.fl.zeroExtend 32)
  if a.seed = g.seed l then g else { g with srseed := Table.put 0 g.srseed l a.seed }

/-- The results of one lane over the positions of a block and the elements of a register, in the order of R98:
a list of offset and word. `width` is the element's, `els` their number. -/
def laneResults (els width : Nat) (mode : BitVec 3) (f : Nat → Nat → Word → Nat × Fl) :
    List Nat → Acc → List (Nat × Word) × Acc
  | [], a => ([], a)
  | o :: r, a =>
    let (w, a) := (List.range els).foldl (fun (wa : Nat × Acc) k =>
      let (c, a') := wa.2.result mode (f o k)
      (wa.1 + c * 2 ^ (width * k), a')) (0, a)
    let (ws, a) := laneResults els width mode f r a
    ((o, BitVec.ofNat 32 w) :: ws, a)

/-- Apply a rounding operation to every executing lane of a block. `f x o k l s` is the result of element `k`
at offset `o` in lane `l` with generator state `s`. -/
def fpBlock (e : Ext) (d : VReg) (els width : Nat) (rnd : BitVec 3) (f : X → Nat → Nat → Nat → Word → Nat × Fl) :
    State → X → State × Done :=
  upd fun x g => (lanesOf x.lanes).foldl (fun g l =>
    let (ws, a) := laneResults els width (modeOf x.f rnd) (fun o k s => f x o k l s) (blockOffs e) ⟨0, x.g.seed l⟩
    (ws.foldl (fun g w => g.vset (d.toNat + w.1) l w.2) g).account l a) g

/-! ### Element operations -/

/-- The format of a floating form: binary32, or a packed half type (R295). -/
def elemFmt (packed bf : Bool) : BinFmt := if !packed then BinFmt.f32 else if bf then BinFmt.bf16 else BinFmt.f16
/-- Element `k` of a register, in a packed type or binary32 (R88). -/
def elemOf (packed : Bool) (k : Nat) (w : Word) : Nat := if packed then w.toNat / 2 ^ (16 * k) % 2 ^ 16 else w.toNat

/-- The flag of signalling NaNs among the inputs (R87). -/
def sigFl (l : List XVal) : Fl := if l.any fun v => v == .nan true then Fl.nv else 0
def XVal.isNan : XVal → Bool
  | .nan _ => true
  | _ => false
def anyNan (l : List XVal) : Bool := l.any XVal.isNan
/-- An infinity's code. -/
def infOf (f : BinFmt) (neg : Bool) : Nat := f.signBit neg + f.infCode
/-- The invalid result. -/
def invalid (f : BinFmt) : Nat × Fl := (f.nanCode, Fl.nv)

/-- What the element operations share: the format, ftz, the mode and the generator's state. -/
structure Env where
  f    : BinFmt
  ftz  : Bool
  mode : BitVec 3
  s    : Word
  deriving DecidableEq, Repr

def Env.read (v : Env) (c : Nat) : XVal := v.f.read v.ftz c
/-- Round a finite exact value (R93 to R97; always the special column, R96). -/
def Env.rnd (v : Env) (x : Exact) : Nat × Fl := v.f.round v.mode false v.ftz v.s x

/-- Addition (R296). -/
def addX (v : Env) (a b : XVal) : Nat × Fl :=
  if anyNan [a, b] then (v.f.nanCode, sigFl [a, b])
  else
    match a, b with
    | .inf m, .inf n => if m = n then (infOf v.f m, 0) else invalid v.f
    | .inf m, _ => (infOf v.f m, 0)
    | _, .inf n => (infOf v.f n, 0)
    | .fin x, .fin y => v.rnd (Exact.add v.mode x y)
    | _, _ => (v.f.nanCode, 0)

/-- The negation of a value. -/
def negX : XVal → XVal
  | .inf n => .inf (!n)
  | .fin x => .fin { x with neg := !x.neg }
  | .nan s => .nan s

/-- Multiplication (R296). -/
def mulX (v : Env) (a b : XVal) : Nat × Fl :=
  if anyNan [a, b] then (v.f.nanCode, sigFl [a, b])
  else
    match a, b with
    | .inf m, .inf n => (infOf v.f (m != n), 0)
    | .inf m, .fin y => if y.isZero then invalid v.f else (infOf v.f (m != y.neg), 0)
    | .fin x, .inf n => if x.isZero then invalid v.f else (infOf v.f (n != x.neg), 0)
    | .fin x, .fin y => v.rnd (Exact.mul x y)
    | _, _ => (v.f.nanCode, 0)

/-- Fused multiply-add with one rounding (R296): ∞ × 0 is invalid whatever d. -/
def fmaX (v : Env) (a b d : XVal) : Nat × Fl :=
  let zeroInf := match a, b with
    | .inf _, .fin y => y.isZero
    | .fin x, .inf _ => x.isZero
    | _, _ => false
  if zeroInf then invalid v.f
  else if anyNan [a, b, d] then (v.f.nanCode, sigFl [a, b, d])
  else
    let pinf : Option Bool := match a, b with
      | .inf m, .inf n => some (m != n)
      | .inf m, .fin y => some (m != y.neg)
      | .fin x, .inf n => some (n != x.neg)
      | _, _ => none
    match pinf, d with
    | some m, .inf n => if m = n then (infOf v.f m, 0) else invalid v.f
    | some m, _ => (infOf v.f m, 0)
    | none, .inf n => (infOf v.f n, 0)
    | none, .fin z =>
      match a, b with
      | .fin x, .fin y => v.rnd (Exact.add v.mode (Exact.mul x y) z)
      | _, _ => (v.f.nanCode, 0)
    | none, _ => (v.f.nanCode, 0)

/-- Division (R296). -/
def divX (v : Env) (a b : XVal) : Nat × Fl :=
  if anyNan [a, b] then (v.f.nanCode, sigFl [a, b])
  else
    match a, b with
    | .inf _, .inf _ => invalid v.f
    | .inf m, .fin y => (infOf v.f (m != y.neg), 0)
    | .fin x, .inf n => (v.f.signBit (x.neg != n), 0)
    | .fin x, .fin y =>
      if y.isZero then
        if x.isZero then invalid v.f else (infOf v.f (x.neg != y.neg), Fl.dz)
      else v.rnd (Exact.div x y)
    | _, _ => (v.f.nanCode, 0)

/-- A one-operand function: its value at an infinity, at a zero, at a negative and at a positive value. -/
def fun1 (v : Env) (atInf : Bool → Nat × Fl) (atZero : Bool → Nat × Fl) (f : Exact → Nat × Fl) (a : XVal) : Nat × Fl :=
  match a with
  | .nan _ => (v.f.nanCode, sigFl [a])
  | .inf n => atInf n
  | .fin x => if x.isZero then atZero x.neg else f x

/-- `FSQRT` (R296). -/
def sqrtX (v : Env) : XVal → Nat × Fl :=
  fun1 v (fun n => if n then invalid v.f else (infOf v.f false, 0)) (fun n => (v.f.signBit n, 0))
    fun x => if x.neg then invalid v.f else v.rnd (Exact.sqrt x)
/-- `FRCP` (R296). -/
def rcpX (v : Env) : XVal → Nat × Fl :=
  fun1 v (fun n => (v.f.signBit n, 0)) (fun n => (infOf v.f n, Fl.dz)) fun x => v.rnd (Exact.div ⟨false, 1, 0, false⟩ x)
/-- `FRSQ` (R296). -/
def rsqX (v : Env) : XVal → Nat × Fl :=
  fun1 v (fun n => if n then invalid v.f else (0, 0)) (fun n => (infOf v.f n, Fl.dz))
    fun x => if x.neg then invalid v.f else v.rnd (Exact.rsqrt x)
/-- `FEXP2` (R296). -/
def exp2X (v : Env) : XVal → Nat × Fl :=
  fun1 v (fun n => if n then (0, 0) else (infOf v.f false, 0)) (fun _ => v.rnd ⟨false, 1, 0, false⟩) fun x => v.rnd (Exact.exp2 x)
/-- `FLOG2` (R296). -/
def log2X (v : Env) : XVal → Nat × Fl :=
  fun1 v (fun n => if n then invalid v.f else (infOf v.f false, 0)) (fun _ => (infOf v.f true, Fl.dz))
    fun x => if x.neg then invalid v.f else v.rnd (Exact.log2 x)
/-- `FSINPI` (R296). -/
def sinpiX (v : Env) : XVal → Nat × Fl :=
  fun1 v (fun _ => invalid v.f) (fun n => (v.f.signBit n, 0)) fun x => v.rnd (Exact.sinpi x)
/-- `FCOSPI` (R296). -/
def cospiX (v : Env) : XVal → Nat × Fl :=
  fun1 v (fun _ => invalid v.f) (fun _ => v.rnd ⟨false, 1, 0, false⟩) fun x => v.rnd (Exact.cospi x)
/-- `FROUND` (R298): no nx, and a zero result keeps the sign of its operand. -/
def roundX (v : Env) : XVal → Nat × Fl :=
  fun1 v (fun n => (infOf v.f n, 0)) (fun n => (v.f.signBit n, 0)) fun x =>
    let q := (roundInt v.mode v.s x).1
    if q = 0 then (v.f.signBit x.neg, 0) else ((v.f.round 1 false false 0 ⟨x.neg, q, 0, false⟩).1, 0)

/-! ### Comparing -/

/-- A finite value as an integer multiple of `2^e`, for `e` at most its own exponent. -/
def Exact.at (x : Exact) (e : Int) : Int := (if x.neg then -1 else 1) * ((x.m * 2 ^ (x.e - e).toNat : Nat) : Int)
/-- Whether a value that is no NaN is below another; −0 equals +0. -/
def XVal.lt (a b : XVal) : Bool :=
  match a, b with
  | .inf m, .inf n => m && !n
  | .inf m, _ => m
  | _, .inf n => !n
  | .fin x, .fin y => decide (x.at (min x.e y.e) < y.at (min x.e y.e))
  | _, _ => false
/-- Whether a value has its sign set. -/
def XVal.sign : XVal → Bool
  | .inf n => n
  | .fin x => x.neg
  | .nan _ => false

/-- `FMIN` (or `FMAX` with `big`) on codes (R297): −0 below +0, a NaN loses to a number. -/
def minCode (f : BinFmt) (big : Bool) (a b : Nat) : Nat × Fl :=
  let x := f.read false a
  let y := f.read false b
  let fl := sigFl [x, y]
  if x.isNan && y.isNan then (f.nanCode, fl)
  else if x.isNan then (b, fl)
  else if y.isNan then (a, fl)
  else
    let below := x.lt y || (!(y.lt x) && x.sign && !y.sign)
    (if below != big then a else b, fl)

/-- `FCMP` (R299): the truth and the flags. -/
def cmpX (c : FCond) (x y : XVal) : Bool × Fl :=
  let n := anyNan [x, y]
  let any : Fl := if n then Fl.nv else 0
  let lt := !n && x.lt y
  let gt := !n && y.lt x
  let eq := !n && !lt && !gt
  match c with
  | .eq => (eq, sigFl [x, y])
  | .ne => (!eq, sigFl [x, y])
  | .lt => (lt, any)
  | .le => (lt || eq, any)
  | .gt => (gt, any)
  | .ge => (gt || eq, any)
  | .un => (n, sigFl [x, y])
  | .ord => (!n, sigFl [x, y])

/-- The class mask of a code (R300). -/
def classOf (f : BinFmt) (c : Nat) : Nat :=
  match f.read false c with
  | .nan s => if s then 1 else 2
  | .inf n => if n then 4 else 512
  | .fin x =>
    if x.m == 0 then (if x.neg then 32 else 64)
    else if x.binade < f.emin then (if x.neg then 16 else 128)
    else if x.neg then 8 else 256

end Sys2Proof.Machine
end

