-- ==== Sys2Proof/Machine/Scalar.lean ====
section
/-! DEFINITION. Class 1: scalar integer instructions (R261 to R266). -/

namespace Sys2Proof.Machine

/-- A 32-bit two-source scalar operation. -/
def scalar2 (d a : SReg) (b : SI) (f : Word → Word → Word) : State → X → State × Done :=
  writeS d fun x => f (x.g.sget a.toNat) (SIval x.g b)

/-- A scalar operation with a 32-bit and a `.d64` form (R261). -/
def scalarD (ty : IntTy) (d a : SReg) (b : SI) (f : Word → Word → Word) (f2 : DWord → DWord → DWord) :
    State → X → State × Done :=
  if ty = .d64 then writeS2 d fun x => f2 (x.g.sget2 a.toNat) (SIval2 x.g b)
  else scalar2 d a b f

/-- The high half of the exact product (R262). -/
def mulHigh (u : Bool) (a b : Word) : Word :=
  if u then ((a.zeroExtend 64 * b.zeroExtend 64) >>> 32).truncate 32
  else ((a.signExtend 64 * b.signExtend 64) >>> 32).truncate 32
/-- The smaller. -/
def minW (u : Bool) (a b : Word) : Word := if u then (if b.ult a then b else a) else (if b.slt a then b else a)
/-- The larger. -/
def maxW (u : Bool) (a b : Word) : Word := if u then (if a.ult b then b else a) else (if a.slt b then b else a)
/-- The quotient of R263. -/
def divW (u : Bool) (a b : Word) : Word :=
  if b = 0 then 0xFFFFFFFF
  else if u then a.udiv b
  else if a = 0x80000000 ∧ b = 0xFFFFFFFF then 0x80000000
  else a.sdiv b
/-- The remainder of R263. -/
def remW (u : Bool) (a b : Word) : Word :=
  if b = 0 then a
  else if u then a.umod b
  else if a = 0x80000000 ∧ b = 0xFFFFFFFF then 0
  else a.srem b
/-- Whether a comparison holds (R223, R265). -/
def cmpHolds (c : Cmp) (a b : Word) : Bool :=
  match c.cond with
  | .eq => a == b
  | .ne => a != b
  | .lt => if c.u then a.ult b else a.slt b
  | .le => if c.u then !(b.ult a) else !(b.slt a)
  | .gt => if c.u then b.ult a else b.slt a
  | .ge => if c.u then !(a.ult b) else !(a.slt b)
/-- A shift count: bits 4:0, or 5:0 under `.d64` (R264). -/
def cnt5 (b : Word) : Nat := b.toNat % 32
def cnt6 (b : DWord) : Nat := b.toNat % 64
/-- The scale of `.x1` to `.x8` (R266). -/
def leaScale (k : BitVec 2) : Nat := 2 ^ k.toNat

/-- `SADD` (R262). -/
def execSadd (p : Pre) (ty : IntTy) (d a : SReg) (b : SI) : State → Host.Outcome State Fault Refusal :=
  run (.sadd p ty d a b) (scalarD ty d a b (· + ·) (· + ·))

/-- `SSUB` (R262). -/
def execSsub (p : Pre) (ty : IntTy) (d a : SReg) (b : SI) : State → Host.Outcome State Fault Refusal :=
  run (.ssub p ty d a b) (scalarD ty d a b (· - ·) (· - ·))

/-- `SMUL` (R262). -/
def execSmul (p : Pre) (d a : SReg) (b : SI) : State → Host.Outcome State Fault Refusal :=
  run (.smul p d a b) (scalar2 d a b (· * ·))

/-- `SMULH` (R262). -/
def execSmulh (p : Pre) (ty : IntTy) (d a : SReg) (b : SI) : State → Host.Outcome State Fault Refusal :=
  run (.smulh p ty d a b) (scalar2 d a b (mulHigh (ty == .u32)))

/-- `SDIV` (R263). -/
def execSdiv (p : Pre) (ty : IntTy) (d a : SReg) (b : SI) : State → Host.Outcome State Fault Refusal :=
  run (.sdiv p ty d a b) (scalar2 d a b (divW (ty == .u32)))

/-- `SREM` (R263). -/
def execSrem (p : Pre) (ty : IntTy) (d a : SReg) (b : SI) : State → Host.Outcome State Fault Refusal :=
  run (.srem p ty d a b) (scalar2 d a b (remW (ty == .u32)))

/-- `SAND` (R262). -/
def execSand (p : Pre) (d a : SReg) (b : SI) : State → Host.Outcome State Fault Refusal :=
  run (.sand p d a b) (scalar2 d a b (· &&& ·))

/-- `SOR` (R262). -/
def execSor (p : Pre) (d a : SReg) (b : SI) : State → Host.Outcome State Fault Refusal :=
  run (.sor p d a b) (scalar2 d a b (· ||| ·))

/-- `SXOR` (R262). -/
def execSxor (p : Pre) (d a : SReg) (b : SI) : State → Host.Outcome State Fault Refusal :=
  run (.sxor p d a b) (scalar2 d a b (· ^^^ ·))

/-- `SSHL` (R264). -/
def execSshl (p : Pre) (ty : IntTy) (d a : SReg) (b : SI) : State → Host.Outcome State Fault Refusal :=
  run (.sshl p ty d a b) (scalarD ty d a b (fun a b => a <<< cnt5 b) (fun a b => a <<< cnt6 b))

/-- `SSHR` (R264). -/
def execSshr (p : Pre) (ty : IntTy) (d a : SReg) (b : SI) : State → Host.Outcome State Fault Refusal :=
  run (.sshr p ty d a b) (scalarD ty d a b (fun a b => a >>> cnt5 b) (fun a b => a >>> cnt6 b))

/-- `SSAR` (R264). -/
def execSsar (p : Pre) (ty : IntTy) (d a : SReg) (b : SI) : State → Host.Outcome State Fault Refusal :=
  run (.ssar p ty d a b) (scalarD ty d a b (fun a b => a.sshiftRight (cnt5 b)) (fun a b => a.sshiftRight (cnt6 b)))

/-- `SMIN` (R262). -/
def execSmin (p : Pre) (ty : IntTy) (d a : SReg) (b : SI) : State → Host.Outcome State Fault Refusal :=
  run (.smin p ty d a b) (scalar2 d a b (minW (ty == .u32)))

/-- `SMAX` (R262). -/
def execSmax (p : Pre) (ty : IntTy) (d a : SReg) (b : SI) : State → Host.Outcome State Fault Refusal :=
  run (.smax p ty d a b) (scalar2 d a b (maxW (ty == .u32)))

/-- `SCMP` (R265). -/
def execScmp (p : Pre) (cc : Cmp) (d a : SReg) (b : SI) : State → Host.Outcome State Fault Refusal :=
  run (.scmp p cc d a b) (scalar2 d a b fun a b => if cmpHolds cc a b then 1 else 0)

/-- `SMOV` (R266). -/
def execSmov (p : Pre) (ty : IntTy) (d a : SReg) : State → Host.Outcome State Fault Refusal :=
  run (.smov p ty d a) (if ty = .d64 then writeS2 d (fun x => x.g.sget2 a.toNat) else writeS d (fun x => x.g.sget a.toNat))

/-- `SMOVI` (R266). -/
def execSmovi (p : Pre) (d : SReg) (v : BitVec 32) : State → Host.Outcome State Fault Refusal :=
  run (.smovi p d v) (writeS d fun _ => v)

/-- `SLEA` (R266). -/
def execSlea (p : Pre) (k : BitVec 2) (d a : SReg) (b : SI) : State → Host.Outcome State Fault Refusal :=
  run (.slea p k d a b) (writeS2 d fun x => x.g.sget2 a.toNat + (SIval x.g b).signExtend 64 * BitVec.ofNat 64 (leaScale k))

/-- `SSEL` (R266). -/
def execSsel (p : Pre) (d : SReg) (a b : SI) : State → Host.Outcome State Fault Refusal :=
  run (.ssel p d a b) (writeS d fun x => if x.g.sget d.toNat ≠ 0 then SIval x.g a else SIval x.g b)

end Sys2Proof.Machine
end

