-- ==== Sys2Proof/Machine/Pred.lean ====
section
/-! DEFINITION. Class 2: predicates, special registers and modes (R267 to R275). -/

namespace Sys2Proof.Machine

/-- A predicate's bit in a lane. -/
def pbit (g : Group) (q : PReg) (l : Nat) : Bool := (g.pmask q.toNat).getLsbD l

/-- The cluster positions of a gang's members as `%gmap` gives them (R78). -/
def gmapOf (cores : List Nat) : Word :=
  (List.range cores.length).foldl (fun m j => m ||| BitVec.ofNat 32 ((8 + cores.getD j 0 % 8) * 2 ^ (4 * j))) 0

/-- A 64-bit value of a special register in a lane (R77, R271). -/
def spValue (s : State) (x : X) (n : BitVec 6) (l : Nat) : DWord :=
  let w (v : Word) : DWord := v.zeroExtend 64
  let num (v : Nat) : DWord := BitVec.ofNat 64 v
  match n.toNat with
  | 0 => num l
  | 1 => if x.g.packed then 0xFFFFFFFF else num x.g.no
  | 2 => if x.g.packed then 0xFFFFFFFF else num x.g.wgNo
  | 3 =>
    match x.g.gang.bind (Table.find s.gangs) with
    | some k => if x.g.packed then 0xFFFFFFFF else num k.no
    | none => 0xFFFFFFFF
  | 4 => num (s.logical x.core)
  | 5 => num (((Table.find s.launches x.g.launch).map (·.dev)).getD 0)
  | 6 => w (((x.g.gang.bind (Table.find s.gangs)).map fun k => gmapOf k.cores).getD 0)
  | 7 => num s.node.toNat
  | 8 => w x.f.fmt
  | 9 => w x.f.rmode
  | 10 => w (x.g.flags l)
  | 11 => w (x.g.seed l)
  | 12 => x.g.horizon
  | 13 => s.tb
  | 14 => num (s.ctxOf x.g.launch)
  | 16 => num (s.count x.g 0)
  | 17 => num (s.count x.g 1)
  | 18 => num (s.count x.g 2)
  | 19 => num (s.count x.g 3)
  | _ => 0

/-- A new `%fmt`: reserved fields ignored (R5), a reserved code changes nothing (R83). -/
def fmtOk (v : Word) : Bool := v.toNat % 8 < 6 && v.toNat / 16 % 8 < 4
def fmtBits (v : Word) : Word := v &&& 0x77
/-- A new `%rmode` (R80, R83). -/
def rmodeOk (v : Word) : Bool := v.toNat % 8 != 0
def rmodeBits (v : Word) : Word := v &&& 0xF

/-- Write `%fmt` of the executing fragment, or raise the illegal-operand fault (R83, R272, R273). -/
def writeFmt (v : Word) (s : State) (x : X) : State × Done :=
  if fmtOk v then (s.modFrag x.k x.en fun f => { f with fmt := fmtBits v }, .next)
  else (s, .event (Event.plain kOperand 0 x.f.mask))
/-- Write `%rmode` of the executing fragment, or raise the illegal-operand fault (R83, R272, R273). -/
def writeRmode (v : Word) (s : State) (x : X) : State × Done :=
  if rmodeOk v then (s.modFrag x.k x.en fun f => { f with rmode := rmodeBits v }, .next)
  else (s, .event (Event.plain kOperand 0 x.f.mask))

/-- `PSET` (R267). -/
def execPset (p : Pre) (d : PReg) (a : VSI) : State → Host.Outcome State Fault Refusal :=
  run (.pset p d a) (writeP d fun x l => VSIval x.g 0 l a != 0)

/-- `PLOP` (R268): bit 2 × pA + pB of the table. -/
def execPlop (p : Pre) (tt : BitVec 4) (d a b : PReg) : State → Host.Outcome State Fault Refusal :=
  run (.plop p tt d a b) (writeP d fun x l => tt.getLsbD (2 * (pbit x.g a l).toNat + (pbit x.g b l).toNat))

/-- `PCNT` (R269): over every active lane of the fragment. -/
def execPcnt (p : Pre) (d : SReg) (a : PReg) : State → Host.Outcome State Fault Refusal :=
  run (.pcnt p d a) (writeS d fun x => BitVec.ofNat 32 (lanesOf (x.f.mask &&& x.g.pmask a.toNat)).length)

/-- `PFIRST` (R269). -/
def execPfirst (p : Pre) (d : SReg) (a : PReg) : State → Host.Outcome State Fault Refusal :=
  run (.pfirst p d a) (writeS d fun x => match lanesOf (x.f.mask &&& x.g.pmask a.toNat) with
    | l :: _ => BitVec.ofNat 32 l
    | [] => 0xFFFFFFFF)

/-- What `PVOTE` writes (R270): over the executing lanes. -/
def voteOf (m : Vote) (lanes p : Mask) : Bool :=
  match m with
  | .any => lanes &&& p != 0
  | .all => lanes &&& ~~~p == 0
  | .eq => lanes &&& p == 0 || lanes &&& ~~~p == 0

/-- `PVOTE` (R270). -/
def execPvote (p : Pre) (m : Vote) (d a : PReg) : State → Host.Outcome State Fault Refusal :=
  run (.pvote p m d a) (writeP d fun x _ => voteOf m x.lanes (x.g.pmask a.toNat))

/-- `RDSP` (R271): a 64-bit register fills a pair of registers. -/
def execRdsp (p : Pre) (d : VS) (sr : BitVec 6) : State → Host.Outcome State Fault Refusal :=
  run (.rdsp p d sr) fun s x =>
    if sr = 10#6 && s.flagsBusy x.g then (s, .hold) else
    (s.modGroup x.k fun g =>
      match d with
      | .s r =>
        if sr64 sr then g.sset2 r.toNat (spValue s x sr x.low) else g.sset r.toNat ((spValue s x sr x.low).truncate 32)
      | .v r =>
        let g := g.vwrite r.toNat x.lanes fun l => (spValue s x sr l).truncate 32
        if sr64 sr then g.vwrite (r.toNat + 1) x.lanes fun l => (spValue s x sr l >>> 32).truncate 32 else g, .next)

/-- `WRSP` (R272): `%fmt` and `%rmode` uniformly, `%fflags` and `%srseed` per lane. -/
def execWrsp (p : Pre) (sr : BitVec 6) (a : VSI) : State → Host.Outcome State Fault Refusal :=
  run (.wrsp p sr a) fun s x =>
    if sr = 8#6 then writeFmt (VSIval x.g 0 x.low a) s x
    else if sr = 9#6 then writeRmode (VSIval x.g 0 x.low a) s x
    else if sr = 10#6 && s.flagsBusy x.g then (s, .hold)
    else
      (s.modGroup x.k fun g => (lanesOf x.lanes).foldl (fun g l =>
        if sr = 10#6 then g.setFlags l (VSIval x.g 0 l a) else g.setSeed l (VSIval x.g 0 l a)) g, .next)

/-- `SETFMT` (R273). -/
def execSetfmt (p : Pre) (v : BitVec 7) : State → Host.Outcome State Fault Refusal :=
  run (.setfmt p v) (writeFmt (v.zeroExtend 32))

/-- `SETRM` (R273). -/
def execSetrm (p : Pre) (v : BitVec 4) : State → Host.Outcome State Fault Refusal :=
  run (.setrm p v) (writeRmode (v.zeroExtend 32))

/-- `RDFF` (R274): per lane, or the OR over every active lane. -/
def execRdff (p : Pre) (d : VS) : State → Host.Outcome State Fault Refusal :=
  run (.rdff p d) (afterFlags <| upd fun x g =>
    match d with
    | .v r => g.vwrite r.toNat x.lanes fun l => x.g.flags l
    | .s r => g.sset r.toNat ((lanesOf x.f.mask).foldl (fun w l => w ||| x.g.flags l) 0))

/-- `CLRFF` (R275). -/
def execClrff (p : Pre) (m : BitVec 5) : State → Host.Outcome State Fault Refusal :=
  run (.clrff p m) (afterFlags <| upd fun x g => (lanesOf x.lanes).foldl (fun g l => g.setFlags l (x.g.flags l &&& ~~~(m.zeroExtend 32))) g)

end Sys2Proof.Machine
end

