-- ==== Sys2Proof/Machine/VecInt.lean ====
section
/-! DEFINITION. Classes 3 and 4: vector integer and bit instructions (R286 to R294). -/

namespace Sys2Proof.Machine

/-- A one-source vector operation. -/
def vec1 (e : Ext) (d : VReg) (a : VS) (f : Word → Word) : State → X → State × Done :=
  writeBlock e d fun x o l => f (VSval x.g o l a)
/-- A two-source vector operation. -/
def vec2 (e : Ext) (d : VReg) (a : VS) (b : VSI) (f : Word → Word → Word) : State → X → State × Done :=
  writeBlock e d fun x o l => f (VSval x.g o l a) (VSIval x.g o l b)
/-- A vector operation that reads D as its third source. -/
def vec3 (e : Ext) (d : VReg) (a : VS) (b : VSI) (f : Word → Word → Word → Word) : State → X → State × Done :=
  writeBlock e d fun x o l => f (VSval x.g o l a) (VSIval x.g o l b) (x.g.vget (d.toNat + o) l)

/-- `SAT` of an exact integer to the signed or unsigned 32-bit range (R8, R289). -/
def satS (n : Int) : Word := BitVec.ofInt 32 (max (-2147483648) (min 2147483647 n))
def satU (n : Int) : Word := BitVec.ofInt 32 (max 0 (min 4294967295 n))
/-- `IADD` and `ISUB` by type (R289). -/
def addTy (ty : IntTy) (a b : Word) : Word :=
  match ty with
  | .sats => satS (a.toInt + b.toInt)
  | .satu => satU ((a.toNat : Int) + b.toNat)
  | _ => a + b
def subTy (ty : IntTy) (a b : Word) : Word :=
  match ty with
  | .sats => satS (a.toInt - b.toInt)
  | .satu => satU ((a.toNat : Int) - b.toNat)
  | _ => a - b
/-- The number of 1 bits. -/
def popc (a : Word) : Word := BitVec.ofNat 32 (wordsOf a).length
/-- The number of leading zero bits (R290). -/
def clz (a : Word) : Word := if a = 0 then 32 else BitVec.ofNat 32 (31 - Nat.log2 a.toNat)
/-- A field's position and length (R291). -/
def bfPos (b : Word) : Nat := b.toNat % 32
def bfLen (b : Word) : Nat := min (b.toNat / 256 % 64) (32 - bfPos b)
/-- `len` ones. -/
def ones (len : Nat) : Word := BitVec.ofNat 32 (2 ^ len - 1)
/-- `BFX` (R291). -/
def bfx (u : Bool) (a b : Word) : Word :=
  let f := (a >>> bfPos b) &&& ones (bfLen b)
  if bfLen b = 0 then 0
  else if !u && f.getLsbD (bfLen b - 1) then f ||| ~~~(ones (bfLen b)) else f
/-- `BFI` (R291). -/
def bfi (a b d : Word) : Word :=
  let m := ones (bfLen b) <<< bfPos b
  (d &&& ~~~m) ||| ((a <<< bfPos b) &&& m)

/-- `IADD` (R289, R290). -/
def execIadd (p : Pre) (e : Ext) (ty : IntTy) (d : VReg) (a : VS) (b : VSI) : State → Host.Outcome State Fault Refusal :=
  run (.iadd p e ty d a b) (vec2 e d a b (addTy ty))

/-- `ISUB` (R289, R290). -/
def execIsub (p : Pre) (e : Ext) (ty : IntTy) (d : VReg) (a : VS) (b : VSI) : State → Host.Outcome State Fault Refusal :=
  run (.isub p e ty d a b) (vec2 e d a b (subTy ty))

/-- `IMUL` (R289, R290). -/
def execImul (p : Pre) (e : Ext) (d : VReg) (a : VS) (b : VSI) : State → Host.Outcome State Fault Refusal :=
  run (.imul p e d a b) (vec2 e d a b (· * ·))

/-- `IMULH` (R289, R290). -/
def execImulh (p : Pre) (e : Ext) (ty : IntTy) (d : VReg) (a : VS) (b : VSI) : State → Host.Outcome State Fault Refusal :=
  run (.imulh p e ty d a b) (vec2 e d a b (mulHigh (ty == .u32)))

/-- `IMAD` (R289). -/
def execImad (p : Pre) (e : Ext) (d : VReg) (a : VS) (b : VSI) : State → Host.Outcome State Fault Refusal :=
  run (.imad p e d a b) (vec3 e d a b fun a b d => a * b + d)

/-- `IDIV` (R289, R290). -/
def execIdiv (p : Pre) (e : Ext) (ty : IntTy) (d : VReg) (a : VS) (b : VSI) : State → Host.Outcome State Fault Refusal :=
  run (.idiv p e ty d a b) (vec2 e d a b (divW (ty == .u32)))

/-- `IREM` (R289, R290). -/
def execIrem (p : Pre) (e : Ext) (ty : IntTy) (d : VReg) (a : VS) (b : VSI) : State → Host.Outcome State Fault Refusal :=
  run (.irem p e ty d a b) (vec2 e d a b (remW (ty == .u32)))

/-- `IMIN` (R289, R290). -/
def execImin (p : Pre) (e : Ext) (ty : IntTy) (d : VReg) (a : VS) (b : VSI) : State → Host.Outcome State Fault Refusal :=
  run (.imin p e ty d a b) (vec2 e d a b (minW (ty == .u32)))

/-- `IMAX` (R289, R290). -/
def execImax (p : Pre) (e : Ext) (ty : IntTy) (d : VReg) (a : VS) (b : VSI) : State → Host.Outcome State Fault Refusal :=
  run (.imax p e ty d a b) (vec2 e d a b (maxW (ty == .u32)))

/-- `IABS` (R289). -/
def execIabs (p : Pre) (e : Ext) (d : VReg) (a : VS) : State → Host.Outcome State Fault Refusal :=
  run (.iabs p e d a) (vec1 e d a fun a => if a.msb then -a else a)

/-- `INEG` (R289). -/
def execIneg (p : Pre) (e : Ext) (d : VReg) (a : VS) : State → Host.Outcome State Fault Refusal :=
  run (.ineg p e d a) (vec1 e d a fun a => -a)

/-- `ICMP` (R292). -/
def execIcmp (p : Pre) (cc : Cmp) (d : PReg) (a : VS) (b : VSI) : State → Host.Outcome State Fault Refusal :=
  run (.icmp p cc d a b) (writeP d fun x l => cmpHolds cc (VSval x.g 0 l a) (VSIval x.g 0 l b))

/-- `ISEL` (R293). -/
def execIsel (p : Pre) (e : Ext) (q : PReg) (d : VReg) (a b : VSI) : State → Host.Outcome State Fault Refusal :=
  run (.isel p e q d a b) (writeBlock e d fun x o l => if pbit x.g q l then VSIval x.g o l a else VSIval x.g o l b)

/-- `IMOV` (R294). -/
def execImov (p : Pre) (e : Ext) (d : VReg) (a : VSI) : State → Host.Outcome State Fault Refusal :=
  run (.imov p e d a) (writeBlock e d fun x o l => VSIval x.g o l a)

/-- `IMOVI` (R294). -/
def execImovi (p : Pre) (e : Ext) (d : VReg) (v : BitVec 32) : State → Host.Outcome State Fault Refusal :=
  run (.imovi p e d v) (writeBlock e d fun _ _ _ => v)

/-- `IAND` (R289, R290). -/
def execIand (p : Pre) (e : Ext) (d : VReg) (a : VS) (b : VSI) : State → Host.Outcome State Fault Refusal :=
  run (.iand p e d a b) (vec2 e d a b (· &&& ·))

/-- `IOR` (R289, R290). -/
def execIor (p : Pre) (e : Ext) (d : VReg) (a : VS) (b : VSI) : State → Host.Outcome State Fault Refusal :=
  run (.ior p e d a b) (vec2 e d a b (· ||| ·))

/-- `IXOR` (R289, R290). -/
def execIxor (p : Pre) (e : Ext) (d : VReg) (a : VS) (b : VSI) : State → Host.Outcome State Fault Refusal :=
  run (.ixor p e d a b) (vec2 e d a b (· ^^^ ·))

/-- `INOT` (R290). -/
def execInot (p : Pre) (e : Ext) (d : VReg) (a : VS) : State → Host.Outcome State Fault Refusal :=
  run (.inot p e d a) (vec1 e d a fun a => ~~~a)

/-- `ISHL` (R289, R290). -/
def execIshl (p : Pre) (e : Ext) (d : VReg) (a : VS) (b : VSI) : State → Host.Outcome State Fault Refusal :=
  run (.ishl p e d a b) (vec2 e d a b (fun a b => a <<< cnt5 b))

/-- `ISHR` (R289, R290). -/
def execIshr (p : Pre) (e : Ext) (d : VReg) (a : VS) (b : VSI) : State → Host.Outcome State Fault Refusal :=
  run (.ishr p e d a b) (vec2 e d a b (fun a b => a >>> cnt5 b))

/-- `ISAR` (R289, R290). -/
def execIsar (p : Pre) (e : Ext) (d : VReg) (a : VS) (b : VSI) : State → Host.Outcome State Fault Refusal :=
  run (.isar p e d a b) (vec2 e d a b (fun a b => a.sshiftRight (cnt5 b)))

/-- `IROT` (R289, R290). -/
def execIrot (p : Pre) (e : Ext) (d : VReg) (a : VS) (b : VSI) : State → Host.Outcome State Fault Refusal :=
  run (.irot p e d a b) (vec2 e d a b (fun a b => a.rotateLeft (cnt5 b)))

/-- `BFX` (R291). -/
def execBfx (p : Pre) (e : Ext) (ty : IntTy) (d : VReg) (a : VS) (b : VSI) : State → Host.Outcome State Fault Refusal :=
  run (.bfx p e ty d a b) (vec2 e d a b (bfx (ty == .u32)))

/-- `BFI` (R291). -/
def execBfi (p : Pre) (e : Ext) (d : VReg) (a : VS) (b : VSI) : State → Host.Outcome State Fault Refusal :=
  run (.bfi p e d a b) (vec3 e d a b bfi)

/-- `POPC` (R290). -/
def execPopc (p : Pre) (e : Ext) (d : VReg) (a : VS) : State → Host.Outcome State Fault Refusal :=
  run (.popc p e d a) (vec1 e d a popc)

/-- `CLZ` (R290). -/
def execClz (p : Pre) (e : Ext) (d : VReg) (a : VS) : State → Host.Outcome State Fault Refusal :=
  run (.clz p e d a) (vec1 e d a clz)

end Sys2Proof.Machine
end

