-- ==== Sys2Proof/Machine/VecFloat.lean ====
section
/-! DEFINITION. Classes 5 and 6: floating-point arithmetic in binary32 and the packed half types (R295 to
R300). -/

namespace Sys2Proof.Machine

/-- The environment of an element operation. -/
def envOf (x : X) (packed bf : Bool) (rnd : BitVec 3) (s : Word) : Env :=
  ⟨elemFmt packed bf, ftzOf x.f, modeOf x.f rnd, s⟩
/-- Elements of a register. -/
def elsOf (packed : Bool) : Nat := if packed then 2 else 1
/-- The width of an element. -/
def widthOf (packed : Bool) : Nat := if packed then 16 else 32

/-- A one-source rounding form. -/
def fp1 (packed bf : Bool) (e : Ext) (rnd : BitVec 3) (d : VReg) (a : VS) (op : Env → XVal → Nat × Fl) :
    State → X → State × Done :=
  fpBlock e d (elsOf packed) (widthOf packed) rnd fun x o k l s =>
    let v := envOf x packed bf rnd s
    op v (v.read (elemOf packed k (VSval x.g o l a)))
/-- A two-source rounding form. -/
def fp2 (packed bf : Bool) (e : Ext) (rnd : BitVec 3) (d : VReg) (a b : VS) (op : Env → XVal → XVal → Nat × Fl) :
    State → X → State × Done :=
  fpBlock e d (elsOf packed) (widthOf packed) rnd fun x o k l s =>
    let v := envOf x packed bf rnd s
    op v (v.read (elemOf packed k (VSval x.g o l a))) (v.read (elemOf packed k (VSval x.g o l b)))
/-- The fused form, D its third source. -/
def fp3 (packed bf : Bool) (e : Ext) (rnd : BitVec 3) (d : VReg) (a b : VS)
    (op : Env → XVal → XVal → XVal → Nat × Fl) : State → X → State × Done :=
  fpBlock e d (elsOf packed) (widthOf packed) rnd fun x o k l s =>
    let v := envOf x packed bf rnd s
    op v (v.read (elemOf packed k (VSval x.g o l a))) (v.read (elemOf packed k (VSval x.g o l b)))
      (v.read (elemOf packed k (x.g.vget (d.toNat + o) l)))
/-- A form on codes that rounds nothing; rounding field 1 stands for no stochastic advance (R297, log 17). -/
def fpCode (packed bf : Bool) (e : Ext) (d : VReg) (a b : VS) (op : BinFmt → Nat → Nat → Nat × Fl) :
    State → X → State × Done :=
  fpBlock e d (elsOf packed) (widthOf packed) 1#3 fun x o k l _ =>
    op (elemFmt packed bf) (elemOf packed k (VSval x.g o l a)) (elemOf packed k (VSval x.g o l b))

/-- `FABS` (R297). -/
def absCode (f : BinFmt) (a _ : Nat) : Nat × Fl :=
  if (f.read false a).isNan then (f.nanCode, 0) else (a % 2 ^ (f.width - 1), 0)
/-- `FNEG` (R297). -/
def negCode (f : BinFmt) (a _ : Nat) : Nat × Fl :=
  if (f.read false a).isNan then (f.nanCode, 0) else ((a + 2 ^ (f.width - 1)) % 2 ^ f.width, 0)

/-- `FCMP` in a lane (R299): the truth of element `k` and its flags. -/
def cmpElem (packed bf : Bool) (x : X) (cc : FCond) (a b : VS) (l k : Nat) : Bool × Fl :=
  let v := envOf x packed bf 1#3 0
  cmpX cc (v.read (elemOf packed k (VSval x.g 0 l a))) (v.read (elemOf packed k (VSval x.g 0 l b)))
/-- `FCMP` (R299): element `k` goes to predicate d + k. -/
def fpCmp (packed bf : Bool) (cc : FCond) (d : PReg) (a b : VS) : State → X → State × Done :=
  upd fun x g =>
    let g := (List.range (elsOf packed)).foldl (fun g k =>
      g.pwrite (d.toNat + k) x.lanes (maskOf ((lanesOf x.lanes).filter fun l => (cmpElem packed bf x cc a b l k).1))) g
    (lanesOf x.lanes).foldl (fun g l =>
      g.account l ⟨(List.range (elsOf packed)).foldl (fun fl k => fl ||| (cmpElem packed bf x cc a b l k).2) 0, g.seed l⟩) g

/-- `FADD` (R296). -/
def execFadd (p : Pre) (e : Ext) (rnd : BitVec 3) (d : VReg) (a b : VS) : State → Host.Outcome State Fault Refusal :=
  run (.fadd p e rnd d a b) (fp2 false false e rnd d a b addX)

/-- `FSUB` (R296). -/
def execFsub (p : Pre) (e : Ext) (rnd : BitVec 3) (d : VReg) (a b : VS) : State → Host.Outcome State Fault Refusal :=
  run (.fsub p e rnd d a b) (fp2 false false e rnd d a b fun v x y => addX v x (negX y))

/-- `FMUL` (R296). -/
def execFmul (p : Pre) (e : Ext) (rnd : BitVec 3) (d : VReg) (a b : VS) : State → Host.Outcome State Fault Refusal :=
  run (.fmul p e rnd d a b) (fp2 false false e rnd d a b mulX)

/-- `FFMA` (R296). -/
def execFfma (p : Pre) (e : Ext) (rnd : BitVec 3) (d : VReg) (a b : VS) : State → Host.Outcome State Fault Refusal :=
  run (.ffma p e rnd d a b) (fp3 false false e rnd d a b fmaX)

/-- `FMIN` (R297). -/
def execFmin (p : Pre) (e : Ext) (d : VReg) (a b : VS) : State → Host.Outcome State Fault Refusal :=
  run (.fmin p e d a b) (fpCode false false e d a b fun f => minCode f false)

/-- `FMAX` (R297). -/
def execFmax (p : Pre) (e : Ext) (d : VReg) (a b : VS) : State → Host.Outcome State Fault Refusal :=
  run (.fmax p e d a b) (fpCode false false e d a b fun f => minCode f true)

/-- `FABS` (R297). -/
def execFabs (p : Pre) (e : Ext) (d : VReg) (a : VS) : State → Host.Outcome State Fault Refusal :=
  run (.fabs p e d a) (fpCode false false e d a a absCode)

/-- `FNEG` (R297). -/
def execFneg (p : Pre) (e : Ext) (d : VReg) (a : VS) : State → Host.Outcome State Fault Refusal :=
  run (.fneg p e d a) (fpCode false false e d a a negCode)

/-- `FCMP` (R299). -/
def execFcmp (p : Pre) (cc : FCond) (d : PReg) (a b : VS) : State → Host.Outcome State Fault Refusal :=
  run (.fcmp p cc d a b) (fpCmp false false cc d a b)

/-- `FCLASS` (R300). -/
def execFclass (p : Pre) (e : Ext) (d : VReg) (a : VS) : State → Host.Outcome State Fault Refusal :=
  run (.fclass p e d a) (fpCode false false e d a a fun f c _ => (classOf f c, 0))

/-- `FDIV` (R296). -/
def execFdiv (p : Pre) (e : Ext) (rnd : BitVec 3) (d : VReg) (a b : VS) : State → Host.Outcome State Fault Refusal :=
  run (.fdiv p e rnd d a b) (fp2 false false e rnd d a b divX)

/-- `FSQRT` (R296). -/
def execFsqrt (p : Pre) (e : Ext) (rnd : BitVec 3) (d : VReg) (a : VS) : State → Host.Outcome State Fault Refusal :=
  run (.fsqrt p e rnd d a) (fp1 false false e rnd d a sqrtX)

/-- `FRCP` (R296). -/
def execFrcp (p : Pre) (e : Ext) (rnd : BitVec 3) (d : VReg) (a : VS) : State → Host.Outcome State Fault Refusal :=
  run (.frcp p e rnd d a) (fp1 false false e rnd d a rcpX)

/-- `FRSQ` (R296). -/
def execFrsq (p : Pre) (e : Ext) (rnd : BitVec 3) (d : VReg) (a : VS) : State → Host.Outcome State Fault Refusal :=
  run (.frsq p e rnd d a) (fp1 false false e rnd d a rsqX)

/-- `FEXP2` (R296). -/
def execFexp2 (p : Pre) (e : Ext) (rnd : BitVec 3) (d : VReg) (a : VS) : State → Host.Outcome State Fault Refusal :=
  run (.fexp2 p e rnd d a) (fp1 false false e rnd d a exp2X)

/-- `FLOG2` (R296). -/
def execFlog2 (p : Pre) (e : Ext) (rnd : BitVec 3) (d : VReg) (a : VS) : State → Host.Outcome State Fault Refusal :=
  run (.flog2 p e rnd d a) (fp1 false false e rnd d a log2X)

/-- `FSINPI` (R296). -/
def execFsinpi (p : Pre) (e : Ext) (rnd : BitVec 3) (d : VReg) (a : VS) : State → Host.Outcome State Fault Refusal :=
  run (.fsinpi p e rnd d a) (fp1 false false e rnd d a sinpiX)

/-- `FCOSPI` (R296). -/
def execFcospi (p : Pre) (e : Ext) (rnd : BitVec 3) (d : VReg) (a : VS) : State → Host.Outcome State Fault Refusal :=
  run (.fcospi p e rnd d a) (fp1 false false e rnd d a cospiX)

/-- `FROUND` (R298). -/
def execFround (p : Pre) (e : Ext) (rnd : BitVec 3) (d : VReg) (a : VS) : State → Host.Outcome State Fault Refusal :=
  run (.fround p e rnd d a) (fp1 false false e rnd d a roundX)

/-- `FADD` on a packed type (R296). -/
def execFaddPacked (p : Pre) (e : Ext) (bf : Bool) (rnd : BitVec 3) (d : VReg) (a b : VS) : State → Host.Outcome State Fault Refusal :=
  run (.faddPacked p e bf rnd d a b) (fp2 true bf e rnd d a b addX)

/-- `FSUB` on a packed type (R296). -/
def execFsubPacked (p : Pre) (e : Ext) (bf : Bool) (rnd : BitVec 3) (d : VReg) (a b : VS) : State → Host.Outcome State Fault Refusal :=
  run (.fsubPacked p e bf rnd d a b) (fp2 true bf e rnd d a b fun v x y => addX v x (negX y))

/-- `FMUL` on a packed type (R296). -/
def execFmulPacked (p : Pre) (e : Ext) (bf : Bool) (rnd : BitVec 3) (d : VReg) (a b : VS) : State → Host.Outcome State Fault Refusal :=
  run (.fmulPacked p e bf rnd d a b) (fp2 true bf e rnd d a b mulX)

/-- `FFMA` on a packed type (R296). -/
def execFfmaPacked (p : Pre) (e : Ext) (bf : Bool) (rnd : BitVec 3) (d : VReg) (a b : VS) : State → Host.Outcome State Fault Refusal :=
  run (.ffmaPacked p e bf rnd d a b) (fp3 true bf e rnd d a b fmaX)

/-- `FMIN` on a packed type (R297). -/
def execFminPacked (p : Pre) (e : Ext) (bf : Bool) (d : VReg) (a b : VS) : State → Host.Outcome State Fault Refusal :=
  run (.fminPacked p e bf d a b) (fpCode true bf e d a b fun f => minCode f false)

/-- `FMAX` on a packed type (R297). -/
def execFmaxPacked (p : Pre) (e : Ext) (bf : Bool) (d : VReg) (a b : VS) : State → Host.Outcome State Fault Refusal :=
  run (.fmaxPacked p e bf d a b) (fpCode true bf e d a b fun f => minCode f true)

/-- `FABS` on a packed type (R297). -/
def execFabsPacked (p : Pre) (e : Ext) (bf : Bool) (d : VReg) (a : VS) : State → Host.Outcome State Fault Refusal :=
  run (.fabsPacked p e bf d a) (fpCode true bf e d a a absCode)

/-- `FNEG` on a packed type (R297). -/
def execFnegPacked (p : Pre) (e : Ext) (bf : Bool) (d : VReg) (a : VS) : State → Host.Outcome State Fault Refusal :=
  run (.fnegPacked p e bf d a) (fpCode true bf e d a a negCode)

/-- `FCMP` on a packed type (R299). -/
def execFcmpPacked (p : Pre) (bf : Bool) (cc : FCond) (d : PReg) (a b : VS) : State → Host.Outcome State Fault Refusal :=
  run (.fcmpPacked p bf cc d a b) (fpCmp true bf cc d a b)

/-- `FCLASS` on a packed type (R300). -/
def execFclassPacked (p : Pre) (e : Ext) (bf : Bool) (d : VReg) (a : VS) : State → Host.Outcome State Fault Refusal :=
  run (.fclassPacked p e bf d a) (fpCode true bf e d a a fun f c _ => (classOf f c, 0))

/-- `FDIV` on a packed type (R296). -/
def execFdivPacked (p : Pre) (e : Ext) (bf : Bool) (rnd : BitVec 3) (d : VReg) (a b : VS) : State → Host.Outcome State Fault Refusal :=
  run (.fdivPacked p e bf rnd d a b) (fp2 true bf e rnd d a b divX)

/-- `FSQRT` on a packed type (R296). -/
def execFsqrtPacked (p : Pre) (e : Ext) (bf : Bool) (rnd : BitVec 3) (d : VReg) (a : VS) : State → Host.Outcome State Fault Refusal :=
  run (.fsqrtPacked p e bf rnd d a) (fp1 true bf e rnd d a sqrtX)

/-- `FRCP` on a packed type (R296). -/
def execFrcpPacked (p : Pre) (e : Ext) (bf : Bool) (rnd : BitVec 3) (d : VReg) (a : VS) : State → Host.Outcome State Fault Refusal :=
  run (.frcpPacked p e bf rnd d a) (fp1 true bf e rnd d a rcpX)

/-- `FRSQ` on a packed type (R296). -/
def execFrsqPacked (p : Pre) (e : Ext) (bf : Bool) (rnd : BitVec 3) (d : VReg) (a : VS) : State → Host.Outcome State Fault Refusal :=
  run (.frsqPacked p e bf rnd d a) (fp1 true bf e rnd d a rsqX)

/-- `FEXP2` on a packed type (R296). -/
def execFexp2Packed (p : Pre) (e : Ext) (bf : Bool) (rnd : BitVec 3) (d : VReg) (a : VS) : State → Host.Outcome State Fault Refusal :=
  run (.fexp2Packed p e bf rnd d a) (fp1 true bf e rnd d a exp2X)

/-- `FLOG2` on a packed type (R296). -/
def execFlog2Packed (p : Pre) (e : Ext) (bf : Bool) (rnd : BitVec 3) (d : VReg) (a : VS) : State → Host.Outcome State Fault Refusal :=
  run (.flog2Packed p e bf rnd d a) (fp1 true bf e rnd d a log2X)

/-- `FSINPI` on a packed type (R296). -/
def execFsinpiPacked (p : Pre) (e : Ext) (bf : Bool) (rnd : BitVec 3) (d : VReg) (a : VS) : State → Host.Outcome State Fault Refusal :=
  run (.fsinpiPacked p e bf rnd d a) (fp1 true bf e rnd d a sinpiX)

/-- `FCOSPI` on a packed type (R296). -/
def execFcospiPacked (p : Pre) (e : Ext) (bf : Bool) (rnd : BitVec 3) (d : VReg) (a : VS) : State → Host.Outcome State Fault Refusal :=
  run (.fcospiPacked p e bf rnd d a) (fp1 true bf e rnd d a cospiX)

/-- `FROUND` on a packed type (R298). -/
def execFroundPacked (p : Pre) (e : Ext) (bf : Bool) (rnd : BitVec 3) (d : VReg) (a : VS) : State → Host.Outcome State Fault Refusal :=
  run (.froundPacked p e bf rnd d a) (fp1 true bf e rnd d a roundX)

end Sys2Proof.Machine
end

