-- ==== Sys2Proof/Machine/Convert.lean ====
section
/-! DEFINITION. Conversions and block quantisation (R301 to R305). -/

namespace Sys2Proof.Machine

/-- The 8-bit format that `cvt8` of `%fmt` selects (R79). -/
def cvt8Of (fmt : Word) : Fmt :=
  match fmt.toNat / 16 % 8 with
  | 0 => .tf8
  | 1 => .e4m3
  | 2 => .e5m2
  | _ => .i8
/-- The format that a code names at issue: `.f8` as `cvt8` says (R301). -/
def fmtAt (f : Fmt) (fmt : Word) : Fmt := if f = .f8 then cvt8Of fmt else f

/-- The binary format of a code, if it is one. -/
def fmtBin : Fmt → Option BinFmt
  | .f32 => some BinFmt.f32
  | .f16 | .f16x2 => some BinFmt.f16
  | .bf16 | .bf16x2 => some BinFmt.bf16
  | .e4m3 => some BinFmt.E4M3
  | .e5m2 => some BinFmt.E5M2
  | _ => none
/-- Bits of an element (R301). -/
def fmtWidth : Fmt → Nat
  | .f32 | .i32 | .u32 => 32
  | .tf8 | .e4m3 | .e5m2 | .i8 | .u8 | .f8 => 8
  | _ => 16
/-- The range of an integer format (R92), if it is one. -/
def fmtInt : Fmt → Option (Int × Int)
  | .i8 => some (-128, 127)
  | .u8 => some (0, 255)
  | .i16 => some (-32768, 32767)
  | .u16 => some (0, 65535)
  | .i32 => some (-2147483648, 2147483647)
  | .u32 => some (0, 4294967295)
  | _ => none
/-- The two's-complement or unsigned value of an integer element. -/
def intValue (f : Fmt) (c : Nat) : Int :=
  match f with
  | .i8 | .i16 | .i32 => if c < 2 ^ ((fmtWidth f) - 1) then c else (c : Int) - 2 ^ (fmtWidth f)
  | _ => c
/-- The code of an integer in a format's bits. -/
def intCode (f : Fmt) (n : Int) : Nat := (n % 2 ^ (fmtWidth f)).toNat

/-- The value of a floating element; ftz applies to binary32, binary16 and bfloat16 alone (R302). -/
def readFmt (f : Fmt) (ftz : Bool) (c : Nat) : XVal :=
  match (fmtBin f) with
  | some b => b.read (ftz && 8 < (fmtWidth f)) c
  | none => tf8Read c

/-- A finite value rounded to a floating target (R93 to R97): 8-bit targets saturate unless `nosat`. -/
def roundFmt (f : Fmt) (nosat : Bool) (ftz : Bool) (mode : BitVec 3) (s : Word) (x : Exact) : Nat × Fl :=
  match (fmtBin f) with
  | some b => b.round mode ((fmtWidth f) == 8 && !nosat) (ftz && 8 < (fmtWidth f)) s x
  | none => tf8Round mode (!nosat) s x

/-- A value converted to a floating target (R97, R302). -/
def toFloat (f : Fmt) (nosat ftz : Bool) (mode : BitVec 3) (s : Word) (x : XVal) : Nat × Fl :=
  match x with
  | .fin v => roundFmt f nosat ftz mode s v
  | .nan g =>
    ((match (fmtBin f) with
      | some b => b.nanCode
      | none => 0x80), if g then Fl.nv else 0)
  | .inf n =>
    match f with
    | .e4m3 => if nosat then (0x7F, Fl.of ||| Fl.nx ||| Fl.nv) else ((if n then 0xFE else 0x7E), Fl.of ||| Fl.nx)
    | .tf8 => if nosat then (0x80, Fl.of ||| Fl.nx ||| Fl.nv) else ((if n then 0x81 else 0x01), Fl.of ||| Fl.nx)
    | _ =>
      match (fmtBin f) with
      | some b => (infOf b n, 0)
      | none => (0, 0)

/-- A value converted to an integer target (R92). -/
def toInt (lo hi : Int) (mode : BitVec 3) (s : Word) (x : XVal) : Int × Fl :=
  match x with
  | .nan _ => (0, Fl.nv)
  | .inf n => (if n then lo else hi, Fl.nv)
  | .fin v =>
    let (q, inexact) := roundInt mode s v
    let n : Int := if v.neg then -(q : Int) else q
    if n < lo then (lo, Fl.nv) else if hi < n then (hi, Fl.nv) else (n, if inexact then Fl.nx else 0)

/-- One element converted (R302). -/
def cvtElem (tgt src : Fmt) (nosat ftz : Bool) (mode : BitVec 3) (s : Word) (c : Nat) : Nat × Fl :=
  match (fmtInt src), (fmtInt tgt) with
  | some _, some (lo, hi) =>
    let n := intValue src c
    (intCode tgt (if nosat then n else max lo (min hi n)), 0)
  | some _, none => roundFmt tgt nosat ftz mode s (Exact.ofInt (intValue src c) 0)
  | none, some (lo, hi) =>
    let (n, fl) := toInt lo hi mode s (readFmt src ftz c)
    (intCode tgt n, fl)
  | none, none => toFloat tgt nosat ftz mode s (readFmt src ftz c)

/-- The rest of a register when an element is written (R301): sign fill for `.i8` and `.i16`. -/
def fillReg (f : Fmt) (c : Nat) : Nat :=
  match f with
  | .i8 => if 128 ≤ c then c + 0xFFFFFF00 else c
  | .i16 => if 32768 ≤ c then c + 0xFFFF0000 else c
  | _ => c

/-- `CVT` (R302). -/
def execCvt (p : Pre) (e : Ext) (tgt : Fmt) (rnd : BitVec 3) (d : VReg) (a : VS) (src : Fmt) (nosat : Bool) : State → Host.Outcome State Fault Refusal :=
  run (.cvt p e tgt rnd d a src nosat) (fpBlock e d tgt.elems 16 rnd fun x o k l s =>
    let t := fmtAt tgt x.f.fmt
    let r := fmtAt src x.f.fmt
    let c := (VSval x.g o l a).toNat / 2 ^ (16 * k) % 2 ^ (fmtWidth r)
    let (q, fl) := cvtElem t r nosat (ftzOf x.f) (modeOf x.f rnd) s c
    (fillReg t q, fl))

/-- The largest binade of a block target (R303). -/
def topBinade : Fmt → Int
  | .e4m3 => 8
  | .e5m2 => 15
  | _ => 0

/-- The E8 scale of a block (R303): 255 for a NaN or an infinity, 127 for all zeros. -/
def blockScale (t : Fmt) (ys : List XVal) : Nat :=
  if ys.any fun y => match y with
    | .fin _ => false
    | _ => true then 255
  else
    let bs := ys.filterMap fun y => match y with
      | .fin x => if x.m == 0 then none else some x.binade
      | _ => none
    match bs with
    | [] => 127
    | b :: r => (max 0 (min 254 (r.foldl max b - topBinade t + 127))).toNat

/-- One element quantised under scale `S` (R303, R304). -/
def quantElem (t : Fmt) (S : Nat) (mode : BitVec 3) (s : Word) (y : XVal) : Nat × Fl :=
  let sig := sigFl [y]
  if S = 255 then (0, sig)
  else
    match y with
    | .fin x =>
      let (q, fl) := roundFmt t false false mode s { x with e := x.e + 127 - (S : Int) }
      (q, fl ||| sig)
    | _ => (0, sig)

/-- The results of `QBLK` in a lane: 8 registers of elements, the scale, and what it accumulates (R303). -/
def quantLane (x : X) (t : Fmt) (rnd : BitVec 3) (a : VReg) (l : Nat) : List Word × Nat × Acc :=
  let mode := modeOf x.f rnd
  let ys := (List.range 32).map fun k => BinFmt.f32.read (ftzOf x.f) (x.g.vget (a.toNat + k) l).toNat
  let S := blockScale t ys
  let (qs, acc) := ys.foldl (fun (qa : List Nat × Acc) y =>
    let (q, acc) := qa.2.result mode fun s => quantElem t S mode s y
    (qa.1 ++ [q], acc)) ([], ⟨0, x.g.seed l⟩)
  ((List.range 8).map fun j => BitVec.ofNat 32 (leNat (((qs.drop (4 * j)).take 4).map fun q => BitVec.ofNat 8 q)), S, acc)

/-- `QBLK` (R303, R304). -/
def execQblk (p : Pre) (tgt : Fmt) (rnd : BitVec 3) (d a b : VReg) : State → Host.Outcome State Fault Refusal :=
  run (.qblk p tgt rnd d a b) fun s x =>
    let t := fmtAt tgt x.f.fmt
    if t = .i8 then (s, .event (Event.plain kOperand 0 x.lanes))
    else
      upd (fun x g => (lanesOf x.lanes).foldl (fun g l =>
        let (ws, S, acc) := quantLane x t rnd a l
        let g := (List.range 8).foldl (fun g j => g.vset (d.toNat + j) l (ws.getD j 0)) g
        (g.vset b.toNat l (BitVec.ofNat 32 S)).account l acc) g) s x

/-- One element restored (R305). -/
def dequant (t : Fmt) (ftz : Bool) (S q : Nat) : Nat × Fl :=
  let f := BinFmt.f32
  if S = 255 then (f.nanCode, 0)
  else
    match readFmt t false q with
    | .nan _ => (f.nanCode, 0)
    | .inf n => (infOf f n, 0)
    | .fin x =>
      let y : Exact := { x with e := x.e + (S : Int) - 127 }
      if !y.isZero && 128 ≤ y.binade then (infOf f y.neg, Fl.of ||| Fl.nx) else f.round 1 false ftz 0 y

/-- `DQBLK` (R305). -/
def execDqblk (p : Pre) (src : Fmt) (d a : VReg) (b : VS) : State → Host.Outcome State Fault Refusal :=
  run (.dqblk p src d a b) fun s x =>
    let t := fmtAt src x.f.fmt
    if t = .i8 then (s, .event (Event.plain kOperand 0 x.lanes))
    else
      upd (fun x g => (lanesOf x.lanes).foldl (fun g l =>
        let S := (VSval x.g 0 l b).toNat % 256
        (List.range 32).foldl (fun g k =>
          let q := (x.g.vget (a.toNat + k / 4) l).toNat / 2 ^ (8 * (k % 4)) % 256
          let (w, fl) := dequant t (ftzOf x.f) S q
          (g.vset (d.toNat + k) l (BitVec.ofNat 32 w)).account l ⟨fl, g.seed l⟩) g) g) s x

end Sys2Proof.Machine
end

