-- ==== Sys2Proof/Machine/Combine.lean ====
section
/-! DEFINITION. The combine functions of the operator tags, the reduction tree and the exact partial sum
(R158, R161, R162, R164, R331). -/

namespace Sys2Proof.Machine

/-- The environment of a binary32 combine. -/
def env32 (ftz : Bool) (mode : BitVec 3) (s : Word) : Env := ⟨BinFmt.f32, ftz, mode, s⟩

/-- The identity of a tag (R158). -/
def tagId : Op → DWord
  | .imin => 0x7FFFFFFF
  | .imax => 0x80000000
  | .umin => 0xFFFFFFFF
  | .and => 0xFFFFFFFF
  | .fadd32 => 0x80000000
  | .fmin32 => 0x7F800000
  | .fmax32 => 0xFF800000
  | _ => 0

/-- Combine of a tag, codes 0 to 11 (R158), with the flags of a rounding; `v` serves `fadd32`. -/
def combine (o : Op) (v : Env) (a b : DWord) : DWord × Fl :=
  let wa : Word := a.truncate 32
  let wb : Word := b.truncate 32
  let w (x : Word) : DWord × Fl := (x.zeroExtend 64, 0)
  let n (x : Nat × Fl) : DWord × Fl := (BitVec.ofNat 64 x.1, x.2)
  match o with
  | .iadd32 => w (wa + wb)
  | .iadd64 => (a + b, 0)
  | .imin => w (minW false wa wb)
  | .imax => w (maxW false wa wb)
  | .umin => w (minW true wa wb)
  | .umax => w (maxW true wa wb)
  | .and => w (wa &&& wb)
  | .or => w (wa ||| wb)
  | .xor => w (wa ^^^ wb)
  | .fadd32 => n (addX v (v.read wa.toNat) (v.read wb.toNat))
  | .fmin32 => n (minCode BinFmt.f32 false wa.toNat wb.toNat)
  | .fmax32 => n (minCode BinFmt.f32 true wa.toNat wb.toNat)
  | _ => (a, 0)

/-- Round to nearest even without ftz: every combine at a home or in a tree (R160, R331). -/
def envRne : Env := env32 false 1 0
/-- The combine of a home or a merge tree. -/
def combineRne (o : Op) (a b : DWord) : DWord := (combine o envRne a b).1

/-- The reduction tree of R164 over a list, with a state threaded in post-order, left subtree first; fuel bounds
the depth. -/
def treeBy {α β : Type} (f : α → β → β → β × α) : Nat → α → List β → Option β × α
  | 0, a, l => (l.head?, a)
  | n + 1, a, l =>
    match l with
    | [] => (none, a)
    | [x] => (some x, a)
    | _ =>
      let h := (l.length + 1) / 2
      let (x, a) := treeBy f n a (l.take h)
      let (y, a) := treeBy f n a (l.drop h)
      match x, y with
      | some x, some y =>
        let (z, a) := f a x y
        (some z, a)
      | some x, none => (some x, a)
      | none, y => (y, a)

/-! ### The exact partial sum (R161, R162) -/

def Partial.zero : Partial := ⟨0, false, false, false, false, false, false⟩
/-- The limits of the fixed-point range. -/
def fixMax : Int := 2 ^ 127 - 1
def fixMin : Int := -(2 ^ 127)
/-- Add a fixed-point number, saturating. -/
def Partial.addInt (p : Partial) (n : Int) : Partial :=
  let t := p.v.toInt + n
  if fixMax < t then { p with v := BitVec.ofInt 128 fixMax, ov := true }
  else if t < fixMin then { p with v := BitVec.ofInt 128 fixMin, ov := true }
  else { p with v := BitVec.ofInt 128 t }
/-- Combine a binary32 addend (R161). -/
def Partial.add (p : Partial) (c : Word) : Partial :=
  match BinFmt.f32.read false c.toNat with
  | .nan s => { p with nan := true, nv := p.nv || s }
  | .inf n => if n then { p with ninf := true } else { p with pinf := true }
  | .fin x =>
    let (q, r, _) := x.splitAt (-64)
    let p := { p with ix := p.ix || r != 0 }
    if 2 ^ 127 ≤ q then
      let p := { p with ov := true }
      p.addInt (if x.neg then fixMin else fixMax)
    else p.addInt (if x.neg then -(q : Int) else q)
/-- Combine two partials (R161). -/
def Partial.join (p q : Partial) : Partial :=
  let t := p.addInt q.v.toInt
  { t with ix := p.ix || q.ix, ov := t.ov || q.ov, nan := p.nan || q.nan, pinf := p.pinf || q.pinf, ninf := p.ninf || q.ninf, nv := p.nv || q.nv }

/-- The value a word under `xsum32` takes from home value `h` (none in a register reduction) and a partial,
with its flags (R162, R307). -/
def Partial.final (p : Partial) (h : Option Word) (mode : BitVec 3) (s : Word) : Word × Fl :=
  let f := BinFmt.f32
  let hx := h.map fun c => f.read false c.toNat
  let pos := p.pinf || hx == some (.inf false)
  let neg := p.ninf || hx == some (.inf true)
  let fl : Fl := (if p.ix then Fl.nx else 0) ||| (if p.ov then Fl.of else 0) ||| (if p.nv || (pos && neg) then Fl.nv else 0)
  if p.nan || (hx.map XVal.isNan).getD false || (pos && neg) then (BitVec.ofNat 32 f.nanCode, fl)
  else if pos then (BitVec.ofNat 32 (infOf f false), fl)
  else if neg then (BitVec.ofNat 32 (infOf f true), fl)
  else if p.v = 0 then (h.getD 0, fl)
  else
    let x := Exact.ofInt p.v.toInt (-64)
    let y := match hx with
      | some (.fin z) => Exact.add 1 z x
      | _ => x
    if y.isZero then (0, fl)
    else
      let (c, g) := f.round mode false false s y
      (BitVec.ofNat 32 c, fl ||| g)

/-- The identity partial of a tag. -/
def Partial.ofTag (o : Op) : Partial := { Partial.zero with v := (tagId o).zeroExtend 128 }
/-- Combine two partials of a tag (R158, R161). -/
def Partial.merge (o : Op) (p q : Partial) : Partial :=
  if o = .xsum32 then p.join q
  else { Partial.zero with v := (combineRne o (p.v.truncate 64) (q.v.truncate 64)).zeroExtend 128 }
/-- Combine an update into a partial (R160); `v` serves `fadd32`. -/
def Partial.update (o : Op) (v : Env) (p : Partial) (d : DWord) : Partial :=
  if o = .xsum32 then p.add (d.truncate 32)
  else { Partial.zero with v := (combine o v (p.v.truncate 64) d).1.zeroExtend 128 }
/-- The tree of R164 over partials. -/
def Partial.tree (o : Op) (l : List Partial) : Option Partial :=
  (treeBy (fun (u : Nat) p q => (Partial.merge o p q, u)) 12 0 l).1

end Sys2Proof.Machine
end

