-- ==== Sys2Proof/Machine/Home.lean ====
section
/-! DEFINITION. The home of a line: agents and scopes (R169 to R172, R441), stamps and the race check (R442 to
R447), monitors (R200), the directory's transitions (R142 to R149), merges (R159 to R167), lost lines (R469). -/

namespace Sys2Proof.Machine

/-! ### Agents and scopes -/

/-- The code of a scope; 0 for none (R224). -/
def scopeNo : Scope → Nat
  | .none => 0
  | .thread => 1
  | .group => 2
  | .wg => 3
  | .gang => 4
  | .dev => 5
  | .sys => 6

/-- The agent id of a thread (R441). -/
def threadAgent (core slot : Nat) (uni : Bool) (lane : Nat) : BitVec 24 :=
  BitVec.ofNat 24 (core * 2 ^ 14 + slot * 2 ^ 8 + (if uni then 128 else 0) + lane)
/-- The agent id of an engine: 0 copy, 1 matrix, 2 walker (R441). -/
def engineAgent (core slot unit : Nat) : BitVec 24 := BitVec.ofNat 24 (2 ^ 22 + core * 2 ^ 14 + slot * 2 ^ 8 + unit)
/-- The agent id of the firmware (R441). -/
def hostAgent : BitVec 24 := BitVec.ofNat 24 (2 ^ 23)
/-- Whether two ids denote one agent (R441). -/
def sameAgent (a b : BitVec 24) : Bool :=
  a == b || (a.toNat / 2 ^ 22 == 0 && a.toNat / 256 == b.toNat / 256 && (a.getLsbD 7 || b.getLsbD 7))

/-- Whether one instance of a scope holds two threads of one launch (R169); the group alone is the workgroup and
the gang of a packed group. -/
def sameInstance (r : LRec) (code a b : Nat) : Bool :=
  let ga := a / 256
  let gb := b / 256
  let whole := ga < 2 ^ 32 && gb < 2 ^ 32
  match code with
  | 0 => false
  | 1 => ga == gb && (a == b || a % 256 == 200 || b % 256 == 200)
  | 2 => ga == gb
  | 3 => ga == gb || (whole && ga / 16 == gb / 16)
  | 4 => ga == gb || (whole && ga / 16 / r.gang == gb / 16 / r.gang)
  | _ => true

/-- The launch number that stands for the threads of another device. -/
def farLaunch : Nat := 2 ^ 64
/-- Whether the scope instance of an operation of thread `a` of launch `la` holds thread `b` of launch `lb` (R169): of device scope,
every thread of this device. -/
def State.reaches (s : State) (code la a lb b : Nat) : Bool :=
  6 ≤ code || (code == 5 && (la == farLaunch) == (lb == farLaunch)) || (la == lb && la != farLaunch && match Table.find s.launches la with
    | some l => sameInstance l.lrec code a b
    | none => code != 0 && a / 256 == b / 256)

/-- Whether a release synchronises with an acquire of a scope that observes it (R171). -/
def State.synced (s : State) (r : Release) (launch thread code : Nat) : Bool :=
  s.reaches r.scope r.launch r.thread launch thread && s.reaches code launch thread r.launch r.thread

/-- The largest stamp among the releases of a value that an acquire synchronises with; 0 for none. -/
def State.observed (s : State) (rels : List Release) (launch thread code : Nat) : Nat :=
  (rels.filter fun r => s.synced r launch thread code).foldl (fun m r => max m r.stamp) 0

/-- The agent of an access, its launch and thread, its time and horizon, whether it is checked (R448), the releases that its
writes are, by scope code and stamp (R170, R175, R444), and the group's accesses before its yields (R211). -/
structure Who where
  agent  : BitVec 24
  launch : Nat
  thread : Nat
  time   : Nat
  hor    : Nat
  check  : Bool
  rel    : List (Nat × Nat)
  was    : List (Nat × Nat × Nat)
  deriving DecidableEq, Repr

/-- The firmware or the host as an agent. -/
def State.hostWho (s : State) : Who := ⟨hostAgent, 0, 0, s.now, 0, false, [], []⟩

/-- Whether an access of an agent at a time is one of `a`'s own, or of its group before a yield: all of those come before every
access after it (R211, R441). -/
def Who.owns (a : Who) (b : BitVec 24) (t : Nat) : Bool :=
  sameAgent b a.agent || a.was.any fun w => b.toNat / 256 == w.1 && w.2.1 ≤ t && t < w.2.2

/-! ### Stamps -/

/-- The stamps held at the home of a word. -/
def State.stampsOf (s : State) (pa : Nat) : Stamps := Table.get Stamps.blank s.homes (pa / 4)
def State.setStamps (s : State) (pa : Nat) (x : Stamps) : State :=
  { s with homes := Table.put Stamps.blank s.homes (pa / 4) x }

/-- Whether accesses of two kinds, one of them a write, conflict when they touch a common byte (R172). -/
def State.clash (s : State) (j k : StampKind) : Bool :=
  match j, k with
  | .upd t, .upd u => t != u
  | .atomic c l t, .atomic d m u => !(s.reaches (scopeNo c) l t m u && s.reaches (scopeNo d) m u l t)
  | _, _ => true

/-- The race check of one word (R446), for an access of a kind, a write or not, to bytes of it: the code and the other agent
of a conflict. A stamp conflicts where an access that it stands for does under R172 (R449, log 18). -/
def State.race (s : State) (st : Stamps) (a : Who) (k : StampKind) (writes : Bool) (bytes : BitVec 4) : Option (Nat × Nat) :=
  let hit (b : BitVec 24) (ms : List Mark) : Bool := a.check &&
    ms.any fun m => !a.owns b m.time && a.hor ≤ m.time && m.bytes &&& bytes != 0 && s.clash m.kind k
  let first := st.w.bind fun w => if hit w.agent w.marks then some ((if writes then 0 else 1), w.agent.toNat) else none
  let second := st.r.bind fun r => if writes && hit r.agent r.marks then some (2, r.agent.toNat) else none
  first.or second

/-- Take bytes from the marks that a test picks; a mark of no byte is gone. -/
def stripMarks (p : Mark → Bool) (bytes : BitVec 4) (ms : List Mark) : List Mark :=
  (ms.map fun m => if p m then { m with bytes := m.bytes &&& ~~~bytes } else m).filter fun m => m.bytes != 0
/-- The latest time of marks. -/
def lastMark (ms : List Mark) : Nat := ms.foldl (fun t m => max t m.time) 0

/-- Add a release to those of a word: of one thread, scope and byte the one with the latest stamp is kept. -/
def addRelease (l : List Release) (r : Release) : List Release :=
  let same (x : Release) : Bool := x.launch == r.launch && x.thread == r.thread && x.scope == r.scope
  let kept := (l.filter fun x => same x && r.stamp < x.stamp).foldl (fun b x => b ||| x.bytes) 0
  let r := { r with bytes := r.bytes &&& ~~~kept }
  ((l.map fun x => if same x then { x with bytes := x.bytes &&& ~~~r.bytes } else x) ++ [r]).filter fun x => x.bytes != 0

/-- The releases of a word after a write of bytes: on top of those before if it is an atomic or an `UPD`; else those of
the other bytes remain (R171). -/
def relsAfter (l : List Release) (a : Who) (rmw : Bool) (bytes : BitVec 4) : List Release :=
  let l := if rmw then l
    else (l.map fun x => { x with bytes := x.bytes &&& ~~~bytes }).filter fun x => x.bytes != 0
  a.rel.foldl (fun l r => addRelease l ⟨a.launch, a.thread, r.1, r.2, bytes⟩) l
/-- The releases that a read of bytes observes (R171). -/
def relsOn (l : List Release) (bytes : BitVec 4) : List Release := l.filter fun r => r.bytes &&& bytes != 0

/-- The stamps after a write (R447); where no stamps are kept (R448), only the releases. -/
def Stamps.write (st : Stamps) (a : Who) (k : StampKind) (rmw kept : Bool) (bytes : BitVec 4) : Stamps :=
  let rel := relsAfter st.rel a rmw bytes
  if !kept then { st with rel := rel }
  else
    let before := match st.w with
      | some w => if w.agent == a.agent then stripMarks (fun _ => true) bytes w.marks else []
      | none => []
    ⟨some ⟨a.agent, before ++ [⟨a.time, k, bytes⟩]⟩, none, rel⟩

/-- A reader's marks with one more: a later read of a byte in the same kind stands for the earlier ones. -/
def RStamp.add (r : RStamp) (m : Mark) : RStamp :=
  { r with marks := stripMarks (fun x => x.kind == m.kind) m.bytes r.marks ++ [m] }
/-- The stamps after a read (R447). -/
def Stamps.read (st : Stamps) (a : Who) (k : StampKind) (bytes : BitVec 4) : Stamps :=
  let m : Mark := ⟨a.time, k, bytes⟩
  match st.r with
  | none => { st with r := some ⟨a.agent, [m], false⟩ }
  | some r =>
    if sameAgent r.agent a.agent then { st with r := some { r.add m with agent := a.agent } }
    else if lastMark r.marks < a.hor then { st with r := some ⟨a.agent, [m], false⟩ }
    else { st with r := some { r with many := true } }

/-- The home takes the stamps that a core returns (R443): the write stamp replaces its own, the read stamp is applied as reads
of its agent. -/
def Stamps.back (h x : Stamps) : Stamps :=
  let h := if x.w.isSome && x.w != h.w then { h with w := x.w, r := none } else h
  let h := { h with rel := x.rel }
  match x.r, h.r with
  | none, _ => h
  | some r, none => { h with r := some r }
  | some r, some q =>
    if sameAgent r.agent q.agent then { h with r := some { (r.marks.foldl RStamp.add q) with agent := r.agent, many := r.many || q.many } }
    else { h with r := some { q with many := true } }

/-! ### Monitors (R186, R200, R201) -/

/-- Whether a write of a value to a word satisfies a monitor. -/
def Monitor.met (m : Monitor) (pa : Nat) (v : Word) : Bool := m.addr == pa / 4 * 4 && m.sat.isNone &&
  match m.cond with
  | some (c, x) => cmpHolds c v x
  | none => true

/-- A write of a word satisfies the monitors whose condition it meets, which are free from then on (R201); a monitor that a
peer has registered is told of (R340). -/
def State.wrote (s : State) (pa : Nat) (v : Word) (rels : List Release) : State :=
  if s.monitors.any fun m => m.met pa v then
    let far := s.monitors.filter fun m => m.met pa v && m.peer.isSome
    let stamp := maxStamp 0 ((rels.filter fun r => r.scope == 6).map (·.stamp))
    let s := far.foldl (fun s m => match m.peer with
      | some (node, key) => s.send node (.woke key stamp)
      | none => s) s
    { s with monitors := (s.monitors.filter fun m => !far.contains m).map fun m =>
        if m.met pa v then { m with held := false, sat := some rels } else m }
  else s

/-! ### L1 copies -/

def State.l1? (s : State) (c line : Nat) : Option L1Line := Table.find (s.core c).l1 line
def State.setL1 (s : State) (c line : Nat) (x : L1Line) : State :=
  s.modCore c fun k => { k with l1 := Table.insert k.l1 line x }
def State.dropL1 (s : State) (c line : Nat) : State :=
  (s.modCore c fun k => { k with l1 := Table.erase k.l1 line }).mendAll (Store.ofCopy c line)
/-- The valid words of a core's copy of a line. -/
def State.validIn (s : State) (c line : Nat) : Word := ((s.l1? c line).map (·.valid)).getD 0
/-- Whether a core's L1 holds a word (R125). -/
def State.inL1 (s : State) (c pa : Nat) : Bool := (s.validIn c (pa / 128)).getLsbD (pa / 4 % 32)

/-- The core and line of a message, and whether it goes from a core to the home (R143). -/
def Msg.core : Msg → Nat
  | .probe c _ _ _ | .answer c _ _ _ | .gone c _ _ | .grant c _ _ _ _ _ | .writeback c _ _ _ _ | .flush c _ _ _ => c
def Msg.line : Msg → Nat
  | .probe _ l _ _ | .answer _ l _ _ | .gone _ l _ | .grant _ l _ _ _ _ | .writeback _ l _ _ _ | .flush _ l _ _ => l
def Msg.toHome : Msg → Bool
  | .probe .. | .grant .. => false
  | _ => true

/-- Whether a line's home waits for probes or messages about it are in flight, or a holder has been lost and the home has
not yet removed it, or a peer has still to acknowledge the partial state that this device holds of its line, which is not given
back before (R159, R415): it takes no further request. -/
def State.homeBusy (s : State) (line : Nat) : Bool :=
  let d := s.entry line
  d.pend.isSome || (d.st == .P && d.unacked) || (d.holders.any fun c => (s.core c).lost) || s.msgs.any fun m => m.line == line
/-- Whether an access to a line waits for its home, or for a peer that holds partial state of it (R159, R164). -/
def State.lineBusy (s : State) (line : Nat) : Bool := s.homeBusy line || !(s.entry line).devs.isEmpty

/-- An access waits for a line that peers hold partial state of: each of them is asked for it, once (R159, R164, R165). -/
def State.askPeers (s : State) (line : Nat) : State :=
  let d := s.entry line
  let ask := d.devs.filter fun n => !d.asked.contains n
  if ask.isEmpty then s
  else (ask.foldl (fun s n => s.send n (.probe line)) s).modEntry line fun d => { d with asked := d.asked ++ ask }
/-- The lines of words that an access waits for. -/
def State.claim (s : State) (ws : List Nat) : State := (ws.map (· / 128)).dedup.foldl State.askPeers s

/-! ### Errors of the SRAM stores (R456) -/

/-- A core's copy of a line without one word. -/
def State.dropWord (s : State) (c line i : Nat) : State :=
  match s.l1? c line with
  | none => s
  | some x => s.setL1 c line { x with valid := x.valid &&& ~~~(wordBit i), dirty := x.dirty &&& ~~~(wordBit i),
                                      words := Table.erase x.words i, stamps := Table.erase x.stamps i }

/-- A word of a core's copy is read: where it is uncorrectable it leaves the copy, and is lost if it was dirty (R456). -/
def State.readL1 (s : State) (c : Nat) (ctx : Option Nat) (pa : Nat) : State :=
  if !s.inL1 c pa then s
  else
    let (s, bad) := s.readStore (.l1 c (pa / 4 * 4)) ctx
    if !bad then s
    else
      let dirty := ((s.l1? c (pa / 128)).map fun x => x.dirty.getLsbD (pa / 4 % 32)).getD false
      let s := s.dropWord c (pa / 128) (pa / 4 % 32)
      if dirty then s.lose (pa / 128) (wordBit (pa / 4 % 32)) else s
/-- A core's copy of a line is read whole, as it goes home (R456). -/
def State.readCopy (s : State) (c line : Nat) : State :=
  if s.flaws.isEmpty then s
  else (List.range 32).foldl (fun s i => s.readL1 c none (128 * line + 4 * i)) s

/-- An access of a core, or of an engine at the home, reads the stores that serve a word: its directory entry, the core's copy
and one that holds a newer value, the home slice. What is uncorrectable there is lost, or is fetched again where it was clean
(R456, R469). -/
def State.readStores (s : State) (c : Option Nat) (ctx : Option Nat) (pa : Nat) : State :=
  if s.flaws.isEmpty then s
  else
    let line := pa / 128
    let (s, bad) := s.readStore (.entry line) ctx
    let s := if bad then s.lose line (BitVec.allOnes 32) else s
    let s := (c.toList ++ (s.dirtyAt pa).toList).dedup.foldl (fun s c => s.readL1 c ctx pa) s
    s.readHome ctx pa

/-- The slots of the update buffers that hold partials of a line are read (R456): the answer says that one of them is
uncorrectable. -/
def State.readSlots (s : State) (line : Nat) : State × Bool :=
  if s.flaws.isEmpty then (s, false)
  else
    s.coreMap.foldl (fun (acc : State × Bool) c =>
      ((s.core c).ubuf.filter fun u => u.addr / 128 == line).foldl (fun (acc : State × Bool) u =>
        let (s, bad) := acc.1.readStore (.slot c u.addr) none
        (s, acc.2 || bad)) acc) (s, false)

/-! ### Copies go home -/

/-- The words of a copy that a mask names go home: dirty ones with their values, and the stamps of all (R143, R443). -/
def State.returnWords (s : State) (x : L1Line) (line : Nat) (m : Word) : State :=
  (wordsOf (x.valid &&& m)).foldl (fun s i =>
    let pa := 128 * line + 4 * i
    let s := if x.dirty.getLsbD i then s.putWord pa (Table.get 0 x.words i) else s
    s.setStamps pa ((s.stampsOf pa).back (Table.get Stamps.blank x.stamps i))) s
/-- A recall of a core's copy (R146). -/
def State.recall (s : State) (line c : Nat) : State :=
  let s := s.readCopy c line
  match s.l1? c line with
  | none => s
  | some x => (s.returnWords x line (BitVec.allOnes 32)).dropL1 c line
/-- A forward-read of a core's copy: it stays, clean (R146). -/
def State.forwardRead (s : State) (line c : Nat) : State :=
  let s := s.readCopy c line
  match s.l1? c line with
  | none => s
  | some x => (s.returnWords x line (BitVec.allOnes 32)).setL1 c line { x with dirty := 0 }
/-- A holder that enters D keeps only its dirty words (R145, R148). -/
def State.divide (s : State) (line c : Nat) : State :=
  let s := s.readCopy c line
  match s.l1? c line with
  | none => s
  | some x =>
    let s := s.returnWords x line (~~~x.dirty)
    if x.dirty = 0 then s.dropL1 c line
    else s.setL1 c line { x with valid := x.dirty, stamps := x.stamps.filter fun w => x.dirty.getLsbD w.1 }

/-- What remains of an entry when a holder of M or D is gone (R145). -/
def Dir.without (d : Dir) (c : Nat) : Dir :=
  let hs := d.holders.filter (· != c)
  let ms := Table.erase d.masks c
  match d.st, hs with
  | .D, [_] => { d with st := .M, holders := hs, masks := [] }
  | _, [] => { d with st := .I, holders := [], masks := [] }
  | _, _ => { d with holders := hs, masks := ms }

/-- A Writeback (R144, R145): the core gives up its copy, and the home installs its words. -/
def State.giveUp (s : State) (line c : Nat) : State := (s.recall line c).modEntry line fun d => d.without c

/-- An eviction (R144): silent from S, and where the directory tracks nothing. -/
def State.evict (s : State) (line c : Nat) : State :=
  let d := s.entry line
  if (d.st == .M || d.st == .D) && d.holders.contains c then s.giveUp line c else s.dropL1 c line

/-- L1 lines of a core: 128 KiB (R10). -/
def l1Lines : Nat := 1024
/-- The line that an allocation evicts: a streamed one first, a kept one last (R318; the rest of the choice is log 19). -/
def victimOf (t : Table L1Line) : Option Nat :=
  ((t.find? fun x => x.2.hint == 1).or ((t.find? fun x => x.2.hint != 2).or t.head?)).map (·.1)
/-- Make room for a line in a core's L1. -/
def State.makeRoom (s : State) (c line : Nat) : State :=
  if (s.l1? c line).isSome || (s.core c).l1.length < l1Lines then s
  else
    match victimOf ((s.core c).l1.filter fun x => !s.lineBusy x.1) with
    | some v => s.evict v c
    | none => s

/-- Words of a line that can be delivered are installed in a core's copy beside those present, with their stamps (R125,
R443); an owner takes the stamps away from the home. With `grant` they come by a Grant of the line, whose seq the copy takes
(R143, R145, R150). -/
def State.install (s : State) (c line : Nat) (m : Word) (cls : Cls) (hint : BitVec 2) (own grant : Bool) : State :=
  let s := s.makeRoom c line
  let s := s.readHomes none ((wordsOf (m &&& ~~~(s.validIn c line))).map fun i => 128 * line + 4 * i)
  let s := if grant then s.modEntry line fun d => { d with seq := d.seq + 1 } else s
  let q := (s.entry line).seq
  let x := (s.l1? c line).getD ⟨cls, q, 0, 0, [], [], hint⟩
  let ok := (wordsOf (m &&& ~~~x.valid)).filter fun i => (s.badWord (128 * line + 4 * i)).isNone
  let x := ok.foldl (fun (x : L1Line) i =>
    let pa := 128 * line + 4 * i
    { x with valid := x.valid ||| wordBit i, words := Table.put 0 x.words i (s.homeWord pa), stamps := Table.put Stamps.blank x.stamps i (s.stampsOf pa) })
    { x with seq := if grant then q else x.seq, hint := hint }
  let s := if own then ok.foldl (fun s i => s.setStamps (128 * line + 4 * i) Stamps.blank) s else s
  if x.valid = 0 && !own then s else s.setL1 c line x

/-- The words of a mask and the other words of their aligned doublewords. -/
def pairs (m : Word) : Word := m ||| ((m &&& 0x55555555) <<< 1) ||| ((m >>> 1) &&& 0x55555555)
/-- A core's copy of an NC line lets words of a mask go, as it may at any time (R125). -/
def State.dropWords (s : State) (c line : Nat) (m : Word) : State :=
  match s.l1? c line with
  | some x =>
    if x.valid &&& m = 0 then s
    else s.setL1 c line { x with valid := x.valid &&& ~~~m, words := x.words.filter fun w => !m.getLsbD w.1 }
  | none => s

/-! ### Merging the partial state (R164, R165) -/

/-- The words that a tag's partial at an address covers. -/
def tagWords (t : Op) (a : Nat) : List Nat := if t = .iadd64 then [a, a + 4] else [a]
/-- The cores that hold partials of a line, in ascending logical id. -/
def State.partHolders (s : State) (line : Nat) : List Nat :=
  s.coreMap.filter fun c => (s.core c).ubuf.any fun u => u.addr / 128 == line
/-- The partials of an address in ascending logical core id. -/
def State.partsAt (s : State) (a : Nat) : List USlot :=
  s.coreMap.filterMap fun c => (s.core c).ubuf.find? fun u => u.addr == a

/-- The partials of an address that peers have given back, one for each device, in order of their nodes (R165). -/
def Dir.devParts (d : Dir) (a : Nat) : List Partial :=
  let l := d.dparts.foldl (fun (t : Table (List (Nat × DWord))) p => Table.insert t p.1 p.2) []
  l.filterMap fun p => (p.2.find? fun q => q.1 == a).map fun q => ⟨q.2.zeroExtend 128, false, false, false, false, false, false⟩

/-- The merged partial of an address (R164, R165): the home partial, then the tree over the holders. -/
def State.mergedAt (s : State) (d : Dir) (a : Nat) : Option Partial :=
  match Table.find d.hpart a, Partial.tree d.tag ((s.partsAt a).map (·.p) ++ d.devParts a) with
  | some h, some t => some (Partial.merge d.tag h t)
  | some h, none => some h
  | none, t => t

/-- The stamp of a slot's latest update (R160, R443). -/
def USlot.stamp (u : USlot) (t : Op) : WStamp := ⟨u.agent, [⟨u.time, .upd t, 0xF⟩]⟩
/-- The later of two write stamps. -/
def laterStamp (v w : WStamp) : WStamp := if lastMark v.marks < lastMark w.marks then w else v
/-- The latest update among the slots and the home partial of an address (R443). -/
def State.latestAt (s : State) (d : Dir) (a : Nat) : Option WStamp :=
  ((Table.find d.hstamp a).toList ++ (s.partsAt a).map fun u => u.stamp d.tag).foldl (fun m w => match m with
    | some v => some (laterStamp v w)
    | none => some w) none

/-- The value that a merge gives the word or doubleword at an address, with its flags (R162, R164). -/
def State.mergeValue (s : State) (t : Op) (a : Nat) (p : Partial) : DWord × Fl :=
  if t = .xsum32 then
    let (w, fl) := p.final (some (s.homeWord a)) 1 0
    (w.zeroExtend 64, fl)
  else if t = .iadd64 then (combineRne t (s.homeWord (a + 4) ++ s.homeWord a) (p.v.truncate 64), 0)
  else (combineRne t ((s.homeWord a).zeroExtend 64) (p.v.truncate 64), 0)

/-- Store a merged word at its home with the stamp of its latest update (R162, R443). -/
def State.putMerged (s : State) (a : Nat) (w : Word) (u : Option WStamp) : State :=
  let s := s.putWord a w
  let st := s.stampsOf a
  let s := s.setStamps a { st with w := u.or st.w, r := none }
  s.wrote a w st.rel

/-- What a merge gives: the state, the flags of words under `xsum32` by address, and the code and address of a home
value that could not be read (R462). -/
structure Merged where
  s     : State
  flags : Table Fl
  abort : Option (Nat × Nat)
  deriving DecidableEq, Repr

/-- The state after a merge that no access consumes: a home value that could not be read is told of (R459, R460). -/
def Merged.told (r : Merged) : State :=
  match r.abort with
  | some (code, pa) => r.s.noteAbort pa code none
  | none => r.s

/-- The partials of a line and its home partials are gone, and the line is in I. -/
def State.clearParts (s : State) (line : Nat) : State :=
  let s := { s with cores := s.cores.map fun (c : Nat × CoreSt) => (c.1, { c.2 with ubuf := c.2.ubuf.filter fun u => u.addr / 128 != line }) }
  s.modEntry line fun d => { d with st := .I, holders := [], hpart := [], hstamp := [], asked := [], dparts := [] }

/-- A home of a peer's line gives back what it has collected of it: the combined partial, to the owner (R159, R165). -/
def State.returnParts (s : State) (line : Nat) : State :=
  let d := s.entry line
  if place (128 * line) != .peer || d.st != .P then s
  else s.send (nodeOf (128 * line)) (.parts line d.tag (d.hpart.map fun p => (p.1, p.2.v.truncate 64)))

/-- THE MERGE of a line in P (R162, R164, R165): every holder's partials are taken, each word takes its merged value, and
the line leaves P. A home value that aborts, and a slot that is uncorrectable (R456), lose the whole line (R469). -/
def State.mergeLine (s : State) (line : Nat) : Merged :=
  let (s, flawed) := (s.returnParts line).readSlots line
  let d := s.entry line
  let addrs := ((d.hpart.map (·.1)) ++ (d.dparts.flatMap fun p => p.2.map (·.1)) ++ s.coreMap.flatMap fun c =>
    ((s.core c).ubuf.filter fun u => u.addr / 128 == line).map (·.addr)).dedup
  let parts := addrs.filterMap fun a => (s.mergedAt d a).map fun p => (a, p, s.latestAt d a)
  let s := s.readHomes none (addrs.flatMap (tagWords d.tag))
  let bad := if flawed then some (6, 128 * line)
    else (addrs.flatMap (tagWords d.tag)).findSome? fun a => (s.badWord a).map fun c => (c, a)
  match bad with
  | some bad => ⟨(s.clearParts line).lose line (BitVec.allOnes 32), [], some bad⟩
  | none =>
    let (t, fl) := parts.foldl (fun (acc : State × Table Fl) p =>
      let (v, f) := acc.1.mergeValue d.tag p.1 p.2.1
      let s := acc.1.putMerged p.1 (v.truncate 32) p.2.2
      let s := if d.tag = .iadd64 then s.putMerged (p.1 + 4) ((v >>> 32).truncate 32) p.2.2 else s
      (s, if f = 0 then acc.2 else Table.insert acc.2 p.1 f)) (s, [])
    ⟨t.clearParts line, fl, none⟩

/-! ### Requests that wait, and grants (R143, R145, R150) -/

/-- The words of a line that a core is to be sent: those of a mask that can be delivered. -/
def State.sendable (s : State) (line : Nat) (m : Word) : List Nat := (wordsOf m).filter fun i => (s.badWord (128 * line + 4 * i)).isNone

/-- Send a Grant of words with their stamps (R143, R150, R443), which their home slice reads: an owner takes the stamps away from
the home. -/
def State.sendGrant (s : State) (c line : Nat) (m : Word) (own : Bool) : State :=
  let s := s.readHomes none ((wordsOf m).map fun i => 128 * line + 4 * i)
  let is := s.sendable line m
  let q := (s.entry line).seq + 1
  let words : Table Word := is.map fun i => (i, s.homeWord (128 * line + 4 * i))
  let stamps : Table Stamps := is.map fun i => (i, s.stampsOf (128 * line + 4 * i))
  let s := s.modEntry line fun d => { d with seq := q }
  let s := if own then is.foldl (fun s i => s.setStamps (128 * line + 4 * i) Stamps.blank) s else s
  { s with msgs := s.msgs ++ [.grant c line q words stamps own] }

/-- A holder of S keeps its words as the owner: their stamps go home and come back with the grant. -/
def State.upgrade (s : State) (c line : Nat) : State :=
  let s := s.readCopy c line
  match s.l1? c line with
  | none => s
  | some x =>
    let s := s.returnWords x line (BitVec.allOnes 32)
    let st := (wordsOf x.valid).foldl (fun t i => Table.put Stamps.blank t i (s.stampsOf (128 * line + 4 * i))) []
    let s := (wordsOf x.valid).foldl (fun s i => s.setStamps (128 * line + 4 * i) Stamps.blank) s
    s.setL1 c line { x with stamps := st }

/-- A merge completes from the partials that the probed holders returned (R164): they are taken as though still in the
holders' buffers. -/
def State.mergeAnswers (s : State) (line : Nat) (parts : List (Nat × USlot)) : Merged :=
  (parts.foldl (fun s p => s.modCore p.1 fun k => { k with ubuf := k.ubuf ++ [p.2] }) s).mergeLine line

/-- The number under which a peer device makes requests of a home, as a core does (R159). -/
def peerAgent (node : Nat) : Nat := 256 + node
/-- A line enters P with one holder (R145): a core, or a peer device, which is told so (R159, R415). -/
def State.enterP (s : State) (line c : Nat) (t : Op) : State :=
  let s := s.modEntry line fun d => { d with st := .P, holders := if c < 256 then [c] else [], masks := [], tag := t, hpart := [],
                                             hstamp := [], devs := if c < 256 then [] else [c - 256], asked := [], dparts := [] }
  if c < 256 then s else s.send (c - 256) (.joined line)

/-- The last probed holder has answered: the waiting request is served (R145, R146). A merge whose home value aborts
grants nothing (R462). -/
def State.servePend (s : State) (line : Nat) (p : Pend) : State :=
  let s := s.modEntry line fun d => { d with pend := none }
  let d := s.entry line
  let r : Merged := if d.st = .P then s.mergeAnswers line p.parts else ⟨s, [], none⟩
  if r.abort.isSome then r.told
  else
    let s := r.s
    match p.req with
    | .read =>
      let hs := if d.st = .P then [] else d.holders
      (s.modEntry line fun d => { d with st := .S, holders := if hs.contains p.core then hs else hs ++ [p.core], masks := [] }).sendGrant
        p.core line p.mask false
    | .own =>
      match d.st, d.holders with
      | .D, [y] => (s.modEntry line fun d => { d with holders := [y, p.core], masks := Table.insert d.masks p.core p.mask }).sendGrant p.core line p.mask true
      | .S, _ =>
        ((s.upgrade p.core line).modEntry line fun d => { d with st := .M, holders := [p.core], masks := [] }).sendGrant p.core line p.mask true
      | _, _ => (s.modEntry line fun d => { d with st := .M, holders := [p.core], masks := [] }).sendGrant p.core line p.mask true
    | .upd t => s.enterP line p.core t

/-- A holder has answered, or what it sent counts as its answer (R152). -/
def State.answered (s : State) (line c : Nat) : State :=
  match (s.entry line).pend with
  | none => s
  | some p =>
    let p := { p with left := p.left.filter (· != c) }
    if p.left.isEmpty then s.servePend line p else s.modEntry line fun d => { d with pend := some p }

/-- The home takes partials that a core gives up (R159, R163): they are combined into the home partials. -/
def State.takeSlots (s : State) (line : Nat) (us : List USlot) : State :=
  us.foldl (fun s u => s.modEntry line fun d =>
    let h := (Table.find d.hpart u.addr).getD (Partial.ofTag d.tag)
    let w := match Table.find d.hstamp u.addr with
      | some v => laterStamp v (u.stamp d.tag)
      | none => u.stamp d.tag
    { d with hpart := Table.insert d.hpart u.addr (Partial.merge d.tag h u.p), hstamp := Table.insert d.hstamp u.addr w }) s

/-- A Flush of a line in P reaches its home (R145, R159): with its last holder gone the line leaves P, and the home partials are
merged into the home's values at once (DEDUCED, log 109: R145 does not say when). To a merge that waits for it, it is the core's
answer. -/
def State.takeFlush (s : State) (c line : Nat) (us : List USlot) : State :=
  let s := (s.takeSlots line us).modEntry line fun d => { d with holders := d.holders.filter (· != c) }
  let d := s.entry line
  if d.pend.isSome then s.answered line c
  else if d.st == .P && d.holders.isEmpty && d.devs.isEmpty then (s.mergeLine line).told else s

/-- What a core holds of a line in its update buffer, and the state without it. -/
def State.popSlots (s : State) (c line : Nat) : List USlot × State :=
  ((s.core c).ubuf.filter fun u => u.addr / 128 == line,
    s.modCore c fun k => { k with ubuf := k.ubuf.filter fun u => u.addr / 128 != line })

/-- A core flushes a line (R163): a slot that is uncorrectable loses the line (R456). -/
def State.flushLine (s : State) (c line : Nat) : State :=
  let (s, flawed) := s.readSlots line
  if flawed then (s.clearParts line).lose line (BitVec.allOnes 32)
  else
    let (us, s) := s.popSlots c line
    s.takeFlush c line us

/-! ### The directory's transitions (R145) -/

/-- A merge of D, R149: every holder's words are installed and its copy goes. -/
def State.undivide (s : State) (line : Nat) : State :=
  ((s.entry line).holders.foldl (fun s c => s.recall line c) s).modEntry line fun d => { d with st := .I, holders := [], masks := [] }

/-- The copies of the other cores go to their home, before a write there that leaves the core's own copy in place (R318). -/
def State.gatherOthers (s : State) (c line : Nat) (m : Word) : Merged :=
  let d := s.entry line
  match d.st with
  | .I => ⟨s, [], none⟩
  | .S =>
    let s := (d.holders.filter (· != c)).foldl (fun s y => s.recall line y) s
    let hs := d.holders.filter (· == c)
    ⟨s.modEntry line fun d => { d with st := if hs.isEmpty then .I else .S, holders := hs }, [], none⟩
  | .M => if d.holders.contains c then ⟨s, [], none⟩ else ⟨s.undivide line, [], none⟩
  | .D =>
    if d.holders.contains c && m &&& ~~~(Table.get 0 d.masks c) == 0 then ⟨s, [], none⟩ else ⟨s.undivide line, [], none⟩
  | .P => s.mergeLine line

/-- Every copy and partial of a line goes to its home, and the line is in I: for an atomic, a write at the home, a
seal or a reclaim (R154, R332, R473). A seal recalls the copies of a line in S as well (DESIGN CHOICE, log 110: R154 names the
holders of M, D and P). -/
def State.gather (s : State) (line : Nat) : Merged :=
  let d := s.entry line
  match d.st with
  | .P => s.mergeLine line
  | .I => ⟨s, [], none⟩
  | _ => ⟨s.undivide line, [], none⟩

/-- The reader that is no core: an engine or the firmware at the home. -/
def homeReader : Nat := 144

/-- What a core itself holds newer than the home of a line goes home, before the home performs a whole-line read (R176): an owner's
copy stays, clean; a line in D is merged. -/
def State.bringHome (s : State) (c line : Nat) : State :=
  let d := s.entry line
  match d.st with
  | .M => if d.holders.contains c then s.forwardRead line c else s
  | .D => s.undivide line
  | _ => s

/-- A Read of words by a core (R145), with `alloc` whether its L1 takes them (R318). -/
def State.readLine (s : State) (c line : Nat) (m : Word) (hint : BitVec 2) (alloc : Bool) : Merged :=
  let d := s.entry line
  let need := m &&& ~~~(s.validIn c line)
  let share (s : State) (hs : List Nat) : State :=
    let hs := if alloc && !hs.contains c then hs ++ [c] else hs
    let s := s.modEntry line fun d => { d with st := if hs.isEmpty then .I else .S, holders := hs, masks := [] }
    if alloc then s.install c line need .dc hint false true else s
  if need = 0 then ⟨s, [], none⟩
  else if d.sealed.isSome then ⟨if alloc then s.install c line need .dc hint false true else s, [], none⟩
  else
    match d.st with
    | .I => ⟨share s [], [], none⟩
    | .S => ⟨share s d.holders, [], none⟩
    | .M =>
      if d.holders.contains c then ⟨if alloc then s.install c line need .dc hint true true else s, [], none⟩
      else ⟨share (d.holders.foldl (fun s y => s.forwardRead line y) s) d.holders, [], none⟩
    | .D =>
      if (d.masks.any fun k => k.1 != c && k.2 &&& need != 0) then ⟨share (s.undivide line) [], [], none⟩
      else ⟨s, [], none⟩
    | .P =>
      let r := s.mergeLine line
      if r.abort.isSome then r else { r with s := share r.s [] }

/-- A core that takes a line in M with words (R145): what it held stays valid. -/
def State.own1 (s : State) (c line : Nat) (m : Word) (hint : BitVec 2) : State :=
  let s := s.modEntry line fun d => { d with st := .M, holders := [c], masks := [] }
  s.install c line m .dc hint true true

/-- A copy takes the policy hint of an access that it serves itself (R318). -/
def State.rehint (s : State) (c line : Nat) (hint : BitVec 2) : State :=
  match s.l1? c line with
  | some x => s.setL1 c line { x with hint := hint }
  | none => s

/-- An Own of words by a core (R145); a holder in M, and one in D of words of its mask, makes no request (R145, R148). -/
def State.ownLine (s : State) (c line : Nat) (m : Word) (hint : BitVec 2) : Merged :=
  let d := s.entry line
  match d.st with
  | .I => ⟨(s.dropL1 c line).own1 c line m hint, [], none⟩
  | .S =>
    let s := (d.holders.filter (· != c)).foldl (fun s y => s.recall line y) s
    ⟨(s.upgrade c line).own1 c line m hint, [], none⟩
  | .M =>
    if d.holders.contains c then ⟨s.rehint c line hint, [], none⟩
    else
      match d.holders with
      | [y] =>
        let dirty := ((s.l1? y line).map (·.dirty)).getD 0
        if dirty &&& m = 0 then
          let s := s.divide line y
          let s := s.modEntry line fun d => { d with st := .D, holders := [y, c], masks := Table.insert [(y, dirty)] c m }
          ⟨(s.dropL1 c line).install c line m .dc hint true true, [], none⟩
        else ⟨(s.recall line y).own1 c line m hint, [], none⟩
      | hs => ⟨(hs.foldl (fun s y => s.recall line y) s).own1 c line m hint, [], none⟩
  | .D =>
    let mine := Table.get 0 d.masks c
    let hs := if d.holders.contains c then d.holders else d.holders ++ [c]
    if m &&& ~~~mine = 0 && d.holders.contains c then ⟨s.rehint c line hint, [], none⟩
    else if (d.masks.all fun k => k.1 == c || k.2 &&& m == 0) && hs.length ≤ 8 then
      let s := s.modEntry line fun d => { d with holders := hs, masks := Table.insert d.masks c (mine ||| m) }
      ⟨s.install c line m .dc hint true true, [], none⟩
    else ⟨(s.undivide line).own1 c line m hint, [], none⟩
  | .P =>
    let r := s.mergeLine line
    if r.abort.isSome then r else { r with s := r.s.own1 c line m hint }

/-- An Update of a line by a core under a tag (R145, R335). -/
def State.joinLine (s : State) (c line : Nat) (t : Op) : Merged :=
  let d := s.entry line
  if d.st == .P && d.tag == t then
    ⟨if d.holders.contains c then s else s.modEntry line fun d => { d with holders := d.holders ++ [c] }, [], none⟩
  else
    let r := s.gather line
    if r.abort.isSome then r else { r with s := (r.s.dropL1 c line).enterP line c t }

end Sys2Proof.Machine
end

