-- ==== Sys2Proof/Machine/Access.lean ====
section
/-! DEFINITION. Accesses of threads to global memory (R313 to R320, R345, R422): addresses, the checks of an
instruction before any access performs, loads, stores, aborts (R461 to R463). -/

namespace Sys2Proof.Machine

/-! ### Accesses (R313) -/

/-- The lanes that perform accesses: of a form that executes once, the lowest active one (R317). -/
def X.accessLanes (x : X) (uni : Bool) : List Nat := if uni then [x.low] else lanesOf x.lanes

/-- An access that an instruction asks for: lane, block position, byte address, size, and whether its burst offset is
out of range (R345). -/
structure Ask where
  lane : Nat
  pos  : Nat
  addr : Int
  size : Nat
  bad  : Bool
  deriving DecidableEq, Repr

/-- An access that has passed translation: virtual and physical address, class, write permission. -/
structure Res where
  lane : Nat
  pos  : Nat
  size : Nat
  va   : Nat
  pa   : Nat
  cls  : Cls
  w    : Bool
  bad  : Bool
  deriving DecidableEq, Repr

/-- The words that an access names. -/
def Res.words (r : Res) : List Nat := if r.size = 8 then [r.pa, r.pa + 4] else [r.pa / 4 * 4]
/-- The bytes of its word that an access of at most 4 bytes names. -/
def byteMask (a size : Nat) : BitVec 4 := BitVec.ofNat 4 ((2 ^ min size 4 - 1) * 2 ^ (a % 4))
def Res.bytes (r : Res) : BitVec 4 := byteMask r.pa r.size

/-- What an instruction does with its words. -/
inductive Mode where
  | read | write | inval
  | atomic (o : Op)
  | red (o : Op)
  | upd (o : Op)
  deriving DecidableEq, Repr
def Mode.writes : Mode → Bool
  | .read | .inval => false
  | _ => true

/-- The legality table (R320). -/
def Mode.legal (md : Mode) (c : Cls) (pa : Nat) : Bool :=
  match md with
  | .atomic o | .red o => place pa != .host || [Op.iadd32, .iadd64, .exch32, .exch64, .cas32, .cas64].contains o
  | .upd o =>
    if c == .dc then true
    else if place pa == .host then o == .iadd32 || o == .iadd64
    else o != .xsum32
  | _ => true

/-- Whether an instruction is a whole-line group access (R176): its words are the 32 of one line, each once. -/
def wholeLine (l : List Res) : Bool :=
  let ws := l.flatMap Res.words
  match ws with
  | [] => false
  | w :: _ => l.all (fun r => 4 ≤ r.size) && l.all (fun r => r.size == (l.head?.map (·.size)).getD 0)
      && ws.length == 32 && ws.dedup.length == 32 && ws.all fun v => v / 128 == w / 128

/-! ### The checks before any access performs (R315, R422) -/

/-- A memory event of the accesses that failed a category (R422, R423). -/
def memEvent (x : X) (uni : Bool) (kind code : Nat) (l : List (Nat × Int)) : Event :=
  let lanes := maskOf (l.map (·.1))
  let lo := lowLane lanes
  let a := ((l.find? fun c => c.1 == lo).map (·.2)).getD 0
  ⟨kind, code, BitVec.ofInt 64 a, if uni then x.f.mask else lanes, 0, none⟩
def Ask.at (a : Ask) : Nat × Int := (a.lane, a.addr)
def Res.at (r : Res) : Nat × Int := (r.lane, r.va)

/-- The first check of a category that an access of an instruction fails, by kind and code, as the event of the accesses that
fail the category (R315, R422, R423). -/
def failed {α : Type} (x : X) (uni : Bool) (checks : List (Nat × Nat × (α → Bool))) (place : α → Nat × Int) (l : List α) : Option Event :=
  (checks.find? fun c => l.any c.2.2).map fun c =>
    memEvent x uni c.1 c.2.1 ((l.filter fun a => checks.any fun c => c.2.2 a).map place)

/-- How the checks of an instruction end. -/
inductive Resolved where
  | stop (s : State) (d : Done)
  | ok (l : List Res)

/-- Category 4 (R422): every access is translated; a fault comes first, then a first touch (R139), then a wait for a
leaf that is filling (R140). -/
def State.translateAll (s : State) (x : X) (uni : Bool) (l : List Ask) : Resolved :=
  let ts := l.map fun a => (a, s.translate x.core (s.ctxOf x.g.launch) a.addr.toNat)
  match ts.filter fun t => t.2 == .fault with
  | _ :: _ => .stop (ts.foldl (fun s t => s.noteFault x.core (s.ctxOf x.g.launch) t.1.addr.toNat) s) (.event (memEvent x uni kTranslation 0 ((ts.filter fun t => t.2 == .fault).map fun t => t.1.at)))
  | [] =>
    let pools := ts.filterMap fun t => match t.2 with
      | .pool p lv _ => some (t.1, p, lv)
      | _ => none
    let lo := lowLane (maskOf (pools.map fun t => t.1.lane))
    match pools.find? fun t => t.1.lane == lo with
    | some (_, p, lv) =>
      let e := memEvent x uni kTouch 0 (pools.map fun t => t.1.at)
      .stop (s.fillLeaf p) (.event { e with leaf := some (p, levelSize lv) })
    | none =>
      match ts.findSome? fun t => match t.2 with
        | .filling p _ => some p
        | _ => none with
      | some p => .stop s (.wait (.leaf p))
      | none => .ok (ts.filterMap fun t => match t.2 with
          | .page pa c w _ => some ⟨t.1.lane, t.1.pos, t.1.size, t.1.addr.toNat, pa, c, w, t.1.bad⟩
          | _ => none)

/-- Category 3 of R422 for `gl:` accesses: the address, then its alignment. -/
def formed : List (Nat × Nat × (Ask → Bool)) :=
  [(kAddress, 0, fun a => a.addr < 0 || 2 ^ 57 ≤ a.addr), (kAlign, 0, fun a => a.addr % (a.size : Int) != 0)]
/-- Category 5: protection, atomic class, burst range, sealed-region write, and a lost word that a write names (R472). `sys` marks a
`.rel.sys` store (R473). -/
def State.permitted (s : State) (md : Mode) (sys : Bool) (rs : List Res) : List (Nat × Nat × (Res → Bool)) :=
  let again := sys && wholeLine rs
  [(kProtection, 0, fun r => md.writes && !r.w), (kAtomic, 0, fun r => !md.legal r.cls r.pa), (kBurst, 0, fun r => r.bad),
   (kSealed, 0, fun r => md.writes && r.words.any fun w => (s.entry (w / 128)).sealed.isSome),
   (kLost, 6, fun r => md.writes && !again && r.words.any s.lostWord)]
/-- Whether an access of a mode to host memory waits for its answer (R320): reductions do not. -/
def Mode.answers : Mode → Bool
  | .upd _ | .red _ | .inval => false
  | _ => true

/-- Whether an access waits for the home of a word: an `UPD` of a DC line in P under its tag joins the other holders (R145). -/
def State.waitsFor (s : State) (md : Mode) (cls : Cls) (w : Nat) : Bool :=
  let d := s.entry (w / 128)
  if md == .inval then false
  else if cls == .dc && d.st == .P && md == .upd d.tag then s.homeBusy (w / 128) else s.lineBusy (w / 128)

/-- Categories 3 to 5 of R422 for the accesses of a `gl:` instruction, then what it waits for: the wait
for host memory (R320), lines whose home is busy, and the release of the `PTEW` that wrote a leaf (R282, R445). -/
def State.resolve (s : State) (x : X) (uni : Bool) (md : Mode) (sys : Bool) (l : List Ask) : Resolved :=
  match failed x uni formed Ask.at l with
  | some e => .stop s (.event e)
  | none =>
  match s.translateAll x uni l with
  | .stop s d => .stop s d
  | .ok rs =>
  match failed x uni (s.permitted md sys rs) Res.at rs with
  | some e => .stop s (.event e)
  | none =>
    let ws := rs.flatMap Res.words
    let h := maxStamp 0 (rs.map fun r => s.leafStamp (s.ctxOf x.g.launch) r.va)
    if md.answers && rs.any (fun r => place r.pa == .host) && !x.f.hostOk then .stop s (.wait .host)
    else if rs.any fun r => r.words.any (s.waitsFor md r.cls) then .stop (s.claim ws) .hold
    else if x.g.horizon.toNat < h || s.now < h then
      .stop (s.modGroup x.k fun g => { g with horizon := BitVec.ofNat 64 (max g.horizon.toNat h) }) .hold
    else .ok rs

/-! ### Aborts (R461 to R463) -/

/-- The lanes of a kill that accesses of an instruction bring about. -/
def killLanes (x : X) (uni : Bool) (l : List Nat) : Mask := if uni then x.f.mask else maskOf l

/-- A word of an access that receives an abort: the lane, the code of R463, the word that cannot be read, and the virtual address
of the word accessed. -/
structure Abort where
  lane : Nat
  code : Nat
  pa   : Nat
  va   : Nat
  deriving DecidableEq, Repr

/-- The first abort of the lowest lane that receives one (R463). -/
def lowestAbort (l : List Abort) : Option Abort := l.find? fun a => a.lane == lowLane (maskOf (l.map (·.lane)))

/-- A thread's accesses consume aborts: each word that cannot be read is told of (R459, R460), and the gang is killed (R462). -/
def State.abortThread (s : State) (x : X) (uni : Bool) (l : List Abort) : State × Done :=
  let s := (l.map fun a => (a.pa, a.code)).dedup.foldl (fun s a => s.noteAbort a.1 a.2 (some (s.ctxOf x.g.launch))) s
  match lowestAbort l with
  | some a => (s.abortKill x.k (abortRecord a.code a.va (x.f.pc / 12)) (killLanes x uni (l.map (·.lane))), .gone)
  | none => (s, .gone)

/-! ### The agent of an access -/

/-- The releases that later writes of lanes are by their release fences, by scope code and stamp (R175, R444). -/
def Group.fenced (g : Group) (ls : List Nat) : List (Nat × Nat) :=
  if g.relF.isEmpty then []
  else [1, 2, 3, 4, 5, 6].filterMap fun c =>
    let h := maxStamp 0 (ls.map fun l => Table.get 0 g.relF (l * 8 + c))
    if h = 0 then none else some (c, h)

/-- The lanes whose program order an access is in: of a uniform form every lane that it executes for (R168). -/
def X.ordered (x : X) (uni : Bool) (l : Nat) : List Nat := if uni then lanesOf x.lanes else [l]
/-- The number of a thread of a launch: of a uniform access 200. -/
def X.thread (x : X) (uni : Bool) (l : Nat) : Nat := x.g.gid * 256 + (if uni then 200 else l)

/-- A thread as the agent of an access now: a release of its instruction's scope, of all that precedes it, and of its lanes' release
fences of other scopes (R170, R175, R441). -/
def X.who (x : X) (s : State) (uni : Bool) (l : Nat) (sc : Scope) : Who :=
  ⟨threadAgent (s.logical x.core) (slotOf x.k) uni l, x.g.launch, x.thread uni l, s.now, x.g.horizon.toNat, x.f.only.isNone,
   (if sc = .none then [] else [(scopeNo sc, s.stampNow)])
     ++ (x.g.fenced (x.ordered uni l)).filter fun f => sc = .none || f.1 != scopeNo sc, x.g.was⟩

/-- The kind of a thread's plain or synchronising access (log 20). -/
def X.kind (x : X) (uni : Bool) (l : Nat) (sc : Scope) : StampKind :=
  if sc = .none then .plain else .atomic sc x.g.launch (x.thread uni l)

/-- Whether reductions of a group are still on their way to a peer or the host: a release waits for them (R333). -/
def State.redsOut (s : State) (g : Group) : Bool :=
  s.ops.any fun o => o.2.launch == g.launch && o.2.gid == g.gid && (o.2.cls == 3 || o.2.cls == 4) && !o.2.done

/-- Whether a release of a scope waits for the acknowledgement of an owner: a system-scope one does (R415). -/
def State.unacked (s : State) (sc : Scope) : Bool := sc == .sys && s.owing
/-- Whether a release of a scope waits for earlier accesses of its group (R319, R333, R415). -/
def State.owedTo (s : State) (g : Group) (sc : Scope) : Bool := sc != .none && (s.redsOut g || s.unacked sc)

/-- The group takes what its lanes have observed: an acquire raises the horizon (R445), a read is remembered for a later
acquire fence (R175). -/
def Group.observe (s : State) (g : Group) (th : Nat) (ls : List Nat) (rels : List Release) (acq : Scope) : Group :=
  let h := s.observed rels g.launch th (scopeNo acq)
  let g := if acq = .none || h ≤ g.horizon.toNat then g else { g with horizon := BitVec.ofNat 64 h }
  if rels.isEmpty then g
  else { g with seen := [1, 2, 3, 4, 5, 6].foldl (fun t c => ls.foldl (fun t l =>
      Table.put 0 t (l * 8 + c) (max (Table.get 0 t (l * 8 + c)) (s.observed rels g.launch th c))) t) g.seen }

/-- A word leaves an NC copy of a core that has changed it, or read it, at the home, so that its thread reads what it has written or
seen there, or a later value (R173). -/
def State.forget (s : State) (c pa : Nat) : State :=
  match s.l1? c (pa / 128) with
  | some y => if y.cls == .nc then s.dropWords c (pa / 128) (wordBit (pa / 4 % 32)) else s
  | none => s

/-- An acquire completes when `%tb` has reached the horizon (R445). -/
def State.afterAcquire (s : State) (k : Nat) : Done :=
  match s.group? k with
  | some g => if s.now < g.horizon.toNat then .pass .horizon else .next
  | none => .next

/-! ### Words as a core sees them -/

/-- The word that an access of a core is served: its own copy's where that is valid, else the home's. -/
def State.wordAt (s : State) (c pa : Nat) : Word :=
  match s.l1? c (pa / 128) with
  | some x => if x.valid.getLsbD (pa / 4 % 32) then Table.get 0 x.words (pa / 4 % 32) else s.homeWord pa
  | none => s.homeWord pa
/-- The stamps where the access is served (R443). -/
def State.stampsAt (s : State) (c pa : Nat) : Stamps :=
  match s.l1? c (pa / 128) with
  | some x => if x.valid.getLsbD (pa / 4 % 32) then Table.get Stamps.blank x.stamps (pa / 4 % 32) else s.stampsOf pa
  | none => s.stampsOf pa
def State.putStampsAt (s : State) (c pa : Nat) (st : Stamps) : State :=
  match s.l1? c (pa / 128) with
  | some x =>
    if x.valid.getLsbD (pa / 4 % 32) then
      s.setL1 c (pa / 128) { x with stamps := Table.put Stamps.blank x.stamps (pa / 4 % 32) st }
    else s.setStamps pa st
  | none => s.setStamps pa st
/-- The releases that the newest value of a word carries (R171). -/
def State.newestRels (s : State) (pa : Nat) : List Release :=
  (match s.dirtyAt pa with
    | some c => s.stampsAt c pa
    | none => s.stampsOf pa).rel
/-- Why an access of a core to a word aborts, if it does: not when its own copy serves it, nor when another's newer value comes
home for it. -/
def State.badAt (s : State) (c pa : Nat) : Option Nat := if s.inL1 c pa || (s.dirtyAt pa).isSome then none else s.badWord pa

/-- The distinct lines of accesses, with their class and the words named in each. -/
def linesOf (l : List Res) : List (Nat × Cls × Word) :=
  let ws := l.flatMap fun r => r.words.map fun w => (w, r.cls)
  (ws.map fun w => w.1 / 128).dedup.map fun n =>
    let here := ws.filter fun w => w.1 / 128 == n
    (n, (here.head?.map (·.2)).getD .nc, here.foldl (fun m w => m ||| wordBit (w.1 / 4 % 32)) 0)

/-- The accesses of an instruction at the memory side: the state, the flags of merges, the accesses that are performed, and the words
of those that abort. -/
structure Served where
  s     : State
  flags : Table Fl
  ok    : List Res
  bad   : List Abort

/-- The lines in P that accesses name are merged (R164): the state, the flags of words, and the lines whose merge met a home value
that could not be read, with its code and address (R462). -/
def State.mergeAll (s : State) (l : List Res) : State × Table Fl × Table (Nat × Nat) :=
  (linesOf l).foldl (fun (acc : State × Table Fl × Table (Nat × Nat)) n =>
    if (acc.1.entry n.1).st != .P then acc
    else
      let r := acc.1.mergeLine n.1
      (r.s, r.flags ++ acc.2.1, (r.abort.toList.map fun b => (n.1, b)) ++ acc.2.2)) (s, [], [])

/-- The words of an access that abort: a merge of its line has, or the word is bad. -/
def Res.aborts (r : Res) (failed : Table (Nat × Nat)) (bad : Nat → Option Nat) : List Abort :=
  r.words.filterMap fun w =>
    let va := r.va / 4 * 4 + (w - r.pa / 4 * 4)
    match Table.find failed (w / 128) with
    | some (code, pa) => some ⟨r.lane, code, pa, va⟩
    | none => (bad w).map fun code => ⟨r.lane, code, w, va⟩

/-- Sort the accesses of an instruction, before anything is performed, into those that are and those that abort (R461), after the
merges of its lines in P, of which some have aborted. -/
def sortOut (merged : State × Table Fl × Table (Nat × Nat)) (bad : State → Res → Nat → Option Nat) (l : List Res) : Served :=
  let no (r : Res) : List Abort := r.aborts merged.2.2 (bad merged.1 r)
  ⟨merged.1, merged.2.1, l.filter fun r => (no r).isEmpty, l.flatMap no⟩

/-- Prepare a line for each of several requests; the first abort stands. -/
def State.prepAll (s : State) (f : State → Nat → Cls → Word → Merged) (l : List (Nat × Cls × Word)) : Merged :=
  l.foldl (fun (r : Merged) n =>
    let q := f r.s n.1 n.2.1 n.2.2
    ⟨q.s, q.flags ++ r.flags, r.abort.or q.abort⟩) ⟨s, [], none⟩

/-- Bring the words of a load where it is served (R125, R138, R145, R165, R318); `whole` marks a whole-line access, which the home
performs (R176). Where an NC copy lacks a word of an aligned doubleword, the other word goes as well: the two that it holds are of
one moment, as an 8-byte access needs them (R176; log 57). -/
def State.prepRead (c : Nat) (hint : BitVec 2) (whole : Bool) (s : State) (line : Nat) (cls : Cls) (m : Word) : Merged :=
  match cls with
  | .dc => (if whole then s.bringHome c line else s).readLine c line m hint (hint != 3)
  | .nc =>
    let need := if whole then m else m &&& ~~~(s.validIn c line)
    if need = 0 then ⟨if hint = 3 then s else s.rehint c line hint, [], none⟩
    else if hint = 3 then ⟨s.dropWords c line (pairs need &&& m), [], none⟩
    else ⟨(s.dropWords c line (pairs need)).install c line m .nc hint false false, [], none⟩
  | .xc => if (s.entry line).st == .P then s.mergeLine line else ⟨s, [], none⟩

/-- Bring the words of a store where they are written (R138, R145, R318). A no-allocate store is made at the home: the
other cores' copies are recalled. An NC copy lets the other words of the written doublewords go (R176; log 57). -/
def State.prepWrite (c : Nat) (hint : BitVec 2) (s : State) (line : Nat) (cls : Cls) (m : Word) : Merged :=
  match cls with
  | .dc => if hint = 3 then s.gatherOthers c line m else s.ownLine c line m hint
  | .nc => ⟨s.dropWords c line (pairs m &&& ~~~m), [], none⟩
  | .xc => if (s.entry line).st == .P then s.mergeLine line else ⟨s, [], none⟩

/-- The words of accesses that their home slices have to fetch for a core (R128, R132): not those that its own copy serves, nor
those of which some core holds a newer value. -/
def State.fetchFor (s : State) (c : Nat) (l : List Res) : State :=
  s.fetchWords ((l.flatMap Res.words).filter fun w => !s.inL1 c w && (s.dirtyAt w).isNone)
/-- The stores of the device that serve accesses of a core are read (R456). -/
def State.readFor (s : State) (x : X) (l : List Res) : State :=
  (l.flatMap Res.words).foldl (fun s w => s.readStores (some x.core) (some (s.ctxOf x.g.launch)) w) s

/-! ### Loads -/

/-- A load's value in registers (R321). -/
def extend (sz : Size) (v : DWord) : List Word :=
  match sz with
  | .b8 => [(v.truncate 8).zeroExtend 32]
  | .s8 => [(v.truncate 8).signExtend 32]
  | .b16 => [(v.truncate 16).zeroExtend 32]
  | .s16 => [(v.truncate 16).signExtend 32]
  | .b32 => [v.truncate 32]
  | .b64 => [v.truncate 32, (v >>> 32).truncate 32]
def byteSize : Size → Nat
  | .b8 | .s8 => 1
  | .b16 | .s16 => 2
  | .b32 => 4
  | .b64 => 8

/-- The value of an access (R3). -/
def State.valueAt (s : State) (c pa size : Nat) : DWord :=
  if size = 8 then s.wordAt c (pa + 4) ++ s.wordAt c pa
  else ((s.wordAt c pa) >>> (8 * (pa % 4))).zeroExtend 64

/-- Write what a load read of one lane into its destination (R317). -/
def Group.putLoaded (g : Group) (d : VS) (off l : Nat) (ws : List Word) : Group :=
  (ws.zip (List.range ws.length)).foldl (fun (g : Group) w => match d with
    | .v r => g.vset (r.toNat + off + w.2) l w.1
    | .s r => g.sset (r.toNat + w.2) w.1) g

/-- A conflict found by the race check (R446): lane, code, other agent, virtual address of the word. -/
structure Clash where
  lane  : Nat
  code  : Nat
  agent : Nat
  va    : Nat
  deriving DecidableEq, Repr

/-- The race check of every word of an access (R446). -/
def State.clashOf (s : State) (c : Nat) (a : Who) (k : StampKind) (writes : Bool) (r : Res) : Option Clash :=
  if r.cls != .dc then none
  else r.words.findSome? fun w => (s.race (s.stampsAt c w) a k writes r.bytes).map fun h =>
    ⟨r.lane, h.1, h.2, r.va / 4 * 4 + (w - r.pa / 4 * 4)⟩

/-- The memory-model exception of an instruction's conflicting lanes (R423, R433, R446). -/
def raceEvent (x : X) (uni : Bool) (l : List Clash) : Event :=
  let lanes := maskOf (l.map (·.lane))
  match l.find? fun c => c.lane == lowLane lanes with
  | some c => ⟨kRace, c.code, BitVec.ofNat 64 c.va, if uni then x.f.mask else lanes, c.agent, none⟩
  | none => Event.plain kRace 0 lanes

/-- The releases that a read of a core observes where it is served (R171). -/
def State.relsAt (s : State) (c : Nat) (r : Res) : List Release := r.words.flatMap fun w => relsOn (s.stampsAt c w).rel r.bytes
/-- A thread as the agent of a read now: an acquire has the releases that it observes before it (R445). -/
def X.reader (x : X) (s : State) (uni : Bool) (sc : Scope) (r : Res) : Who :=
  let a := x.who s uni r.lane .none
  if sc = .none then a else { a with hor := max a.hor (s.observed (s.relsAt x.core r) a.launch a.thread (scopeNo sc)) }

/-- One read of a load: the race check, the stamps, the value, which of a whole-line access is the home's, the flags of a merge (R162,
R176, R446, R447). -/
def State.readOne (s : State) (x : X) (uni : Bool) (sc : Scope) (whole : Bool) (flags : Table Fl) (r : Res) (put : Group → DWord → Group) :
    State × Option Clash :=
  let c := x.core
  let a := x.reader s uni sc r
  let rels := s.relsAt c r
  let k := x.kind uni r.lane sc
  match s.clashOf c a k false r with
  | some h => (s, some h)
  | none =>
    let s := r.words.foldl (fun s w =>
      let s := if s.inL1 c w then s else s.noteRead w
      if r.cls == .dc then s.putStampsAt c w ((s.stampsAt c w).read a k r.bytes) else s) s
    let v := s.valueAt (if whole then homeReader else c) r.pa r.size
    let fl := r.words.foldl (fun f w => f ||| ((Table.find flags w).getD 0)) (0 : Fl)
    (s.modGroup x.k fun g => ((put g v).account r.lane ⟨fl, g.seed r.lane⟩).observe s a.thread (x.ordered uni r.lane) rels sc, none)

/-- How the accesses of an instruction end: aborts kill (R462); else conflicts raise their exception (R446); else `d`. -/
def State.endAccess (s : State) (x : X) (uni : Bool) (bad : List Abort) (hits : List Clash) (d : Done) : State × Done :=
  if !bad.isEmpty then s.abortThread x uni bad
  else if hits.isEmpty then (s, d)
  else (s, .event (raceEvent x uni hits))

/-- PERFORM A LOAD whose accesses have passed their checks: `fetch` brings the words that home slices lack (R128), `put` writes the
value of an access. What aborts is not performed, the rest is (R461). -/
def State.performLoad (s : State) (x : X) (uni : Bool) (hint : BitVec 2) (sc : Scope) (l : List Res)
    (fetch : State → State) (put : Res → Group → DWord → Group) : State × Done :=
  let c := x.core
  let whole := wholeLine l
  let q := sortOut ((fetch (s.readFor x l)).mergeAll l) (fun s _ w => s.badAt (if whole then homeReader else c) w) l
  let s := (q.s.prepAll (State.prepRead c hint whole) (linesOf q.ok)).s
  let (s, hits) := q.ok.foldl (fun (acc : State × List Clash) a =>
    let (s, h) := acc.1.readOne x uni sc whole q.flags a (put a)
    (s, acc.2 ++ h.toList)) (s, [])
  s.endAccess x uni q.bad hits (if sc = .none then .next else s.afterAcquire x.k)

/-! ### Stores -/

/-- A word that a store writes: its lane, bytes and value. -/
structure Put where
  lane  : Nat
  pa    : Nat
  cls   : Cls
  bytes : BitVec 4
  val   : Word
  deriving DecidableEq, Repr

/-- Replace the bytes of a word that a mask names. -/
def mergeBytes (m : BitVec 4) (old new : Word) : Word :=
  let k : Word := (List.range 4).foldl (fun k i => if m.getLsbD i then k ||| (0xFF#32 <<< (8 * i)) else k) 0
  (old &&& ~~~k) ||| (new &&& k)

/-- The words of one access of a store. -/
def Res.puts (r : Res) (v : DWord) : List Put :=
  if r.size = 8 then [⟨r.lane, r.pa, r.cls, 0xF, v.truncate 32⟩, ⟨r.lane, r.pa + 4, r.cls, 0xF, (v >>> 32).truncate 32⟩]
  else [⟨r.lane, r.pa / 4 * 4, r.cls, r.bytes, (v.truncate 32) <<< (8 * (r.pa % 4))⟩]

/-- Set a word of a core's copy. -/
def L1Line.set (x : L1Line) (i : Nat) (v : Word) (dirty : Word) : L1Line :=
  { x with valid := x.valid ||| wordBit i, words := Table.put 0 x.words i v, dirty := x.dirty ||| dirty }

/-- Whether a core writes a word of a DC line in its own copy (R145, R148): it holds the line in M, or in D with the word in its
mask. -/
def State.owns (s : State) (c pa : Nat) : Bool :=
  let d := s.entry (pa / 128)
  d.holders.contains c && (d.st == .M || (d.st == .D && (Table.get 0 d.masks c).getLsbD (pa / 4 % 32)))

/-- Put bytes of a word where a store of a core writes them (R138, R145, R189, R318): into its own copy where it is the
owner; at the home, and into its own copy where that is valid or the class is cached. Answers the word written. -/
def State.pokeAt (s : State) (c : Nat) (hint : BitVec 2) (p : Put) : State × Word :=
  let line := p.pa / 128
  let i := p.pa / 4 % 32
  let s := if p.bytes = 0xF || s.inL1 c p.pa then s else s.noteRead p.pa
  let home := mergeBytes p.bytes (s.homeWord p.pa) p.val
  match p.cls with
  | .dc =>
    if s.owns c p.pa then
      let v := mergeBytes p.bytes (s.wordAt c p.pa) p.val
      if hint = 3 then
        let s := s.putWord p.pa v
        match s.l1? c line with
        | some x => (if x.valid.getLsbD i then s.setL1 c line { x.set i v 0 with dirty := x.dirty &&& ~~~(wordBit i) } else s, v)
        | none => (s, v)
      else
        let q := (s.entry line).seq
        (s.setL1 c line (((s.l1? c line).getD ⟨.dc, q, 0, 0, [], [], hint⟩).set i v (wordBit i)), v)
    else
      let s := s.putWord p.pa home
      match s.l1? c line with
      | some x => (if x.valid.getLsbD i then s.setL1 c line (x.set i home 0) else s, home)
      | none => (s, home)
  | .nc =>
    let s := s.putWord p.pa home
    if hint = 3 then
      match s.l1? c line with
      | some x => (if x.valid.getLsbD i then s.setL1 c line (x.set i home 0) else s, home)
      | none => (s, home)
    else
      let s := s.makeRoom c line
      (s.setL1 c line { ((s.l1? c line).getD ⟨.nc, 0, 0, 0, [], [], hint⟩).set i home 0 with hint := hint }, home)
  | .xc => (s.putWord p.pa home, home)

/-- Write the bytes of one word of a store: the stamps of the lanes that name it, in their order and each with its own bytes; the word,
once; the monitors (R133, R172, R186, R447). -/
def State.storeWord (s : State) (c : Nat) (hint : BitVec 2) (by_ : List (Who × StampKind × BitVec 4)) (p : Put) : State :=
  let st := by_.foldl (fun (st : Stamps) a => st.write a.1 a.2.1 false (p.cls == .dc) a.2.2) (s.stampsAt c p.pa)
  let own := p.cls == .dc && s.owns c p.pa
  let (s, v) := s.pokeAt c hint p
  let s := s.putStampsAt c p.pa st
  let s := if own then s else s.setStamps p.pa st
  s.wrote p.pa v st.rel

/-- The bytes that the lanes of a store write to one word: the highest lane's byte wins (R133), and the word is written once. -/
def foldPuts (l : List Put) : List Put :=
  (l.map (·.pa)).dedup.filterMap fun a => l.foldl (fun (m : Option Put) p =>
    if p.pa = a then
      match m with
      | none => some p
      | some q => some { p with bytes := p.bytes ||| q.bytes, val := mergeBytes p.bytes q.val p.val }
    else m) none

/-- The reclaiming store (R473): every holder is recalled or merged, the lost mask is cleared, and the home's copy is
what the store then writes. -/
def State.reclaimLine (s : State) (line : Nat) : Merged :=
  let r := s.gather line
  { r with s := r.s.modEntry line fun d => { d with lost := 0 }, abort := none }

/-- The stores of the device that a store of a core reads or writes over (R456): a word written whole holds no error any
longer. -/
def State.readUnder (s : State) (x : X) (l : List Res) : State :=
  if s.flaws.isEmpty then s
  else
    (((l.filter fun r => 4 ≤ r.size).flatMap Res.words).foldl (fun s w => (s.mend (.l1 x.core w)).mend (.home w)) s).readFor x l

/-- Why an access of a store aborts at a word (R461): bytes that do not make up the word need the old one; a word written whole needs
none, but its home has to be reached. -/
def State.storeBad (s : State) (c : Nat) (r : Res) (w : Nat) : Option Nat :=
  if r.size < 4 then s.badAt (if r.cls == .dc then c else homeReader) w else if s.unreachable w then some 4 else none

/-- The lanes that write bytes of a word, as agents. -/
def X.writers (x : X) (s : State) (uni : Bool) (sc : Scope) (ps : List Put) (pa : Nat) : List (Who × StampKind × BitVec 4) :=
  (ps.filter fun p => p.pa == pa).map fun p => (x.who s uni p.lane sc, x.kind uni p.lane sc, p.bytes)

/-- PERFORM A STORE whose accesses have passed their checks, with the value of each access in lane order. A whole-line store of a DC
line is made at its home, as one event (R176, R321). What aborts is not performed, the rest is (R461). -/
def State.performStore (s : State) (x : X) (uni : Bool) (policy : BitVec 2) (sc : Scope) (l : List (Res × DWord)) : State × Done :=
  let c := x.core
  let rs := l.map (·.1)
  let s := s.readUnder x rs
  let whole := wholeLine rs
  let again := sc == .sys && whole && rs.any fun r => r.words.any fun w => (s.entry (w / 128)).lost != 0
  match failed x uni (s.permitted .write (sc == .sys) rs) Res.at rs with
  | some e => (s, .event e)
  | none =>
    let hint : BitVec 2 := if again || (whole && rs.all fun r => r.cls == .dc) then 3 else policy
    let s := s.fetchFor c (rs.filter fun q => q.size < 4)
    let q := sortOut (if again then (s, [], []) else s.mergeAll rs) (fun s r w => s.storeBad c r w) rs
    let s := if again then (q.s.prepAll (fun s n _ _ => s.reclaimLine n) (linesOf q.ok)).s
      else (q.s.prepAll (State.prepWrite c hint) (linesOf q.ok)).s
    let clash (r : Res) : Option Clash := s.clashOf c (x.who s uni r.lane sc) (x.kind uni r.lane sc) true r
    let go := l.filter fun v => q.ok.contains v.1 && (clash v.1).isNone
    let ps := go.flatMap fun v => v.1.puts v.2
    let t := (foldPuts ps).foldl (fun t p => t.storeWord c hint (x.writers s uni sc ps p.pa) p) s
    t.endAccess x uni q.bad (q.ok.filterMap clash) .next

end Sys2Proof.Machine
end

