-- ==== Sys2Proof/Machine/Global.lean ====
section
/-! DEFINITION. Class 8: loads, stores, explicit bursts, prefetch and invalidation of global memory (R321 to R326). -/

namespace Sys2Proof.Machine

/-- The accesses of a `gl:` operand, one for each lane that performs one. -/
def asks (x : X) (uni : Bool) (m : MemOp) (size : Nat) : List Ask :=
  (x.accessLanes uni).map fun l => ⟨l, 0, memAddr m x.g false size l, size, false⟩

/-- The value a register operand supplies (R317, R321). -/
def dataOf (g : Group) (sz : Size) (d : VS) (off l : Nat) : DWord :=
  let w (k : Nat) : Word := match d with
    | .v r => g.vget (r.toNat + off + k) l
    | .s r => g.sget (r.toNat + k)
  if sz == .b64 then w 1 ++ w 0 else (w 0).zeroExtend 64

/-- `LD` (R321). -/
def execLd (p : Pre) (sz : Size) (sc : Scope) (d : VS) (m : MemOp) : State → Host.Outcome State Fault Refusal :=
  run (.ld p sz sc d m) fun s x =>
    let uni := isScalar d
    match s.resolve x uni .read false (asks x uni m (byteSize sz)) with
    | .stop s e => (s, e)
    | .ok rs => s.performLoad x uni p.policy sc rs (fun s => s.fetchFor x.core rs) fun r g v => g.putLoaded d 0 r.lane (extend sz v)

/-- `ST` (R321). A release waits for reductions on their way (R319, R333). -/
def execSt (p : Pre) (sz : Size) (sc : Scope) (d : VS) (m : MemOp) : State → Host.Outcome State Fault Refusal :=
  run (.st p sz sc d m) fun s x =>
    let uni := isScalar d
    match s.resolve x uni .write (sc == .sys) (asks x uni m (byteSize sz)) with
    | .stop s e => (s, e)
    | .ok rs =>
      if s.owedTo x.g sc then (s, .hold)
      else s.performStore x uni p.policy sc (rs.map fun r => (r, dataOf x.g sz d 0 r.lane))

/-! ### Explicit bursts (R322, R323) -/

/-- A pattern as scalars S(P) to S(P + 7) hold it: its count, its offsets, whether it is a stride pattern and with which stride,
and whether a reserved field is not 0 or the stride is 0. -/
structure Pattern where
  count : Nat
  offs  : List Nat
  strided : Bool
  stride : Nat
  bad   : Bool
  deriving DecidableEq, Repr

/-- Read a burst pattern (R322). -/
def readPattern (g : Group) (b : Nat) : Pattern :=
  let w := (g.sget b).toNat
  let n := w / 4 % 16 + 1
  let slots := (List.range 18).map fun j => (g.sget (b + 1 + j / 3)).toNat / 2 ^ (10 * (j % 3)) % 1024
  let kind := w % 4
  let start := w / 2 ^ 6 % 1024
  let stride := w / 2 ^ 16 % 1024
  let held := w / 2 ^ 26 != 0 || 2 ≤ kind || g.sget (b + 7) != 0
    || (List.range 6).any fun q => (g.sget (b + 1 + q)).toNat / 2 ^ 30 != 0
  if kind = 0 then ⟨n, (List.range n).map fun j => start + j * stride, true, stride, held || stride == 0⟩
  else ⟨n, slots.take n, false, 0, held || start != 0 || stride != 0 || (slots.drop n).any (· != 0)⟩

/-- The accesses of `LDX` and `STX` (R323): part `g` of the group on its own granule for each position. An element out
of range fails its lane, or every lane of its part where no lane takes it (log 38). A pattern with a reserved field or stride 0,
and a base that is not a multiple of 4, fail every executing lane (R322, R345). -/
def burstAsks (x : X) (e : Ext) (wide : Bool) (m : MemOp) : List Ask :=
  let size := if wide then 8 else 4
  let pat := readPattern x.g m.index.toNat
  let a := memAddr { m with indexed := false } x.g false size 0
  (List.range (extSize e)).flatMap fun p =>
    (lanesOf x.lanes).filterMap fun l =>
      let q := l / 16
      let j := l % 16
      let A := a + 4096 * (8 * p + q : Nat)
      if pat.count ≤ j && !pat.bad && A % 4 == 0 then none
      else
        let W (j : Nat) : Nat := (A / 4 % 1024).toNat + pat.offs.getD j 0
        let out (j : Nat) : Bool := 1023 < W j + (if wide then 1 else 0) || (wide && W j % 2 == 1)
        let bad := pat.bad || out j || (List.range pat.count).any fun i => out i && !x.lanes.getLsbD (16 * q + i)
        if bad || A % 4 != 0 then some ⟨l, p, A, 4, bad⟩ else some ⟨l, p, A / 4096 * 4096 + 4 * W j, size, false⟩

/-- A pattern's offsets as commands of at most 16 words: a stride pattern of words as it stands, a list as it stands (R323, R324). -/
def Pattern.bursts (t : Pattern) (op page at_ : Nat) (wide : Bool) : List Burst :=
  let offs := t.offs.map (at_ + ·)
  if wide then (pieces 32 (offs.flatMap fun w => [w, w + 1])).map fun l => ⟨op, page, 1, 0, 1, l.length, l, []⟩
  else if t.strided then [⟨op, page, 0, offs.headD 0, t.stride, t.count, [], []⟩]
  else [⟨op, page, 1, 0, 1, t.count, offs, []⟩]

/-- The burst commands of `LDX` and `STX`, one set for each position and part of which a lane executes (R323): they carry the pattern
to the channel as written, not sorted or merged (R324). -/
def burstCommands (g : Group) (op : Nat) (wide : Bool) (m : MemOp) (rs : List Res) : List (Nat × Burst) :=
  let pat := readPattern g m.index.toNat
  let first := (memAddr { m with indexed := false } g false (if wide then 8 else 4) 0).toNat / 4 % 1024
  ((rs.filter fun r => place r.pa == .local).map fun r => (r.pos, r.lane / 16, r.pa / 4096)).dedup.flatMap fun t =>
    (pat.bursts op (chanPage (4096 * t.2.2)) first wide).map fun b => (chanOf (4096 * t.2.2), b)

/-- `LDX` (R322 to R324). -/
def execLdx (p : Pre) (e : Ext) (sz : Size) (sc : Scope) (d : VReg) (m : MemOp) : State → Host.Outcome State Fault Refusal :=
  run (.ldx p e sz sc d m) fun s x =>
    match s.resolve x false .read false (burstAsks x e (sz == .b64) m) with
    | .stop s e => (s, e)
    | .ok rs => s.performLoad x false p.policy sc rs (fun s => s.fetchBursts (burstCommands x.g 0 (sz == .b64) m rs)) fun r g v =>
        g.putLoaded (.v d) ((blockOffs e).getD r.pos 0) r.lane (extend sz v)

/-- The words of a store that its home slices have taken go on to their channels, with the burst commands of `STX` (R324). -/
def State.storeBursts (s : State) (l : List (Nat × Burst)) (ws : List Nat) : State :=
  l.foldl (fun s b => ((burstOffs b.2).map (burstAddr b.1 b.2)).foldl (fun s a => if ws.contains a then s.burstWord 1 a 0xF else s) s) s

/-- `STX` (R322 to R324). -/
def execStx (p : Pre) (e : Ext) (sz : Size) (sc : Scope) (d : VReg) (m : MemOp) : State → Host.Outcome State Fault Refusal :=
  run (.stx p e sz sc d m) fun s x =>
    match s.resolve x false .write (sc == .sys) (burstAsks x e (sz == .b64) m) with
    | .stop s e => (s, e)
    | .ok rs =>
      if s.owedTo x.g sc then (s, .hold)
      else
        let (t, d) := s.performStore x false p.policy sc (rs.map fun r => (r, dataOf x.g sz (.v d) ((blockOffs e).getD r.pos 0) r.lane))
        (t.storeBursts (burstCommands x.g 1 (sz == .b64) m rs) (rs.flatMap Res.words), d)

/-! ### Prefetch and invalidation -/

/-- A prefetch of the word at a virtual address (R325): dropped where it would fault, where the leaf is not populated,
and for host memory. -/
def State.prefetch (s : State) (core ctx : Nat) (a : Int) (hint : BitVec 2) : State :=
  if a < 0 || 2 ^ 57 ≤ a then s
  else
    let s := s.noteFault core ctx (a.toNat / 4 * 4)
    match s.translate core ctx (a.toNat / 4 * 4) with
    | .page pa c _ _ =>
      if place pa == .host then s
      else
        let (i, s) := s.fresh
        { s with prefetches := s.prefetches ++ [⟨i, core, pa, c, hint != 3 && c != .xc, hint, ctx⟩] }
    | _ => s

/-- The memory requests that a core has outstanding (R10, R325, R333). -/
def State.requests (s : State) (core : Nat) : Nat :=
  (s.prefetches.filter fun p => p.core == core).length +
    (s.ops.filter fun o => o.2.core == core && (o.2.cls == 3 || o.2.cls == 4) && !o.2.done).length
/-- The requests that a core can have outstanding (R10). -/
def requestMax : Nat := 4096

/-- `PRF` (R325): it is not ready while the core cannot take its requests (R10, R195). -/
def execPrf (p : Pre) (m : MemOp) : State → Host.Outcome State Fault Refusal :=
  run (.prf p m) fun s x =>
    if requestMax < s.requests x.core + (lanesOf x.lanes).length then (s, .hold)
    else ((lanesOf x.lanes).foldl (fun s l => s.prefetch x.core (s.ctxOf x.g.launch) (memAddr m x.g false 4 l) p.policy) s, .next)

/-- `INVL` (R326). -/
def execInvl (p : Pre) (m : MemOp) : State → Host.Outcome State Fault Refusal :=
  run (.invl p m) fun s x =>
    match s.resolve x false .inval false (asks x false m 4) with
    | .stop s e => (s, e)
    | .ok rs =>
      (rs.foldl (fun s r =>
        if r.cls != .nc then s
        else
          match s.l1? x.core (r.pa / 128) with
          | some y =>
            let v := y.valid &&& ~~~(wordBit (r.pa / 4 % 32))
            if v = 0 then s.dropL1 x.core (r.pa / 128) else s.setL1 x.core (r.pa / 128) { y with valid := v }
          | none => s) s, .next)

end Sys2Proof.Machine
end

