-- ==== Sys2Proof/Machine/Spad.lean ====
section
/-! DEFINITION. Class 9: the scratchpad and its windows (R112 to R123, R327 to R330). -/

namespace Sys2Proof.Machine

/-! ### Reaching an allocation -/

/-- The workgroup of a gang that lies at a cluster position (R119). -/
def State.memberAt (s : State) (gang : Option Nat) (c : Nat) : Option Nat :=
  match gang with
  | none => none
  | some k => (s.wgs.find? fun w => w.2.gang == k && w.2.core % 8 == c).map (·.1)

/-- A scratchpad access that an instruction asks for. -/
structure SAsk where
  lane : Nat
  addr : Int
  size : Nat
  deriving DecidableEq, Repr
def SAsk.at (a : SAsk) : Nat × Int := (a.lane, a.addr)

/-- How the checks of scratchpad accesses end: with the workgroup whose allocation is accessed. -/
inductive SResolved where
  | stop (s : State) (d : Done)
  | ok (w : Nat)

/-- The window of a workgroup that holds a line, and the global address of the line (R120). -/
def Workgroup.window (w : Workgroup) (line : Nat) : Option (Nat × Nat) :=
  (w.wins.find? fun e => e.2.base ≤ 128 * line && 128 * line < e.2.base + e.2.len).map fun e =>
    (e.1, e.2.va + (128 * line - e.2.base))

/-- The state of a line. -/
def Workgroup.line (w : Workgroup) (n : Nat) : Line := Table.get .full w.lines n
def Workgroup.setLine (w : Workgroup) (n : Nat) (x : Line) : Workgroup := { w with lines := Table.put .full w.lines n x }

/-- The first line of some that is Pending, or Unfilled, with the wait that its access takes (R118, R121). -/
def State.lineWait (s : State) (k : Nat) (lines : List Nat) : Option Wait :=
  match Table.find s.wgs k with
  | none => none
  | some w => lines.findSome? fun n => match w.line n with
    | .full => none
    | .pending _ => some (.line k n)
    | .unfilled => some (.fill k n)

/-- The checks of scratchpad accesses (R119, R313, R314, R327, R422), then the waits for their lines. An Unfilled line
whose global address cannot be filled raises the fault of its fill (R121). -/
def State.spadResolve (s : State) (x : X) (uni : Bool) (m : MemOp) (l : List SAsk) : SResolved :=
  let fail (kind : Nat) : SResolved := .stop s (.event (memEvent x uni kind 0 (l.map SAsk.at)))
  match x.g.wg with
  | none => fail kSpad
  | some own =>
    match if m.remote then s.memberAt x.g.gang m.pos.toNat else some own with
    | none => fail kGang
    | some k =>
      match Table.find s.wgs k with
      | none => fail kGang
      | some w =>
        match failed x uni [(kSpad, 0, fun (a : SAsk) => a.addr < 0 || (w.size : Int) < a.addr + a.size),
            (kAlign, 0, fun (a : SAsk) => a.addr % (a.size : Int) != 0)] SAsk.at l with
        | some e => .stop s (.event e)
        | none =>
          let fills := l.filterMap fun a =>
            let n := a.addr.toNat / 128
            if w.line n == .unfilled then (w.window n).map fun q => (⟨a.lane, 0, q.2, 4, false⟩ : Ask) else none
          match s.translateAll x uni fills with
          | .stop s d => .stop s d
          | .ok _ =>
            match s.lineWait k ((l.map fun a => a.addr.toNat / 128).dedup) with
            | some d => .stop s (.wait d)
            | none => .ok k

/-! ### Bytes of an allocation -/

/-- The value of `n` bytes of a workgroup's allocation. -/
def State.spadRead (s : State) (k a n : Nat) : Nat := ((Table.find s.wgs k).map fun w => leNat (w.bytes.bytes a n)).getD 0

/-- Set the dirty bits of the words of a window that a write names (R122). -/
def Workgroup.soil (w : Workgroup) (a n : Nat) : Workgroup :=
  ((List.range ((a % 4 + n + 3) / 4)).map fun i => a / 4 + i).foldl (fun (w : Workgroup) q =>
    match w.window (q / 32) with
    | some (e, _) => { w with wins := Table.adjust w.wins e fun v =>
        { v with dirty := Table.put 0 v.dirty (q / 32) (Table.get 0 v.dirty (q / 32) ||| wordBit (q % 32)) } }
    | none => w) w

/-- The bytes of word `q` of an allocation that `n` bytes at `a` are. -/
def spadBytes (a n q : Nat) : BitVec 4 := if n = 8 then 0xF else if q = a / 4 then byteMask a n else 0
/-- The words that `n` bytes at `a` touch. -/
def spadWords (a n : Nat) : List Nat := [a / 4, (a + n - 1) / 4].dedup

/-- Words of an allocation are read (R456): the answer is those that are uncorrectable. -/
def State.spadCheck (s : State) (k : Nat) (ctx : Nat) (ws : List Nat) : State × List Nat :=
  if s.flaws.isEmpty then (s, [])
  else ws.foldl (fun (acc : State × List Nat) q =>
    let (s, bad) := acc.1.readStore (.spad k q) (some ctx)
    (s, if bad then acc.2 ++ [q] else acc.2)) (s, [])
/-- Words of an allocation are written whole: they hold no error any longer. -/
def State.spadMend (s : State) (k : Nat) (ws : List Nat) : State :=
  if s.flaws.isEmpty then s else ws.foldl (fun s q => s.mend (.spad k q)) s
/-- The stores that accesses of lanes to an allocation read; `whole` ones only write (R456). The answer is the lanes and
words of what is uncorrectable. -/
def State.spadReads (s : State) (x : X) (k : Nat) (whole : Bool) (l : List SAsk) : State × List SAsk :=
  if s.flaws.isEmpty then (s, [])
  else l.foldl (fun (acc : State × List SAsk) a =>
    let ws := spadWords a.addr.toNat a.size
    if whole && 4 ≤ a.size then (acc.1.spadMend k ws, acc.2)
    else
      let (s, bad) := acc.1.spadCheck k (s.ctxOf x.g.launch) ws
      (s, acc.2 ++ bad.map fun q => ⟨a.lane, 4 * q, 4⟩)) (s, [])

/-- Lines from `a` to `b` are written: they and every other line of their copies' tiles lose their zero bits (R110, R356). -/
def Workgroup.clearZero (w : Workgroup) (a b : Nat) : Workgroup :=
  if w.zero.isEmpty then w
  else
    let tiles := (w.zero.filter fun z => a ≤ z.1 && z.1 ≤ b).map (·.2)
    { w with zero := w.zero.filter fun z => !tiles.contains z.2 }

/-- Write bytes of an allocation: a window's words become dirty, and the zero bits are cleared (R110, R122, R356). -/
def Workgroup.write (w : Workgroup) (a : Nat) (b : List Byte) : Workgroup :=
  (({ w with bytes := w.bytes.setBytes a b } : Workgroup).soil a b.length).clearZero (a / 128) ((a + b.length - 1) / 128)

/-- A thread's write into an allocation, with the releases that its word carries (R170). -/
def State.spadWrite (s : State) (k a n v : Nat) (who : Who) (rmw : Bool) : State :=
  s.modWg k fun w =>
    let w := w.write a (leBytes n v)
    { w with rels := (spadWords a n).foldl (fun t q =>
        Table.put Stamps.blank t q ((Table.get Stamps.blank t q).write who .plain rmw false (spadBytes a n q))) w.rels }

/-- The releases that words of an allocation carry. -/
def State.spadRels (s : State) (k a n : Nat) : List Release :=
  ((Table.find s.wgs k).map fun w => (spadWords a n).flatMap fun q =>
    relsOn (Table.get Stamps.blank w.rels q).rel (spadBytes a n q)).getD []

/-! ### Filling a window line (R121, R123) -/

/-- How the fill of a window line ends. -/
inductive Filled where
  | fault (va : Nat)
  | touch (pte level va : Nat)
  | filling (pte : Nat)
  | busy (line : Nat)
  | host
  | abort (s : State) (code pa va : Nat)
  | ok (s : State)

/-- Read words of a global line at its home, as a load would: merged or recalled as the line requires (R121, R145),
with the reader's stamps on the bytes it touches of a DC line (R448). -/
def State.homeRead (s : State) (line : Nat) (m : Word) (cls : Cls) (a : Who) (bytes : Nat → BitVec 4) (ctx : Option Nat) : Merged :=
  let ws := (wordsOf m).map fun i => 128 * line + 4 * i
  let s := (ws.foldl (fun s w => s.readStores none ctx w) s).fetchWords (ws.filter fun w => (s.dirtyAt w).isNone)
  let r : Merged := if (s.entry line).st == .P then s.mergeLine line else ⟨s, [], none⟩
  match r.abort with
  | some _ => r
  | none =>
    match ws.findSome? fun w => (r.s.badAt homeReader w).map fun c => (c, w) with
    | some b => { r with abort := some b }
    | none =>
      let s := (r.s.prepRead homeReader 3 false line cls m).s
      { r with s := ws.foldl (fun s w =>
        if cls == .dc && bytes (w / 4 % 32) != 0 then s.setStamps w ((s.stampsOf w).read a .plain (bytes (w / 4 % 32))) else s) s }

/-- Fill the words of a line that a mask names from global memory, and make the line Full; a fill is a write of the line
(R110, R121). A line of host memory waits for the host, unless it has answered. -/
def State.fillLine (s : State) (k n : Nat) (m : Word) (core ctx : Nat) (a : Who) (hostOk : Bool) : Filled :=
  match (Table.find s.wgs k).bind fun w => w.window n with
  | none => .ok s
  | some (_, va) =>
    match s.translate core ctx va with
    | .fault => .fault va
    | .pool p lv _ => .touch p lv va
    | .filling p _ => .filling p
    | .page pa c _ _ =>
      if place pa == .host && !hostOk then .host
      else if s.lineBusy (pa / 128) then .busy (pa / 128)
      else
      let r := s.homeRead (pa / 128) m c a (fun _ => 0xF) (some ctx)
      match r.abort with
      | some (code, at_) => .abort r.s code at_ (va + (at_ - pa))
      | none => .ok ((r.s.spadMend k ((wordsOf m).map fun i => 32 * n + i)).modWg k fun w =>
          let bytes := (wordsOf m).foldl (fun (b : Memory) i => b.setWord (128 * n + 4 * i) (r.s.homeWord (pa + 4 * i))) w.bytes
          (({ w with bytes := bytes } : Workgroup).clearZero n n).setLine n .full)

/-- The scratchpad accesses of a memory operand. -/
def sAsks (x : X) (uni : Bool) (m : MemOp) (size : Nat) : List SAsk :=
  (x.accessLanes uni).map fun l => ⟨l, memAddr m x.g true size l, size⟩

/-- A thread reads an uncorrectable word of scratchpad: its gang is killed, and the record holds the word's scratchpad address
(R456; DEDUCED for R463, which speaks of a virtual address, log 112). -/
def State.abortSpad (s : State) (x : X) (uni : Bool) (bad : List SAsk) : State × Done :=
  s.abortThread x uni (bad.map fun b => ⟨b.lane, 3, 0, b.addr.toNat⟩)

/-- `LDS` (R327). -/
def execLds (p : Pre) (sz : Size) (sc : Scope) (d : VS) (m : MemOp) : State → Host.Outcome State Fault Refusal :=
  run (.lds p sz sc d m) fun s x =>
    let uni := isScalar d
    let l := sAsks x uni m (byteSize sz)
    match s.spadResolve x uni m l with
    | .stop s e => (s, e)
    | .ok k =>
      let (s, bad) := s.spadReads x k false l
      if bad != [] then s.abortSpad x uni bad
      else
      let s := l.foldl (fun s a =>
        let who := x.who s uni a.lane .none
        s.modGroup x.k fun g =>
          (g.putLoaded d 0 a.lane (extend sz (BitVec.ofNat 64 (s.spadRead k a.addr.toNat a.size)))).observe s who.thread (x.ordered uni a.lane)
            (s.spadRels k a.addr.toNat a.size) sc) s
      (s, if sc = .none then .next else s.afterAcquire x.k)

/-- `STS` (R327): of several lanes' bytes the highest lane's stay (R316). -/
def execSts (p : Pre) (sz : Size) (sc : Scope) (d : VS) (m : MemOp) : State → Host.Outcome State Fault Refusal :=
  run (.sts p sz sc d m) fun s x =>
    let uni := isScalar d
    let l := sAsks x uni m (byteSize sz)
    match s.spadResolve x uni m l with
    | .stop s e => (s, e)
    | .ok k =>
      if s.owedTo x.g sc then (s, .hold)
      else
        let (s, bad) := s.spadReads x k true l
        if bad != [] then s.abortSpad x uni bad
        else
          (l.foldl (fun s a => s.spadWrite k a.addr.toNat a.size (dataOf x.g sz d 0 a.lane).toNat
            (x.who s uni a.lane sc) false) s, .next)

/-! ### Windows -/

/-- `WINMAP` (R328): a misused value is window misuse; the lines become Unfilled, a line that is still Pending at once, its
copies' marks forgotten (DESIGN CHOICE, log 39: R120 does not name such a line). -/
def execWinmap (p : Pre) (e : BitVec 3) (a b : SReg) : State → Host.Outcome State Fault Refusal :=
  run (.winmap p e a b) fun s x =>
    let bad := (s, Done.event (Event.plain kWindow 0 x.f.mask))
    match x.g.wg.bind fun k => (Table.find s.wgs k).map fun w => (k, w) with
    | none => bad
    | some (k, w) =>
      let va := (x.g.sget2 a.toNat).toNat
      let base := (x.g.sget b.toNat).toNat
      let len := (x.g.sget (b.toNat + 1)).toNat
      if va % 128 != 0 || 2 ^ 57 ≤ va || base % 128 != 0 || len % 128 != 0 || len < 128 || w.size < base + len
          || (Table.find w.wins e.toNat).isSome
          || w.wins.any fun v => base < v.2.base + v.2.len && v.2.base < base + len then bad
      else
        (s.modWg k fun w => ({ w with
          wins := Table.insert w.wins e.toNat ⟨base, len, va, [], []⟩,
          lines := (List.range (len / 128)).foldl (fun t n => Table.insert t (base / 128 + n) .unfilled) w.lines } : Workgroup).clearZero
            (base / 128) ((base + len) / 128 - 1), .next)

/-- Write a window's dirty words back as word stores of the thread (R122, R329): the accesses, in address order. -/
def Workgroup.dirtyWords (w : Workgroup) (v : Window) : List (Nat × Word) :=
  v.dirty.flatMap fun d => (wordsOf d.2).map fun i =>
    (v.va + (128 * d.1 - v.base) + 4 * i, w.bytes.word (128 * d.1 + 4 * i))

/-- `WINFL` and `WINDROP` up to the write-back (R329, R330), whose words are performed at their homes; `after` is what the instruction then does to the workgroup. -/
def State.writeBack (s : State) (x : X) (e : Nat) (after : Workgroup → Window → Workgroup) : State × Done :=
  let bad := (s, Done.event (Event.plain kWindow 0 x.f.mask))
  match x.g.wg.bind fun k => (Table.find s.wgs k).map fun w => (k, w) with
  | none => bad
  | some (k, w) =>
    match Table.find w.wins e with
    | none => bad
    | some v =>
      match ((List.range (v.len / 128)).map fun n => v.base / 128 + n).find? fun n => match w.line n with
        | .pending _ => true
        | _ => false with
      | some n => (s, .wait (.line k n))
      | none =>
        let words := w.dirtyWords v
        let (s, bad) := s.spadCheck k (s.ctxOf x.g.launch) (v.dirty.flatMap fun d => (wordsOf d.2).map fun i => 32 * d.1 + i)
        if bad != [] then s.abortSpad x true (bad.map fun q => ⟨x.low, ((4 * q : Nat) : Int), 4⟩)
        else
        match s.resolve x true .write false (words.map fun q => ⟨x.low, 0, q.1, 4, false⟩) with
        | .stop s d => (s, d)
        | .ok rs =>
          let (s, d) := s.performStore x true 3 .none ((rs.zip words).map fun q => (q.1, q.2.2.zeroExtend 64))
          match d with
          | .next => (s.modWg k fun w => after { w with wins := Table.insert w.wins e { v with dirty := [] } } v, .next)
          | d => (s, d)

/-- `WINFL` (R329). -/
def execWinfl (p : Pre) (e : BitVec 3) : State → Host.Outcome State Fault Refusal :=
  run (.winfl p e) fun s x => s.writeBack x e.toNat fun w _ => w

/-- `WINDROP` (R330): every line of the window becomes Full, an Unfilled one with the bytes it held. -/
def execWindrop (p : Pre) (e : BitVec 3) : State → Host.Outcome State Fault Refusal :=
  run (.windrop p e) fun s x => s.writeBack x e.toNat fun w v =>
    { w with wins := Table.erase w.wins e.toNat,
             lines := w.lines.filter fun n => !(v.base / 128 ≤ n.1 && n.1 < (v.base + v.len) / 128) }

end Sys2Proof.Machine
end

