-- ==== Sys2Proof/Machine/Engine.lean ====
section
/-! DEFINITION. Outstanding engine operations: issue, completion, retirement (R180, R346). -/

namespace Sys2Proof.Machine

/-- Issue an operation for the group of an instruction. -/
def State.newOp (s : State) (x : X) (cls : Nat) (k : OpKind) : Nat × State :=
  let (i, s) := s.fresh
  (i, { s with ops := Table.insert s.ops i ⟨x.k, x.g.launch, x.g.gid, x.g.wg, x.g.gang, x.core, partOf x.k, cls, x.f.pc / 12, false, 0, 0, 0, k⟩ })

/-- Whether the group that issued an operation is still resident. -/
def State.issuer? (s : State) (o : EngOp) : Option Group :=
  match s.group? o.g with
  | some g => if g.launch == o.launch && g.gid == o.gid then some g else none
  | none => none

/-- The operations of a list that retire: the completed ones before the first that is not. -/
def retiring (l : List (Nat × EngOp)) : List (Nat × EngOp) := l.takeWhile fun o => o.2.done

/-- An operation completes with a status (R180, R435): it and those held behind it retire, with the latest stamp for a later `WAITCNT`; a
workgroup and a launch that waited for it may end (R47, R188). -/
def State.completeWith (s : State) (i status addr : Nat) : State :=
  match Table.find s.ops i with
  | none => s
  | some o =>
    let s := { s with ops := Table.insert s.ops i { o with done := true, stamp := s.stampNow, status := status, addr := addr } }
    let out := retiring (s.opsOf o.launch o.gid o.cls)
    let top := out.foldl (fun m q => max m q.2.stamp) 0
    let bad : List Failed := (out.filter fun q => q.2.status != 0).map fun q => ⟨q.2.cls, q.2.status, q.2.addr⟩
    let s := { s with ops := s.ops.filter fun q => !(out.any fun r => r.1 == q.1) }
    let s := if out.isEmpty then s
      else
        match s.issuer? o with
        | some g => s.setGroup o.g { g with landed := Table.put 0 g.landed o.cls (max (Table.get 0 g.landed o.cls) top), failed := g.failed ++ bad }
        | none => s
    let s := match o.wg with
      | some w => s.endWgIf w
      | none => s
    s.endLaunchIf o.launch

/-- An operation completes with status 0. -/
def State.completeOp (s : State) (i : Nat) : State := s.completeWith i 0 0

/-- An abort that an operation's access consumes kills the gang that issued it (R462). -/
def State.abortOp (s : State) (o : EngOp) (r : Record) (lanes : Mask) : State :=
  match s.issuer? o with
  | some _ => s.abortKill o.g r lanes
  | none =>
    match o.gang with
    | some j => s.kill j true
    | none => s

/-- An engine as the agent of an operation's accesses: stamped, never checked (R441, R448). -/
def EngOp.who (o : EngOp) (s : State) (unit scope : Nat) : Who :=
  ⟨engineAgent (s.logical o.core) (slotOf o.g) unit, o.launch, o.gid * 256 + 255, s.now, 0, false,
   if scope = 0 then [] else [(scope, s.stampNow)], []⟩

/-- Write bytes of one word at its home for an engine or the firmware, every copy having been gathered: stamps of those
bytes, word, monitors. -/
def State.putHomeBytes (s : State) (pa : Nat) (m : BitVec 4) (v : Word) (cls : Cls) (a : Who) : State :=
  let st := (s.stampsOf pa).write a .plain false (cls == .dc) m
  let v := mergeBytes m (s.homeWord pa) v
  ((s.putWord pa v).setStamps pa st).wrote (pa / 4 * 4) v st.rel
/-- Write a word at its home. -/
def State.putHome (s : State) (pa : Nat) (v : Word) (cls : Cls) (a : Who) : State := s.putHomeBytes pa 0xF v cls a

end Sys2Proof.Machine
end

