-- ==== Sys2Proof/Machine/Atomic.lean ====
section
/-! DEFINITION. Class 10: atomics, reductions and updates of the partial state (R158 to R167, R331 to R335). -/

namespace Sys2Proof.Machine

/-- Bytes of an atomic's access (R314). -/
def opBytes : Op → Nat
  | .iadd64 | .exch64 | .cas64 => 8
  | _ => 4

/-- The comparand and the value that the registers of D supply (R331). -/
def opData (g : Group) (o : Op) (d : VS) (l : Nat) : DWord × DWord :=
  let w (k : Nat) : Word := match d with
    | .v r => g.vget (r.toNat + k) l
    | .s r => g.sget (r.toNat + k)
  match o with
  | .cas32 => ((w 0).zeroExtend 64, (w 1).zeroExtend 64)
  | .cas64 => (w 1 ++ w 0, w 3 ++ w 2)
  | .iadd64 | .exch64 => (0, w 1 ++ w 0)
  | _ => (0, (w 0).zeroExtend 64)

/-- The new value of a read-modify-write (R331); `v` rounds `fadd32`. -/
def rmw (o : Op) (v : Env) (old : DWord) (d : DWord × DWord) : DWord :=
  match o with
  | .exch32 | .exch64 => d.2
  | .cas32 | .cas64 => if old = d.1 then d.2 else old
  | o => (combine o v old d.2).1

/-- The old value in the registers of D (R331). -/
def oldWords (o : Op) (v : DWord) : List Word := if opBytes o = 8 then [v.truncate 32, (v >>> 32).truncate 32] else [v.truncate 32]

/-- The scope of an atomic for R172: device where it names none, system on an XC page (R332). -/
def atomScope (sc : Scope) (c : Cls) : Scope := if sc = .none then (if c == .xc then .sys else .dev) else sc
/-- The scopes of its acquire and its release (R319). -/
def acqScope (m : MemOp) (sc : Scope) : Scope := if m.ord.getLsbD 0 then sc else .none
def relScope (m : MemOp) (sc : Scope) : Scope := if m.ord.getLsbD 1 then sc else .none

/-- The doubleword or word at a home. -/
def State.homeValue (s : State) (pa size : Nat) : DWord :=
  if size = 8 then s.homeWord (pa + 4) ++ s.homeWord pa else (s.homeWord pa).zeroExtend 64

/-- Store the result of a read-modify-write at its home: words, stamps, releases, monitors. -/
def State.putAtomic (s : State) (c : Nat) (r : Res) (size : Nat) (v : DWord) (a : Who) (k : StampKind) : State :=
  (if size = 8 then [(r.pa, v.truncate 32), (r.pa + 4, (v >>> 32).truncate 32)] else [(r.pa, v.truncate 32)]).foldl
    (fun (s : State) (w : Nat × Word) =>
      let st := (s.stampsOf w.1).write a k true (r.cls == .dc) 0xF
      (((s.putWord w.1 w.2).setStamps w.1 st).forget c w.1).wrote w.1 w.2 st.rel) s

/-- One read-modify-write of a thread at the home of its word (R331, R332): the race check, the effect, and what the
group takes of it; `put` writes the old value. -/
def State.atomOne (s : State) (x : X) (uni : Bool) (o : Op) (v : Env) (acq rel : Scope) (sc : Scope) (r : Res)
    (d : DWord × DWord) (put : Group → DWord → Group) : State × Option Clash :=
  let n := opBytes o
  let a := x.who s uni r.lane rel
  let rels := r.words.flatMap fun w => relsOn (s.stampsOf w).rel r.bytes
  let b := if acq = .none then a else { a with hor := max a.hor (s.observed rels a.launch a.thread (scopeNo acq)) }
  let k := x.kind uni r.lane (atomScope sc r.cls)
  match s.clashOf homeReader b k true r with
  | some h => (s, some h)
  | none =>
    let old := s.homeValue r.pa n
    let s := r.words.foldl (fun s w => s.noteRead w) s
    let s := s.putAtomic x.core r n (rmw o v old d) a k
    (s.modGroup x.k fun g => (put g old).observe s a.thread (x.ordered uni r.lane) rels acq, none)

/-- The lines of atomics are gathered at their homes (R332). -/
def State.gatherAll (s : State) (l : List Res) : Merged := s.prepAll (fun s n _ _ => s.gather n) (linesOf l)

/-- Atomics in ascending lane order (R316): the state, the words that abort, the conflicts. -/
def State.doAtomics (s : State) (x : X) (uni : Bool) (o : Op) (env : Nat → Env) (acq rel sc : Scope)
    (l : List (Res × (DWord × DWord))) (put : Res → Group → DWord → Group) : State × List Abort × List Clash :=
  let rs := l.map (·.1)
  let q := sortOut (((s.readFor x rs).fetchFor x.core rs).mergeAll rs) (fun s _ w => s.badAt homeReader w) rs
  let s := (q.s.gatherAll q.ok).s
  let (s, hits) := (l.filter fun v => q.ok.contains v.1).foldl (fun (acc : State × List Clash) v =>
    let (s, h) := acc.1.atomOne x uni o (env v.1.lane) acq rel sc v.1 v.2 (put v.1)
    (s, acc.2 ++ h.toList)) (s, [])
  (s, q.bad, hits)

/-- PERFORM ATOMICS whose accesses have passed their checks. -/
def State.performAtomics (s : State) (x : X) (uni : Bool) (o : Op) (env : Nat → Env) (acq rel sc : Scope)
    (l : List (Res × (DWord × DWord))) (put : Res → Group → DWord → Group) : State × Done :=
  let (s, bad, hits) := s.doAtomics x uni o env acq rel sc l put
  s.endAccess x uni bad hits (if acq = .none then .next else s.afterAcquire x.k)

/-- `ATOM` (R331). -/
def execAtom (p : Pre) (o : Op) (sc : Scope) (d : VS) (m : MemOp) : State → Host.Outcome State Fault Refusal :=
  run (.atom p o sc d m) fun s x =>
    let uni := isScalar d
    match s.resolve x uni (.atomic o) false (asks x uni m (opBytes o)) with
    | .stop s e => (s, e)
    | .ok rs =>
      if s.owedTo x.g (relScope m sc) then (s, .hold)
      else s.performAtomics x uni o (fun _ => envRne) (acqScope m sc) (relScope m sc) sc (rs.map fun r => (r, opData x.g o d r.lane))
        fun r g v => g.putLoaded d 0 r.lane (oldWords o v)

/-- The integer tags, codes 0 to 8 (R158). -/
def intTag : Op → Bool
  | .iadd32 | .iadd64 | .imin | .imax | .umin | .umax | .and | .or | .xor => true
  | _ => false
/-- Whether a reduction leaves the device and is counted until its home accepts it (R333). -/
def farAway (r : Res) : Bool := place r.pa == .peer || place r.pa == .host

/-- Send a reduction to a peer or the host as an outstanding operation, with the releases that it is (R170, R319). -/
def State.sendRed (s : State) (x : X) (uni : Bool) (o : Op) (part : Bool) (rel : Scope) (r : Res) (v : DWord) (mode : BitVec 3)
    (seed : Word) : State :=
  (s.newOp x (if place r.pa == .peer then 3 else 4)
    (.red r.pa o v mode seed part (x.thread uni r.lane) r.va (x.f.pc / 12) (x.who s uni r.lane rel).rel)).2
/-- Whether a core can take an instruction's reductions: its outstanding requests (R10, R333), and `%cnt.coll` of the group
(R346). -/
def State.roomForReds (s : State) (x : X) (rs : List Res) : Bool :=
  s.requests x.core + (rs.filter farAway).length ≤ requestMax
    && s.count x.g 3 + (rs.filter fun r => place r.pa == .peer).length ≤ requestMax

/-- `RED` (R331, R333). -/
def execRed (p : Pre) (o : Op) (sc : Scope) (d : VS) (m : MemOp) : State → Host.Outcome State Fault Refusal :=
  run (.red p o sc d m) fun s x =>
    let uni := isScalar d
    match s.resolve x uni (.red o) false (asks x uni m (opBytes o)) with
    | .stop s e => (s, e)
    | .ok rs =>
      if s.owedTo x.g (relScope m sc) || !s.roomForReds x rs then (s, .hold)
      else
        let s := (rs.filter farAway).foldl (fun s r => s.sendRed x uni o false (relScope m sc) r (opData x.g o d r.lane).2 1 0) s
        s.performAtomics x uni o (fun _ => envRne) .none (relScope m sc) sc
          ((rs.filter fun r => !farAway r).map fun r => (r, opData x.g o d r.lane)) fun _ g _ => g

/-- `ATOMS` (R331, R332). -/
def execAtoms (p : Pre) (o : Op) (sc : Scope) (d : VS) (m : MemOp) : State → Host.Outcome State Fault Refusal :=
  run (.atoms p o sc d m) fun s x =>
    let uni := isScalar d
    let n := opBytes o
    let l := sAsks x uni m n
    match s.spadResolve x uni m l with
    | .stop s e => (s, e)
    | .ok k =>
      if s.owedTo x.g (relScope m sc) then (s, .hold)
      else
        let (s, bad) := s.spadReads x k false l
        if bad != [] then s.abortSpad x uni bad
        else
        let s := l.foldl (fun s a =>
          let who := x.who s uni a.lane (relScope m sc)
          let old : DWord := BitVec.ofNat 64 (s.spadRead k a.addr.toNat n)
          let rels := s.spadRels k a.addr.toNat n
          let s := s.spadWrite k a.addr.toNat n (rmw o envRne old (opData x.g o d a.lane)).toNat who true
          s.modGroup x.k fun g => (g.putLoaded d 0 a.lane (oldWords o old)).observe s who.thread (x.ordered uni a.lane) rels (acqScope m sc)) s
        (s, if acqScope m sc = .none then .next else s.afterAcquire x.k)

/-! ### UPD -/

/-- Slots of a core's update buffer (R160). -/
def updateSlots : Nat := 4096

/-- Combine an update into the slot of its word, taking a slot from the identity if there is none (R160). -/
def State.intoSlot (s : State) (c a : Nat) (t : Op) (v : Env) (d : DWord) (who : Who) : State :=
  s.modCore c fun k =>
    let has := k.ubuf.any fun u => u.addr == a
    let step (p : Partial) : USlot := ⟨a, t, p.update t v d, who.agent, who.time⟩
    if has then { k with ubuf := k.ubuf.map fun u => if u.addr == a then step u.p else u }
    else { k with ubuf := k.ubuf ++ [step (Partial.ofTag t)] }

/-- One update of a DC word (R145, R160, R163, R443): an uncorrectable slot loses its line (R456); a request is checked, and the line gathered, before it joins; the
core's later updates combine unchecked. -/
def State.updOne (s : State) (x : X) (uni : Bool) (t : Op) (v : Env) (r : Res) (d : DWord) : Merged × Option Clash :=
  let c := x.core
  let k := s.core c
  let full := updateSlots ≤ k.ubuf.length && !(k.ubuf.any fun u => u.addr == r.pa)
  let s := match full, k.ubuf with
    | true, u :: _ => s.flushLine c (u.addr / 128)
    | _, _ => s
  let line := r.pa / 128
  let (s, flawed) := s.readStore (.slot c r.pa) (some (s.ctxOf x.g.launch))
  let e := s.entry line
  let a := { x.who s uni r.lane .none with rel := [] }
  if flawed then (⟨(s.clearParts line).lose line (BitVec.allOnes 32), [], some (6, r.pa)⟩, none)
  else if e.st == .P && e.tag == t && e.holders.contains c then (⟨s.intoSlot c r.pa t v d a, [], none⟩, none)
  else
    let q := if e.st == .P && e.tag == t then ⟨s, [], none⟩ else s.gather line
    if q.abort.isSome then (q, none)
    else
      match q.s.clashOf homeReader a (.upd t) true r with
      | some h => (q, some h)
      | none =>
        let s := r.words.foldl (fun s w => s.setStamps w ((s.stampsOf w).write a (.upd t) true true 0xF)) q.s
        let j := s.joinLine c line t
        (⟨j.s.intoSlot c r.pa t v d a, [], none⟩, none)

/-- `UPD` (R334, R335): on a DC page the partial state; on a peer's XC page integer tags as partial state of the
forwarding home (R159); elsewhere a reduction at the home, rounding `fadd32` with the instruction's field. -/
def execUpd (p : Pre) (o : Op) (rnd : BitVec 3) (d : VS) (m : MemOp) : State → Host.Outcome State Fault Refusal :=
  run (.upd p o rnd d m) fun s x =>
    let uni := isScalar d
    match s.resolve x uni (.upd o) false (asks x uni m (opBytes o)) with
    | .stop s e => (s, e)
    | .ok rs =>
      if !s.roomForReds x rs then (s, .hold)
      else
      let mode := modeOf x.f rnd
      let sr := o == .fadd32 && mode == 7
      let seedOf (l : Nat) : Word := if sr then srNext (x.g.seed l) else x.g.seed l
      let env (l : Nat) : Env := env32 false mode (seedOf l)
      let val (r : Res) : DWord := (opData x.g o d r.lane).2
      let s := if sr then s.modGroup x.k fun g => rs.foldl (fun (g : Group) r => g.setSeed r.lane (seedOf r.lane)) g else s
      let s := (rs.filter farAway).foldl (fun s r =>
        s.sendRed x uni o (place r.pa == .peer && r.cls == .xc && intTag o) .none r (val r) mode (seedOf r.lane)) s
      let (s, bad, hits) := s.doAtomics x uni o env .none .none .none
        ((rs.filter fun r => !farAway r && r.cls != .dc).map fun r => (r, (0, val r))) fun _ g _ => g
      let (s, bad, hits) := (rs.filter fun r => !farAway r && r.cls == .dc).foldl (fun (acc : State × List Abort × List Clash) r =>
        let (q, h) := (acc.1.readFor x [r]).updOne x uni o (env r.lane) r (val r)
        (q.s, acc.2.1 ++ q.abort.toList.map fun b => ⟨r.lane, b.1, b.2, r.va⟩, acc.2.2 ++ h.toList)) (s, bad, hits)
      s.endAccess x uni bad hits .next

/-! ### A reduction reaches its home -/

/-- Combine an integer update into the partial that a forwarding home keeps of a peer's word; partials of another tag go to
their owner first (R159, R164), and the owner is told of a line that enters P here (R145, R415). -/
def State.forwardPart (s : State) (pa : Nat) (t : Op) (d : DWord) : State :=
  let line := pa / 128
  let e := s.entry line
  let s := if e.st == .P && e.tag != t then (s.mergeLine line).told else s
  let s := if (s.entry line).st == .P then s
    else (s.modEntry line fun e => { e with st := .P, tag := t, hpart := [], hstamp := [], unacked := true }).send (nodeOf pa) (.update line t)
  s.modEntry line fun e =>
    let h := (Table.find e.hpart pa).getD (Partial.ofTag t)
    { e with hpart := Table.insert e.hpart pa (h.update t envRne d) }

/-- Whether a forwarding home takes an integer update now (R159, R164): before a switch of tag gives up its partials, the owner has to
have acknowledged them (R415). -/
def State.takesPart (s : State) (pa : Nat) (t : Op) : Bool :=
  let e := s.entry (pa / 128)
  !(e.st == .P && e.tag != t && e.unacked)

/-- `ATOMIC_AT_HOME` (R332, R333): the reduction is performed or, as partial state, combined at the forwarding home, and
leaves `%cnt.coll`; a word that cannot be read and a dropped peer give an abort (R461, R477). -/
def execAtomicAtHome (op : Nat) : State → Host.Outcome State Fault Refusal := fun s =>
  match Table.find s.ops op with
  | some o =>
    match o.k with
    | .red pa t d mode seed part thread va index rel =>
      if o.done ∨ (if part then !s.takesPart pa t else s.lineBusy (pa / 128)) = true then .next s
      else
        let n := opBytes t
        let ws := if n = 8 then [pa, pa + 4] else [pa]
        let ctx := some (s.ctxOf o.launch)
        let s := ws.foldl (fun s w => s.readStores none ctx w) s
        let r : Merged := if !part && (s.entry (pa / 128)).st == .P then s.mergeLine (pa / 128) else ⟨s, [], none⟩
        let s := r.s
        match r.abort.or (ws.findSome? fun w => (if part then (if s.unreachable w then some 4 else none) else s.badAt homeReader w).map fun c => (c, w)) with
        | some (code, at_) =>
          .next (((s.noteAbort at_ code ctx).completeOp op).abortOp o (abortRecord code va index) (laneBit (thread % 256 % 128)))
        | none =>
          if part then .next ((s.forwardPart pa t d).completeOp op)
          else
            let s := ((s.fetchWords ws).gather (pa / 128)).s
            let v := rmw t (env32 false mode seed) (s.homeValue pa n) (0, d)
            let a : Who := ⟨0, o.launch, thread, s.now, 0, false, rel, []⟩
            .next ((s.putAtomic o.core ⟨0, 0, n, va, pa, .xc, true, false⟩ n v a .plain).completeOp op)
    | _ => .next s
  | none => .next s

end Sys2Proof.Machine
end

