-- ==== Sys2Proof/Machine/Sync.lean ====
section
/-! DEFINITION. Class 11: fences, sealed regions, waits, pennants, rings and queue tokens (R336 to R344). -/

namespace Sys2Proof.Machine

/-- The horizon rises to a stamp (R445). -/
def Group.raise (g : Group) (stamp : Nat) : Group :=
  if stamp ≤ g.horizon.toNat then g else { g with horizon := BitVec.ofNat 64 stamp }

/-! ### Fences -/

def FenceKind.acquires : FenceKind → Bool
  | .rel => false
  | _ => true
def FenceKind.releases : FenceKind → Bool
  | .acq => false
  | _ => true

/-- `FENCE` (R175, R336): later writes of the lanes become releases, of what precedes the fence; what the lanes have read is
acquired. -/
def execFence (p : Pre) (uni : Bool) (k : FenceKind) (sc : Scope) : State → Host.Outcome State Fault Refusal :=
  run (.fence p uni k sc) fun s x =>
    if FenceKind.releases k && s.owedTo x.g sc then (s, .hold)
    else
      let c := scopeNo sc
      let s := s.modGroup x.k fun g => (lanesOf x.lanes).foldl (fun (g : Group) l =>
        let g := if FenceKind.acquires k then g.raise (Table.get 0 g.seen (l * 8 + c)) else g
        if FenceKind.releases k then { g with relF := Table.put 0 g.relF (l * 8 + c) s.stampNow } else g) g
      (s, if FenceKind.acquires k then s.afterAcquire x.k else .next)

/-! ### Sealed regions -/

/-- The physical lines of a range of virtual addresses, if every page is a populated DC page (R337). -/
def State.sealLines (s : State) (core ctx va n : Nat) : Option (List Nat) :=
  (List.range n).mapM fun i => match s.translate core ctx (va + 128 * i) with
    | .page pa .dc _ _ => some (pa / 128)
    | _ => none

/-- `SEAL` (R154, R337): a release at device scope. Of several free entries it takes the lowest-numbered (DESIGN CHOICE,
log 40: R154 says a free entry). -/
def execSeal (p : Pre) (a b : SReg) : State → Host.Outcome State Fault Refusal :=
  run (.seal p a b) fun s x =>
    let bad := (s, Done.event (Event.plain kSeal 0 x.f.mask))
    let va := (x.g.sget2 a.toNat).toNat
    let len := (x.g.sget b.toNat).toNat
    let ctx := s.ctxOf x.g.launch
    if va % 128 != 0 || len % 128 != 0 || len < 128 || 2 ^ 30 < len then bad
    else
      match s.sealLines x.core ctx va (len / 128), (List.range 256).find? fun n => (Table.find s.seals n).isNone with
      | some ls, some n =>
        if ls.any fun l => (s.entry l).sealed.isSome then bad
        else if ls.any s.lineBusy || s.owedTo x.g .dev then (ls.foldl State.askPeers s, .hold)
        else
          let r := s.prepAll (fun s l _ _ => s.gather l) (ls.map fun l => (l, .dc, 0))
          match r.abort with
          | some (code, pa) => r.s.abortThread x true [⟨x.low, code, pa, va + 128 * (ls.idxOf (pa / 128)) + pa % 128⟩]
          | none =>
            let s := ls.foldl (fun s l => s.modEntry l fun d => { d with sealed := some n }) r.s
            ({ s with seals := Table.insert s.seals n ⟨ctx, va, len, 0⟩ }, .next)
      | _, _ => bad

/-- The end of a sealed region (R157): L1 copies of its lines go, the lines are in I, the entry is free. -/
def State.unsealEntry (s : State) (n : Nat) : State :=
  let ls := (s.dir.filter fun d => d.2.sealed == some n).map (·.1)
  let s := ({ s with cores := s.cores.map fun (c : Nat × CoreSt) => (c.1, { c.2 with l1 := c.2.l1.filter fun l => !ls.contains l.1 }) } : State).mendAll
    fun x => match x with
      | .l1 _ pa => ls.contains (pa / 128)
      | _ => false
  let s := ls.foldl (fun s l => s.modEntry l fun d => { d with st := .I, holders := [], masks := [], sealed := none }) s
  { s with seals := Table.erase s.seals n }

/-- The seal entry of a context whose range begins at an address (R338). -/
def State.sealAt (s : State) (ctx va : Nat) : Option (Nat × Seal) := s.seals.find? fun e => e.2.ctx == ctx && e.2.va == va

/-- `UNSEAL` (R157, R338): it waits while the copy count is not 0, and for messages about its lines on their way. -/
def execUnseal (p : Pre) (a : SReg) : State → Host.Outcome State Fault Refusal :=
  run (.unseal p a) fun s x =>
    match s.sealAt (s.ctxOf x.g.launch) (x.g.sget2 a.toNat).toNat with
    | none => (s, .event (Event.plain kSeal 0 x.f.mask))
    | some (n, e) =>
      if e.copies != 0 then (s, .wait (.unseal n))
      else if s.dir.any fun d => d.2.sealed == some n && s.homeBusy d.1 then (s, .hold)
      else (s.unsealEntry n, .next)

/-! ### Waits -/

/-- `WAITCNT` returns (R180, R435): the acquire of what has retired, and an engine error that it covers: the lowest
status, as kind 0x33 where that is 7. Answers the state and the event, if any. -/
def State.countReturn (s : State) (k cls : Nat) (lanes : Mask) : State × Option Event :=
  match s.group? k with
  | none => (s, none)
  | some g =>
    let bad := g.failed.filter fun f => f.cls == cls
    let s := s.setGroup k { (g.raise (Table.get 0 g.landed cls)) with failed := g.failed.filter fun f => f.cls != cls }
    match bad with
    | [] => (s, none)
    | b :: r =>
      let w := r.foldl (fun (m : Failed) f => if f.status < m.status then f else m) b
      (s, some ⟨if w.status = 7 then kRing else kEngine, w.status, BitVec.ofNat 64 w.addr, lanes, 0, none⟩)

/-- Whether an engine error that a `WAITCNT` is to raise comes of a completion whose stamp `%tb` has not reached (R435, R445). -/
def State.failedAhead (s : State) (g : Group) (cls : Nat) : Bool :=
  (g.failed.any fun f => f.cls == cls) && s.now < Table.get 0 g.landed cls

/-- `WAITCNT` (R180, R339). -/
def execWaitcnt (p : Pre) (cl : BitVec 2) (n : BitVec 13) : State → Host.Outcome State Fault Refusal :=
  run (.waitcnt p cl n) fun s x =>
    if n.toNat < s.count x.g cl.toNat || s.failedAhead x.g cl.toNat then (s, .wait (.cnt cl.toNat n.toNat))
    else
      let (s, e) := s.countReturn x.k cl.toNat x.f.mask
      match e with
      | some e => (s, .event e)
      | none => (s, s.afterAcquire x.k)

/-- Monitors that a home slice holds (R200). -/
def homeMonitors : Nat := 4096

/-- Whether the home of a word has a monitor free (R200): a peer's homes hold those of its memory. -/
def State.monitorFree (s : State) (pa : Nat) : Bool :=
  match place pa with
  | .host | .none => false
  | .peer => true
  | .local => (s.monitors.filter fun m => m.held && place m.addr == .local && homeOf m.addr == homeOf pa).length < homeMonitors

/-- Register a monitor, at the owner where the word lies in a peer's memory; or a re-read where the home's are all in use or
the word lies in host memory (R200, R340). -/
def State.register (s : State) (x : X) (r : Res) (cond : Option (Cmp × Word)) (sc : Scope) : State × Done :=
  let held := s.monitorFree r.pa
  let (i, s) := s.fresh
  let m : Monitor := ⟨i, none, x.g.launch, x.g.gid, x.en, r.pa / 4 * 4, cond, sc, held, s.homeWord r.pa, none, r.va, r.lane⟩
  let s := { s with monitors := s.monitors ++ [m] }
  (if place r.pa == .peer then s.send (nodeOf r.pa) (.watch i (r.pa / 4 * 4) cond) else s,
   .wait (if held then .monitor i else .reread i s.clk))

/-- A monitor is freed. -/
def State.dropMonitor (s : State) (i : Nat) : State := { s with monitors := s.monitors.filter fun m => m.id != i }

/-- A wait takes the value that satisfied its monitor (R171, R175, R186): an acquire of its scope, and a read of its lane for a later
acquire fence. -/
def State.wakeRead (s : State) (k : Nat) (m : Monitor) (rels : List Release) : State :=
  ((s.dropMonitor m.id).forget (coreOf k) m.addr).modGroup k fun g => g.observe s (m.gid * 256 + m.lane) [m.lane] rels m.scope

/-- The monitor of a number. -/
def State.monitorOf (s : State) (i : Nat) : Option Monitor := s.monitors.find? fun m => m.id == i && m.peer.isNone

/-- The word that a wait watches (R340). -/
def State.watch (s : State) (x : X) (md : Mode) (m : MemOp) (f : State → Res → State × Done) : State × Done :=
  let l := lowLane x.lanes
  match s.resolve x false md false [⟨l, 0, memAddr m x.g false 4 l, 4, false⟩] with
  | .stop s d => (s, d)
  | .ok rs =>
    match rs with
    | [] => (s, .next)
    | r :: _ => f s r

/-- `WAITCMP` (R186, R340): the word is read at its home, with the flags of a merge in its lane (R162). -/
def execWaitcmp (p : Pre) (cc : Cmp) (sc : Scope) (d : VS) (m : MemOp) : State → Host.Outcome State Fault Refusal :=
  run (.waitcmp p cc sc d m) fun s x => s.watch x .read m fun s r =>
    let l := r.lane
    let q := s.homeRead (r.pa / 128) (wordBit (r.pa / 4 % 32)) r.cls s.hostWho (fun _ => 0) (some (s.ctxOf x.g.launch))
    match q.abort with
    | some (code, pa) => q.s.abortThread x false [⟨l, code, pa, r.va⟩]
    | none =>
    let s := q.s.forget x.core r.pa
    let a := x.who s false l .none
    let st := s.stampsOf r.pa
    let a := { a with hor := max a.hor (s.observed st.rel a.launch a.thread (scopeNo sc)) }
    let k := x.kind false l sc
    match s.clashOf homeReader a k false r with
    | some h => (s, .event (raceEvent x false [h]))
    | none =>
      let s := if r.cls == .dc then s.setStamps r.pa (st.read a k 0xF) else s
      let s := s.modGroup x.k fun g => g.account l ⟨(Table.find q.flags r.pa).getD 0, g.seed l⟩
      let b := VSval x.g 0 l d
      if cmpHolds cc (s.homeWord r.pa) b then
        let s := s.modGroup x.k fun g => g.observe s a.thread [l] st.rel sc
        (s, s.afterAcquire x.k)
      else s.register x r (some (cc, b)) sc

/-- `WAITW` (R186, R340): it reads nothing, but for a word of host memory, which the host then answers; a word that cannot be
delivered gives it an abort (R462). -/
def execWaitw (p : Pre) (sc : Scope) (m : MemOp) : State → Host.Outcome State Fault Refusal :=
  run (.waitw p sc m) fun s x => s.watch x .inval m fun s r =>
    if place r.pa == .host && !x.f.hostOk then (s, .wait .host)
    else
      match s.badNewest r.pa with
      | some code => s.abortThread x false [⟨r.lane, code, r.pa, r.va⟩]
      | none => s.register x r none sc

/-! ### Pennants -/

/-- The pennant that an operand names, for a group, if it is declared; the kind of its misuse otherwise (R342, R437). -/
def State.penRef (s : State) (g : Group) (n : Nat) : PenRef ⊕ Nat :=
  if g.packed then .inr kPennant
  else
    match g.wg, g.gang, Table.find s.launches g.launch with
    | some w, some k, some l =>
      if n < 32 then (if n < l.lrec.pens then .inl (.wg w n) else .inr kPennant)
      else if n < 40 then (if n - 32 < l.lrec.gpens then .inl (.gang k (n - 32)) else .inr kPennant)
      else if n = 63 then (if l.lrec.cores then .inl (.grid g.launch) else .inr kScope)
      else .inr kPennant
    | _, _, _ => .inr kPennant

/-- A pennant instruction: its misuse, or its effect on the pennant. -/
def State.onPen (s : State) (x : X) (n : BitVec 6) (f : PenRef → Pennant → State × Done) : State × Done :=
  match s.penRef x.g n.toNat with
  | .inr kind => (s, .event (Event.plain kind 0 x.f.mask))
  | .inl r =>
    match s.pen? r with
    | none => (s, .event (Event.plain kPennant 0 x.f.mask))
    | some p => f r p

/-- The scope of a pennant (R170). -/
def State.penScope (s : State) (r : PenRef) : Scope :=
  match r with
  | .wg _ _ => .wg
  | .gang _ _ => .gang
  | .grid l => if ((Table.find s.launches l).map fun x => x.lrec.devices).getD 1 ≤ 1 then .dev else .sys

/-- An arrival of a fragment (R64). -/
def State.arriveAt (s : State) (x : X) (r : PenRef) (p : Pennant) : State :=
  let m := s.member r x.g
  let h : Pennant := { p with half := halfAdd m x.f.mask s.stampNow p.half }
  let q := h.ripen m (~~~x.g.retired) h.half.length
  s.arrived r m (h.halves m - q.halves m) q

/-- `PJOIN` (R66, R341). -/
def execPjoin (p : Pre) (n : BitVec 6) : State → Host.Outcome State Fault Refusal :=
  run (.pjoin p n) fun s x => s.onPen x n fun r q =>
    ((s.setPen r (q.join (s.member r x.g))).tellPen r q.no (.join (s.member r x.g)), .next)

/-- `PLEAVE` (R66, R341). -/
def execPleave (p : Pre) (n : BitVec 6) : State → Host.Outcome State Fault Refusal :=
  run (.pleave p n) fun s x => s.onPen x n fun r q =>
    ((s.setPen r (q.leave (s.member r x.g))).tellPen r q.no (.leave (s.member r x.g)), .next)

/-- `PEXPECT` (R64, R341): a value of 0 or above 65,535, and an E beyond 2^20 − 1, are misuse (R342). -/
def execPexpect (p : Pre) (n : BitVec 6) (b : SI) : State → Host.Outcome State Fault Refusal :=
  run (.pexpect p n b) fun s x => s.onPen x n fun r q =>
    let v := (SIval x.g b).toNat
    if v = 0 ∨ 65535 < v ∨ 2 ^ 20 - 1 < q.e + v then (s, .event (Event.plain kPennant 0 x.f.mask))
    else ((s.setPen r (q.expect v)).tellPen r q.no (.expect v), .next)

/-- `PARRIVE` (R64, R341): by a non-member it is misuse. -/
def execParrive (p : Pre) (n : BitVec 6) : State → Host.Outcome State Fault Refusal :=
  run (.parrive p n) fun s x => s.onPen x n fun r q =>
    if !q.members.contains (s.member r x.g) then (s, .event (Event.plain kPennant 0 x.f.mask))
    else if s.owedTo x.g (s.penScope r) then (s, .hold)
    else (s.arriveAt x r q, .next)

/-- `PWAIT` (R341): the fragment records the phase it waits for. -/
def execPwait (p : Pre) (n : BitVec 6) : State → Host.Outcome State Fault Refusal :=
  run (.pwait p n) fun s x => s.onPen x n fun r q => (s, .wait (.pennant r (q.target (s.member r x.g))))

/-- The number of completed phases at which a fragment's `PSYNC` ends: that of the arrival it makes (R64, R341). -/
def Pennant.ownTarget (p : Pennant) (x : Nat) (m : Mask) : Nat :=
  let ls := p.half.filter fun h => h.1 == x
  p.count + (if p.arrived.contains x then 1 else 0) + (p.later.filter fun h => h.1 == x).length
    + (ls.takeWhile fun h => h.2.1 &&& m != 0).length + 1

/-- `PSYNC` (R341): the arrival, then the wait for its phase. -/
def execPsync (p : Pre) (n : BitVec 6) : State → Host.Outcome State Fault Refusal :=
  run (.psync p n) fun s x => s.onPen x n fun r q =>
    let m := s.member r x.g
    if !q.members.contains m then (s, .event (Event.plain kPennant 0 x.f.mask))
    else if s.owedTo x.g (s.penScope r) then (s, .hold)
    else (s.arriveAt x r q, .wait (.pennant r (q.ownTarget m x.f.mask)))

/-! ### Rings -/

/-- A ring instruction: misuse where the ring is not declared (R343). -/
def State.onRing (s : State) (x : X) (i : BitVec 4) (f : Nat → Ring → State × Done) : State × Done :=
  match x.g.wg.bind fun w => (s.ring? w i.toNat).map fun r => (w, r) with
  | none => (s, .event (Event.plain kRing 0 x.f.mask))
  | some (w, r) => f w r

/-- `RACQ` (R60, R343). -/
def execRacq (p : Pre) (d : SReg) (ring : BitVec 4) : State → Host.Outcome State Fault Refusal :=
  run (.racq p d ring) fun s x => s.onRing x ring fun w r =>
    match r.acquire with
    | none => (s, .wait (.ring ring.toNat false))
    | some (b, q) =>
      let s := (s.setRing w ring.toNat q).modGroup x.k fun g => (g.sset d.toNat (BitVec.ofNat 32 b)).raise (r.stamps.getD b 0)
      (s, s.afterAcquire x.k)

/-- `RPUB` (R60, R61, R343): a slot that is not Held, or whose publish is held back already, is misuse. -/
def execRpub (p : Pre) (ring : BitVec 4) (b : SI) : State → Host.Outcome State Fault Refusal :=
  run (.rpub p ring b) fun s x => s.onRing x ring fun w r =>
    let k := (SIval x.g b).toNat
    if r.slots.length ≤ k ∨ r.slot k ≠ .held ∨ r.early.contains k = true then (s, .event (Event.plain kRing 0 x.f.mask))
    else if s.owedTo x.g .wg then (s, .hold)
    else (s.setRing w ring.toNat (r.publish k s.stampNow), .next)

/-- `RTAKE` (R60, R343). -/
def execRtake (p : Pre) (d : SReg) (ring : BitVec 4) : State → Host.Outcome State Fault Refusal :=
  run (.rtake p d ring) fun s x => s.onRing x ring fun w r =>
    match r.take with
    | none => (s, .wait (.ring ring.toNat true))
    | some (b, q) =>
      let s := (s.setRing w ring.toNat q).modGroup x.k fun g => (g.sset d.toNat (BitVec.ofNat 32 b)).raise (r.stamps.getD b 0)
      (s, s.afterAcquire x.k)

/-- `RFREE` (R60, R343). -/
def execRfree (p : Pre) (ring : BitVec 4) (b : SI) : State → Host.Outcome State Fault Refusal :=
  run (.rfree p ring b) fun s x => s.onRing x ring fun w r =>
    let k := (SIval x.g b).toNat
    if r.slots.length ≤ k ∨ r.slot k ≠ .taken then (s, .event (Event.plain kRing 0 x.f.mask))
    else if s.owedTo x.g .wg then (s, .hold)
    else (s.setRing w ring.toNat (r.free k s.stampNow), .next)

/-! ### Queue tokens -/

/-- Whether a context holds a token (R344, R407). -/
def State.ownsToken (s : State) (ctx n : Nat) : Bool :=
  n < 1024 && ((Table.find s.ctxs ctx).map fun c => c.tok ≤ n && n < c.tok + c.ntok).getD false

/-- `TSIG` (R344). -/
def execTsig (p : Pre) (a b : SI) : State → Host.Outcome State Fault Refusal :=
  run (.tsig p a b) fun s x =>
    let n := (SIval x.g a).toNat
    if !s.ownsToken (s.ctxOf x.g.launch) n then (s, .event (Event.plain kToken 0 x.f.mask))
    else if s.owedTo x.g .sys then (s, .hold)
    else (s.signal n (SIval x.g b), .next)

end Sys2Proof.Machine
end

