-- ==== Sys2Proof/Machine/EngMem.lean ====
section
/-! DEFINITION. Memory as engines reach it: reads and writes at the home, translation with firmware fills (R496),
scratchpad lines in landing order (R117), statuses (R355). -/

namespace Sys2Proof.Machine

/-- Why an engine's access fails: the status of R355, and the code of R463 and the virtual address of the abort. -/
structure Fail where
  status : Nat
  code   : Nat
  va     : Nat
  deriving DecidableEq, Repr
/-- A failure that is no abort. -/
def Fail.plain (status : Nat) : Fail := ⟨status, 7, 0⟩

/-- The failure of a read of scratchpad words that are uncorrectable (R456, log 112). -/
def Fail.spad (words : List Nat) : Fail := ⟨8, 3, 4 * words.headD 0⟩

/-- How an engine's access ends: it waits (and whether the attempt has changed the state), it fails, or it answers. -/
inductive Eng (α : Type) where
  | wait (s : State) (moved : Bool)
  | bad (s : State) (f : Fail)
  | ok (s : State) (a : α)

/-- Go on from an access that answered. -/
def Eng.bind {α β : Type} (e : Eng α) (f : State → α → Eng β) : Eng β :=
  match e with
  | .wait s m => .wait s m
  | .bad s n => .bad s n
  | .ok s a => f s a

/-- Engine accesses for each element of a list, in order. -/
def engEach {α β : Type} (f : State → α → Eng β) : State → List α → Eng (List β)
  | s, [] => .ok s []
  | s, a :: r => (f s a).bind fun s b => (engEach f s r).bind fun s bs => .ok s (b :: bs)

/-- An engine's access waits for the home of a line, and for the peers that hold partial state of it (R159). -/
def State.engBusy {α : Type} (s : State) (line : Nat) : Eng α :=
  let d := s.entry line
  .wait (s.askPeers line) (d.devs.any fun n => !d.asked.contains n)

/-- Translate for an engine or a command: a from-pool leaf becomes filling and the firmware fills it (R496). -/
def State.engTranslate (s : State) (core ctx va : Nat) (write : Bool) : Eng (Nat × Cls) :=
  match s.translate core ctx va with
  | .fault => .bad (s.noteFault core ctx va) ⟨2, 7, va⟩
  | .pool p lv _ => .wait { s.fillLeaf p with fills := s.fills ++ [⟨ctx, va, p, lv, false⟩] } true
  | .filling _ _ => .wait s false
  | .page pa c w _ => if write && !w then .bad s ⟨3, 7, va⟩ else .ok s (pa, c)

/-- The pieces of a byte range that lie in one line each: address and length. -/
def linePieces (va n : Nat) : List (Nat × Nat) :=
  if n = 0 then []
  else (List.range ((va + n - 1) / 128 + 1 - va / 128)).map fun i =>
    let lo := max va (128 * (va / 128 + i))
    let hi := min (va + n) (128 * (va / 128 + i + 1))
    (lo, hi - lo)

/-- The words of a line that a byte range within it touches. -/
def rangeMask (pa n : Nat) : Word :=
  ((List.range 32).filter fun i => pa % 128 / 4 ≤ i && i ≤ (pa % 128 + n - 1) / 4).foldl (fun m i => m ||| wordBit i) 0

/-- The bytes of word `i` of its line that a byte range within one line touches. -/
def rangeBytes (pa n i : Nat) : BitVec 4 :=
  (List.range 4).foldl (fun m j => if pa % 128 ≤ 4 * i + j && 4 * i + j < pa % 128 + n then m ||| BitVec.twoPow 4 j else m) 0

/-- The byte at a physical address, read at the home. -/
def State.homeByte (s : State) (pa : Nat) : Byte := ((s.homeWord pa) >>> (8 * (pa % 4))).truncate 8

/-- Read bytes of global memory for an engine (R364); `kept` unless the read is unstamped (R448). -/
def State.engRead (s : State) (core ctx : Nat) (a : Who) (kept : Bool) (va n : Nat) : Eng (List Byte) :=
  (engEach (fun s q => (s.engTranslate core ctx q.1 false).bind fun s p => if s.lineBusy (p.1 / 128) then s.engBusy (p.1 / 128) else
    let r := s.homeRead (p.1 / 128) (rangeMask p.1 q.2) p.2 a (fun i => if kept then rangeBytes p.1 q.2 i else 0) (some ctx)
    match r.abort with
    | some (code, pa) => .bad (r.s.noteAbort pa code (some ctx)) ⟨8, code, q.1 / 128 * 128 + pa % 128⟩
    | none => .ok r.s ((List.range q.2).map fun i => r.s.homeByte (p.1 + i))) s (linePieces va n)).bind fun s l => .ok s l.flatten

/-- A word at `w` of bytes of which some are written: its byte mask and value. -/
def maskedWord (w : Nat) (b : List (Option Byte)) : Nat × BitVec 4 × Word :=
  (w, (List.range 4).foldl (fun (m : BitVec 4) j => if (b.getD j none).isSome then m ||| BitVec.twoPow 4 j else m) 0,
    BitVec.ofNat 32 (leNat (b.map fun x => x.getD 0)))

/-- The words of a run of bytes from the word address `w` on. -/
def wordRun (w : Nat) : List (Option Byte) → List (Nat × BitVec 4 × Word)
  | [] => []
  | [a] => [maskedWord w [a]]
  | [a, b] => [maskedWord w [a, b]]
  | [a, b, c] => [maskedWord w [a, b, c]]
  | a :: b :: c :: d :: r => maskedWord w [a, b, c, d] :: wordRun (w + 4) r

/-- The words that bytes from `va` on write, absent bytes not written: address, bytes, value. -/
def wordsFrom (va : Nat) (b : List (Option Byte)) : List (Nat × BitVec 4 × Word) :=
  (wordRun (va / 4 * 4) (List.replicate (va % 4) none ++ b)).filter fun w => w.2.1 != 0

/-- The checks of one word that an engine writes, where it has been translated (R355): a sealed line, a word that cannot be
completed or written. -/
def State.engWritable (s : State) (ctx : Nat) (w : Nat × BitVec 4 × Word) (p : Nat × Cls) : Eng (Nat × Cls) :=
    if s.lineBusy (p.1 / 128) then s.engBusy (p.1 / 128)
    else if (s.entry (p.1 / 128)).sealed.isSome then .bad s ⟨6, 7, w.1⟩
    else
      let r : Merged := if (s.entry (p.1 / 128)).st == .P then s.mergeLine (p.1 / 128) else ⟨s, [], none⟩
      match r.abort with
      | some (code, pa) => .bad (r.s.noteAbort pa code (some ctx)) ⟨8, code, w.1 / 128 * 128 + pa % 128⟩
      | none =>
        let s := if w.2.1 = 0xF then r.s else (r.s.readStores none (some ctx) p.1).fetchWords [p.1]
        match if w.2.1 != 0xF then s.badAt homeReader p.1 else if s.unreachable p.1 then some 4 else if s.lostWord p.1 then some 6 else none with
        | some code => .bad (s.noteAbort p.1 code (some ctx)) ⟨8, code, w.1⟩
        | none => .ok (s.gather (p.1 / 128)).s p

/-- The checks of one word that an engine writes (R355): translation and protection, then those of its place. -/
def State.engCheck (s : State) (core ctx : Nat) (w : Nat × BitVec 4 × Word) : Eng (Nat × Cls) :=
  (s.engTranslate core ctx w.1 true).bind fun s p => s.engWritable ctx w p

/-- Write words of global memory for an engine: every check first, then the writes, in order. -/
def State.engWrite (s : State) (core ctx : Nat) (a : Who) (l : List (Nat × BitVec 4 × Word)) : Eng Unit :=
  (engEach (fun s w => s.engCheck core ctx w) s l).bind fun s ps =>
    .ok ((l.zip ps).foldl (fun s q => s.putHomeBytes q.2.1 q.1.2.1 q.1.2.2 q.2.2 a) s) ()

/-! ### Scratchpad lines -/

/-- Mark lines of an allocation Pending for an operation (R117); what an Unfilled line of a window lacks is noted (R123). -/
def Workgroup.mark (w : Workgroup) (op : Nat) (lines : List Nat) : Workgroup :=
  lines.foldl (fun (w : Workgroup) n =>
    match w.line n with
    | .full => w.setLine n (.pending [op])
    | .pending l => w.setLine n (.pending (l ++ [op]))
    | .unfilled =>
      let w := w.setLine n (.pending [op])
      match w.window n with
      | some (e, _) => { w with wins := Table.adjust w.wins e fun v => { v with todo := Table.put 0 v.todo n (BitVec.allOnes 32) } }
      | none => w) w

/-- Whether an operation is the next to land in a line it marked. -/
def Workgroup.first (w : Workgroup) (op n : Nat) : Bool :=
  match w.line n with
  | .pending (o :: _) => o == op
  | _ => true

/-- The words of a line that remain to be filled when it becomes Full. -/
def Workgroup.lacking (w : Workgroup) (n : Nat) : Word :=
  match w.window n with
  | some (e, _) => ((Table.find w.wins e).map fun v => Table.get 0 v.todo n).getD 0
  | none => 0

/-- Write bytes that land in an allocation; absent bytes keep what they held (R117). A word of a window of which a copy
writes any byte counts as written, so that its other bytes are not filled (DESIGN CHOICE, log 44: R123 speaks of words). -/
def Workgroup.land (w : Workgroup) (a : Nat) (b : List (Option Byte)) : Workgroup :=
  let w := (b.zip (List.range b.length)).foldl (fun (w : Workgroup) q => match q.1 with
    | some x => w.write (a + q.2) [x]
    | none => w) w
  let ws := (wordsFrom a b).map fun q => q.1 / 4
  let w := { w with rels := w.rels.filter fun r => !ws.contains r.1 }
  ws.foldl (fun (w : Workgroup) q => match w.window (q / 32) with
    | some (e, _) => { w with wins := Table.adjust w.wins e fun v =>
        { v with todo := Table.put 0 v.todo (q / 32) (Table.get 0 v.todo (q / 32) &&& ~~~(wordBit (q % 32))) } }
    | none => w) w

/-- An operation is done with a line (R117): it becomes Full after the last that marked it. -/
def Workgroup.release (w : Workgroup) (op n : Nat) : Workgroup :=
  match w.line n with
  | .pending l =>
    let l := l.erase op
    if l.isEmpty then w.setLine n .full else w.setLine n (.pending l)
  | _ => w

/-- The lines of an allocation that an operation has marked and not released. -/
def Workgroup.marked (w : Workgroup) (op : Nat) : List Nat :=
  (w.lines.filter fun l => match l.2 with
    | .pending o => o.contains op
    | _ => false).map (·.1)

/-- The lines that rows of `tb` bytes at a pitch cover (R351). -/
def rowLines (base pitch tb rows : Nat) : List Nat :=
  ((List.range rows).flatMap fun j => (List.range ((base + j * pitch + tb - 1) / 128 + 1 - (base + j * pitch) / 128)).map
    fun i => (base + j * pitch) / 128 + i).dedup

/-- Make lines of an allocation readable for an engine: it waits on Pending lines and fills Unfilled ones (R118, R121). -/
def State.engLines (s : State) (core ctx : Nat) (a : Who) (k : Nat) (lines : List Nat) : Eng Unit :=
  (engEach (fun s n =>
    match (Table.find s.wgs k).map (fun (w : Workgroup) => w.line n) with
    | some (.pending _) => .wait s false
    | some .unfilled =>
      match s.fillLine k n (BitVec.allOnes 32) core ctx a true with
      | .fault va => .bad (s.noteFault core ctx va) ⟨2, 7, va⟩
      | .touch p lv va => .wait { s.fillLeaf p with fills := s.fills ++ [⟨ctx, va, p, lv, false⟩] } true
      | .filling _ | .host => .wait s false
      | .busy line => s.engBusy line
      | .abort s code pa va => .bad (s.noteAbort pa code (some ctx)) ⟨8, code, va⟩
      | .ok s => .ok s ()
    | _ => .ok s ()) s lines).bind fun s _ => .ok s ()

/-- Fill what the windows' lines still lack before an operation makes them Full (R123). -/
def State.engTodo (s : State) (core ctx : Nat) (a : Who) (k : Nat) (lines : List Nat) : Eng Unit :=
  (engEach (fun s n =>
    match Table.find s.wgs k with
    | none => .ok s ()
    | some w =>
      let m := w.lacking n
      if m = 0 then .ok s ()
      else
        let was := w.line n
        match s.fillLine k n m core ctx a true with
        | .fault va => .bad (s.noteFault core ctx va) ⟨2, 7, va⟩
        | .touch p lv va => .wait { s.fillLeaf p with fills := s.fills ++ [⟨ctx, va, p, lv, false⟩] } true
        | .filling _ | .host => .wait s false
        | .busy line => s.engBusy line
        | .abort s code pa va => .bad (s.noteAbort pa code (some ctx)) ⟨8, code, va⟩
        | .ok s => .ok (s.modWg k fun w => match w.window n with
            | some (e, _) => { w.setLine n was with wins := Table.adjust w.wins e fun v => { v with todo := Table.erase v.todo n } }
            | none => w.setLine n was) ()) s lines).bind fun s _ => .ok s ()

/-! ### What an operation tells its group -/

/-- An engine error in the fault record of the issuing group (R355). -/
def State.recordError (s : State) (o : EngOp) (kind status addr : Nat) : State :=
  match s.issuer? o with
  | some g => s.setGroup o.g { g with record := ⟨true, BitVec.ofNat 16 kind, BitVec.ofNat 8 status, BitVec.ofNat 32 o.index, BitVec.ofNat 64 addr⟩ }
  | none => s

/-- The context of an operation. -/
def EngOp.ctx (o : EngOp) (s : State) : Nat := s.ctxOf o.launch

end Sys2Proof.Machine
end

