-- ==== Sys2Proof/Machine/Copy.lean ====
section
/-! DEFINITION. Class 12: the copy engine (R347 to R364), its issue and its steps. -/

namespace Sys2Proof.Machine

/-! ### Records and blocks -/

/-- Bits `lo` to `lo + n − 1` of a number. -/
def bits (b lo n : Nat) : Nat := b / 2 ^ lo % 2 ^ n

/-- The 256 bits that eight scalars hold (R349, R376). -/
def Group.octet (g : Group) (a : Nat) : Nat := (List.range 8).foldl (fun b i => b + (g.sget (a + i)).toNat * 2 ^ (32 * i)) 0

/-- The command block (R349). -/
def readBlock (b : Nat) : Block where
  done := bits b 192 57
  aux := BitVec.ofNat 64 (bits b 128 64)
  dest := BitVec.ofNat 32 (bits b 96 32)
  dkind := bits b 94 2
  bounds := bits b 92 2
  op := bits b 88 4
  rv := b.testBit 87
  ring := bits b 83 4
  slot := bits b 79 4
  pv := b.testBit 78
  pen := bits b 72 6
  count := bits b 64 8 + 1
  recAddr := bits b 0 57

def Block.offset (b : Block) : Nat := bits b.dest.toNat 0 20
def Block.mask (b : Block) : Nat := bits b.dest.toNat 20 8
def Block.reg (b : Block) : Nat := bits b.dest.toNat 0 11
def Block.group (b : Block) : Nat := bits b.dest.toNat 11 4
def Block.ext (b : Block) : Ext := ⟨BitVec.ofNat 3 (bits b.dest.toNat 15 3), BitVec.ofNat 3 (bits b.dest.toNat 18 3)⟩
def Block.list (b : Block) : Nat := bits b.aux.toNat 0 57
def Block.col0 (b : Block) : Nat := bits b.aux.toNat 0 32
def Block.row0 (b : Block) : Nat := bits b.aux.toNat 32 32

/-- Whether the instruction is driven by a list of rows or bags. -/
def CopyKind.listed : CopyKind → Bool
  | .cpyg | .cpys | .cpyb => true
  | _ => false

/-- The destination kinds and operators that each instruction accepts (R351, R357 to R363). -/
def CopyKind.accepts (k : CopyKind) (dkind op : Nat) : Bool :=
  match k with
  | .cpy => op == 0
  | .cpyg | .cpyr => dkind != 3 && op == 0
  | .cpys => dkind == 0 && (op == 15 || op == 0 || (2 ≤ op && op ≤ 11))
  | .cpyb => dkind != 3 && op ≤ 2
  | .cpyf => op == 0
  | .cpyq => (dkind == 0 || dkind == 2) && (5 ≤ op && op ≤ 7)

/-- The reserved fields of a block (R349). -/
def reservedOk (k : CopyKind) (b : Nat) : Bool :=
  bits b 249 7 == 0 && bits b 57 7 == 0 && (!k.listed || bits b 185 7 == 0) && (k.listed || bits b 64 8 == 0) &&
    (if bits b 94 2 == 1 then bits b 117 11 == 0 else bits b 124 4 == 0 && (bits b 94 2 == 2 || bits b 116 8 == 0))

/-- The pennant that an engine operand names, where it is usable (R62, R350). -/
def State.enginePen (s : State) (wg gang : Option Nat) (launch n : Nat) : Option PenRef :=
  match wg, gang, Table.find s.launches launch with
  | some w, some k, some l =>
    if n < l.lrec.pens then (if n < 32 then some (.wg w n) else none)
    else if 32 ≤ n && n < 40 && n - 32 < l.lrec.gpens then some (.gang k (n - 32))
    else none
  | _, _, _ => none

/-- The check of a block at issue (R350). -/
def State.blockOk (s : State) (g : Group) (k : CopyKind) (raw : Nat) : Bool :=
  let b := readBlock raw
  reservedOk k raw && k.accepts b.dkind b.op && b.bounds != 3 && b.recAddr % 128 == 0 && b.done % 4 == 0
    && (!k.listed || b.list % 4 == 0) && (b.dkind == 1 || b.offset % 16 == 0)
    && (!b.rv || match g.wg.bind fun w => s.ring? w b.ring with
        | some r => b.slot < r.slots.length
        | none => false)
    && (!b.pv || (s.enginePen g.wg g.gang g.launch b.pen).isSome)

/-- The element size of a format code (R348). -/
def elemBytes : Fmt → Nat
  | .f32 | .f16x2 | .bf16x2 | .i32 | .u32 => 4
  | .f16 | .bf16 | .i16 | .u16 => 2
  | _ => 1

/-- The formats of a record, codes 0 to 13. -/
def recFmt (n : Nat) : Option Fmt :=
  [Fmt.f32, .f16x2, .bf16x2, .f16, .bf16, .tf8, .e4m3, .e5m2, .i8, .u8, .i16, .u16, .i32, .u32][n]?

/-- A record as 128 bytes hold it; none where a field breaks R347. -/
def readRecord (l : List Byte) : Option TRec :=
  let n (o k : Nat) : Nat := leNat ((l.drop o).take k)
  (recFmt (n 24 1)).bind fun f =>
    let e := elemBytes f
    let trows := n 25 1 + 1
    let tcols := n 26 2
    let tb := tcols * e
    let pitch := n 28 2
    let ragged := (n 30 1).testBit 0
    let ok := n 0 8 < 2 ^ 57 && n 0 8 % e == 0 && n 8 8 < 2 ^ 48 && n 8 8 % e == 0 && 1 ≤ n 16 4 && 1 ≤ n 20 4
      && trows ≤ 128 && 1 ≤ tcols && tb ≤ 512 && pitch % 16 == 0 && (pitch == 0 || tb ≤ pitch)
      && n 30 1 < 4 && n 31 1 == 0 && (!ragged || (n 32 8 < 2 ^ 57 && n 32 8 % 4 == 0)) && (l.drop 52).all (· == 0)
    if ok then some ⟨n 0 8, n 8 8, n 16 4, n 20 4, f, trows, tcols, if pitch = 0 then (tb + 15) / 16 * 16 else pitch,
      ragged, (n 30 1).testBit 1, n 32 8, BitVec.ofNat 64 (n 40 8), BitVec.ofNat 32 (n 48 4)⟩
    else none

/-- The tile row bytes (R348). -/
def TRec.tb (t : TRec) : Nat := t.tcols * elemBytes t.fmt

/-! ### Issue -/

/-- The rows that a command fixes (R355). -/
def rowsOf (k : CopyKind) (b : Block) (t : TRec) : Nat := if k.listed then b.count else t.trows

/-- The lines of an allocation that destination row `j` of a copy is in (R351): of `CPYQ` those of its scale bytes too (R362). -/
def destRow (k : CopyKind) (b : Block) (t : TRec) (j : Nat) : List Nat :=
  rowLines (b.offset + j * t.pitch) 0 t.tb 1 ++
    (if k = .cpyq then rowLines (b.offset + t.trows * t.pitch + j * (t.tcols / 32)) 0 (t.tcols / 32) 1 else [])
/-- The lines of an allocation that a copy marks: its extent (R117, R350, R351). -/
def destLines (k : CopyKind) (b : Block) (t : TRec) : List Nat := ((List.range (rowsOf k b t)).flatMap (destRow k b t)).dedup

/-- The byte after the extent of a scratchpad tile (R351, R362). -/
def destEnd (k : CopyKind) (b : Block) (t : TRec) : Nat :=
  if k = .cpyq then b.offset + t.trows * t.pitch + t.trows * (t.tcols / 32)
  else b.offset + (rowsOf k b t - 1) * t.pitch + t.tb

/-- Where a copy lands: workgroups, or a group and its registers; none where a condition of R351 is broken. -/
def State.destOf (s : State) (g : Group) (k : CopyKind) (b : Block) (t : TRec) : Option (List Nat × Option (Nat × Nat) × List Nat) :=
  let fits (w : Nat) : Bool := ((Table.find s.wgs w).map fun x => decide (destEnd k b t ≤ x.size)).getD false
  match g.wg with
  | none => none
  | some own =>
    if b.dkind = 0 then (if fits own then some ([own], none, []) else none)
    else if b.dkind = 3 then (if k = .cpyf || fits own then some ([], none, []) else none)
    else if b.dkind = 2 then
      let ws := ((List.range 8).filter b.mask.testBit).map fun c => s.memberAt g.gang c
      if ws.all fun w => (w.map fits).getD false then some (ws.filterMap id, none, []) else none
    else
      match s.groups.find? fun q => q.2.wg == some own && q.2.no == b.group with
      | none => none
      | some (key, q) =>
        let regs := blockRegs b.ext b.reg
        if q.role != .C && b.reg % 64 + b.ext.cols ≤ 64 && regs.all (· < q.regs) && t.tb ≤ 4 * extSize b.ext && rowsOf k b t ≤ 128
        then some ([], some (key, q.gid), regs) else none

/-- A status that the record itself gives (R358 to R362). Op 15 of `CPYS` on elements that are not 4 bytes ends with status 1 (DESIGN
CHOICE, log 119: R359 says that every element is a 4-byte word, and names no outcome of another). -/
def recStatus (k : CopyKind) (b : Block) (t : TRec) : Nat :=
  match k with
  | .cpyr => if t.ragged then 0 else 1
  | .cpyb => if t.fmt == .f32 then 0 else 1
  | .cpyq => if t.fmt == .f32 && t.tcols % 32 == 0 then 0 else 1
  | .cpys => if b.op == 15 || t.fmt == .f32 || t.fmt == .i32 || t.fmt == .u32 then (if elemBytes t.fmt = 4 then 0 else 1) else 1
  | _ => 0

/-- Whether a valid zero map declares a tile zero (R111, R357). -/
def zeroTile (k : CopyKind) (b : Block) (t : TRec) : Bool :=
  k == .cpy && b.dkind != 3 && t.zmapOk && b.row0 % t.trows == 0 && b.col0 % t.tcols == 0 &&
    (let n := b.row0 / t.trows * ((t.cols + t.tcols - 1) / t.tcols) + b.col0 / t.tcols
     n < 64 && t.zmap.getLsbD n)

/-- Where an element of a row stands (R353, R360). -/
inductive Elem where
  | there | padded | missing
  deriving DecidableEq, Repr

/-- A row of the tensor: whether it exists, its first byte, and its length in elements (R353). -/
structure SRow where
  is   : Bool
  base : Nat
  len  : Nat
  deriving DecidableEq, Repr

/-- Where element `c` of a row stands; the pad applies to `CPYR` alone. -/
def elemAt (k : CopyKind) (t : TRec) (r : SRow) (c : Nat) : Elem :=
  if !r.is then .missing
  else if k == .cpyr && r.len ≤ c then .padded
  else if c < min t.cols r.len then .there else .missing

/-- The elements of a row that a copy reads from column `c0` on, of `n` (R353). -/
def readElems (k : CopyKind) (t : TRec) (r : SRow) (c0 n : Nat) : Nat :=
  (((List.range n).map fun i => elemAt k t r (c0 + i)).takeWhile (· == .there)).length

/-- The seal entries of the lines that a range of global addresses reads (R156). -/
def State.sealsAt (s : State) (core ctx va n : Nat) : List Nat :=
  ((linePieces va n).filterMap fun q => match s.translate core ctx q.1 with
    | .page pa _ _ _ => (s.entry (pa / 128)).sealed
    | _ => none).dedup

/-- Count entries once more for a copy. -/
def State.addCopies (s : State) (l : List Nat) : State :=
  { s with seals := l.foldl (fun t e => Table.adjust t e fun x => { x with copies := x.copies + 1 }) s.seals }

/-- A word of memory as it stands when a copy issues. -/
def State.peekWord (s : State) (core ctx va : Nat) : Option Nat :=
  match s.translate core ctx va with
  | .page pa _ _ _ => some (s.newest pa).toNat
  | _ => none
/-- Where the elements of row `r` from `c0` on lie that a copy of `t` would read now (R353): address and length in bytes. -/
def State.peekRow (s : State) (core ctx : Nat) (t : TRec) (c0 r : Nat) : List (Nat × Nat) :=
  let e := elemBytes t.fmt
  let span (base len : Nat) : List (Nat × Nat) :=
    let m := min t.tcols (min t.cols len - c0)
    if m = 0 then [] else [(base + c0 * e, m * e)]
  if t.rows ≤ r then []
  else if !t.ragged then span (t.base + r * t.stride) t.cols
  else
    match s.peekWord core ctx (t.offs + 4 * r), s.peekWord core ctx (t.offs + 4 * r + 4) with
    | some lo, some hi => span (t.base + lo * e) (hi - lo)
    | _, _ => []
/-- The tensor rows that a copy would read now. -/
def State.peekRows (s : State) (core ctx : Nat) (k : CopyKind) (b : Block) (t : TRec) : List Nat :=
  let word (i : Nat) : Option Nat := s.peekWord core ctx (b.list + 4 * i)
  match k with
  | .cpyf => []
  | .cpyg | .cpys => (List.range b.count).filterMap word
  | .cpyb =>
    match word 0, word b.count with
    | some lo, some hi => (List.range (hi - lo)).filterMap fun i => word (b.count + 1 + lo + i)
    | _, _ => []
  | _ => (List.range t.trows).map fun j => b.row0 + j
/-- The seal entries that a multicast copy counts in at its issue (R156): of the lines that it reads. -/
def State.issueSeals (s : State) (core ctx : Nat) (k : CopyKind) (b : Block) (t : TRec) : List Nat :=
  ((s.peekRows core ctx k b t).flatMap fun r =>
    (s.peekRow core ctx t (if k.listed then 0 else b.col0) r).flatMap fun q => s.sealsAt core ctx q.1 q.2).dedup

/-- The step of an issue after the checks (R350): the record, the counter, the marks. A record that cannot be read or
is invalid completes at once with its status. -/
def State.startCopy (s : State) (x : X) (k : CopyKind) (b : Block) (mode : BitVec 3) (rng : Word) : State × Done :=
  let ctx := s.ctxOf x.g.launch
  let make (s : State) (c : Copy) : Nat × State := s.newOp x 0 (.copy c)
  let c0 : Copy := ⟨k, b, none, if k.listed then b.count else 0, [], 0, 0, 0, mode, rng, [], false, [], none, [], false, none⟩
  match s.engTranslate x.core ctx b.recAddr false with
  | .wait s _ => (s, .wait (.leaf (match s.walk ctx b.recAddr with
      | .leaf p _ _ => p
      | .bad => 0)))
  | .bad s e => ((make s { c0 with status := e.status }).2, .next)
  | .ok s (pa, cls) =>
    if s.lineBusy (pa / 128) then (s.askPeers (pa / 128), .hold)
    else
    let r := s.homeRead (pa / 128) (BitVec.allOnes 32) cls s.hostWho (fun _ => 0) (some ctx)
    if r.abort.isSome then ((make r.s { c0 with status := 8 }).2, .next)
    else
      let s := r.s
      match readRecord ((List.range 128).map fun i => s.homeByte (pa + i)) with
      | none => ((make s { c0 with status := 1 }).2, .next)
      | some t =>
        let c := { c0 with trec := some t, rows := rowsOf k b t, zeroT := zeroTile k b t }
        let st := recStatus k b t
        if st != 0 then ((make s { c with status := st }).2, .next)
        else
          match s.destOf x.g k b t with
          | none => ((make s { c with status := 5 }).2, .next)
          | some (ws, tgt, regs) =>
            let seals := if b.dkind = 2 && !c.zeroT then s.issueSeals x.core ctx k b t else []
            let (i, s) := make (s.addCopies seals) { c with dests := if k = .cpys then [] else ws, tgt := tgt, regs := regs, seals := seals }
            (if k = .cpys then s
             else ws.foldl (fun s w => s.modWg w fun y => y.mark i (destLines k b t)) s, .next)

/-- A copy instruction (R350): a refused block is a copy-command fault; a full counter holds the issue (R346). -/
def State.issueCopy (s : State) (x : X) (k : CopyKind) (a : SReg) (mode : BitVec 3) (rng : Word) : State × Done :=
  let raw := x.g.octet a.toNat
  if !s.blockOk x.g k raw then (s, .event (Event.plain kCommand 0 x.f.mask))
  else if 4096 ≤ s.count x.g 0 then (s, .hold)
  else s.startCopy x k (readBlock raw) mode rng

/-- `CPY` (R357). -/
def execCpy (p : Pre) (a : SReg) : State → Host.Outcome State Fault Refusal :=
  run (.cpy p a) fun s x => s.issueCopy x .cpy a 1 0
/-- `CPYG` (R358). -/
def execCpyg (p : Pre) (a : SReg) : State → Host.Outcome State Fault Refusal :=
  run (.cpyg p a) fun s x => s.issueCopy x .cpyg a 1 0
/-- `CPYS` (R359). -/
def execCpys (p : Pre) (a : SReg) : State → Host.Outcome State Fault Refusal :=
  run (.cpys p a) fun s x => s.issueCopy x .cpys a 1 0
/-- `CPYR` (R360). -/
def execCpyr (p : Pre) (a : SReg) : State → Host.Outcome State Fault Refusal :=
  run (.cpyr p a) fun s x => s.issueCopy x .cpyr a 1 0
/-- `CPYB` (R361): under stochastic rounding the lowest active lane's state advances once and starts the copy's own. -/
def execCpyb (p : Pre) (rnd : BitVec 3) (a : SReg) : State → Host.Outcome State Fault Refusal :=
  run (.cpyb p rnd a) fun s x =>
    let mode := modeOf x.f rnd
    if mode = 7 then
      let seed := srNext (x.g.seed x.low)
      let (t, d) := s.issueCopy x .cpyb a mode seed
      (if d = .next then t.modGroup x.k fun g => g.setSeed x.low seed else t, d)
    else s.issueCopy x .cpyb a mode 0
/-- `CPYF` (R363). -/
def execCpyf (p : Pre) (a : SReg) : State → Host.Outcome State Fault Refusal :=
  run (.cpyf p a) fun s x => s.issueCopy x .cpyf a 1 0
/-- `CPYQ` (R362). -/
def execCpyq (p : Pre) (a : SReg) : State → Host.Outcome State Fault Refusal :=
  run (.cpyq p a) fun s x => s.issueCopy x .cpyq a 1 0

/-! ### The rows of a copy -/

/-- Find a row of the tensor (R353): a ragged one by its offsets, a negative length ending the copy with status 1. -/
def State.rowAt (s : State) (core ctx : Nat) (a : Who) (t : TRec) (r : Nat) : Eng SRow :=
  if t.rows ≤ r then .ok s ⟨false, 0, 0⟩
  else if t.ragged then
    (s.engRead core ctx a true (t.offs + 4 * r) 8).bind fun s l =>
      let lo := leNat (l.take 4)
      let hi := leNat (l.drop 4)
      if hi < lo then .bad s (.plain 1) else .ok s ⟨true, t.base + lo * elemBytes t.fmt, hi - lo⟩
  else .ok s ⟨true, t.base + r * t.stride, t.cols⟩

/-- The bytes of elements `c0` to `c0 + n − 1` of a row under the bounds policy (R353): absent bytes are not written. -/
def State.rowBytes (s : State) (core ctx : Nat) (a : Who) (k : CopyKind) (bounds : Nat) (t : TRec) (r : SRow) (c0 n : Nat) : Eng (List (Option Byte)) :=
  let e := elemBytes t.fmt
  let es := (List.range n).map fun i => elemAt k t r (c0 + i)
  if bounds = 2 && es.contains .missing then .bad s (.plain 4)
  else
    let m := (es.takeWhile (· == .there)).length
    (s.engRead core ctx a true (r.base + c0 * e) (m * e)).bind fun s l =>
      .ok s ((l.map some) ++ (es.drop m).flatMap fun x => match x with
        | .padded => (leBytes e t.pad.toNat).map some
        | _ => List.replicate e (if bounds = 0 then some 0 else none))

/-- The list words that a copy has fetched (R184). -/
def State.listsOf (s : State) (i : Nat) : Table Word :=
  match Table.find s.ops i with
  | some o =>
    match o.k with
    | .copy c => c.lists
    | _ => []
  | none => []
/-- Change a copy in progress. -/
def State.modCopy (s : State) (i : Nat) (f : Copy → Copy) : State :=
  { s with ops := Table.adjust s.ops i fun o => match o.k with
      | .copy c => { o with k := .copy (f c) }
      | _ => o }

/-- Word `n` of the list of copy `i`: each line of the list is read once, whole and unstamped (R184, R448), and kept. -/
def State.listWord (s : State) (core ctx i : Nat) (b : Block) (n : Nat) : Eng Word :=
  match Table.find (s.listsOf i) n with
  | some w => .ok s w
  | none =>
    let va := b.list + 4 * n
    let lo := max (va / 128 * 128) b.list
    let len := va / 128 * 128 + 128 - lo
    (s.engRead core ctx s.hostWho false lo len).bind fun s l =>
      let first := (lo - b.list) / 4
      let s := s.modCopy i fun c => { c with lists := (List.range (len / 4)).foldl (fun t j =>
        Table.insert t (first + j) (BitVec.ofNat 32 (leNat ((l.drop (4 * j)).take 4)))) c.lists }
      .ok s ((Table.find (s.listsOf i) n).getD 0)

/-- `n` words of the list of a copy, from `j` on. -/
def State.listWords (core ctx i : Nat) (b : Block) : Nat → Nat → State → Eng (List Word)
  | 0, _, s => .ok s []
  | n + 1, j, s => (s.listWord core ctx i b j).bind fun s w =>
      (State.listWords core ctx i b n (j + 1) s).bind fun s r => .ok s (w :: r)

/-- The bounds policy of an index (R353): the sentinel is never an error. -/
def idxBounds (bounds : Nat) (w : Word) : Nat := if w = 0xFFFFFFFF && bounds = 2 then 1 else bounds

/-- One word as a binary32 number. -/
def f32Of (w : Word) : XVal := BinFmt.f32.read false w.toNat

/-- Pool one column of a bag (R361): the values taken, in order; the generator advances once per rounding. -/
def poolColumn (op : Nat) (mode : BitVec 3) (rng : Word) (xs : List Word) : Word × Word :=
  let adv (r : Word) : Word := if mode = 7 then srNext r else r
  match xs with
  | [] => (0, rng)
  | x :: r =>
    let (v, rng) := r.foldl (fun (acc : Word × Word) y =>
      if op = 2 then ((combineRne .fmax32 (acc.1.zeroExtend 64) (y.zeroExtend 64)).truncate 32, acc.2)
      else
        let g := adv acc.2
        (BitVec.ofNat 32 (addX (env32 false mode g) (f32Of acc.1) (f32Of y)).1, g)) (x, rng)
    if op = 1 then
      let g := adv rng
      (BitVec.ofNat 32 (divX (env32 false mode g) (f32Of v) (.fin (Exact.ofInt xs.length 0))).1, g)
    else (v, rng)

/-- Pool a bag (R361): one word per column; each row is absent, or gives a value taken or not for each column. -/
def poolBag (op : Nat) (mode : BitVec 3) (rng : Word) (tcols : Nat) (rows : List (List (Option Word))) : List Word × Word :=
  (List.range tcols).foldl (fun (acc : List Word × Word) c =>
    let (v, g) := poolColumn op mode acc.2 (rows.filterMap fun r => r.getD c none)
    (acc.1 ++ [v], g)) ([], rng)

/-- The words of bytes, one absent where its first byte is. -/
def wordsOfBytes (l : List (Option Byte)) : List (Option Word) :=
  (List.range (l.length / 4)).map fun i => match l.getD (4 * i) none with
    | some _ => some (BitVec.ofNat 32 (leNat ((List.range 4).map fun j => (l.getD (4 * i + j) none).getD 0)))
    | none => none

/-- The bytes that a row of `CPYQ` becomes (R362): elements, then the scales of its blocks. In a block of which some elements are
missing under skip these count as 0 for the scale; a scale byte is written if some element of its block is there (DESIGN CHOICE,
log 120). -/
def quantRow (f : Fmt) (l : List (Option Byte)) : List (Option Byte) × List (Option Byte) :=
  let ws := wordsOfBytes l
  let blocks := (List.range (ws.length / 32)).map fun q => (ws.drop (32 * q)).take 32
  let done := blocks.map fun b =>
    let ys := b.map fun w => f32Of (w.getD 0)
    let S := blockScale f ys
    ((b.zip ys).map fun p => p.1.map fun _ => (BitVec.ofNat 8 (quantElem f S 1 0 p.2).1 : Byte),
     if b.any Option.isSome then some (BitVec.ofNat 8 S : Byte) else none)
  ((done.map (·.1)).flatten, done.map (·.2))

/-- What a row brings: bytes for the destination, scale bytes, and what the copy remembers. -/
structure RowData where
  bytes  : List (Option Byte)
  scales : List (Option Byte)
  rng    : Word
  seals  : List Nat
  deriving Repr

/-- The target format of `CPYQ` (R362). -/
def quantFmt : Nat → Fmt
  | 5 => .tf8
  | 6 => .e4m3
  | _ => .e5m2

/-! ### Bags (R361, R418) -/

/-- The node of the peer whose memory holds a copy's table, if one does (R418). -/
def State.tablePeer (s : State) (core ctx : Nat) (t : TRec) : Option Nat :=
  match s.translate core ctx t.base with
  | .page pa _ _ _ => if place pa == .peer then some (nodeOf pa) else none
  | _ => none

/-- Elements of a row as a request names them, up to one whose page gives a status (0: none does). -/
def State.bagElems (core ctx : Nat) : List Nat → State → Eng (List BagElem × Nat)
  | [], s => .ok s ([], 0)
  | va :: l, s =>
    match s.engTranslate core ctx va false with
    | .wait s m => .wait s m
    | .bad s f => .ok s ([], f.status)
    | .ok s p => (State.bagElems core ctx l s).bind fun s q => .ok s (.at p.1 :: q.1, q.2)

/-- A row of a bag as a request names it to the owner of the table (R353, R418), and the status with which it fails. -/
def State.bagRow (s : State) (core ctx : Nat) (bounds : Nat) (t : TRec) (r : SRow) : Eng (List BagElem × Nat) :=
  let es := (List.range t.tcols).map (elemAt .cpyb t r)
  if bounds = 2 && es.contains .missing then .ok s ([], 4)
  else
    (State.bagElems core ctx ((List.range (readElems .cpyb t r 0 t.tcols)).map fun c => r.base + 4 * c) s).bind fun s l =>
      .ok s (l.1 ++ (if l.2 = 0 then List.replicate (t.tcols - l.1.length) (if bounds = 0 then .zero else .skip) else []), l.2)

/-- The rows of a bag as a request names them, up to one that fails, and its status: what fails before it, in a row that the owner
reads, comes first. -/
def State.bagRows (o : EngOp) (bounds : Nat) (t : TRec) : List Word → State → Eng (List (List BagElem) × Nat)
  | [], s => .ok s ([], 0)
  | w :: l, s =>
    match s.rowAt o.core (s.ctxOf o.launch) (o.who s 0 0) t w.toNat with
    | .wait s m => .wait s m
    | .bad s f => .ok s ([], f.status)
    | .ok s r =>
      (s.bagRow o.core (s.ctxOf o.launch) (idxBounds bounds w) t r).bind fun s q =>
        if q.2 != 0 then .ok s ([q.1], q.2)
        else (State.bagRows o bounds t l s).bind fun s v => .ok s (q.1 :: v.1, v.2)

/-- The node that holds an element of a bag, if a peer does. -/
def bagNode : BagElem → Option Nat
  | .at pa => if place pa == .peer then some (nodeOf pa) else none
  | _ => none
/-- Whether the elements that rows name all lie in the memory of one node, whose peer can pool them. -/
def pooledAt (node : Nat) (rows : List (List BagElem)) : Bool := rows.all fun l => l.all fun e => match e with
  | .at _ => bagNode e == some node
  | _ => true
/-- An element as its owner addresses it. -/
def ownElem : BagElem → BagElem
  | .at pa => .at (pa % 2 ^ 43)
  | e => e

/-- The elements of row `w` that a bag reads of the tensor count for multicast (R156, R364). -/
def State.rowSeals (s : State) (core ctx : Nat) (k : CopyKind) (c : Copy) (t : TRec) (r : SRow) : List Nat :=
  if c.blk.dkind = 2 then (s.sealsAt core ctx r.base (readElems k t r 0 t.tcols * elemBytes t.fmt)).filter fun e => !c.seals.contains e else []

/-- The row of a bag, pooled here (R361). -/
def State.localBag (s : State) (o : EngOp) (c : Copy) (t : TRec) (ids : List Word) : Eng RowData :=
  let ctx := o.ctx s
  let a := o.who s 0 0
  (engEach (fun s w => (s.rowAt o.core ctx a t w.toNat).bind fun s r =>
    (s.rowBytes o.core ctx a .cpyb (idxBounds c.blk.bounds w) t r 0 t.tcols).bind fun s l =>
      .ok s (l, s.rowSeals o.core ctx .cpyb c t r)) s ids).bind fun s rows =>
    let (vs, g) := poolBag c.blk.op c.mode c.rng t.tcols (rows.map fun q => wordsOfBytes q.1)
    .ok s ⟨(vs.flatMap fun v => leBytes 4 v.toNat).map some, [], g, (rows.flatMap (·.2)).dedup⟩

/-- The row of a bag, pooled at the peer that holds the table: the request is sent once, and its answer taken (R418). A bag of which
an element lies elsewhere is pooled here, as is one that fails before any element is read. -/
def State.peerBag (s : State) (o : EngOp) (i : Nat) (c : Copy) (t : TRec) (node : Nat) (ids : List Word) : Eng RowData :=
  match c.reply with
  | some (st, ws, g) => if st != 0 then .bad s (.plain st) else .ok s ⟨(ws.flatMap fun v => leBytes 4 v.toNat).map some, [], g, []⟩
  | none =>
    if c.asked then .wait s false
    else
      (State.bagRows o c.blk.bounds t ids s).bind fun s q =>
        if q.1.all List.isEmpty && q.2 != 0 then .bad s (.plain q.2)
        else if !pooledAt node q.1 then s.localBag o c t ids
        else .wait ((s.modCopy i fun c => { c with asked := true }).send node
          (.bags ⟨i, t.tcols, c.blk.op, c.mode, c.rng, q.1.map (·.map ownElem), q.2⟩)) true

/-- Read destination row `j` of copy `i` that lands on chip (R357 to R363). -/
def State.copySource (s : State) (o : EngOp) (i : Nat) (c : Copy) (t : TRec) (j : Nat) : Eng RowData :=
  let ctx := o.ctx s
  let a := o.who s 0 0
  let b := c.blk
  let plain (s : State) (l : List (Option Byte)) : Eng RowData := .ok s ⟨l, [], c.rng, []⟩
  match c.kind with
  | .cpyf => plain s ((List.replicate t.tcols (leBytes (elemBytes t.fmt) b.col0)).flatten.map some)
  | .cpy =>
    if c.zeroT then plain s (List.replicate t.tb (some 0))
    else (s.rowAt o.core ctx a t (b.row0 + j)).bind fun s r =>
      (s.rowBytes o.core ctx a .cpy b.bounds t r b.col0 t.tcols).bind plain
  | .cpyr => (s.rowAt o.core ctx a t (b.row0 + j)).bind fun s r => (s.rowBytes o.core ctx a .cpyr b.bounds t r b.col0 t.tcols).bind plain
  | .cpyq => (s.rowAt o.core ctx a t (b.row0 + j)).bind fun s r =>
      (s.rowBytes o.core ctx a .cpyq b.bounds t r b.col0 t.tcols).bind fun s l =>
        let q := quantRow (quantFmt b.op) l
        .ok s ⟨q.1, q.2, c.rng, []⟩
  | .cpyg | .cpys => (s.listWord o.core ctx i b j).bind fun s w =>
      (s.rowAt o.core ctx a t w.toNat).bind fun s r =>
        (s.rowBytes o.core ctx a .cpyg (idxBounds b.bounds w) t r 0 t.tcols).bind fun s l =>
          .ok s ⟨l, [], c.rng, s.rowSeals o.core ctx .cpyg c t r⟩
  | .cpyb => (State.listWords o.core ctx i b 2 j s).bind fun s ends =>
      let lo := (ends.getD 0 0).toNat
      let hi := (ends.getD 1 0).toNat
      if hi < lo then .bad s (.plain 1)
      else
        (State.listWords o.core ctx i b (hi - lo) (b.count + 1 + lo) s).bind fun s ids =>
          match s.tablePeer o.core ctx t with
          | some node => s.peerBag o i c t node ids
          | none => s.localBag o c t ids

/-- Whether a `SPAWN` that waits for room has still to read a register that a copy is to land in (R352): it was issued before. -/
def State.readerWaits (s : State) (c : Copy) : Bool :=
  match c.tgt with
  | none => false
  | some (k, gid) => ((s.group? k).map fun g => g.gid == gid && g.frags.any fun f => match f.2.wait with
      | .room v _ _ => c.regs.any fun r => v.toNat ≤ r && r < v.toNat + 8
      | _ => false).getD false

/-- Land a row in the registers of a lane (R352): positions beyond the row take 0. -/
def State.landRegs (s : State) (c : Copy) (j : Nat) (l : List (Option Byte)) : State :=
  match c.tgt with
  | none => s
  | some (k, gid) => (c.regs.foldl (fun s r => s.mend (.vreg k r j)) s).modGroup k fun g =>
      if g.gid != gid then g
      else (c.regs.zip (List.range c.regs.length)).foldl (fun (g : Group) q =>
        let old := g.vget q.1 j
        let w : Word := BitVec.ofNat 32 (leNat ((List.range 4).map fun i =>
          if 4 * q.2 + i < l.length then ((l.getD (4 * q.2 + i) none).getD ((old >>> (8 * i)).truncate 8)) else 0))
        g.vset q.1 j w) g

/-- The arrivals of a copy's rows at its pennant (R64, R354). -/
def State.copyArrive (s : State) (o : EngOp) (c : Copy) (n : Nat) : State :=
  if !c.blk.pv then s
  else
    match s.enginePen o.wg o.gang o.launch c.blk.pen with
    | some r => (List.range n).foldl (fun s _ => s.modPen r fun p => p.engine s.stampNow) s
    | none => s

/-- A row has landed or been skipped: it is counted, and the engine arrives (R354). -/
def State.rowDone (s : State) (i : Nat) (o : EngOp) (c : Copy) (written : Bool) : State :=
  (s.modCopy i fun d => { d with row := d.row + 1, landed := d.landed + (if written then 1 else 0), asked := false, reply := none }).copyArrive o c 1

/-- Combine a row into memory, word by word (R359): the page's class must permit the operator. -/
def State.combineRow (s : State) (o : EngOp) (op : Op) (l : List (Nat × BitVec 4 × Word)) : Eng Unit :=
  (engEach (fun s w => s.engCheck o.core (o.ctx s) w) s l).bind fun s ps =>
    if ps.any fun p => !(Mode.red op).legal p.2 p.1 then .bad s (.plain 9)
    else
      let a := o.who s 0 0
      .ok ((l.zip ps).foldl (fun s q =>
        let v := combineRne op ((s.homeWord q.2.1).zeroExtend 64) (q.1.2.2.zeroExtend 64)
        let st := (s.stampsOf q.2.1).write a (.atomic .dev o.launch (o.gid * 256 + 255)) true (q.2.2 == .dc) 0xF
        ((s.putWord q.2.1 (v.truncate 32)).setStamps q.2.1 st).wrote q.2.1 (v.truncate 32) st.rel) s) ()

/-- The operator of a scatter (R359). -/
def scatterOp (n : Nat) : Op :=
  [Op.iadd32, .iadd64, .imin, .imax, .umin, .umax, .and, .or, .xor, .fadd32, .fmin32, .fmax32].getD n .iadd32

/-- The first `m` elements of row `j` of the source that a copy writes to the tensor: the fill value, or the scratchpad,
read as a load would (R363, R364). -/
def State.rowSource (s : State) (o : EngOp) (c : Copy) (t : TRec) (j m : Nat) : Eng (List Byte) :=
  let b := c.blk
  let e := elemBytes t.fmt
  if c.kind = .cpyf then .ok s ((List.replicate m (leBytes e b.col0)).flatten)
  else
    match o.wg with
    | some k =>
      (s.engLines o.core (o.ctx s) (o.who s 0 0) k (rowLines (b.offset + j * t.pitch) 0 (m * e) 1)).bind fun s _ =>
        let lo := b.offset + j * t.pitch
        let (s, bad) := s.spadCheck k (o.ctx s) ((List.range ((lo + m * e + 3) / 4 - lo / 4)).map fun i => lo / 4 + i)
        if bad != [] then .bad s (.spad bad)
        else .ok s (((Table.find s.wgs k).map fun (w : Workgroup) => w.bytes.bytes (b.offset + j * t.pitch) (m * e)).getD [])
    | none => .ok s []

/-- Write a row to the tensor from scratchpad or the fill value (R357, R359, R363): elements that do not exist are skipped. -/
def State.rowOut (s : State) (o : EngOp) (i : Nat) (c : Copy) (t : TRec) (j : Nat) : Eng Bool :=
  let ctx := o.ctx s
  let a := o.who s 0 0
  let b := c.blk
  let e := elemBytes t.fmt
  (if c.kind = .cpys then s.listWord o.core ctx i b j else .ok s (0 : Word)).bind fun s w =>
    let row := if c.kind = .cpys then w.toNat else b.row0 + j
    let c0 := if c.kind = .cpy then b.col0 else 0
    (s.rowAt o.core ctx a t row).bind fun s r =>
      let m := if r.is then min t.tcols (min t.cols r.len - c0) else 0
      if c.kind == .cpys && b.bounds == 2 && m < t.tcols && w != 0xFFFFFFFF then .bad s (.plain 4)
      else if m = 0 then .ok s false
      else
        (s.rowSource o c t j m).bind fun s l =>
          let ws := wordsFrom (r.base + c0 * e) (l.map some)
          (if c.kind = .cpys && b.op != 15 then s.combineRow o (scatterOp b.op) ws
           else s.engWrite o.core ctx a ws).bind fun s _ => .ok s true

/-- One step of a copy: its next row lands, is zero-filled or is skipped (R354); none while it waits. -/
def State.copyRow (s : State) (i : Nat) : Option State :=
  match Table.find s.ops i with
  | none => none
  | some o =>
    match o.k with
    | .copy c =>
      match c.trec with
      | none => none
      | some t =>
        if o.done || c.status != 0 || c.rows ≤ c.row then none
        else
          let j := c.row
          let stop (t : State) (n : Nat) : Option State := some (t.modCopy i fun d => { d with status := n })
          let waiting (t : State) (m : Bool) : Option State := if m || t.listsOf i != c.lists then some t else none
          if c.blk.dkind = 3 ∨ c.kind = .cpys then
            match s.rowOut o i c t j with
            | .wait s m => waiting s m
            | .bad s n => stop s n.status
            | .ok s w => some (s.rowDone i o c w)
          else
            let first := c.dests.all fun w => ((Table.find s.wgs w).map fun y => (destRow c.kind c.blk t j).all (y.first i)).getD true
            if !first || s.readerWaits c then none
            else
              match s.copySource o i c t j with
              | .wait s m => waiting s m
              | .bad s n => stop s n.status
              | .ok s d =>
                let at_ := c.blk.offset + j * t.pitch
                let s := c.dests.foldl (fun s w =>
                  (s.spadMend w (((wordsFrom at_ d.bytes).filter fun q => q.2.1 == 0xF).map fun q => q.1 / 4)).modWg w fun y =>
                    let y := y.land at_ d.bytes
                    if c.kind = .cpyq then y.land (c.blk.offset + t.trows * t.pitch + j * (t.tcols / 32)) d.scales else y) s
                let written := d.bytes.any Option.isSome
                let s := if written then s.landRegs c j d.bytes else s
                some (((s.addCopies d.seals).modCopy i fun e => { e with rng := d.rng, seals := e.seals ++ d.seals }).rowDone i o c written)
    | _ => none

/-- `COPY_ROW_LANDS` (R354): nothing while the row must wait. -/
def execCopyRowLands (op : Nat) : State → Host.Outcome State Fault Refusal := fun s => .next ((s.copyRow op).getD s)

/-! ### Completion (R354, R355) -/

/-- The allocations and lines that a copy has marked. -/
def State.markedBy (s : State) (i : Nat) : List (Nat × List Nat) :=
  (s.wgs.map fun w => (w.1, w.2.marked i)).filter fun q => !q.2.isEmpty

/-- Whether every byte of some lines of an allocation is zero. -/
def Workgroup.allZero (w : Workgroup) (lines : List Nat) : Bool := lines.all fun n => (w.bytes.bytes (128 * n) 128).all (· == 0)
/-- Set the zero bits of the lines of a tile that a copy has landed. -/
def Workgroup.markZero (w : Workgroup) (op : Nat) (lines : List Nat) : Workgroup :=
  { w with zero := lines.foldl (fun t n => Table.insert t n op) w.zero }

/-- The zero bits that a landed copy sets (R356): of every line it marked, in every destination, if all of them hold only zero
bytes, or if its tile is declared zero. -/
def State.zeroBits (s : State) (op : Nat) (lines : List (Nat × List Nat)) (force : Bool) : State :=
  if force || lines.all fun q => ((Table.find s.wgs q.1).map fun w => w.allZero q.2).getD true then
    lines.foldl (fun s q => s.modWg q.1 fun w => w.markZero op q.2) s
  else s

/-- Publish a slot for an engine (R60, R61): whether it was Held. -/
def State.enginePublish (s : State) (wg : Option Nat) (ring slot : Nat) : State × Bool :=
  match wg.bind fun w => (s.ring? w ring).map fun r => (w, r) with
  | some (w, r) =>
    if r.slot slot == .held && !r.early.contains slot && slot < r.slots.length then (s.setRing w ring (r.publish slot s.stampNow), true)
    else (s, false)
  | none => (s, false)

/-- Whether the slot to publish is Held (R354). -/
def State.slotHeld (s : State) (wg : Option Nat) (ring slot : Nat) : Bool := (s.enginePublish wg ring slot).2

/-- The completion of a copy (R354, R355), in the order of R354's steps: the zero bits and the Full lines come before the write
of the completion word, which may wait. None while nothing changes. -/
def State.copyFinish (s : State) (i : Nat) : Option State :=
  match Table.find s.ops i with
  | none => none
  | some o =>
    match o.k with
    | .copy c =>
      if o.done || (c.status == 0 && c.row < c.rows) then none
      else
        let ctx := o.ctx s
        let a := o.who s 0 3
        let waiting (s : State) (m : Bool) : Option State := if m then some s else none
        let lines := s.markedBy i
        let todo := engEach (fun s (q : Nat × List Nat) => s.engTodo o.core ctx a q.1
          (q.2.filter fun n => ((Table.find s.wgs q.1).map fun w => w.line n == .pending [i]).getD false)) s lines
        let (s, moved, st) := match todo with
          | .wait s m => (s, some m, c.status)
          | .bad s n => (s, none, if c.status = 0 then n.status else c.status)
          | .ok s _ => (s, none, c.status)
        match moved with
        | some m => waiting s m
        | none =>
          let s := if c.status = 0 then s.zeroBits i lines c.zeroT else s
          let s := lines.foldl (fun s q => s.modWg q.1 fun w => q.2.foldl (fun (w : Workgroup) n => w.release i n) w) s
          let st := if c.blk.rv && !s.slotHeld o.wg c.blk.ring c.blk.slot then 7 else st
          let s := (s.copyArrive o c (c.rows - c.row)).modCopy i fun d => { d with row := d.rows, status := st }
          let word : Word := 0x80000000 + BitVec.ofNat 32 (st * 2 ^ 16 + c.landed % 2 ^ 16)
          let ending (s : State) (lost : Nat) : Option State :=
            let s := if c.blk.rv && st != 7 then (s.enginePublish o.wg c.blk.ring c.blk.slot).1 else s
            let s := s.releaseSeals c.seals
            let s := if st != 0 then s.recordError o kEngine st c.blk.recAddr
              else if lost != 0 then s.recordError o kEngine lost c.blk.recAddr else s
            some ((s.modCopy i fun d => { d with seals := [] }).completeWith i st c.blk.recAddr)
          if c.blk.done = 0 then ending s 0
          else
            match s.engWrite o.core ctx a [(c.blk.done, 0xF, word)] with
            | .wait t m => if m || !lines.isEmpty || c.row < c.rows || c.status != st then some t else none
            | .bad s n => ending s n.status
            | .ok s _ => ending s 0
    | _ => none

/-- `COPY_COMPLETE` (R354, R355): nothing while rows remain. -/
def execCopyComplete (op : Nat) : State → Host.Outcome State Fault Refusal := fun s => .next ((s.copyFinish op).getD s)

end Sys2Proof.Machine
end

