-- ==== Sys2Proof/Machine/Matrix.lean ====
section
/-! DEFINITION. Class 13: the matrix unit (R99 to R109, R365 to R375), its issue and its steps. -/

namespace Sys2Proof.Machine

/-! ### Formats (R367, R371) -/

/-- The A format that `afmt` of `%fmt` selects (R79). -/
def aFmt (n : Nat) : Option Fmt := [Fmt.tf8, .e4m3, .e5m2, .i8, .bf16, .f16][n]?
/-- The formats with block scales (R99). -/
def scaled (f : Fmt) : Bool := f == .tf8 || f == .e4m3 || f == .e5m2
/-- The 16-bit formats. -/
def isHalf (f : Fmt) : Bool := f == .f16 || f == .bf16
/-- The combinations of R371. -/
def combines (a b : Fmt) : Bool := (scaled a && scaled b) || (a == .i8 && b == .i8) || (isHalf a && isHalf b)
/-- The kiln slots that a fill of a format takes (R367). -/
def slotKeys (f : Fmt) (n : Nat) : List Nat := if isHalf f then [n, n + 1] else [n]

/-! ### The scoreboard of a matrix unit (R195, R365) -/

/-- The accumulators that an instruction or operation uses, the slots it writes, the slots it reads, and the tensor id
whose scales it reads or binds. -/
structure Use where
  accs : List Nat
  wr   : List Nat
  rd   : List Nat
  tid  : Option Nat
  deriving DecidableEq, Repr
def Use.of (accs wr rd : List Nat) : Use := ⟨accs, wr, rd, none⟩

/-- What an outstanding operation uses. -/
def OpKind.use : OpKind → Use
  | .kset n f _ _ => Use.of [] (slotKeys f n) []
  | .drain t => Use.of [t.acc] [] []
  | .load t => Use.of [t.acc] [] []
  | .pass p => ⟨[p.acc], [], [p.slot, p.slot + 1].take (if 4 ≤ p.afmt then 2 else 1), some p.tid⟩
  | _ => Use.of [] [] []

/-- Whether one use must wait for the other. -/
def Use.meets (a b : Use) : Bool :=
  a.accs.any b.accs.contains || a.wr.any (fun k => b.wr.contains k || b.rd.contains k) || a.rd.any b.wr.contains
    || (a.tid.isSome && a.tid == b.tid && a.rd.isEmpty)

/-- Whether earlier work of a matrix unit holds an instruction with this use. -/
def State.matBusy (s : State) (x : X) (u : Use) : Bool :=
  s.ops.any fun o => o.2.core == x.core && o.2.part == partOf x.k && !o.2.done && u.meets o.2.k.use

/-- The matrix unit of the issuing group's partition. -/
def State.unit (s : State) (x : X) : Mat := s.mat x.core (partOf x.k)
def State.setUnit (s : State) (x : X) (m : Mat) : State := s.setMat x.core (partOf x.k) m
/-- The matrix unit of an operation. -/
def State.matOf (s : State) (o : EngOp) : Mat := s.mat o.core o.part
def State.setMatOf (s : State) (o : EngOp) (m : Mat) : State := s.setMat o.core o.part m

/-- The slots that go when slot `n` is emptied: of a 16-bit pair both (R369). -/
def Mat.slotsAt (m : Mat) (n : Nat) : List Nat :=
  (m.kiln.filter fun k => k.1 == n || (isHalf k.2.fmt && k.1 + 1 == n)).map (·.1)
/-- The octets that hold an executing lane (R370). -/
def octets (m : Mask) : List Nat := (List.range 16).filter fun o => (List.range 8).any fun i => m.getLsbD (8 * o + i)

/-- The use of an MMA: a 16-bit A format reads a pair of slots (R367). -/
def mmaUse (x : X) (acc k : Nat) : Use :=
  Use.of ((octets x.lanes).map (acc + ·)) [] ([k, k + 1].take (if 4 ≤ x.f.fmt.toNat % 8 then 2 else 1))

/-- What an instruction uses of its matrix unit (R195, R365). -/
def State.useOf (s : State) (x : X) : Instr → Use
  | .scbind _ tid _ | .scdrop _ tid => ⟨[], [], [], some tid.toNat⟩
  | .kset _ fm k _ _ => Use.of [] (slotKeys fm k.toNat) []
  | .krel _ k => Use.of [] (k.toNat :: ((s.unit x).slotsAt k.toNat).flatMap fun n => [n, n + 1]) []
  | .mzero _ acc | .mdrain _ _ _ _ acc _ _ _ _ | .mload _ _ acc _ _ => Use.of [acc.toNat] [] []
  | .mma _ _ _ _ acc _ _ k _ | .mmasp _ _ _ _ acc _ _ k _ => mmaUse x acc.toNat k.toNat
  | _ => Use.of [] [] []

/-- Use a matrix unit when nothing holds the instruction. -/
def whenFree (i : Instr) (body : State → X → State × Done) (s : State) (x : X) : State × Done :=
  if s.matBusy x (s.useOf x i) then (s, .hold) else body s x

/-- Issue an operation of the matrix class: a full counter holds the issue (R346). -/
def State.issueMat (s : State) (x : X) (k : OpKind) : State × Done :=
  if 4096 ≤ s.count x.g 1 then (s, .hold) else ((s.newOp x 1 k).2, .next)

/-! ### Accumulators and slots -/

/-- The elements of an accumulator. -/
def Store.ofAcc (u a : Nat) : Store → Bool
  | .acc m i => m == u && i / 1024 == a
  | _ => false
/-- The contents of kiln slots. -/
def Store.ofSlots (u : Nat) (ns : List Nat) : Store → Bool
  | .kiln m n _ => m == u && ns.contains n
  | _ => false

/-- The 1,024 elements of an accumulator, row-major (R373). -/
def Mat.tile (m : Mat) (a : Nat) : List Word := (List.range 1024).map fun j => Table.get 0 m.acc (1024 * a + j)
/-- Replace an accumulator. -/
def Mat.setTile (m : Mat) (a : Nat) (l : List Word) : Mat :=
  let new := ((List.range 1024).map fun j => (1024 * a + j, l.getD j 0)).filter fun c => c.2 != 0
  { m with acc := (m.acc.filter fun c => c.1 < 1024 * a) ++ new ++ (m.acc.filter fun c => 1024 * (a + 1) ≤ c.1) }

/-- Empty slots of a matrix unit, releasing their copy counts (R156, R369). -/
def State.emptySlots (s : State) (o : Nat × Nat) (ns : List Nat) : State :=
  let m := s.mat o.1 o.2
  let gone := (ns.flatMap m.slotsAt).dedup
  (s.releaseSeals ((m.kiln.filter fun k => gone.contains k.1).flatMap fun k => k.2.seals)).setMat o.1 o.2
    { m with kiln := m.kiln.filter fun k => !gone.contains k.1 }

/-! ### Scales (R366) -/

/-- Drop the cached scales of a tensor id (R100). -/
def Mat.forget (m : Mat) (t : Nat) : Mat := { m with cache := m.cache.filter fun c => c.1 / 512 != t }

/-- `SCBIND` (R366): its address is checked as an access would be, but a leaf is filled only when scales are read. -/
def execScbind (p : Pre) (tid : BitVec 6) (a : SReg) : State → Host.Outcome State Fault Refusal :=
  run (.scbind p tid a) <| whenFree (.scbind p tid a) fun s x =>
    let v := x.g.sget2 a.toNat
    let fail (k : Nat) : State × Done := (s, .event ⟨k, 0, v, x.f.mask, 0, none⟩)
    if 2 ^ 57 ≤ v.toNat then fail kAddress
    else if s.translate x.core (s.ctxOf x.g.launch) v.toNat == .fault then fail kTranslation
    else
      let m := (s.unit x).forget tid.toNat
      (s.setUnit x { m with binds := Table.insert m.binds tid.toNat v.toNat }, .next)

/-- `SCDROP` (R366). -/
def execScdrop (p : Pre) (tid : BitVec 6) : State → Host.Outcome State Fault Refusal :=
  run (.scdrop p tid) <| whenFree (.scdrop p tid) fun s x =>
    let m := (s.unit x).forget tid.toNat
    (s.setUnit x { m with binds := Table.erase m.binds tid.toNat }, .next)

/-! ### Issue of slot and tile operations -/

/-- The bytes of elements that `KSET` reads. -/
def ksetBytes (f : Fmt) : Nat := if isHalf f then 32768 else 16384

/-- `KSET` (R367, R383). -/
def execKset (p : Pre) (fm : Fmt) (k : BitVec 3) (a b : SReg) : State → Host.Outcome State Fault Refusal :=
  run (.kset p fm k a b) <| whenFree (.kset p fm k a b) fun s x =>
    let ea := (x.g.sget a.toNat).toNat
    let sb := (x.g.sget b.toNat).toNat
    let size := ((x.g.wg.bind (Table.find s.wgs)).map fun (w : Workgroup) => w.size).getD 0
    let fail (at_ : Nat) : State × Done := (s, .event ⟨kSpad, 0, BitVec.ofNat 64 at_, x.f.mask, 0, none⟩)
    if isHalf fm && k.toNat % 2 == 1 then (s, .event (Event.plain kMatrix 0 x.f.mask))
    else if ea % 128 ≠ 0 ∨ size < ea + ksetBytes fm then fail ea
    else if sb % 128 ≠ 0 ∨ (scaled fm = true ∧ size < sb + 512) then fail sb
    else s.issueMat x (.kset k.toNat fm ea sb)

/-- `KREL` (R369). -/
def execKrel (p : Pre) (k : BitVec 3) : State → Host.Outcome State Fault Refusal :=
  run (.krel p k) <| whenFree (.krel p k) fun s x => (s.emptySlots (x.core, partOf x.k) [k.toNat], .next)

/-- `MZERO` (R369). -/
def execMzero (p : Pre) (acc : BitVec 6) : State → Host.Outcome State Fault Refusal :=
  run (.mzero p acc) <| whenFree (.mzero p acc) fun s x =>
    ((s.mendAll (Store.ofAcc (4 * x.core + partOf x.k) acc.toNat)).setUnit x ((s.unit x).setTile acc.toNat []), .next)

/-- The element size of a tile format (R373). -/
def tileBytes : MFmt → Nat
  | .f32 | .i32 => 4
  | .f16 | .bf16 => 2

/-- The Held slot of a ring within which a scratchpad range lies (R374). -/
def Ring.heldAt (r : Ring) (a n : Nat) : Option Nat :=
  (List.range r.slots.length).find? fun k => r.base + k * r.bytes ≤ a && a + n ≤ r.base + (k + 1) * r.bytes
    && r.slot k == .held && !r.early.contains k

/-- The checks of a tile's address (R345, R373, R383), in the order of R422; a leaf still to be filled is no fault (R496). -/
def State.tileFault (s : State) (x : X) (sp write : Bool) (a : Int) (n : Nat) : Option Event :=
  let ev (k : Nat) (at_ : Int) : Option Event := some ⟨k, 0, BitVec.ofInt 64 at_, x.f.mask, 0, none⟩
  if sp then
    let size := ((x.g.wg.bind (Table.find s.wgs)).map fun (w : Workgroup) => w.size).getD 0
    if a < 0 ∨ (size : Int) < a + n then ev kSpad a else if a % 16 ≠ 0 then ev kAlign a else none
  else if a < 0 ∨ 2 ^ 57 < a + n then ev kAddress a
  else if a % 16 ≠ 0 then ev kAlign a
  else
    let ts : List (Nat × Tr) := (linePieces a.toNat n).map fun q => (q.1, s.translate x.core (s.ctxOf x.g.launch) q.1)
    match ts.find? fun t => t.2 == .fault with
    | some t => ev kTranslation t.1
    | none =>
      if !write then none
      else
        let page (f : Nat → Bool → Bool) : Option Nat := (ts.find? fun t => match t.2 with
          | .page pa _ w _ => f pa w
          | _ => false).map (·.1)
        match page fun _ w => !w with
        | some v => ev kProtection v
        | none => (page fun pa _ => (s.entry (pa / 128)).sealed.isSome).bind fun v => ev kSealed v

/-- The states of a generator over `n` results (R98). -/
def srAfter : Nat → Word → Word
  | 0, w => w
  | n + 1, w => srAfter n (srNext w)

/-- `MDRAIN` (R373, R374): a scratchpad destination becomes Pending; under stochastic rounding the lane's state advances
once for each of the 1,024 elements. -/
def execMdrain (p : Pre) (add : Bool) (fm : MFmt) (rnd : BitVec 3) (acc : BitVec 6) (sp pub : Bool) (ring : BitVec 4) (m : MemOp) :
    State → Host.Outcome State Fault Refusal :=
  run (.mdrain p add fm rnd acc sp pub ring m) <| whenFree (.mdrain p add fm rnd acc sp pub ring m) fun s x =>
    let n := 1024 * tileBytes fm
    let a := memAddr m x.g sp 16 x.low
    let slot := if sp && 0 ≤ a then (x.g.wg.bind fun w => s.ring? w ring.toNat).bind fun r => r.heldAt a.toNat n else none
    if pub && slot.isNone then (s, .event (Event.plain kRing 0 x.f.mask))
    else
      match s.tileFault x sp true a n with
      | some e => (s, .event e)
      | none =>
        let mode := modeOf x.f rnd
        let t : Tile := ⟨acc.toNat, fm, add, if sp then x.g.wg else none, a.toNat, mode, x.g.seed x.low,
          if pub then slot.map fun k => (ring.toNat, k) else none, x.low⟩
        if 4096 ≤ s.count x.g 1 then (s, .hold)
        else
          let (i, s) := s.newOp x 1 (.drain t)
          let s := match t.tgt with
            | some w => s.modWg w fun y => y.mark i (rowLines t.addr 0 n 1)
            | none => s
          (if mode = 7 then s.modGroup x.k fun g => g.setSeed x.low (srAfter 1024 t.seed) else s, .next)

/-- `MLOAD` (R375). -/
def execMload (p : Pre) (fm : MFmt) (acc : BitVec 6) (sp : Bool) (m : MemOp) : State → Host.Outcome State Fault Refusal :=
  run (.mload p fm acc sp m) <| whenFree (.mload p fm acc sp m) fun s x =>
    let a := memAddr m x.g sp 16 x.low
    match s.tileFault x sp false a (1024 * tileBytes fm) with
    | some e => (s, .event e)
    | none => s.issueMat x (.load ⟨acc.toNat, fm, false, if sp then x.g.wg else none, a.toNat, 1, 0, none, x.low⟩)

/-! ### Octet passes (R370 to R372) -/

/-- Element `j` of an A row held in block positions (R371). -/
def rowElem (f : Fmt) (ws : List Word) (j : Nat) : Nat :=
  if isHalf f then (ws.getD (j / 2) 0).toNat / 2 ^ (16 * (j % 2)) % 2 ^ 16
  else (ws.getD (j / 4) 0).toNat / 2 ^ (8 * (j % 4)) % 2 ^ 8
/-- The first position of the sparsity metadata (R372). -/
def metaPos (f : Fmt) : Nat := if isHalf f then 32 else 16
/-- The metadata nibble of an element group (R372). -/
def metaOf (f : Fmt) (ws : List Word) (g : Nat) : Nat := (ws.getD (metaPos f + g / 8) 0).toNat / 2 ^ (4 * (g % 8)) % 16
/-- Whether a row's metadata names its elements in order, in every group (R372, R383). -/
def metaOk (f : Fmt) (ws : List Word) : Bool :=
  (List.range 32).all fun g => decide (metaOf f ws g % 4 < metaOf f ws g / 4)
/-- The A element of a product; none where the product is skipped (R372). -/
def aElem (sparse : Bool) (f : Fmt) (ws : List Word) (k : Nat) : Option Nat :=
  if !sparse then some (rowElem f ws k)
  else
    let n := metaOf f ws (k / 4)
    if k % 4 = n % 4 then some (rowElem f ws (2 * (k / 4)))
    else if k % 4 = n / 4 then some (rowElem f ws (2 * (k / 4) + 1))
    else none

/-- The register words of an A row: positions of the block in a lane. -/
def rowWords (g : Group) (e : Ext) (a l : Nat) : List Word := (blockRegs e a).map fun r => g.vget r l

/-- The positions that an A row needs (R383). -/
def needPos (sparse : Bool) (f : Fmt) (K : Nat) : Nat :=
  if sparse then metaPos f + 4 else if isHalf f then (K + 1) / 2 else (K + 3) / 4

/-- The time of an octet pass in clk, of `MMASP` half of it (R12, R371). -/
def passClk (sparse : Bool) (f : Fmt) : Nat := (if isHalf f then 32 else if f = .i8 then 12 else 8) / (if sparse then 2 else 1)
/-- From the end of a pass in the array to its result, in clk: what the 24 of R13 leave after the 8 of the pass. -/
def passTail : Nat := 16

/-- Issue of `MMA` and `MMASP` (R370, R372, R383): one pass for each octet with an executing lane, one after the other; the unit
accepts the next `MMA` after the last (R13, R196, R371). -/
def State.issueMma (s : State) (x : X) (sparse : Bool) (e : Ext) (sat : Bool) (mode : BitVec 3) (acc tid a k K : Nat) : State × Done :=
  let os := octets x.lanes
  let fail (m : Mask) : State × Done := (s, .event (Event.plain kMatrix 0 m))
  let afmt := x.f.fmt.toNat % 8
  match aFmt afmt, Table.find (s.unit x).kiln k with
  | some f, some slot =>
    if !combines f slot.fmt || extSize e < needPos sparse f K || (sat && f != .i8)
        || (scaled f && (Table.find (s.unit x).binds tid).isNone) || mode == 7 then fail x.lanes
    else
      let bad := (lanesOf x.lanes).filter fun l => 63 < acc + l / 8 || (sparse && !metaOk f (rowWords x.g e a l))
      if !bad.isEmpty then fail (maskOf bad)
      else
        let c := passClk sparse f
        let s := (os.zip (List.range os.length)).foldl (fun s o => (s.newOp x 5 (.pass ⟨acc + o.1, o.1, k, K, afmt,
          (List.range 8).map fun i => rowWords x.g e a (8 * o.1 + i), (List.range 8).map fun i => x.lanes.getLsbD (8 * o.1 + i),
          tid, sat, mode, sparse, s.clk + c * (o.2 + 1) + passTail⟩)).2) s
        (s.setUnit x { s.unit x with next := s.clk + c * os.length }, .next)
  | _, _ => fail x.lanes

/-- The array of a matrix unit is free for an `MMA` (R13, R196). -/
def whenArray (body : State → X → State × Done) (s : State) (x : X) : State × Done :=
  if s.clk < (s.unit x).next then (s, .hold) else body s x

/-- `MMA` (R370). -/
def execMma (p : Pre) (e : Ext) (sat : Bool) (rnd : BitVec 3) (acc tid : BitVec 6) (a : VReg) (k : BitVec 3) (km1 : BitVec 7) :
    State → Host.Outcome State Fault Refusal :=
  run (.mma p e sat rnd acc tid a k km1) <| whenFree (.mma p e sat rnd acc tid a k km1)
    (whenArray fun s x => s.issueMma x false e sat (modeOf x.f rnd) acc.toNat tid.toNat a.toNat k.toNat (km1.toNat + 1))
/-- `MMASP` (R372). -/
def execMmasp (p : Pre) (e : Ext) (sat : Bool) (rnd : BitVec 3) (acc tid : BitVec 6) (a : VReg) (k : BitVec 3) (km1 : BitVec 7) :
    State → Host.Outcome State Fault Refusal :=
  run (.mmasp p e sat rnd acc tid a k km1) <| whenFree (.mmasp p e sat rnd acc tid a k km1)
    (whenArray fun s x => s.issueMma x true e sat (modeOf x.f rnd) acc.toNat tid.toNat a.toNat k.toNat (km1.toNat + 1))

/-! ### Block dot products (R102 to R109) -/

def XVal.isSig : XVal → Bool
  | .nan sig => sig
  | _ => false
def XVal.isZero : XVal → Bool
  | .fin x => x.m == 0
  | _ => false
def XVal.isInf : XVal → Bool
  | .inf _ => true
  | _ => false
/-- The exact sum of products with IEEE special values (R104). -/
def dotSum (l : List (XVal × XVal)) : XVal × Fl :=
  let nan := l.any fun p => p.1.isNan || p.2.isNan
  let sig := l.any fun p => p.1.isSig || p.2.isSig
  let bad := l.any fun p => (p.1.isInf && p.2.isZero) || (p.1.isZero && p.2.isInf)
  let infs := (l.filter fun p => (p.1.isInf || p.2.isInf) && !p.1.isNan && !p.2.isNan && !p.1.isZero && !p.2.isZero).map
    fun p => p.1.sign != p.2.sign
  let both := infs.contains true && infs.contains false
  let fl : Fl := if sig || bad || both then Fl.nv else 0
  if nan || bad || both then (.nan false, fl)
  else
    match infs with
    | n :: _ => (.inf n, fl)
    | [] => (.fin (l.foldl (fun t p => match p.1, p.2 with
        | .fin x, .fin y => Exact.add 1 t (Exact.mul x y)
        | _, _ => t) (Exact.zero false)), fl)

/-- One block of a floating dot product (R102): the accumulator element and the flags. `sc` are the two scale bytes of
a scaled format. -/
def blockF (mode : BitVec 3) (sc : Option (Byte × Byte)) (ps : List (XVal × XVal)) (acc : Word) : Word × Fl :=
  if ps.isEmpty then (acc, 0)
  else
    let (t, fl) := dotSum ps
    let nar := match sc with
      | some (a, b) => a == 0xFF || b == 0xFF
      | none => false
    let sh : Int := match sc with
      | some (a, b) => (a.toNat : Int) + b.toNat - 254
      | none => 0
    let add (t : XVal) : Word × Fl :=
      let r := addX (env32 false mode 0) (f32Of acc) t
      (BitVec.ofNat 32 r.1, r.2 ||| fl)
    if nar then add (.nan false)
    else
      match t with
      | .fin x => if x.m == 0 then (acc, fl) else add (.fin { x with e := x.e + sh })
      | t => add t

/-- A signed byte. -/
def s8 (n : Nat) : Int := (BitVec.ofNat 8 n).toInt
/-- One block of an integer dot product (R106). -/
def blockI (sat : Bool) (ps : List (Nat × Nat)) (acc : Word) : Word :=
  let t : Int := acc.toInt + ps.foldl (fun t p => t + s8 p.1 * s8 p.2) 0
  if sat then BitVec.ofInt 32 (max (-2 ^ 31) (min t (2 ^ 31 - 1))) else BitVec.ofInt 32 t

/-- The products of block `q` for a row and column: those with `k < K` that are not skipped (R103, R108, R110). -/
def Pass.products (p : Pass) (f : Fmt) (slot : Kiln) (ws : List Word) (n q : Nat) : List (Nat × Nat) :=
  if slot.zero.getLsbD q then []
  else (List.range 32).filterMap fun j =>
    let k := 32 * q + j
    if p.k ≤ k then none else (aElem p.sparse f ws k).map fun a => (a, (Table.get 0 slot.elems (128 * k + n)).toNat)

/-- The cache key of a row's scale of a block (R366). -/
def Pass.key (p : Pass) (i q : Nat) : Nat := 512 * p.tid + 4 * (8 * p.octet + i) + q

/-- One accumulator element through all blocks, in block order (R102). -/
def Pass.elem (p : Pass) (m : Mat) (f : Fmt) (slot : Kiln) (ws : List Word) (i n : Nat) (acc : Word) : Word × Fl :=
  (List.range ((p.k + 31) / 32)).foldl (fun (r : Word × Fl) q =>
    let ps := p.products f slot ws n q
    if f = .i8 then (blockI p.sat ps r.1, r.2)
    else
      let sc : Option (Byte × Byte) := if scaled f then some ((Table.find m.cache (p.key i q)).getD 0, slot.scales.byte (128 * q + n)) else none
      let r' := blockF p.mode sc (ps.map fun c => (readFmt f false c.1, readFmt slot.fmt false c.2)) r.1
      (r'.1, r.2 ||| r'.2)) (acc, 0)

/-- An accumulator row: its 128 elements and the flags (R102, R107); a row that no executing lane supplies is
unchanged. -/
def Pass.row (p : Pass) (m : Mat) (f : Fmt) (slot : Kiln) (i : Nat) (old : List Word) : List Word × Fl :=
  if p.live.getD i false then
    (old.zip (List.range 128)).foldl (fun (r : List Word × Fl) c =>
      let e := p.elem m f slot (p.rows.getD i []) i c.2 c.1
      (r.1 ++ [e.1], r.2 ||| e.2)) ([], 0)
  else (old, 0)

/-- The scale keys that a pass reads: of live rows and of blocks not marked zero. A block of a live row whose products `MMASP` skips
all has its scale read all the same (DESIGN CHOICE, log 114: R100 does not say). -/
def Pass.keys (p : Pass) (m : Mat) : List Nat :=
  match aFmt p.afmt, Table.find m.kiln p.slot with
  | some f, some slot =>
    if scaled f then
      ((List.range 8).filter fun i => p.live.getD i false).flatMap fun i =>
        ((List.range ((p.k + 31) / 32)).filter fun q => !slot.zero.getLsbD q).map fun q => p.key i q
    else []
  | _, _ => []

/-- The keys that a pass still misses (R100). -/
def Pass.missing (p : Pass) (m : Mat) : List Nat := (p.keys m).filter fun k => (Table.find m.cache k).isNone

/-! ### Steps -/

/-- Go on from an engine access in a step: none while it waits with nothing changed. -/
def Eng.out {α : Type} (e : Eng α) (bad : State → Fail → State) (ok : State → α → Option State) : Option State :=
  match e with
  | .wait s m => if m then some s else none
  | .bad s f => some (bad s f)
  | .ok s a => ok s a

/-- An abort that the matrix unit consumes kills the gang (R462); code 7 where an address no longer translates (R366). -/
def matKill (o : EngOp) (lanes : Mask) (s : State) (f : Fail) : State := s.abortOp o (abortRecord f.code f.va o.index) lanes

/-- Scale-cache entries of a partition (R100). -/
def cacheSize : Nat := 2048

/-- The fill of a scale-cache entry that a pass misses (R100, R366), by an unstamped read (R451); where 2,048 are held the oldest
gives way (DESIGN CHOICE, log 42: R100 does not say which). -/
def State.scaleFill (s : State) (i key : Nat) : Option State :=
  match Table.find s.ops i with
  | none => none
  | some o =>
    match o.k with
    | .pass p =>
      let m := s.matOf o
      if o.done || !(p.missing m).contains key then none
      else
        match Table.find m.binds p.tid with
        | none => none
        | some base =>
          (s.engRead o.core (o.ctx s) (o.who s 1 0) false (base + key % 512) 1).out (matKill o (laneBit (key / 4 % 128))) fun s l =>
            let m := s.matOf o
            let c := if cacheSize ≤ m.cache.length then m.cache.drop 1 else m.cache
            some (s.setMatOf o { m with cache := c ++ [(key, l.headD 0)] })
    | _ => none

/-- `SCALE_CACHE_FILL` (R100): nothing while the fill must wait. -/
def execScaleCacheFill (op key : Nat) : State → Host.Outcome State Fault Refusal := fun s => .next ((s.scaleFill op key).getD s)

/-- Raise flags in lanes of the group that issued an operation. -/
def State.raiseFlags (s : State) (o : EngOp) (l : List (Nat × Fl)) : State :=
  match s.issuer? o with
  | none => s
  | some g => s.setGroup o.g (l.foldl (fun (g : Group) c => g.account c.1 ⟨c.2, g.seed c.1⟩) g)

/-- Stores of a matrix unit are read (R456): the answer says that one of them is uncorrectable. -/
def State.readUnit (s : State) (ctx : Nat) (p : Store → Bool) : State × Bool :=
  (s.flaws.filter fun f => p f.1).foldl (fun (acc : State × Bool) f =>
    let (s, bad) := acc.1.readStore f.1 (some ctx)
    (s, acc.2 || bad)) (s, false)
/-- The matrix unit of an operation, as its stores are numbered. -/
def EngOp.unit (o : EngOp) : Nat := 4 * o.core + o.part
/-- An operation reads an uncorrectable store (R456): the gang of its group is killed. An accumulator or a kiln slot has no address:
the record holds 0 (log 112). -/
def storeKill (o : EngOp) (lanes : Mask) (s : State) : State := matKill o lanes s ⟨8, 3, 0⟩

/-- The end of an octet pass (R102, R107): none before its time, or while it misses a scale. -/
def State.passFinish (s : State) (i : Nat) : Option State :=
  match Table.find s.ops i with
  | none => none
  | some o =>
    match o.k with
    | .pass p =>
      let m := s.matOf o
      if o.done || s.clk < p.ready || !(p.missing m).isEmpty then none
      else
        match aFmt p.afmt, Table.find m.kiln p.slot with
        | some f, some slot =>
          let u := OpKind.use (.pass p)
          let (s, bad) := s.readUnit (o.ctx s) fun c => Store.ofAcc o.unit p.acc c || Store.ofSlots o.unit u.rd c
          if bad then some (storeKill o (maskOf (((List.range 8).filter fun r => p.live.getD r false).map fun r => 8 * p.octet + r)) s)
          else
          let old := m.tile p.acc
          let rows := (List.range 8).map fun r => p.row m f slot r ((old.drop (128 * r)).take 128)
          let s := s.setMatOf o (m.setTile p.acc (rows.flatMap (·.1)))
          some ((s.raiseFlags o ((List.range 8).map fun r => (8 * p.octet + r, (rows.getD r ([], 0)).2))).completeOp i)
        | _, _ => some (s.completeOp i)
    | _ => none

/-- `OCTET_PASS_COMPLETE` (R102): nothing while the pass must wait. -/
def execOctetPassComplete (op : Nat) : State → Host.Outcome State Fault Refusal := fun s => .next ((s.passFinish op).getD s)

/-- A line as `KSET` reads it (R367, R368): its bytes, whether it carries its zero bit, and the seal entry it counts in. -/
def State.ksetLine (s : State) (o : EngOp) (k n : Nat) : Eng (List Byte × Bool × Option Nat) :=
  match Table.find s.wgs k with
  | none => .wait s false
  | some w =>
    match w.line n, w.window n with
    | .pending _, _ => .wait s false
    | .unfilled, some (_, va) =>
      (s.engTranslate o.core (o.ctx s) va false).bind fun s p =>
        if s.lineBusy (p.1 / 128) then s.engBusy (p.1 / 128)
        else
        let r := s.homeRead (p.1 / 128) (BitVec.allOnes 32) p.2 (o.who s 1 0) (fun _ => 0xF) (some (o.ctx s))
        match r.abort with
        | some (code, pa) => .bad (r.s.noteAbort pa code (some (o.ctx s))) ⟨8, code, va + pa % 128⟩
        | none => .ok r.s ((List.range 128).map fun i => r.s.homeByte (p.1 + i), false, (r.s.entry (p.1 / 128)).sealed)
    | _, _ =>
      let (s, bad) := s.spadCheck k (o.ctx s) ((List.range 32).map fun i => 32 * n + i)
      if bad != [] then .bad s (.spad bad) else .ok s (w.bytes.bytes (128 * n) 128, (Table.find w.zero n).isSome, none)

/-- The contents of a slot from the lines read (R367). -/
def kilnOf (f : Fmt) (lines : List (List Byte × Bool × Option Nat)) : Kiln :=
  let e := if isHalf f then 2 else 1
  let n := 128 * e
  let elems := (lines.take n).flatMap (·.1)
  let words := ((List.range 16384).zip (if isHalf f then (List.range 16384).map fun j => leNat ((elems.drop (2 * j)).take 2) else elems.map (·.toNat))).map
    fun c => (c.1, BitVec.ofNat 16 c.2)
  let zero := (List.range 4).foldl (fun (z : BitVec 4) q =>
    if ((lines.drop (32 * e * q)).take (32 * e)).all fun c => c.2.1 then z ||| BitVec.twoPow 4 q else z) 0
  ⟨f, words.filter fun c => c.2 != 0, Memory.setBytes [] 0 ((lines.drop n).flatMap (·.1)), zero, (lines.filterMap (·.2.2)).dedup⟩

/-- The end of a `KSET` (R156, R367, R368): none while a line it reads must wait. -/
def State.ksetFinish (s : State) (i : Nat) : Option State :=
  match Table.find s.ops i with
  | none => none
  | some o =>
    match o.k, o.wg with
    | .kset n f a b, some k =>
      if o.done then none
      else
        let lines := rowLines a 0 (ksetBytes f) 1 ++ (if scaled f then rowLines b 0 512 1 else [])
        (engEach (fun s l => s.ksetLine o k l) s lines).out (matKill o 0) fun s ls =>
          let slot := kilnOf f ls
          let s := (s.emptySlots (o.core, o.part) (slotKeys f n)).mendAll (Store.ofSlots o.unit (slotKeys f n))
          let m := s.matOf o
          some (((s.addCopies slot.seals).setMatOf o { m with kiln := Table.insert m.kiln n slot }).completeOp i)
    | _, _ => none

/-- `KSET_COMPLETE` (R367): nothing while the fill must wait. -/
def execKsetComplete (op : Nat) : State → Host.Outcome State Fault Refusal := fun s => .next ((s.ksetFinish op).getD s)

/-- The element that `MDRAIN` writes (R373). -/
def drainElem (t : Tile) (seed : Word) (acc : Word) (old : Nat) : Nat × Fl :=
  match t.fmt with
  | .i32 => (if t.add then (old + acc.toNat) % 2 ^ 32 else acc.toNat, 0)
  | .f32 => if t.add then addX (env32 false t.mode seed) (f32Of (BitVec.ofNat 32 old)) (f32Of acc) else (acc.toNat, 0)
  | .f16 => if t.add then addX ⟨BinFmt.f16, false, t.mode, seed⟩ (BinFmt.f16.read false old) (f32Of acc)
      else toFloat .f16 true false t.mode seed (f32Of acc)
  | .bf16 => if t.add then addX ⟨BinFmt.bf16, false, t.mode, seed⟩ (BinFmt.bf16.read false old) (f32Of acc)
      else toFloat .bf16 true false t.mode seed (f32Of acc)

/-- The bytes of some elements of a drained tile and their flags, from the state `g` of the generator on (R98, R373). -/
def drainFrom (t : Tile) : Word → List Word → List Byte → List Byte × Fl
  | _, [], _ => ([], 0)
  | g, a :: r, old =>
    let e := tileBytes t.fmt
    let g := if t.mode = 7 then srNext g else g
    let v := drainElem t g a (leNat (old.take e))
    let q := drainFrom t g r (old.drop e)
    (leBytes e v.1 ++ q.1, v.2 ||| q.2)

/-- The bytes of a drained tile, row-major, and its flags (R373). -/
def drainTile (t : Tile) (acc : List Word) (old : List Byte) : List Byte × Fl := drainFrom t t.seed acc old

/-- The last steps of a drain (R374): the flags, the publish, the completion with status 7 where the slot is no longer
Held (R435). -/
def State.drainEnd (s : State) (i : Nat) (o : EngOp) (t : Tile) (fl : Fl) : State :=
  let s := s.raiseFlags o [(t.lane, fl)]
  match t.ring with
  | none => s.completeOp i
  | some (r, k) =>
    let q := s.enginePublish o.wg r k
    if q.2 then q.1.completeOp i else (s.recordError o kEngine 7 0).completeWith i 7 0

/-- The end of an `MDRAIN` (R373, R374): none while its lines or pages must wait. -/
def State.drainFinish (s : State) (i : Nat) : Option State :=
  match Table.find s.ops i with
  | none => none
  | some o =>
    match o.k with
    | .drain t =>
      let n := 1024 * tileBytes t.fmt
      let a := o.who s 1 0
      let ctx := o.ctx s
      let kill := matKill o (laneBit t.lane)
      let acc := (s.matOf o).tile t.acc
      if o.done then none
      else
        let (s, flawed) := s.readUnit ctx (Store.ofAcc o.unit t.acc)
        if flawed then some (storeKill o (laneBit t.lane) s)
        else
        match t.tgt with
        | none =>
          (if t.add then s.engRead o.core ctx a true t.addr n else .ok s []).out kill fun s old =>
            let d := drainTile t acc old
            (s.engWrite o.core ctx a (wordsFrom t.addr (d.1.map some))).out kill fun s _ => some (s.drainEnd i o t d.2)
        | some k =>
          let lines := rowLines t.addr 0 n 1
          let w := Table.find s.wgs k
          if !((w.map fun y => lines.all (y.first i)).getD false) then none
          else
            (if t.add then s.engTodo o.core ctx a k lines else .ok s ()).out kill fun s _ =>
              let ws := (List.range (n / 4)).map fun i => t.addr / 4 + i
              let (s, bad) := if t.add then s.spadCheck k ctx ws else (s.spadMend k ws, [])
              if bad != [] then some (kill s (.spad bad))
              else
              let old := ((Table.find s.wgs k).map fun (y : Workgroup) => y.bytes.bytes t.addr n).getD []
              let d := drainTile t acc old
              let s := s.modWg k fun y => y.land t.addr (d.1.map some)
              let last := lines.filter fun l => ((Table.find s.wgs k).map fun (y : Workgroup) => y.line l == .pending [i]).getD false
              (s.engTodo o.core ctx a k last).out kill fun s _ =>
                some ((s.modWg k fun y => lines.foldl (fun (y : Workgroup) l => y.release i l) y).drainEnd i o t d.2)
    | _ => none

/-- `MDRAIN_COMPLETE` (R374): nothing while the drain must wait. -/
def execMdrainComplete (op : Nat) : State → Host.Outcome State Fault Refusal := fun s => .next ((s.drainFinish op).getD s)

/-- The accumulator element that `MLOAD` sets (R375). -/
def loadElem (f : MFmt) (v : Nat) : Word :=
  match f with
  | .f32 | .i32 => BitVec.ofNat 32 v
  | .f16 => BitVec.ofNat 32 (toFloat .f32 true false 1 0 (BinFmt.f16.read false v)).1
  | .bf16 => BitVec.ofNat 32 (toFloat .f32 true false 1 0 (BinFmt.bf16.read false v)).1

/-- The end of an `MLOAD` (R375): none while its source must wait. -/
def State.loadFinish (s : State) (i : Nat) : Option State :=
  match Table.find s.ops i with
  | none => none
  | some o =>
    match o.k with
    | .load t =>
      let e := tileBytes t.fmt
      let a := o.who s 1 0
      let ctx := o.ctx s
      if o.done then none
      else
        (match t.tgt with
          | none => s.engRead o.core ctx a true t.addr (1024 * e)
          | some k => (s.engLines o.core ctx a k (rowLines t.addr 0 (1024 * e) 1)).bind fun s _ =>
              let (s, bad) := s.spadCheck k ctx ((List.range (256 * e)).map fun i => t.addr / 4 + i)
              if bad != [] then .bad s (.spad bad)
              else .ok s (((Table.find s.wgs k).map fun (y : Workgroup) => y.bytes.bytes t.addr (1024 * e)).getD [])).out (matKill o (laneBit t.lane)) fun s l =>
          some (((s.mendAll (Store.ofAcc o.unit t.acc)).setMatOf o ((s.matOf o).setTile t.acc ((List.range 1024).map fun j => loadElem t.fmt (leNat ((l.drop (e * j)).take e))))).completeOp i)
    | _ => none

/-- `MLOAD_COMPLETE` (R375): nothing while the load must wait. -/
def execMloadComplete (op : Nat) : State → Host.Outcome State Fault Refusal := fun s => .next ((s.loadFinish op).getD s)

end Sys2Proof.Machine
end

