-- ==== Sys2Proof/Machine/Walker.lean ====
section
/-! DEFINITION. Class 14: the iteration walker and spawn (R376 to R382). -/

namespace Sys2Proof.Machine

/-! ### The descriptor (R376) -/

/-- The fields of a descriptor that are reserved or out of range. -/
def walkBad (b : Nat) : Bool :=
  bits b 249 7 != 0 || bits b 192 2 != 0 || bits b 185 7 != 0 || bits b 117 11 != 0 || bits b 112 5 < 2 || 20 < bits b 112 5
    || bits b 104 8 < 1 || 32 < bits b 104 8 || bits b 96 8 < 1 || bits b 88 8 != 0 || bits b 64 24 < 1 || bits b 57 7 != 0
    || bits b 0 2 != 0

/-- The walk that a descriptor starts. -/
def walkOf (b : Nat) : Walk :=
  ⟨bits b 192 57, bits b 128 57, bits b 112 5, bits b 104 8, bits b 96 8, bits b 64 24, bits b 0 57, [], [], [], []⟩

/-- `ITSET` (R376). -/
def execItset (p : Pre) (a : SReg) : State → Host.Outcome State Fault Refusal :=
  run (.itset p a) fun s x =>
    let b := x.g.octet a.toNat
    if x.g.walk.isSome || walkBad b then (s, .event (Event.plain kWalker 0 x.f.mask))
    else (s.modGroup x.k fun g => { g with walk := some (walkOf b) }, .next)

/-! ### Residence (R377) -/

/-- Whether the word at a virtual address is valid in a core's L1 or in its home slice. -/
def State.residentAt (s : State) (core ctx : Nat) (va : Int) : Bool :=
  if va < 0 || 2 ^ 57 ≤ va then false
  else
    match s.translate core ctx (va.toNat / 4 * 4) with
    | .page pa _ _ _ => s.inL1 core pa || s.heldWord pa
    | _ => false

/-- `RESQ` (R377). -/
def execResq (p : Pre) (d : PReg) (m : MemOp) : State → Host.Outcome State Fault Refusal :=
  run (.resq p d m) fun s x =>
    (s.modGroup x.k fun g => g.pwrite d.toNat x.lanes (maskOf ((lanesOf x.lanes).filter fun l =>
      s.residentAt x.core (s.ctxOf x.g.launch) (memAddr m x.g false 4 l))), .next)

/-! ### One scan (R378) -/

/-- The window of a walk: the first 256 points not handed out. -/
def Walk.window (w : Walk) : List Nat := ((List.range w.n).filter fun i => !w.handed.contains i).take 256
/-- The words of a point's operand. -/
def Walk.operand (w : Walk) (v : Word) : List Nat := (List.range w.olen).map fun j => w.obase + v.toNat * 2 ^ w.sh + 4 * j
/-- The walker as an agent of a group's instruction (R441, R448). -/
def X.walker (x : X) (s : State) : Who :=
  ⟨engineAgent (s.logical x.core) (slotOf x.k) 2, x.g.launch, x.g.gid * 256 + 255, s.now, 0, false, [], []⟩

/-- The points of a scan that are forced, those that are resident, and the others. -/
def State.sights (s : State) (x : X) (w : Walk) (vals : Table Word) : List Nat × List Nat × List Nat :=
  let win := w.window
  let forced := win.filter fun i => w.bound ≤ Table.get 0 w.passes i
  let there := win.filter fun i => !(w.bound ≤ Table.get 0 w.passes i) &&
    (w.operand (Table.get 0 vals i)).all fun a => s.residentAt x.core (s.ctxOf x.g.launch) (a : Int)
  (forced, there, win.filter fun i => !forced.contains i && !there.contains i)

/-- Prefetch the operands of points on their first pass, while the core can take the requests (R10): the last part says whether it
could take all. -/
def State.scanPrefetch (s : State) (x : X) (w : Walk) (vals : Table Word) (points : List Nat) : State × Walk × Bool :=
  (points.filter fun i => Table.get 0 w.passes i = 0 && !w.asked.contains i).foldl (fun (acc : State × Walk × Bool) i =>
    let (s, w, room) := acc
    let ws := w.operand (Table.get 0 vals i)
    if !room || requestMax < s.requests x.core + ws.length then (s, w, false)
    else (ws.foldl (fun (s : State) (a : Nat) => s.prefetch x.core (s.ctxOf x.g.launch) (a : Int) 0) s, { w with asked := w.asked ++ [i] }, true)) (s, w, true)

/-- The walk after a scan for `n` lanes, and the points that it hands out, forced ones first. -/
def Walk.scanned (w : Walk) (n : Nat) (sights : List Nat × List Nat × List Nat) : Walk × List Nat :=
  let bump (w : Walk) (l : List Nat) : Walk := { w with passes := l.foldl (fun t i => Table.put 0 t i (Table.get 0 t i + 1)) w.passes }
  let e := sights.1 ++ sights.2.1
  let w := bump (bump w sights.2.2) (e.drop n)
  ({ w with handed := w.handed ++ e.take n, asked := [] }, e.take n)

/-- The virtual address of a word of a line that accesses name. -/
def lineVa (rs : List Res) (pa : Nat) : Nat := ((rs.find? fun r => r.pa / 128 == pa / 128).map fun r => r.va / 128 * 128 + pa % 128).getD 0

/-- `ITNEXT` (R378): the walker reads each line of its list once; a scan whose prefetches the core cannot all take goes on as it
can (R10). -/
def execItnext (p : Pre) (d : VReg) : State → Host.Outcome State Fault Refusal :=
  run (.itnext p d) fun s x =>
    match x.g.walk with
    | none => (s, .event (Event.plain kWalker 0 x.lanes))
    | some w =>
      let win := w.window
      let asks : List Ask := win.map fun i => ⟨x.low, i, w.list + 4 * i, 4, false⟩
      match asks.find? fun a => (2 ^ 57 : Int) ≤ a.addr with
      | some a => (s, .event ⟨kAddress, 0, BitVec.ofInt 64 a.addr, x.lanes, 0, none⟩)
      | none =>
        match s.translateAll x false asks with
        | .stop s (.event e) => (s, .event { e with lanes := x.lanes })
        | .stop s e => (s, e)
        | .ok rs =>
          if rs.any fun r => s.lineBusy (r.pa / 128) then (s.claim (rs.map (·.pa)), .hold)
          else
            let a := x.walker s
            let q := s.prepAll (fun s l c m => s.homeRead l m c a (fun _ => 0xF) (some (s.ctxOf x.g.launch))) (linesOf rs)
            match q.abort with
            | some (code, pa) => q.s.abortThread x false ((lanesOf x.lanes).map fun l => ⟨l, code, pa, lineVa rs pa⟩)
            | none =>
              let vals : Table Word := rs.map fun r => (r.pos, q.s.homeWord r.pa)
              let sights := q.s.sights x w vals
              let (s, w, room) := q.s.scanPrefetch x w vals sights.2.2
              if !room then (s.modGroup x.k fun g => { g with walk := some w }, .hold)
              else
                let (w, out) := w.scanned (lanesOf x.lanes).length sights
                let none_ : Word := if w.handed.length = w.n then 0xFFFFFFFF else 0xFFFFFFFE
                (s.modGroup x.k fun g => ((lanesOf x.lanes).zip (List.range (lanesOf x.lanes).length)).foldl
                  (fun (g : Group) l => g.vset d.toNat l.1 (((out[l.2]?).map fun i => BitVec.ofNat 32 i).getD none_)) { g with walk := some w }, .next)

/-! ### Marking points done (R379, R380) -/

/-- `ITDONE` (R379): the map writes are issued as operations of the walker. -/
def execItdone (p : Pre) (a : VReg) : State → Host.Outcome State Fault Refusal :=
  run (.itdone p a) fun s x =>
    match x.g.walk with
    | none => (s, .event (Event.plain kWalker 0 x.lanes))
    | some w =>
      let named := ((lanesOf x.lanes).map fun l => (l, (x.g.vget a.toNat l).toNat)).filter fun q => q.2 != 0xFFFFFFFE && q.2 != 0xFFFFFFFF
      let bad := named.filter fun q => !w.handed.contains q.2 || w.done.contains q.2
      let points := (named.map (·.2)).dedup
      if !bad.isEmpty then (s, .event (Event.plain kWalker 0 (maskOf (bad.map (·.1)))))
      else if w.map = 0 then (s.modGroup x.k fun g => { g with walk := some { w with done := w.done ++ points } }, .next)
      else
        let asks : List Ask := named.map fun q => ⟨q.1, q.2, w.map + 4 * (q.2 / 32), 4, false⟩
        match s.resolve x false (.red .or) false asks with
        | .stop s e => (s, e)
        | .ok rs =>
          if 4096 < s.count x.g 2 + points.length then (s, .hold)
          else
            let s := points.foldl (fun s i => match rs.find? fun r => r.pos == i with
              | some r => (s.newOp x 2 (.mapbit r.pa (i % 32) r.va)).2
              | none => s) s
            (s.modGroup x.k fun g => { g with walk := some { w with done := w.done ++ points } }, .next)

/-- `ITEND` (R380): it waits while map writes are outstanding. -/
def execItend (p : Pre) : State → Host.Outcome State Fault Refusal :=
  run (.itend p) fun s x =>
    if x.g.walk.isNone then (s, .event (Event.plain kWalker 0 x.f.mask))
    else if s.count x.g 2 = 0 then (s.modGroup x.k fun g => { g with walk := none }, .next)
    else (s, .wait .itend)

/-- The fragments of a group in `ITEND` go on, and the walk ends, once no map write is outstanding (R380). -/
def State.endWalk (s : State) (k : Nat) : State :=
  match s.group? k with
  | none => s
  | some g =>
    if s.count g 2 != 0 then s
    else
      match g.frags.filter fun c => c.2.wait == .itend && g.eligible c.2 with
      | [] => s
      | l => l.foldl (fun s c => s.move k c.1 (c.2.pc + 12) .none) (s.modGroup k fun g => { g with walk := none })

/-- A visited-map write is performed as `RED.or` at device scope (R331, R379). A line that has been sealed since its `ITDONE` is
not changed (R155); the operation ends, with the fault of such a write in the group's record (DESIGN CHOICE, log 49: R379 names no
late case). -/
def State.mapWrite (s : State) (i : Nat) : Option State :=
  match Table.find s.ops i with
  | none => none
  | some o =>
    match o.k with
    | .mapbit pa b va =>
      if o.done then none
      else if s.lineBusy (pa / 128) then (if (s.entry (pa / 128)).devs.all (s.entry (pa / 128)).asked.contains then none else some (s.askPeers (pa / 128)))
      else if (s.entry (pa / 128)).sealed.isSome then some (((s.recordError o kSealed 0 va).completeOp i).endWalk o.g)
      else
        let kill (s : State) (code at_ : Nat) : State := (s.noteAbort at_ code (some (o.ctx s))).abortOp o (abortRecord code va o.index) 0
        let s := s.readStores none (some (o.ctx s)) pa
        let r : Merged := if (s.entry (pa / 128)).st == .P then s.mergeLine (pa / 128) else ⟨s, [], none⟩
        match r.abort.or ((r.s.badAt homeReader pa).map fun code => (code, pa)) with
        | some (code, at_) => some (kill r.s code at_)
        | none =>
            let s := (r.s.gather (pa / 128)).s.noteRead pa
            let v := s.homeWord pa ||| wordBit b
            let st := (s.stampsOf pa).write (o.who s 2 0) (.atomic .dev o.launch (o.gid * 256 + 255)) true true 0xF
            some (((((s.putWord pa v).setStamps pa st).wrote pa v st.rel).completeOp i).endWalk o.g)
    | _ => none

/-- `WALKER_MAP_WRITE_DONE` (R379): nothing while the line's home is busy. -/
def execWalkerMapWriteDone (op : Nat) : State → Host.Outcome State Fault Refusal := fun s => .next ((s.mapWrite op).getD s)

/-! ### Spawn (R68, R381, R382) -/

/-- The capacity of an item queue (R68). -/
def queueItems : Nat := 1024

/-- Append one item for each lane of a `SPAWN` (R381). -/
def State.spawnItems (s : State) (k : Nat) (v target : Nat) (lanes : Mask) : State :=
  match s.group? k with
  | none => s
  | some g => s.modCore (coreOf k) fun c => { c with start := c.start.filter (· != ⟨g.launch, 12 * target⟩), items := c.items ++ (lanesOf lanes).map fun l =>
      ⟨g.launch, g.gang, 12 * target, (List.range 8).map fun j => g.vget (v + j) l, s.clk, s.stampNow⟩ }

/-- Whether a core's item queue has room (R68). -/
def State.hasRoom (s : State) (core n : Nat) : Bool := (s.core core).items.length + n ≤ queueItems

/-- `SPAWN` (R381): a release that waits for reductions on their way (R333). -/
def execSpawn (p : Pre) (a : VReg) (b : SI) : State → Host.Outcome State Fault Refusal :=
  run (.spawn p a b) fun s x =>
    let target := (SIval x.g b).toNat
    if ((Table.find s.launches x.g.launch).map fun l => l.lrec.spawn).getD 0 = 0 then (s, .event (Event.plain kSpawn 0 x.lanes))
    else if s.owedTo x.g .dev then (s, .hold)
    else if s.hasRoom x.core (lanesOf x.lanes).length then (s.spawnItems x.k a.toNat target x.lanes, .next)
    else (s, .wait (.room a target x.lanes))

/-- `SPAWN_ROOM` (R381): the waiting `SPAWN` appends its items and completes; nothing while there is no room. -/
def execSpawnRoom (g en : Nat) : State → Host.Outcome State Fault Refusal := fun s =>
  match (s.group? g).bind fun x => x.frag en with
  | some f =>
    match f.wait with
    | .room v target lanes =>
      if ((s.group? g).map fun x => x.eligible f).getD false && s.hasRoom (coreOf g) (lanesOf lanes).length then .next ((s.spawnItems g v.toNat target lanes).move g en (f.pc + 12) .none)
      else .next s
    | _ => .next s
  | none => .next s

/-- Whether a core's queue holds no item of a launch (R382). -/
def State.queueEmpty (s : State) (core launch : Nat) : Bool := !((s.core core).items.any fun i => i.launch == launch)

/-- `SPQ` (R69, R382): the fragment waits until the launch's items are gone; meanwhile its partial groups may start. -/
def execSpq (p : Pre) : State → Host.Outcome State Fault Refusal :=
  run (.spq p) fun s x =>
    if s.queueEmpty x.core x.g.launch then (s, .next)
    else (s, .wait .spq)

/-- `SPQ_QUEUE_EMPTY` (R382): nothing while an item of the launch is queued. -/
def execSpqQueueEmpty (g en : Nat) : State → Host.Outcome State Fault Refusal := fun s =>
  match (s.group? g).bind fun x => (x.frag en).map fun f => (x, f) with
  | some (x, f) =>
    if f.wait == .spq && x.eligible f && s.queueEmpty (coreOf g) x.launch then .next (s.move g en (f.pc + 12) .none) else .next s
  | none => .next s

/-- `PACKING_TIMEOUT` (R69): 2,048 clk after its last item a partial group may start; nothing before. -/
def execPackingTimeout (core launch pc : Nat) : State → Host.Outcome State Fault Refusal := fun s =>
  let c := s.core core
  let last := (c.items.filter fun i => i.launch == launch && i.pc == pc).foldl (fun m i => max m (i.clk + 1)) 0
  if last = 0 ∨ s.clk + 1 < last + 2048 ∨ c.start.contains ⟨launch, pc⟩ then .next s
  else .next (s.setCore core { c with start := c.start ++ [⟨launch, pc⟩] })

end Sys2Proof.Machine
end

