-- ==== Sys2Proof/Machine/System.lean ====
section
/-! DEFINITION. Class 15: sealed images (R212 to R215, R276 to R281), page-table writes, pools and the fault record
(R282 to R284). -/

namespace Sys2Proof.Machine

/-! ### Images (R213) -/

/-- A descriptor of `SEALSAVE` and `SEALLOAD` (R276). -/
structure Desc where
  kind  : Nat
  first : Nat
  count : Nat
  deriving DecidableEq, Repr

/-- The descriptor in four scalars; none where a value is reserved or lies outside the group's registers or allocation
(R276, R285). -/
def State.descOf (s : State) (g : Group) (b : Nat) : Option Desc :=
  let w (i : Nat) : Nat := (g.sget (b + i)).toNat
  let d : Desc := ⟨w 0 % 4, w 1, w 2⟩
  let size := ((g.wg.bind (Table.find s.wgs)).map fun (y : Workgroup) => y.size).getD 0
  let ok := w 3 == 0 && w 0 < 4 &&
    match d.kind with
    | 0 => 1 ≤ d.count && d.count ≤ 2048 && d.first + d.count ≤ g.regs
    | 1 => g.wg.isSome && d.first % 128 == 0 && d.count % 128 == 0 && d.first + d.count ≤ size
    | 2 => d.first == 0 && d.count == 0
    | _ => false
  if ok then some d else none

/-- The payload length (R277). -/
def Desc.length (d : Desc) : Nat :=
  match d.kind with
  | 0 => 512 * d.count
  | 1 => d.count
  | _ => 1280

/-- The scratchpad lines that a descriptor names. -/
def Desc.lines (d : Desc) : List Nat := if d.kind = 1 then (List.range (d.count / 128)).map fun i => d.first / 128 + i else []

/-- The payload of an image (R277): predicates beyond `.preds` as 0 (R278). -/
def State.payload (s : State) (g : Group) (d : Desc) : List Byte :=
  match d.kind with
  | 0 => (List.range d.count).flatMap fun i => (List.range 128).flatMap fun l => leBytes 4 (g.vget (d.first + i) l).toNat
  | 1 => ((g.wg.bind (Table.find s.wgs)).map fun (y : Workgroup) => y.bytes.bytes d.first d.count).getD []
  | _ => ((List.range 128).flatMap fun n => leBytes 4 (g.sget n).toNat) ++
      (List.range 48).flatMap fun n => leBytes 16 (if n < g.npreds then (g.pmask n).toNat else 0)

/-- Write a payload back (R279): every lane, the declared predicates, scratchpad lines that become Full. -/
def State.restore (s : State) (k : Nat) (g : Group) (d : Desc) (b : List Byte) : State :=
  let word (i : Nat) : Word := BitVec.ofNat 32 (leNat ((b.drop (4 * i)).take 4))
  match d.kind with
  | 0 => s.setGroup k ((List.range d.count).foldl (fun (g : Group) i =>
      g.vwrite (d.first + i) allLanes fun l => word (128 * i + l)) g)
  | 1 =>
    match g.wg with
    | some w => s.modWg w fun y => d.lines.foldl (fun (y : Workgroup) n => y.setLine n .full) (y.write d.first b)
    | none => s
  | _ =>
    let g := (List.range 128).foldl (fun (g : Group) n => g.sset n (word n)) g
    s.setGroup k ((List.range g.npreds).foldl (fun (g : Group) n =>
      g.pwrite n allLanes (BitVec.ofNat 128 (leNat ((b.drop (512 + 16 * n)).take 16)))) g)

/-- The round keys of a context key, its byte `i` in bits 8i to 8i + 7 (log 22). -/
def keyOf (k : BitVec 256) : List (List Nat) := roundKeys ((List.range 32).map fun i => k.toNat / 2 ^ (8 * i) % 256)
/-- The nonce, its least significant byte first (R213, log 22). -/
def nonceOf (region counter : Nat) : List Nat := ((leBytes 8 counter) ++ leBytes 4 region).map (·.toNat)
/-- The first 48 bytes of an image (R213). -/
def imageHead (ctx region counter len : Nat) : List Byte :=
  leBytes 4 ctx ++ leBytes 4 region ++ leBytes 8 counter ++ leBytes 8 len ++ List.replicate 24 0

/-- An image (R213). -/
def sealImage (key : BitVec 256) (ctx region counter : Nat) (p : List Byte) : List Byte :=
  let ks := keyOf key
  let iv := nonceOf region counter
  let head := imageHead ctx region counter p.length
  let ct := gcmCrypt ks iv (p.map (·.toNat))
  let bytes (l : List Nat) : List Byte := l.map fun n => BitVec.ofNat 8 n
  head ++ bytes (gcmTag ks iv (head.map (·.toNat)) ct) ++ bytes ct

/-- The payload of an image that passes every check of R214 or R215. -/
def openImage (key : BitVec 256) (ctx region counter len : Nat) (b : List Byte) : Option (List Byte) :=
  let ks := keyOf key
  let iv := nonceOf region counter
  let head := b.take 48
  let ct := (b.drop 64).map (·.toNat)
  if head.take 24 = (imageHead ctx region counter len).take 24 ∧ gcmTag ks iv (head.map (·.toNat)) ct = ((b.drop 48).take 16).map (·.toNat)
  then some ((gcmCrypt ks iv ct).map fun n => BitVec.ofNat 8 n) else none

/-- The accesses to the words of an image. -/
def imageAsks (x : X) (va n : Nat) : List Ask := (List.range (n / 4)).map fun i => ⟨x.low, i, va + 4 * i, 4, false⟩

/-- The checks of a sealing instruction that name no memory (R276, R285): the descriptor and the context, or the event. -/
def State.sealCheck (s : State) (x : X) (va b region : Nat) : Event ⊕ (Desc × Ctx) :=
  let fail (k : Nat) : Event ⊕ (Desc × Ctx) := .inl (Event.plain k 0 x.f.mask)
  match s.descOf x.g b, Table.find s.ctxs (s.ctxOf x.g.launch) with
  | some d, some c =>
    if va % 128 ≠ 0 then fail kOperand
    else if !c.prot then fail kNoSeal
    else if Table.get 0 c.latest region = 2 ^ 64 - 1 then fail kOperand
    else .inr (d, c)
  | _, _ => fail kOperand

/-- The first Pending line of some. -/
def State.pendingLine (s : State) (g : Group) (l : List Nat) : Option Wait :=
  g.wg.bind fun k => (Table.find s.wgs k).bind fun (w : Workgroup) => l.findSome? fun n => match w.line n with
    | .pending _ => some (.line k n)
    | _ => none

/-- The registers that a descriptor names. -/
def Desc.regs (d : Desc) : List Nat := if d.kind = 0 then (List.range d.count).map (d.first + ·) else []
/-- Whether a copy is still to land in a register that a descriptor names: the instruction is not ready (R195, R352). -/
def State.descHeld (s : State) (x : X) (d : Desc) : Bool := d.regs.any (s.heldRegs x.k x.g.gid).contains
/-- The stores that a save reads (R456): the answer is the lanes of what is uncorrectable, and the scratchpad address of its record: a
register has none, and the record holds 0 (log 112). -/
def State.readDesc (s : State) (x : X) (d : Desc) : State × Mask × Nat :=
  if s.flaws.isEmpty then (s, 0, 0)
  else
    let q := s.readRegs x.k ⟨15, false, d.regs, [], 1, []⟩ (s.ctxOf x.g.launch) allLanes
    match x.g.wg with
    | some w =>
      let r := q.1.spadCheck w (s.ctxOf x.g.launch) (d.lines.flatMap fun n => (List.range 32).map fun i => 32 * n + i)
      if r.2 = [] then (r.1, q.2, 0) else (r.1, x.f.mask, 4 * r.2.headD 0)
    | none => (q.1, q.2, 0)
/-- The stores that a load writes whole hold no error any longer. -/
def State.mendDesc (s : State) (x : X) (d : Desc) : State :=
  s.mendAll fun f => match f with
    | .vreg k r _ => k == x.k && d.regs.contains r
    | .spad w q => x.g.wg == some w && d.lines.contains (q / 32)
    | _ => false

/-- A memory operand of the own allocation. -/
def ownSpad : MemOp := ⟨0, false, 0, false, 0, 0, false, 0, 0⟩

/-- `SEALSAVE` (R213, R276 to R278). -/
def execSealsave (p : Pre) (g : BitVec 8) (a b : SReg) : State → Host.Outcome State Fault Refusal :=
  run (.sealsave p g a b) fun s x =>
    let va := (x.g.sget2 a.toNat).toNat
    let ctx := s.ctxOf x.g.launch
    match s.sealCheck x va b.toNat g.toNat with
    | .inl e => (s, .event e)
    | .inr (d, c) =>
      if s.descHeld x d then (s, .hold)
      else
      match s.resolve x true .write false (imageAsks x va (64 + d.length)) with
      | .stop s e => (s, e)
      | .ok rs =>
        match s.spadResolve x true ownSpad (d.lines.map fun (n : Nat) => ⟨x.low, 128 * n, 4⟩), d.lines.isEmpty with
        | .stop s e, false => (s, e)
        | _, _ =>
          let (s, bad, at_) := s.readDesc x d
          if bad ≠ 0 then (s.abortKill x.k (abortRecord 3 at_ (x.f.pc / 12)) bad, .gone)
          else
          let n := Table.get 0 c.latest g.toNat + 1
          let img := sealImage c.key ctx g.toNat n (s.payload x.g d)
          let data (r : Res) : DWord := BitVec.ofNat 64 (leNat ((img.drop (4 * r.pos)).take 4))
          let (s, e) := s.performStore x true 0 .none (rs.map fun r => (r, data r))
          (if e = .next then s.modCtx ctx fun c => { c with latest := Table.put 0 c.latest g.toNat n } else s, e)

/-- `SEALLOAD` (R214, R279). -/
def execSealload (p : Pre) (g : BitVec 8) (a b : SReg) : State → Host.Outcome State Fault Refusal :=
  run (.sealload p g a b) fun s x =>
    let va := (x.g.sget2 a.toNat).toNat
    let ctx := s.ctxOf x.g.launch
    match s.sealCheck x va b.toNat g.toNat with
    | .inl e => (s, .event e)
    | .inr (d, c) =>
      if s.descHeld x d then (s, .hold)
      else
      match s.resolve x true .read false (imageAsks x va (64 + d.length)), s.pendingLine x.g d.lines with
      | .stop s e, _ => (s, e)
      | .ok _, some w => (s, .wait w)
      | .ok rs, none =>
        let (s, e) := s.performLoad x true 0 .none rs (fun s => s.fetchFor x.core rs) fun _ g _ => g
        if e != .next then (s, e)
        else
          let img := rs.flatMap fun r => leBytes 4 (s.wordAt (if wholeLine rs then homeReader else x.core) r.pa).toNat
          match openImage c.key ctx g.toNat (Table.get 0 c.latest g.toNat) d.length img, s.group? x.k with
          | some b, some y => ((s.mendDesc x d).restore x.k y d b, .next)
          | _, _ => (s, .event (Event.plain kRefusal 0 x.f.mask))

/-! ### Page tables and pools -/

/-- `PTEW` (R137, R140, R282): a release at device scope, which waits for reductions on their way; an access through the entry
acquires it. -/
def execPtew (p : Pre) (a b : SReg) : State → Host.Outcome State Fault Refusal :=
  run (.ptew p a b) fun s x =>
    let va := x.g.sget2 a.toNat
    let e := x.g.sget2 b.toNat
    let ctx := s.ctxOf x.g.launch
    match (if va.toNat < 2 ^ 57 then s.walk ctx va.toNat else .bad) with
    | .bad => (s, .event ⟨kTranslation, 0, va, x.f.mask, 0, none⟩)
    | .leaf pte lv _ =>
      if !leafForm e lv then (s, .event (Event.plain kOperand 0 x.f.mask))
      else if s.owedTo x.g .dev then (s, .hold)
      else
        let s := (s.setLeaf ctx va.toNat pte (levelBits lv) e).releaseLeaf pte
        let s := { s with leafRel := Table.insert s.leafRel pte s.stampNow }
        (s.modGroup x.k fun g => match g.handler with
          | some h => if h.leaf == some pte then { g with handler := some { h with leaf := none } } else g
          | none => g, .next)

/-- A frame is zeroed (R283): every copy, partial and check of its lines goes with it, and what is on its way of them. -/
def State.zeroFrame (s : State) (a n : Nat) : State :=
  let inside (line : Nat) : Bool := a ≤ 128 * line && 128 * line < a + n
  { s with mem := s.mem.zero a n,
           msgs := s.msgs.filter fun m => !(inside m.line),
           check := s.check.filter fun w => !(inside (w.1 / 32)),
           homes := s.homes.filter fun w => !(inside (w.1 / 32)),
           held := s.held.filter fun l => !(inside l.1),
           wet := s.wet.filter fun l => !(inside l.1),
           spoilt := s.spoilt.filter fun w => !(inside (w / 32)),
           flaws := s.flaws.filter fun f => match f.1 with
             | .home pa | .l1 _ pa | .slot _ pa => !(inside (pa / 128))
             | .entry line => !(inside line)
             | _ => true,
           dir := (s.dir.map fun (d : Nat × Dir) => if inside d.1 then (d.1, { Dir.reset with lost := d.2.lost, seq := d.2.seq }) else d).filter fun d => d.2 != Dir.reset,
           cores := s.cores.map fun (c : Nat × CoreSt) => (c.1, { c.2 with l1 := c.2.l1.filter (fun l => !inside l.1),
                                                                           ubuf := c.2.ubuf.filter fun u => !inside (u.addr / 128) }) }

/-- Take a frame from a pool of a context (R283). -/
def State.takeFrame (s : State) (ctx size : Nat) : Option (Nat × State) :=
  match (Table.find s.ctxs ctx).map fun c => c.pool size with
  | some (a :: r) => some (a, (s.modCtx ctx fun c => c.setPool size r).zeroFrame a (sizeBytes size))
  | _ => none

/-- The pool that a group's `POOLGET` draws from (R283). -/
def Group.poolSize (g : Group) : Nat :=
  match g.handler with
  | some h => if h.kind = kTouch then h.size else 0
  | none => 0

/-- `POOLGET` (R283, R434): an empty pool is recorded and reported, and the fragment waits. -/
def execPoolget (p : Pre) (d : SReg) : State → Host.Outcome State Fault Refusal :=
  run (.poolget p d) fun s x =>
    let ctx := s.ctxOf x.g.launch
    let size := x.g.poolSize
    match s.takeFrame ctx size with
    | some (a, s) => (s.modGroup x.k fun g => g.sset2 d.toNat (BitVec.ofNat 64 a), .next)
    | none =>
      let r := (Event.plain kPool 0 x.f.mask).record x.f.pc
      let s := (s.modGroup x.k fun g => { g with record := r }).reportFault x.k x.g r 2 0 x.f.mask
      (s.modCtx ctx fun c => { c with poolq := c.poolq ++ [(x.k, x.en, size, d.toNat)] }, .wait (.pool size))

/-- `FLTINFO` (R284). -/
def execFltinfo (p : Pre) (d : SReg) : State → Host.Outcome State Fault Refusal :=
  run (.fltinfo p d) <| upd fun x g =>
    let r := x.g.record
    ((g.sset d.toNat ((if r.valid then 0x80000000 else 0) ||| (r.code.zeroExtend 32 <<< 16) ||| r.kind.zeroExtend 32)).sset (d.toNat + 1) r.index).sset2
      (d.toNat + 2) r.addr

end Sys2Proof.Machine
end

