-- ==== Sys2Proof/Machine/Fetch.lean ====
section
/-! DEFINITION. Fetching an instruction (R216, R247, R425), and the choice of the fragment that issues (R195 to R198). -/

namespace Sys2Proof.Machine

/-! ### Fetch -/

/-- The first address of the image that a fragment runs: its kernel's, or the handler's (R216, R425). -/
def State.imageOf (s : State) (g : Group) (f : Frag) : Nat :=
  match f.sup, g.handler with
  | true, some h => h.image
  | _, _ => ((Table.find s.launches g.launch).map fun l => l.lrec.code).getD 0

/-- Whether a pc lies in an image: up to the code bytes that a load-image command gave it, where one loaded it (R247,
log 24). -/
def State.inImage (s : State) (ctx base pc : Nat) : Bool :=
  match (Table.find s.ctxs ctx).bind fun c => c.images.find? fun m => m.1 == base with
  | some m => pc + 12 ≤ m.2
  | none => true

/-- How a fetch ends: with an event, with a fragment that waits for a leaf, with an abort, or with the word. -/
inductive Fetched where
  | event (e : Event)
  | filling (pte : Nat)
  | abort (code pa va : Nat)
  | word (w : InstrWord)
  deriving DecidableEq, Repr

/-- The words of the instruction at a virtual address, with their translations. -/
def State.codeWords (s : State) (core ctx va : Nat) : List (Nat × Tr) := [va, va + 4, va + 8].map fun a => (a, s.translate core ctx a)

/-- FETCH the instruction word at a fragment's pc (R216, R247): outside the image it is an instruction-fetch fault; the access
may fault, touch a from-pool leaf first, or wait for a filling one, as a load's may (R136, R139, R140), and its page must permit
instruction fetch (R136). -/
def State.fetch (s : State) (k : Nat) (g : Group) (f : Frag) : Fetched :=
  let ctx := s.ctxOf g.launch
  let base := s.imageOf g f
  if !s.inImage ctx base f.pc then .event (Event.plain kFetch 0 f.mask)
  else
    let ws := s.codeWords (coreOf k) ctx (base + f.pc)
    let at_ (kind va : Nat) : Fetched := .event ⟨kind, 0, BitVec.ofNat 64 va, f.mask, 0, none⟩
    match ws.find? fun w => w.2 == .fault with
    | some w => at_ kTranslation w.1
    | none =>
    match ws.findSome? fun w => match w.2 with
      | .pool p lv _ => some (w.1, p, lv)
      | _ => none with
    | some (va, p, lv) => .event ⟨kTouch, 0, BitVec.ofNat 64 va, f.mask, 0, some (p, levelSize lv)⟩
    | none =>
    match ws.findSome? fun w => match w.2 with
      | .filling p _ => some p
      | _ => none with
    | some p => .filling p
    | none =>
    match ws.find? fun w => match w.2 with
      | .page _ _ _ x => !x
      | _ => true with
    | some w => at_ kProtection w.1
    | none =>
      let pas := ws.filterMap fun w => match w.2 with
        | .page pa _ _ _ => some (w.1, pa)
        | _ => none
      match pas.findSome? fun q => (s.badNewest q.2).map fun code => (code, q) with
      | some (code, q) => .abort code q.2 q.1
      | none => .word (pas.foldr (fun q w => (w <<< 32) ||| (s.newest q.2).zeroExtend 96) 0)

/-- The virtual and physical addresses of the words of the next instruction of a fragment. -/
def State.codeAt (s : State) (k : Nat) (g : Group) (f : Frag) : List (Nat × Nat) :=
  (s.codeWords (coreOf k) (s.ctxOf g.launch) (s.imageOf g f + f.pc)).filterMap fun w => match w.2 with
    | .page pa _ _ _ => some (w.1, pa)
    | _ => none
/-- A fetch reads words: the stores that hold them (R456), a merge of a line in P (R164), and what their home slices have to fetch
(R128, R453). The answer is the code and the address of a merge that aborts (R462). -/
def State.readCode (s : State) (ctx : Nat) (ws : List Nat) : State × Option (Nat × Nat) :=
  let s := ws.foldl (fun s pa => s.readStores none (some ctx) pa) s
  let (s, failed) := (ws.map (· / 128)).dedup.foldl (fun (acc : State × Option (Nat × Nat)) n =>
    if (acc.1.entry n).st != .P then acc
    else
      let r := acc.1.mergeLine n
      (r.s, acc.2.or r.abort)) (s, none)
  (ws.foldl State.noteNewest (s.fetchWords (ws.filter fun w => (s.newer w).isNone)), failed)

/-- The instruction that a fragment is to run next, where its word is legal. -/
def State.nextInstr (s : State) (k : Nat) (g : Group) (f : Frag) : Option Instr :=
  match s.fetch k g f with
  | .word w =>
    match decodeWord w with
    | .ok i => some i
    | .error _ => none
  | _ => none

/-- What the chosen fragment has ahead of it: an instruction to run in a state, or a state in which its choice has come to
nothing or to an event. -/
inductive Ahead where
  | run (i : Instr) (s : State)
  | done (s : State)
  deriving DecidableEq, Repr

/-- FETCH AND DECODE for the chosen fragment (R216, R247, R425): a fetch that cannot be made raises its event, a word that is not
legal raises kind 0x01; a word that cannot be read kills (R462); a fragment whose code lies in a filling leaf waits for it
(R140), and one whose code lies in a line whose home is busy fetches again (R153, R159). -/
def State.ahead (s : State) : Ahead :=
  match s.selected with
  | none => .done { s with cur := none }
  | some (k, en, g, f) =>
    let ctx := s.ctxOf g.launch
    match s.fetch k g f with
    | .event e =>
      let t := (if e.kind = kTranslation then s.noteFault (coreOf k) ctx e.addr.toNat else s).spend k en
      .done ((match e.leaf with
        | some l => t.fillLeaf l.1
        | none => t).takeEvent k en e)
    | .filling p => .done ((s.unspent k en).modFrag k en fun f => { f with wait := .leaf p })
    | _ =>
      let at_ := s.codeAt k g f
      if at_.any fun q => s.lineBusy (q.2 / 128) then
        .done (((s.claim (at_.map (·.2))).unspent k en).modFrag k en fun f => { f with since := s.clk + 1 })
      else
        let (s, failed) := s.readCode ctx (at_.map (·.2))
        let t := s.spend k en
        let kill (code pa va : Nat) : Ahead := .done ((t.noteAbort pa code (some ctx)).abortKill k (abortRecord code va (f.pc / 12)) f.mask)
        match failed, s.fetch k g f with
        | some (code, pa), _ => kill code pa (((at_.find? fun q => q.2 / 128 == pa / 128).map fun q => q.1 / 128 * 128 + pa % 128).getD 0)
        | none, .abort code pa va => kill code pa va
        | none, .word w =>
          match decodeWord w with
          | .ok i => .run i s
          | .error _ => .done (t.takeEvent k en (Event.plain kIllegal 0 f.mask))
        | none, _ => .done { s with cur := none }

/-! ### Readiness (R195, R196) -/

/-- Whether the power controller has stopped issue on a core's half of the device (R17). -/
def State.tripped (s : State) (core : Nat) : Bool := if core / 72 = 0 then s.power.trip0 else s.power.trip1

/-- Whether a yield trap is raised and not yet taken. -/
def Yield.isRaised : Yield → Bool
  | .raised _ => true
  | _ => false

/-- Whether a fragment of a group may issue at all: the launch has started everywhere (R416), the group is not suspended
(R205), a raised yield trap is not waiting to be taken, but for an access that host memory has answered (R204, step 1), and the
core runs (R17, R468). -/
def State.mayIssue (s : State) (k : Nat) (g : Group) (f : Frag) : Bool :=
  ((Table.find s.launches g.launch).map fun l => l.go).getD false
    && g.yield != .suspended && !(g.yield.isRaised && g.handler.isNone && !f.hostOk)
    && !(s.core (coreOf k)).fenced && !(s.core (coreOf k)).lost && !s.tripped (coreOf k)

/-- Whether an instruction goes to the vector pipe (R196). -/
def usesPipe (i : Instr) : Bool := !uniform i && (need i).cls != 13

/-- Whether an instruction reads or writes `%fflags` itself (R81, R107). -/
def namesFlags : Instr → Bool
  | .rdff _ _ | .clrff _ _ | .yielddRet _ => true
  | .rdsp _ _ sr | .wrsp _ sr _ => sr == 10#6
  | _ => false

/-- Whether the scoreboard or a unit holds a fragment's next instruction (R195, R196): a register that a copy is to land in,
`%fflags` that matrix work is to raise, an accumulator or slot, the matrix array, the vector pipe. -/
def State.holds (s : State) (k en : Nat) (g : Group) (f : Frag) (i : Instr) : Bool :=
  let x : X := ⟨k, en, g, f, f.mask⟩
  (need i).vs.any (s.heldRegs k g.gid).contains || (namesFlags i && s.flagsBusy g) || s.matBusy x (s.useOf x i)
    || ((need i).cls == 13 && !(s.useOf x i).rd.isEmpty && s.clk < (s.unit x).next)
    || (usesPipe i && s.clk < Table.get 0 (s.core (coreOf k)).pipe (partOf k))

/-- Whether a fragment is ready (R195). What else an instruction must wait for is found as it is about to issue: it then has not
issued, and the choice falls on another. -/
def State.ready (s : State) (k en : Nat) (g : Group) (f : Frag) : Bool :=
  f.wait == .none && f.since ≤ s.clk && g.eligible f && s.mayIssue k g f &&
    match s.nextInstr k g f with
    | some i => !s.holds k en g f i
    | none => true

/-- The ready fragments of a partition: group key, entry, fragment. -/
def State.readyOn (s : State) (core part : Nat) : List (Nat × Nat × Frag) :=
  (s.groups.filter fun g => coreOf g.1 == core && partOf g.1 == part).flatMap fun g =>
    (g.2.frags.filter fun f => s.ready g.1 f.1 g.2 f.2).map fun f => (g.1, f.1, f.2)

/-- The first of the fragments that have been ready longest. -/
def oldest : List (Nat × Nat × Frag) → Option (Nat × Nat × Frag)
  | [] => none
  | a :: r => some (r.foldl (fun m b => if b.2.2.since < m.2.2.since then b else m) a)

/-- THE CHOICE of a partition (R197): the head of its overdue list if it is ready, else the fragment ready longest. -/
def State.choose (s : State) (core part : Nat) : Option (Nat × Nat) :=
  let rs := s.readyOn core part
  let there (o : Nat × Nat) : Bool := ((s.group? o.1).bind fun g => g.frag o.2).isSome
  match (s.core core).overdue.find? fun o => partOf o.1 == part && there o with
  | some o => if rs.any fun r => r.1 == o.1 && r.2.1 == o.2 then some o else (oldest rs).map fun r => (r.1, r.2.1)
  | none => (oldest rs).map fun r => (r.1, r.2.1)

/-- Issue from a partition: the chosen fragment is the one that the next step runs, beside the others that were ready (R197). -/
def State.select (s : State) (core part : Nat) : State :=
  match s.choose core part with
  | none => s
  | some (k, en) =>
    { s with cur := some ⟨k, en, ((s.readyOn core part).map fun r => (r.1, r.2.1)).filter (· != (k, en))⟩ }

/-- Whether the fragment of a core that a pass count belongs to is ready. -/
def State.readyKey (s : State) (core key : Nat) : Bool :=
  match (s.group? (64 * core + key / 128)).bind fun g => (g.frag (key % 128)).map fun f => (g, f) with
  | some (g, f) => s.ready (64 * core + key / 128) (key % 128) g f
  | none => false

/-- A fragment that is not ready in a clk can be ready from the next on, with a pass count of 0 (R197). -/
def State.recount (s : State) : State :=
  let t := { s with groups := s.groups.map fun (g : Nat × Group) => (g.1, { g.2 with frags := g.2.frags.map fun (f : Nat × Frag) =>
      (f.1, if s.ready g.1 f.1 g.2 f.2 then f.2 else { f.2 with since := max f.2.since (s.clk + 1) }) }) }
  s.cores.foldl (fun t c => t.modCore c.1 fun k => { k with passed := k.passed.filter fun e => s.readyKey c.1 e.1 }) t

/-- `ISSUE_SELECT` (R195 to R198): nothing while a chosen fragment has still to run. -/
def execIssueSelect (core part : Nat) : State → Host.Outcome State Fault Refusal := fun s =>
  if s.cur.isSome ∨ s.fatal = true then .next s else .next { s.select core part with scan := 4 * core + part + 1 }

/-- The pass count at which a fragment is overdue (R197). -/
def overdueAt : Nat := 64

/-- `FRAGMENT_OVERDUE` (R197): at 64 passes the fragment joins its partition's overdue list at the tail. -/
def execFragmentOverdue (g en : Nat) : State → Host.Outcome State Fault Refusal := fun s =>
  match (s.group? g).bind fun x => x.frag en with
  | some _ =>
    if s.passes g en < overdueAt ∨ (s.core (coreOf g)).overdue.contains (g, en) = true then .next s
    else .next (s.modCore (coreOf g) fun c => { c with overdue := c.overdue ++ [(g, en)] })
  | none => .next s

end Sys2Proof.Machine
end

