-- ==== Sys2Proof/Machine/Waits.lean ====
section
/-! DEFINITION. The events that end the waits of fragments (R54 to R72, R118 to R121, R180, R186, R255, R320, R338 to
R341, R436, R445). Each does nothing while its condition does not hold. -/

namespace Sys2Proof.Machine

/-! ### Ways to go on -/

/-- A fragment that executes its instruction again. -/
def State.unpark (s : State) (k en : Nat) : State :=
  s.modFrag k en fun f => { f with wait := .none, since := s.clk }

/-- Every fragment with a wait executes its instruction again. -/
def State.unparkAll (s : State) (w : Wait) : State :=
  { s with groups := s.groups.map fun (g : Nat × Group) => (g.1, { g.2 with frags := g.2.frags.map fun (f : Nat × Frag) =>
      (f.1, if f.2.wait == w then { f.2 with wait := .none, since := s.clk } else f.2) }) }

/-- A fragment whose instruction has completed but for an acquire goes on once `%tb` reaches the horizon (R445). -/
def State.goOn (s : State) (k en : Nat) (f : Frag) : State :=
  s.move k en (f.pc + 12) (match s.afterAcquire k with
    | .pass w => w
    | _ => .none)

/-- Act on a fragment that may act now. -/
def State.onFrag (s : State) (k en : Nat) (body : Group → Frag → State) : State :=
  match s.group? k with
  | some g =>
    match g.frag en with
    | some f => if g.eligible f then body g f else s
    | none => s
  | none => s

/-! ### Clocks -/

/-- `SLEEP_EXPIRY` (R255). -/
def execSleepExpiry (g en : Nat) : State → Host.Outcome State Fault Refusal := fun s =>
  .next (s.onFrag g en fun _ f =>
    match f.wait with
    | .sleep c => if c ≤ s.clk then s.move g en f.pc .none else s
    | _ => s)

/-- `HORIZON_REACHED` (R445). -/
def execHorizonReached (g en : Nat) : State → Host.Outcome State Fault Refusal := fun s =>
  .next (s.onFrag g en fun x f => if f.wait == .horizon && x.horizon.toNat ≤ s.now then s.move g en f.pc .none else s)

/-! ### Pennants -/

/-- Raise the horizon of a group. -/
def State.raiseTo (s : State) (k stamp : Nat) : State := s.modGroup k fun g => g.raise stamp

/-- `PENNANT_WAIT_RELEASE` (R65, R341, R444). -/
def execPennantWaitRelease (g en : Nat) : State → Host.Outcome State Fault Refusal := fun s =>
  .next (s.onFrag g en fun _ f =>
    match f.wait with
    | .pennant r n =>
      match s.pen? r with
      | some p => if n ≤ p.count then (s.raiseTo g (p.stampOf n)).goOn g en f else s
      | none => s
    | _ => s)

/-- Whether a fragment waits on a phase of a pennant that has not completed. -/
def Frag.onPen (f : Frag) (r : PenRef) (count : Nat) : Bool :=
  match f.wait with
  | .pennant q n => q == r && count < n
  | _ => false

/-- Whether a group waits on a pennant (R436): every fragment with active lanes waits on it, or at a reconvergence
address, and one waits on it. -/
def Group.stuckOn (g : Group) (r : PenRef) (count : Nat) : Bool :=
  let fs := g.frags.filter fun f => f.2.mask != 0
  fs.all (fun f => f.2.onPen r count || f.2.wait == .join) && fs.any fun f => f.2.onPen r count

/-- The launch, workgroup and gang that a pennant belongs to, as a test on groups. -/
def State.serves (_s : State) (r : PenRef) (g : Group) : Bool :=
  match r with
  | .wg w _ => g.wg == some w
  | .gang k _ => g.gang == some k
  | .grid l => g.launch == l && !g.packed

/-- Whether a member of a pennant waits on its phase, or has no active lane (R436); one of another device does where that device
has said so of all of its own. -/
def State.awaits (s : State) (r : PenRef) (p : Pennant) (m : Nat) : Bool :=
  match s.groups.find? fun g => s.serves r g.2 && s.member r g.2 == m with
  | some g => g.2.stuckOn r p.count || g.2.frags.all fun f => f.2.mask == 0
  | none => p.stuck.contains (m / 2 ^ 40)

/-- Whether a pennant's phase is broken (R436). -/
def State.penBroken (s : State) (r : PenRef) (p : Pennant) : Bool :=
  p.a < p.expected
    && ((p.members.filter fun m => !p.arrived.contains m).all (s.awaits r p))
    && !(s.ops.any fun o => !o.2.done && match o.2.k with
      | .copy c => c.blk.pv && s.enginePen o.2.wg o.2.gang o.2.launch c.blk.pen == some r
      | _ => false)

/-- The operand that names a pennant (R62). -/
def penOperand : PenRef → Nat
  | .wg _ n => n
  | .gang _ n => 32 + n
  | .grid _ => 63

/-- A group that waited on an abandoned phase is released and raises kind 0x31 (R436). -/
def State.breakGroup (s : State) (r : PenRef) (count k : Nat) : State :=
  match s.group? k with
  | none => s
  | some g =>
    match g.frags.filter fun f => f.2.onPen r count with
    | [] => s
    | (en, f) :: rest =>
      let s := s.modFrag k en fun f => { f with wait := .none }
      let s := s.takeEvent k en (Event.plain kBroken (penOperand r) f.mask)
      rest.foldl (fun s q => s.modGroup k fun g =>
        if (g.frag q.1).any (fun f => f.onPen r count) then
          (g.setFrag q.1 { (q.2.ready s.clk) with pc := q.2.pc + 12 }).rest s.clk q.1 else g) s

/-- A broken phase is abandoned here (R436). -/
def State.abandonPhase (s : State) (r : PenRef) (p : Pennant) : State :=
  ((s.groups.filter fun g => s.serves r g.2).map (·.1)).foldl (fun s k => s.breakGroup r p.count k) (s.setPen r p.abandon)

/-- `BROKEN_PENNANT` (R67, R436): the other devices of a launch are told of a grid-wide one. -/
def execBrokenPennant (r : PenRef) : State → Host.Outcome State Fault Refusal := fun s =>
  match s.pen? r with
  | none => .next s
  | some p =>
    if !s.penBroken r p then .next s
    else .next ((s.abandonPhase r p).tellPen r p.no .broken)

/-- The first broken pennant of the device. -/
def State.brokenPen (s : State) : Option PenRef :=
  let refs := (s.wgs.flatMap fun w => w.2.pens.map fun p => PenRef.wg w.1 p.1) ++ (s.gangs.flatMap fun g => g.2.pens.map fun p => PenRef.gang g.1 p.1)
    ++ (s.launches.filter fun l => l.2.lrec.cores).map fun l => PenRef.grid l.1
  refs.find? fun r => ((s.pen? r).map (s.penBroken r)).getD false

/-- Whether groups of this device have still to arrive in the current phase of a grid-wide pennant, and each of them waits on it or
has no active lane (R436). -/
def State.allWait (s : State) (l : Nat) (x : Launch) : Bool :=
  let ms := x.grid.members.filter fun m => m / 2 ^ 40 == x.dev && !x.grid.arrived.contains m
  !ms.isEmpty && ms.all (s.awaits (.grid l) x.grid)

/-- A device of a launch of several tells the others when this comes to hold or to fail, so that one of them can find the phase
broken (R436, log 67). -/
def State.sayStuck (s : State) : Option State :=
  (s.launches.find? fun l => 1 < l.2.lrec.devices && l.2.lrec.cores && l.2.go && !l.2.closed && s.allWait l.1 l.2 != l.2.grid.said).map fun l =>
    let on := !l.2.grid.said
    (s.modPen (.grid l.1) fun p => { p with said := on }).tellPen (.grid l.1) l.2.grid.no (.stuck l.2.dev on)

/-! ### Rings -/

/-- `RING_WAIT_RESUME` (R60). -/
def execRingWaitResume (g en : Nat) : State → Host.Outcome State Fault Refusal := fun s =>
  .next (s.onFrag g en fun x f =>
    match f.wait with
    | .ring n take =>
      match x.wg.bind fun w => s.ring? w n with
      | some r => if (if take then r.take.isSome else r.acquire.isSome) then s.unpark g en else s
      | none => s
    | _ => s)

/-- `RING_PUBLISH_DEFERRED` (R61). -/
def execRingPublishDeferred (wg ring : Nat) : State → Host.Outcome State Fault Refusal := fun s =>
  match s.ring? wg ring with
  | some r => if r.due.isSome then .next (s.setRing wg ring r.ripen) else .next s
  | none => .next s

/-! ### Scratchpad lines -/

/-- `FULL_LINE_STALL_END` (R118): the accesses that waited on a Pending line go on; the end of the wait acquires that
line only. -/
def execFullLineStallEnd (wg line : Nat) : State → Host.Outcome State Fault Refusal := fun s =>
  match Table.find s.wgs wg with
  | some w =>
    match w.line line with
    | .pending _ => .next s
    | _ => .next (s.unparkAll (.line wg line))
  | none => .next s

/-- Replace a wait by another for every fragment. -/
def State.rewait (s : State) (a b : Wait) : State :=
  { s with groups := s.groups.map fun (g : Nat × Group) => (g.1, { g.2 with frags := g.2.frags.map fun (f : Nat × Frag) =>
      (f.1, if f.2.wait == a then { f.2 with wait := b } else f.2) }) }

/-- The lanes of a fragment whose next access lies in a scratchpad line (R423). -/
def State.fillLanes (s : State) (k en line : Nat) (g : Group) (f : Frag) : Mask :=
  let lanes (p : Pre) (uni : Bool) (m : MemOp) (n : Nat) : Mask :=
    let x : X := ⟨k, en, g, f, execLanes p uni g f⟩
    if uni then f.mask else maskOf (((sAsks x uni m n).filter fun a => a.addr / 128 == (line : Int)).map (·.lane))
  match s.nextInstr k g f with
  | some (.lds p sz _ d m) | some (.sts p sz _ d m) => lanes p (isScalar d) m (byteSize sz)
  | some (.atoms p o _ d m) => lanes p (isScalar d) m (opBytes o)
  | _ => f.mask

/-- The fill of an Unfilled line for a fragment that waits for it (R121): its faults are raised to that fragment, and a line of
host memory waits for the host. Its reads are of the group's copy engine as agent, and so unchecked (DESIGN CHOICE, log 46: R121
names no agent). -/
def State.fillFor (s : State) (k en wg line : Nat) (g : Group) (f : Frag) : State :=
  let a : Who := ⟨engineAgent (s.logical (coreOf k)) (slotOf k) 0, g.launch, g.gid * 256 + 255, s.now, 0, false, [], []⟩
  let m := s.fillLanes k en line g f
  match s.fillLine wg line (BitVec.allOnes 32) (coreOf k) (s.ctxOf g.launch) a f.hostOk with
  | .fault va => (s.noteFault (coreOf k) (s.ctxOf g.launch) va).takeEvent k en ⟨kTranslation, 0, BitVec.ofNat 64 va, m, 0, none⟩
  | .touch p lv va => (s.fillLeaf p).takeEvent k en ⟨kTouch, 0, BitVec.ofNat 64 va, m, 0, some (p, levelSize lv)⟩
  | .busy l => s.askPeers l
  | .host => s.modFrag k en fun f => { f with wait := .host }
  | .filling p => s.rewait (.fill wg line) (.leaf p)
  | .abort s code pa va => (s.noteAbort pa code (some (s.ctxOf g.launch))).abortKill k (abortRecord code va (f.pc / 12)) m
  | .ok s => s.unparkAll (.fill wg line)

/-- The first fragment that waits for a line to be filled. -/
def State.filler (s : State) (wg line : Nat) : Option (Nat × Nat × Group × Frag) :=
  s.groups.findSome? fun g => (g.2.frags.find? fun f => g.2.eligible f.2 && f.2.wait == .fill wg line).map fun f => (g.1, f.1, g.2, f.2)

/-- `WINDOW_LINE_FILL` (R121). -/
def execWindowLineFill (wg line : Nat) : State → Host.Outcome State Fault Refusal := fun s =>
  match s.filler wg line, Table.find s.wgs wg with
  | some (k, en, g, f), some w =>
    if w.line line == .unfilled then .next (s.fillFor k en wg line g f) else .next (s.unparkAll (.fill wg line))
  | _, _ => .next s

/-! ### Counters -/

/-- `WAITCNT_RETURN` (R180, R339, R435). -/
def execWaitcntReturn (g en : Nat) : State → Host.Outcome State Fault Refusal := fun s =>
  .next (s.onFrag g en fun x f =>
    match f.wait with
    | .cnt cls n =>
      if n < s.count x cls || s.failedAhead x cls then s
      else
        match (s.countReturn g cls f.mask) with
        | (s, some e) => (s.modFrag g en fun f => { f with wait := .none }).takeEvent g en e
        | (s, none) => s.goOn g en f
    | _ => s)

/-! ### Monitors (R186, R200, R201, R340) -/

/-- `MONITOR_WAKE` (R186, R201). -/
def execMonitorWake (g en : Nat) : State → Host.Outcome State Fault Refusal := fun s =>
  .next (s.onFrag g en fun _ f =>
    match f.wait with
    | .monitor i =>
      match (s.monitorOf i).bind fun m => m.sat.map fun rels => (m, rels) with
      | some (m, rels) => (s.wakeRead g m rels).goOn g en f
      | none => s
    | _ => s)

/-- The interval of a re-read in clk (R200). -/
def rereadClk : Nat := 1024

/-- Whether a write that the home has seen has satisfied a monitor. -/
def Monitor.seen (m : Monitor) : Bool := place m.addr != .host && m.sat.isSome

/-- Whether a re-read finds its condition: a write has met it, which host memory does not show, or the word as it now
stands at its home does. -/
def State.rereadHolds (s : State) (m : Monitor) : Bool :=
  m.seen ||
    match m.cond with
    | some (c, v) => cmpHolds c (s.newest m.addr) v
    | none => s.newest m.addr != m.old

/-- The releases that the value of a re-read carries: of the write that satisfied it, or of the word as it stands (R171, R340). -/
def State.rereadRels (s : State) (m : Monitor) : List Release :=
  if place m.addr == .host then (s.stampsOf m.addr).rel else m.sat.getD (s.newestRels m.addr)

/-- A fragment re-reads the word of its monitor at its home (R200): a line in P is merged first (R164), and one whose home is busy is
waited for (R153); an abort is consumed as an access of a thread consumes it (R462). -/
def State.reread (s : State) (g en : Nat) (f : Frag) (i : Nat) : State :=
  match s.monitorOf i with
  | none => s
  | some m =>
    let line := m.addr / 128
    let later (s : State) (clk : Nat) : State := s.modFrag g en fun f => { f with wait := .reread i clk }
    if !m.seen && s.lineBusy line then later (s.askPeers line) (s.clk + 1 - rereadClk)
    else
      let ctx := some (s.ctxOf m.launch)
      let s := if m.seen then s else s.readStores none ctx m.addr
      let r : Merged := if !m.seen && (s.entry line).st == .P then s.mergeLine line else ⟨s, [], none⟩
      let s := r.s
      match r.abort.or (if m.seen then none else (s.badNewest m.addr).map fun c => (c, m.addr)) with
      | some (code, at_) => ((s.dropMonitor i).noteAbort at_ code ctx).abortKill g (abortRecord code m.va (f.pc / 12)) (laneBit m.lane)
      | none =>
        let s := if m.seen then s else s.noteNewest m.addr
        if s.rereadHolds m then (s.wakeRead g m (s.rereadRels m)).goOn g en f else later s s.clk

/-- `MONITOR_REREAD` (R200, R340): every 1,024 clk. -/
def execMonitorReread (g en : Nat) : State → Host.Outcome State Fault Refusal := fun s =>
  .next (s.onFrag g en fun _ f =>
    match f.wait with
    | .reread i since => if s.clk < since + rereadClk then s else s.reread g en f i
    | _ => s)

/-! ### Seals and the host -/

/-- `UNSEAL_COUNT_ZERO` (R157, R338). -/
def execUnsealCountZero (g en : Nat) : State → Host.Outcome State Fault Refusal := fun s =>
  .next (s.onFrag g en fun _ f =>
    match f.wait with
    | .unseal n => if ((Table.find s.seals n).map fun e => e.copies).getD 0 = 0 then s.unpark g en else s
    | _ => s)

/-- `HOST_MEMORY_COMPLETION` (R320, R340): host memory answers, with what the host has written to it meanwhile, by host bus
address; the access is then executed, or the re-read of a monitor done. -/
def execHostMemoryCompletion (g en : Nat) (data : List (Nat × Byte)) : State → Host.Outcome State Fault Refusal := fun s =>
  let t := data.foldl (fun (s : State) d => s.setHost d.1 [d.2]) s
  .next (s.onFrag g en fun _ f =>
    match f.wait with
    | .host => t.modFrag g en fun f => { f with wait := .none, hostOk := true, since := s.clk }
    | .reread i _ => if ((s.monitorOf i).map fun m => place m.addr == .host).getD false then t.reread g en f i else s
    | _ => s)

end Sys2Proof.Machine
end

