-- ==== Sys2Proof/Machine/Sched.lean ====
section
/-! DEFINITION. The dispatcher: placement, residence and starting state of groups (R38 to R45, R69, R70), launch queues
(R190 to R193), packed groups, pre-emption and resumption (R202 to R211, R440, R466, R480). -/

namespace Sys2Proof.Machine

/-! ### Resources of a core (R41, R69) -/

/-- The groups resident on a core. -/
def State.groupsOn (s : State) (c : Nat) : List (Nat × Group) := s.groups.filter fun g => coreOf g.1 == c
/-- The register rows of a group: none for role C, whose `regs` is 0 (R42). -/
def Group.rows (g : Group) : Nat := g.regs / 64
/-- The free group slots of a core, lowest first. -/
def State.freeSlots (s : State) (c : Nat) : List Nat := (List.range 64).filter fun j => (s.group? (64 * c + j)).isNone

/-- Whether a core holds a workgroup, a packed group or a queued item of a launch (R69). -/
def State.holdsFor (s : State) (l c : Nat) : Bool :=
  s.wgs.any (fun w => w.2.core == c && w.2.launch == l) || s.groups.any (fun g => coreOf g.1 == c && g.2.launch == l && g.2.packed)
    || (s.core c).items.any fun i => i.launch == l
/-- The packed groups of a launch on a core. -/
def State.packedOn (s : State) (l c : Nat) : Nat := (s.groups.filter fun g => coreOf g.1 == c && g.2.launch == l && g.2.packed).length
/-- The group slots reserved on a core and not in use, with the rows of each (R69). -/
def State.reserved (s : State) (c : Nat) : List (Nat × Nat) :=
  (s.launches.filter fun l => l.2.lrec.spawn != 0 && s.holdsFor l.1 c).map fun l =>
    (l.2.lrec.spawn - s.packedOn l.1 c, l.2.lrec.regs / 64)
/-- The sum of numbers. -/
def total (l : List Nat) : Nat := l.foldl (· + ·) 0

/-- Rows of a core's register file and bytes of its scratchpad (R10, R41). -/
def coreRows : Nat := 32
def coreBytes : Nat := 786432

/-- The least number of a list. -/
def least : List Nat → Option Nat
  | [] => none
  | a :: r => some (r.foldl min a)

/-- The lowest address from `lo` on, `lo` or one aligned to `al` after a range taken, where `n` bytes lie free of the ranges taken
and end at `hi` or before. -/
def firstFit (taken : List (Nat × Nat)) (lo hi al n : Nat) : Option Nat :=
  least ((lo :: taken.map fun t => (t.1 + t.2 + al - 1) / al * al).filter fun a =>
    a + n ≤ hi && taken.all fun t => a + n ≤ t.1 || t.1 + t.2 ≤ a)

/-- What a workgroup asks of a core: its groups' roles and rows, scratchpad bytes, whether it needs a matrix unit, and the
reservation that its launch takes on a core it is new to. -/
structure Ask4 where
  launch : Nat
  roles  : List Role
  rows   : Nat
  bytes  : Nat
  mat    : Bool
  spawn  : Nat
  regs   : Nat
  deriving DecidableEq, Repr

/-- Give slots to groups in order: the M groups from one list, the others from another. -/
def giveSlots : List Role → List Nat → List Nat → List Nat
  | [], _, _ => []
  | .M :: r, a :: ms, os => a :: giveSlots r ms os
  | .M :: r, [], os => giveSlots r [] os
  | _ :: r, ms, a :: os => a :: giveSlots r ms os
  | _ :: r, ms, [] => giveSlots r ms []

/-- What a workgroup takes on a core: the partition of its matrix unit, its group slots, the base of its allocation. -/
structure Seat where
  part  : Option Nat
  slots : List Nat
  base  : Nat
  deriving DecidableEq, Repr

/-- What a workgroup takes on a core, if everything it asks is free there (R41, R44): the M groups on the lowest
partition that has room and a free matrix unit, the others in the lowest slots left, the lowest free bytes at a base aligned to
512 (R113, R194, log 25). -/
def State.fit (s : State) (a : Ask4) (c : Nat) : Option Seat :=
  let free := s.freeSlots c
  let res := s.reserved c
  let new := if a.spawn = 0 || s.holdsFor a.launch c then 0 else a.spawn
  let slots := total (res.map (·.1)) + new
  let rows := total (res.map fun r => r.1 * r.2) + new * (a.regs / 64) + total ((s.groupsOn c).map fun g => g.2.rows)
  let m := (a.roles.filter (· == .M)).length
  let part := (List.range 4).find? fun p => (s.mat c p).owner.isNone && m ≤ (free.filter fun j => j / 16 == p).length
  if free.length < a.roles.length + slots || coreRows < rows + a.rows || (a.mat && part.isNone) then none
  else
    let ms := if a.mat then (free.filter fun j => some (j / 16) == part).take m else []
    (firstFit ((s.wgs.filter fun w => w.2.core == c).map fun w => (w.2.base, w.2.size)) 0 coreBytes 512 a.bytes).map fun b =>
      ⟨if a.mat then part else none, giveSlots a.roles ms (free.filter fun j => !ms.contains j), b⟩

/-- Whether a core takes new work (R468, R486, R489, R490). -/
def State.usable (s : State) (c : Nat) : Bool :=
  s.coreMap.contains c && !(s.core c).fenced && !(s.core c).drain && !(s.core c).lost

/-- Cores for the members of a gang from a list of cores, each with what it takes there. -/
def matchCores (fit : Option Ask4 → Nat → Option Seat) : List (Option Ask4) → List Nat → Option (List (Nat × Seat))
  | [], _ => some []
  | a :: r, cs => cs.findSome? fun c => (fit a c).bind fun q => (matchCores fit r (cs.erase c)).map fun l => (c, q) :: l

/-- Where a gang fits (R40): distinct cores of one cluster, the lowest first (R194, log 25). A member whose workgroup has
ended asks for nothing. -/
def State.fitGang (s : State) (members : List (Option Ask4)) : Option (List (Nat × Seat)) :=
  (List.range 18).findSome? fun k =>
    matchCores (fun a c => match a with
      | some a => s.fit a c
      | none => some ⟨none, [], 0⟩) members (((List.range 8).map fun j => 8 * k + j).filter s.usable)

/-! ### The starting state (R45, R63, R82) -/

/-- `%srseed` of a lane at placement (R82). -/
def startSeed (w g l : Nat) : Word :=
  let x : Word := BitVec.ofNat 32 (((w * 16 + g) * 128 + l) * 0x9E3779B9)
  if x = 0 then 1 else x
/-- The table of the lanes' seeds. -/
def startSeeds (w g : Nat) : Table Word := (List.range 128).map fun l => (l, startSeed w g l)

/-- The registers, flags and generators of a group at placement (R35, R45, R480). -/
def Group.fresh (g : Group) (pre : Table Word) (w no now : Nat) : Group :=
  { g with vregs := [], sregs := pre.filter (fun p => p.2 != 0), pregs := [], fflags := [], srseed := startSeeds w no, horizon := BitVec.ofNat 64 now }

/-- A group of a workgroup as it starts (R45). -/
def startGroup (l : Nat) (r : LRec) (wg gang wgNo no now clk : Nat) : Group :=
  let role := r.roles.getD no .V
  let lanes := firstLanes r.threads
  Group.fresh {
      launch := l, gid := 16 * wgNo + no, wg := some wg, gang := some gang, wgNo := wgNo, no := no, role := role,
      regs := if role == .C then 0 else r.regs, npreds := r.preds, packed := false, level := .user,
      frags := [(0, ⟨lanes, 12 * r.entry, 0, 1, .none, [], clk, none, false, false⟩)], retired := ~~~lanes, joins := 0,
      vregs := [], sregs := [], pregs := [], fflags := [], srseed := [], horizon := 0, record := Record.reset, handler := none,
      yield := .none, held := false, saved := none, walk := none, failed := [], relF := [], seen := [], landed := [],
      placed := now, was := [] } r.pre wgNo no now

/-- A workgroup's rings as they start (R59). -/
def LRec.startRings (r : LRec) : Table Ring :=
  r.rings.map fun d => (d.id, ⟨d.base, d.bytes, 0, 0, List.replicate d.slots .free, List.replicate d.slots false, [], List.replicate d.slots 0⟩)

/-- A workgroup as it starts (R45, R63, R113): `n` groups numbered from its own number × 16. -/
def startWg (core base l : Nat) (r : LRec) (gang no : Nat) : Workgroup :=
  let gids := (List.range r.groups).map fun g => 16 * no + g
  ⟨core, base, l, gang, no, r.scratch, r.swizzle, [], [], [], [], r.startRings, (List.range r.pens).map fun p => (p, Pennant.start gids), []⟩

/-! ### Placing a gang (R40 to R45, R209, R210) -/

/-- What a workgroup of a new gang asks. -/
def LRec.ask (r : LRec) (l : Nat) : Ask4 :=
  let roles := (List.range r.groups).map fun k => r.roles.getD k .V
  ⟨l, roles, total (roles.map fun x => if x == .C then 0 else r.regs / 64), r.scratch, roles.contains .M, r.spawn, r.regs⟩

/-- What a saved workgroup asks. -/
def SavedGang.ask (v : SavedGang) (r : LRec) (k : Nat) (w : Workgroup) : Ask4 :=
  let gs := v.groups.filter fun g => g.wg == some k
  ⟨v.launch, gs.map (·.role), total (gs.map (·.rows)), w.size, v.mats.any fun m => m.1 == k, r.spawn, r.regs⟩

/-- Take a matrix unit for a workgroup. -/
def State.takeMat (s : State) (core : Nat) (part : Option Nat) (m : Mat) : State :=
  match part with
  | some p => s.setMat core p m
  | none => s

/-- Place one workgroup of a new gang. -/
def State.startMember (s : State) (l : Nat) (r : LRec) (gang no core : Nat) (at_ : Seat) : State :=
  let (k, s) := s.fresh
  let s := { s with wgs := Table.insert s.wgs k (startWg core at_.base l r gang no) }
  let s := s.takeMat core at_.part { Mat.reset with owner := some k }
  (at_.slots.zip (List.range r.groups)).foldl (fun s q =>
    s.setGroup (64 * core + q.1) (startGroup l r k gang no q.2 s.now s.clk)) s

/-- Place a gang that has not run, or runs again after a kill (R40, R466). -/
def State.startGang (s : State) (l : Nat) (x : Launch) (no : Nat) : Option State :=
  let r := x.lrec
  (s.fitGang (List.replicate r.gang (some (r.ask l)))).map fun (places : List (Nat × Seat)) =>
    let (k, s) := s.fresh
    let (t, s) := s.fresh
    let gids := (List.range r.gang).flatMap fun j => (List.range r.groups).map fun g => 16 * (no * r.gang + j) + g
    let g : Gang := ⟨l, no, places.map (·.1), (List.range r.gpens).map fun p => (p, Pennant.start gids), t, none, false⟩
    let s := { s with gangs := Table.insert s.gangs k g }
    let s := (places.zip (List.range r.gang)).foldl (fun s q =>
      s.startMember l r k (no * r.gang + q.2) q.1.1 q.1.2) s
    s.modLaunch l fun y => { y with redo := y.redo.filter (· != no), next := max y.next (no + 1) }

/-- Whether a group has suspended in its handler. -/
def Group.quiet (g : Group) : Bool :=
  g.handler.isNone && match g.frags with
    | [(_, f)] => f.wait == .susp
    | _ => false

/-- A fragment goes on as a yield leaves it (R204, step 2): waits that have changed no state end with the pc where it is; a
sleep ends as it goes on; those on a pennant, a registered monitor, a horizon or a reconvergence address stay. -/
def Frag.calm (f : Frag) (clk : Nat) : Frag :=
  match f.wait with
  | .join | .pennant _ _ | .monitor _ | .horizon | .susp => f
  | .sleep _ => { f with wait := .sleep 0 }
  | _ => { f with wait := .none, hostOk := false, since := clk }

/-- A saved group as it starts again (R210, R440, R480): one that suspended in time as placement gives it, after its
`YIELDD.susp`; one stopped in place, or saved whole, where it stood. -/
def Group.resumeFrom (g : Group) (r : LRec) (wgNo now clk : Nat) : Group :=
  if g.quiet then
    { (g.fresh r.pre wgNo g.no now) with
        frags := g.frags.map fun (f : Nat × Frag) => (f.1, f.2.ready clk), yield := .resumed, held := false, placed := now }
  else
    { g with frags := g.frags.map fun (f : Nat × Frag) => (f.1, f.2.calm clk),
             yield := if g.saved.isSome then .overrun else .none, held := false, placed := now }

/-- A saved workgroup as it starts again (R207, R440, R480): window lines Unfilled, and its allocation where the firmware
saved it whole; the zero bits of its lines are then what they were (DESIGN CHOICE, log 43: R207 and R208 do not name them). -/
def Workgroup.resumeOn (w : Workgroup) (core base : Nat) (full : Bool) : Workgroup :=
  let lines := w.wins.flatMap fun v => (List.range (v.2.len / 128)).map fun n => v.2.base / 128 + n
  let w := { w with core := core, base := base, lines := lines.foldl (fun t n => Table.insert t n .unfilled) [],
                    wins := w.wins.map fun (v : Nat × Window) => (v.1, { v.2 with dirty := [], todo := [] }) }
  if full then w else { w with bytes := [], zero := [], rels := [] }

/-- Place one workgroup of a saved gang. -/
def State.resumeMember (s : State) (v : SavedGang) (r : LRec) (k : Nat) (w : Workgroup) (core : Nat) (at_ : Seat) : State :=
  let s := { s with wgs := Table.insert s.wgs k (w.resumeOn core at_.base (v.full.contains k)) }
  let s := match v.mats.find? fun m => m.1 == k with
    | some m => s.takeMat core at_.part m.2
    | none => s
  ((v.groups.filter fun g => g.wg == some k).zip at_.slots).foldl (fun s q =>
    s.setGroup (64 * core + q.2) (q.1.resumeFrom r w.no s.now s.clk)) s

/-- Place a saved gang again (R209, R210), under its key. -/
def State.resumeGang (s : State) (x : Launch) (v : SavedGang) : Option State :=
  let r := x.lrec
  let members := (List.range r.gang).map fun j => v.wgs.find? fun (w : Nat × Workgroup) => w.2.no % r.gang == j
  (s.fitGang (members.map fun (m : Option (Nat × Workgroup)) => m.map fun w => v.ask r w.1 w.2)).map fun (places : List (Nat × Seat)) =>
    let (t, s) := s.fresh
    let g : Gang := ⟨v.launch, v.no, places.map fun q => q.1, v.pens, t, none, false⟩
    let s : State := { s with gangs := Table.insert s.gangs v.key g }
    let s := (places.zip members).foldl (fun s q => match q.2 with
      | some w => s.resumeMember v r w.1 w.2 q.1.1 q.1.2
      | none => s) s
    s.modCtx x.ctx fun c => { c with saved := c.saved.filter fun g => g.key != v.key }

/-! ### The images of a saved gang (R215) -/

/-- The plaintext of the hardware-saved state of a gang: a FREE VALUE, since the spec gives the firmware's image no layout
(log 7). -/
opaque hardwareState : SavedGang → List Byte
/-- Bytes up to a whole number of lines, which an image's payload is (R213). -/
def padLines (b : List Byte) : List Byte := b ++ List.replicate ((b.length + 127) / 128 * 128 - b.length) 0

/-- The registers, scalars and predicates of a group, in ascending order. -/
def Group.bytes (g : Group) : List Byte :=
  ((List.range g.regs).flatMap fun r => (List.range 128).flatMap fun l => leBytes 4 (g.vget r l).toNat)
    ++ ((List.range 128).flatMap fun r => leBytes 4 (g.sget r).toNat)
    ++ (List.range g.npreds).flatMap fun p => leBytes 16 (Table.get 0 g.pregs p).toNat

/-- The parts of a saved gang (R207, R208, R440): the hardware-saved state, then of each workgroup saved whole its allocation and
the registers of its groups. -/
def SavedGang.parts (v : SavedGang) : List (List Byte) :=
  (hardwareState v :: (v.wgs.filter fun w => v.full.contains w.1).map fun w =>
    w.2.bytes.bytes 0 w.2.size ++ (v.groups.filter fun g => g.wg == some w.1).flatMap Group.bytes).map padLines

/-- The region-id field of an image of the firmware (R213, R215). -/
def partRegion (part : Nat) : Nat := 255 + 256 * part
/-- Where the firmware puts the images of saved gangs: the upper half of the memory that it keeps for itself (log 6). -/
def saveBase : Nat := fwBase + 2 ^ 31

/-- Write bytes of the firmware's memory, from a word address on. -/
def State.writeFw (s : State) (a : Nat) (b : List Byte) : State := (wordsFrom a (b.map some)).foldl (fun s w => s.putWord w.1 w.2.2) s
/-- Read bytes of the firmware's memory; none where a word cannot be read. -/
def State.readFw (s : State) (a n : Nat) : Option (List Byte) :=
  if (List.range (n / 4)).any fun i => (s.badWord (a + 4 * i)).isSome then none
  else some ((List.range (n / 4)).flatMap fun i => leBytes 4 (s.homeWord (a + 4 * i)).toNat)

/-- Seal and write the parts of a save, numbered from `no`, from an address on: the state, and number, address and length of
each. -/
def State.sealParts (s : State) (key : BitVec 256) (ctx counter : Nat) : Nat → Nat → List (List Byte) → State × List (Nat × Nat × Nat)
  | _, _, [] => (s, [])
  | no, a, p :: r =>
    let (s, l) := (s.writeFw a (sealImage key ctx (partRegion no) counter p)).sealParts key ctx counter (no + 1) (a + 64 + p.length) r
    (s, (no, a, p.length) :: l)

/-- Give each saved gang of a list its images. -/
def shareImages : List SavedGang → List (Nat × Nat × Nat) → List SavedGang
  | [], _ => []
  | v :: r, l => { v with images := l.take v.parts.length } :: shareImages r (l.drop v.parts.length)

/-- The images of a protected context's save (R215): one counter, and parts from 0 upward. The save of a context is that of every
gang of it that is saved, so a gang saved before is sealed again with it (log 50). -/
def State.sealSaved (s : State) (ctx : Nat) : State :=
  match Table.find s.ctxs ctx with
  | none => s
  | some c =>
    let parts := c.saved.flatMap SavedGang.parts
    let taken := (s.ctxs.filter fun d => d.1 != ctx).flatMap fun d => d.2.saved.flatMap fun v => v.images.map fun i => (i.2.1, 64 + i.2.2)
    if !c.prot then s
    else
      match firstFit taken saveBase dramEnd 128 (total (parts.map fun p => 64 + p.length)) with
      | none => s.modCtx ctx fun c => { c with saved := c.saved.map fun (v : SavedGang) => { v with images := [] } }
      | some a =>
        let n := Table.get 0 c.latest 255 + 1
        let (s, l) := s.sealParts c.key ctx n 0 a parts
        s.modCtx ctx fun c => { c with saved := shareImages c.saved l, latest := Table.put 0 c.latest 255 n }

/-- Whether the firmware accepts every image of a saved gang (R215). -/
def State.imagesOk (s : State) (ctx : Nat) (v : SavedGang) : Bool :=
  match Table.find s.ctxs ctx with
  | none => false
  | some c => !c.prot || (!v.images.isEmpty && v.images.all fun i =>
      ((s.readFw i.2.1 (64 + i.2.2)).bind (openImage c.key ctx (partRegion i.1) (Table.get 0 c.latest 255) i.2.2)).isSome)

/-- A saved gang whose images are refused is not restored. A context restore in progress fails with status 5, and the context stays
saved (R215, R406, R407). Without one the gang ends, a co-resident launch with all its gangs, and the launch with status 5 (R215,
R406, log 50). -/
def State.failRestore (s : State) (l : Nat) (x : Launch) (v : SavedGang) : State :=
  match s.cmds.find? fun c => c.code == 0x000A && c.ctx == x.ctx && c.out.isNone with
  | some c => (s.modCtx x.ctx fun y => { y with hold := true }).retireCmd c 5 0
  | none =>
  let nos := if x.lrec.cores then List.range x.lrec.gangs else [v.no]
  let gone (g : SavedGang) : Bool := g.launch == l && nos.contains g.no
  let vs := (((Table.find s.ctxs x.ctx).map fun c => c.saved).getD []).filter gone
  let s := s.releaseSeals (vs.flatMap fun g => g.mats.flatMap fun m => m.2.seals)
  let s := s.dropWork l (vs.flatMap fun g => g.groups.map (·.gid))
  let s := s.modCtx x.ctx fun c => { c with saved := c.saved.filter fun g => !gone g }
  (s.modLaunch l fun y => { y with ended := y.ended ++ nos, status := 5 }).endLaunchIf l

/-! ### The gangs a launch has to place -/

/-- The saved gang of a launch with a number. -/
def State.savedOf (s : State) (x : Launch) (l no : Nat) : Option SavedGang :=
  (Table.find s.ctxs x.ctx).bind fun c => c.saved.find? fun g => g.launch == l && g.no == no
/-- The numbers of the saved gangs of a launch. -/
def State.savedNos (s : State) (x : Launch) (l : Nat) : List Nat :=
  ((Table.find s.ctxs x.ctx).map fun c => (c.saved.filter fun g => g.launch == l).map (·.no)).getD []
/-- The lowest-numbered gang that is not placed, if any (R193). -/
def State.pendingGang (s : State) (l : Nat) (x : Launch) : Option Nat :=
  (least (s.savedNos x l ++ x.redo)).or (if x.next < x.lrec.gangs then some x.next else none)

/-- The first saved gang of a launch of which the firmware refuses an image (R215). -/
def State.refusedGang (s : State) (l : Nat) (x : Launch) : Option SavedGang :=
  (((Table.find s.ctxs x.ctx).map fun c => c.saved).getD []).find? fun v => v.launch == l && !s.imagesOk x.ctx v

/-- Place one gang of a launch by its number. -/
def State.placeGang (s : State) (l : Nat) (x : Launch) (no : Nat) : Option State :=
  match s.savedOf x l no with
  | some v => if s.imagesOk x.ctx v then s.resumeGang x v else some (s.failRestore l x v)
  | none => s.startGang l x no

/-- Place gangs in ascending order while they fit, at most `n`. -/
def State.placeMany (l : Nat) : Nat → State → State
  | 0, s => s
  | n + 1, s =>
    match Table.find s.launches l with
    | none => s
    | some x =>
      match s.pendingGang l x with
      | none => s
      | some no =>
        match s.placeGang l x no with
        | some t => State.placeMany l n t
        | none => s

/-- Whether a launch has a gang to place. -/
def State.hasPending (s : State) (l : Nat) : Bool := ((Table.find s.launches l).bind fun x => s.pendingGang l x).isSome

/-- Place what a launch places in one step, if it fits: one gang, or all of a co-resident launch (R75, R193), of which nothing is
restored where an image of one of its gangs is refused (R215). -/
def State.placeUnit (s : State) (l : Nat) (x : Launch) : Option State :=
  if x.lrec.cores then
    match s.refusedGang l x with
    | some v => some (s.failRestore l x v)
    | none =>
      let t := State.placeMany l deviceSlots s
      if t.hasPending l then none else some t
  else (s.pendingGang l x).bind fun no => s.placeGang l x no

/-- Place units of a launch while they fit. -/
def State.placeAll (s : State) (l : Nat) (x : Launch) : State :=
  if x.lrec.cores then (s.placeUnit l x).getD s else State.placeMany l deviceSlots s

/-! ### Whether a launch could ever be placed (R193) -/

/-- The device with every core of the map in force free, those that have been fenced since included (R490). -/
def State.emptied (s : State) : State :=
  { s with groups := [], wgs := [], gangs := [], mats := [],
           cores := s.cores.map fun (c : Nat × CoreSt) => (c.1, { c.2 with items := [], drain := false, fenced := false, lost := false }) }

/-- The check of R193. -/
def State.couldPlace (s : State) (l : Nat) (x : Launch) : Bool :=
  let e := s.emptied
  if x.lrec.cores then
    let e := { e with launches := Table.insert e.launches l { x with next := 0, redo := [] },
                      ctxs := e.ctxs.map fun (c : Nat × Ctx) => (c.1, { c.2 with saved := c.2.saved.filter fun g => g.launch != l }) }
    !(State.placeMany l deviceSlots e).hasPending l
  else (e.startGang l x 0).isSome

/-- A launch that could never be placed is refused (R193): its record leaves its queue and it ends at once with status 4;
one of several devices is aborted on every member. Gangs of a launch already started that still run end with it (log 26). -/
def State.refuse (s : State) (l : Nat) : State :=
  match Table.find s.launches l with
  | none => s
  | some x =>
    if 1 < x.lrec.devices then s.abortEverywhere l
    else
      let s := s.dropSaved l
      let s := { s with queues := s.queues.map fun (q : Nat × List Nat) => (q.1, q.2.filter (· != l)) }
      let s := (s.gangsOf l).foldl (fun s k => s.killGang k false) (s.modLaunch l fun y => { y with started := true, next := y.lrec.gangs })
      (s.modLaunch l fun y => { y with redo := [], status := 4, ended := List.range y.lrec.gangs }).endLaunchIf l

/-! ### Pre-emption (R202 to R204) -/

/-- Raise the yield trap in every group of a gang (R204); a group still resuming holds it (R210). -/
def State.raiseYield (s : State) (k : Nat) : State :=
  let up (g : Group) : Group := match g.yield with
    | .none => { g with yield := .raised s.now }
    | .resumed | .overrun => { g with held := true }
    | _ => g
  { s with gangs := Table.adjust s.gangs k fun g => { g with yielding := some s.now },
           groups := s.groups.map fun (g : Nat × Group) => (g.1, if g.2.gang == some k then up g.2 else g.2) }

/-- Pre-empt a gang as a victim (R202). -/
def State.preempt (s : State) (k : Nat) : State :=
  let s := s.raiseYield k
  { s with gangs := Table.adjust s.gangs k fun g => { g with victim := true } }

/-- The device without some gangs, as a trial. -/
def State.without (s : State) (ks : List Nat) : State :=
  let ws := (s.wgs.filter fun w => ks.contains w.2.gang).map (·.1)
  { s with groups := s.groups.filter fun g => !(g.2.gang.any ks.contains),
           wgs := s.wgs.filter fun w => !ks.contains w.2.gang,
           gangs := s.gangs.filter fun g => !ks.contains g.1,
           mats := s.mats.filter fun m => !(m.2.owner.any ws.contains) }

/-- A unit of pre-emption: its gangs, priority, and when it was placed. -/
structure Prey where
  gangs  : List Nat
  prio   : Nat
  placed : Nat
  deriving DecidableEq, Repr

/-- The gangs that may be pre-empted for a priority (R202, R203), the gangs of a co-resident launch together: as one unit they count as
placed when the last of them was (DESIGN CHOICE, log 116: R202 speaks of one gang's placement). -/
def State.preys (s : State) (p : Nat) : List Prey :=
  s.launches.flatMap fun l =>
    let gs := s.gangs.filter fun g => g.2.launch == l.1
    if p ≤ l.2.lrec.prio || gs.isEmpty then []
    else if !l.2.lrec.cores then gs.map fun g => ⟨[g.1], l.2.lrec.prio, g.2.placed⟩
    else if 1 < l.2.lrec.devices then []
    else [⟨gs.map (·.1), l.2.lrec.prio, (gs.map fun g => g.2.placed).foldl max 0⟩]

/-- Whether a victim is taken before another (R202, step 1). -/
def Prey.before (a b : Prey) : Bool := a.prio < b.prio || (a.prio == b.prio && b.placed < a.placed)
/-- Insert into a list in the order of taking. -/
def Prey.into (a : Prey) : List Prey → List Prey
  | [] => [a]
  | b :: r => if b.before a then b :: a.into r else a :: b :: r

/-- The shortest prefix of victims that frees a place, in the reverse order of taking. -/
def takeUntil (ok : List Prey → Bool) : List Prey → List Prey → Option (List Prey)
  | _, [] => none
  | acc, a :: r => if ok (a :: acc) then some (a :: acc) else takeUntil ok (a :: acc) r

/-- Release, from the last taken on, each victim without which the rest still free a place (R202, step 2). -/
def spare (ok : List Prey → Bool) : List Prey → List Prey → List Prey
  | kept, [] => kept
  | kept, a :: r => if ok (kept ++ r) then spare ok kept r else spare ok (kept ++ [a]) r

/-- The victims for a launch that fits nowhere (R202). -/
def State.victims (s : State) (l : Nat) (x : Launch) : List Nat :=
  let ok (v : List Prey) : Bool := ((s.without (v.flatMap (·.gangs))).placeUnit l x).isSome
  match takeUntil ok [] ((s.preys x.lrec.prio).foldl (fun t a => a.into t) []) with
  | some v => (spare ok [] v).flatMap (·.gangs)
  | none => []

/-! ### `DISPATCHER_PASS` (R191 to R193) -/

/-- Whether a launch that waits for tokens may start (R191). -/
def State.tokensMet (s : State) (r : LRec) : Bool := r.waits.all fun t => t.value.toNat ≤ (s.token t.n).toNat

/-- Whether a launch has to wait: its context is held (R407), or its hoist is over and the last host or firmware access before it
does not lie back far enough (R444). -/
def State.heldBack (s : State) (x : Launch) : Bool :=
  (x.go && s.now < x.notBefore) || ((Table.find s.ctxs x.ctx).map fun c => c.hold).getD true

/-- The launches that compete for a queue's turn: those it has started and its eligible head, in the order they entered (DESIGN CHOICE,
log 115: R192 orders the queues only). -/
def State.competing (s : State) (q p : Nat) : List Nat :=
  (s.launches.filter fun l => l.2.lrec.queue == q && l.2.lrec.prio == p && (l.2.started ||
    ((Table.get [] s.queues q).head? == some l.1 && s.tokensMet l.2.lrec))).map (·.1)

/-- Pre-empt the victims for a launch whose next gang fits nowhere, unless one is still yielding (R202). -/
def State.makeWay (s : State) (l : Nat) : State :=
  match Table.find s.launches l with
  | some x => if s.hasPending l && !s.heldBack x && !(s.gangs.any fun g => g.2.victim) then (s.victims l x).foldl State.preempt s else s
  | none => s

/-- Whether gangs of a co-resident launch are still being saved: all of them are restored together (R203). -/
def State.halfSaved (s : State) (l : Nat) (x : Launch) : Bool := x.lrec.cores && s.gangs.any fun g => g.2.launch == l && g.2.yielding.isSome

/-- Give a launch its turn: a refusal, the gangs that fit, or the victims that make room; before its hoist is over nothing of it
is placed, but room is made for its first gang (R202, R416). The queue counts as served only if a gang was placed (DESIGN CHOICE,
log 47: R192 does not say). -/
def State.serve (s : State) (l : Nat) : State :=
  match Table.find s.launches l with
  | none => s
  | some x =>
    if s.heldBack x || !s.hasPending l || s.halfSaved l x then s
    else if !x.started && !s.couldPlace l x then s.refuse l
    else if !x.go then (if (s.placeUnit l x).isSome then s else s.makeWay l)
    else
      let before := s.serial
      let s := s.placeAll l x
      let s := if s.serial = before then s
        else
          let q := x.lrec.queue
          ({ s with queues := Table.put [] s.queues q ((Table.get [] s.queues q).filter (· != l)),
                    served := Table.insert s.served x.lrec.prio q } : State).modLaunch l fun y => { y with started := true }
      s.makeWay l

/-- The queues in the order of a level's round (R192). -/
def State.round (s : State) (p : Nat) : List Nat :=
  match Table.find s.served p with
  | some q => (List.range 64).map fun i => (q + 1 + i) % 64
  | none => List.range 64

/-- `DISPATCHER_PASS` (R191 to R193, R202): priorities from the highest, queues in round robin. Nothing after a fatal
error (R470). -/
def execDispatcherPass : State → Host.Outcome State Fault Refusal := fun s =>
  if s.fatal then .next s
  else .next ((List.range 8).foldl (fun s i =>
    (s.round (7 - i)).foldl (fun s q => (s.competing q (7 - i)).foldl State.serve s) s) s)

/-! ### Packed groups (R69, R70) -/

/-- The items of a partial group, in queue order. -/
def State.partial_ (s : State) (core l pc : Nat) : List Item := (s.core core).items.filter fun i => i.launch == l && i.pc == pc

/-- Whether the packing unit may start a partial group (R69, R407): a reserved slot is free, and it is full, has waited
2,048 clk, or a group of the launch waits in `SPQ`. -/
def State.mayPack (s : State) (core l pc : Nat) (x : Launch) : Bool :=
  let n := (s.partial_ core l pc).length
  n != 0 && s.packedOn l core < x.lrec.spawn && !(s.freeSlots core).isEmpty
    && !(((Table.find s.ctxs x.ctx).map fun c => c.hold).getD true) && !(s.core core).lost
    && (128 ≤ n || (s.core core).start.contains ⟨l, pc⟩ ||
      (s.groupsOn core).any fun g => g.2.launch == l && g.2.frags.any fun f => f.2.wait == .spq)

/-- Remove the first `n` items of a partial group from a queue. -/
def takeItems (l pc : Nat) : Nat → List Item → List Item
  | _, [] => []
  | n, i :: r => if n ≠ 0 ∧ i.launch = l ∧ i.pc = pc then takeItems l pc (n - 1) r else i :: takeItems l pc n r

/-- A packed group as it starts (R70): payload word j in `vj`, and the stamps of its items acquired (R381, R445). -/
def startPacked (l : Nat) (r : LRec) (n : Nat) (items : List Item) (pc now clk : Nat) : Group :=
  let lanes := firstLanes items.length
  let top := items.foldl (fun m i => max m i.stamp) 0
  let g : Group := Group.fresh {
      launch := l, gid := 2 ^ 32 + n, wg := none, gang := none, wgNo := 0xFFFFFFFF, no := 0xFFFFFFFF, role := .V,
      regs := r.regs, npreds := r.preds, packed := true, level := .user,
      frags := [(0, ⟨lanes, pc, 0, 1, if now < top then .horizon else .none, [], clk, none, false, false⟩)], retired := ~~~lanes, joins := 0,
      vregs := [], sregs := [], pregs := [], fflags := [], srseed := [], horizon := 0, record := Record.reset, handler := none,
      yield := .none, held := false, saved := none, walk := none, failed := [], relF := [], seen := [], landed := [],
      placed := now, was := [] } r.pre 0xFFFFFF 15 (max now top)
  (items.zip (List.range items.length)).foldl (fun (g : Group) i =>
    (i.1.payload.zip (List.range 8)).foldl (fun (g : Group) w => g.vset w.2 i.2 w.1) g) g

/-- `PACKED_GROUP_START` (R69, R70): nothing while the packing unit may not start the group. -/
def execPackedGroupStart (core launch pc : Nat) : State → Host.Outcome State Fault Refusal := fun s =>
  match Table.find s.launches launch with
  | none => .next s
  | some x =>
    if !s.mayPack core launch pc x then .next s
    else
      let items := (s.partial_ core launch pc).take 128
      let slot := (s.freeSlots core).headD 0
      let s := s.modCore core fun c => { c with items := takeItems launch pc 128 c.items, start := c.start.filter (· != ⟨launch, pc⟩) }
      let s := s.setGroup (64 * core + slot) (startPacked launch x.lrec x.packed items pc s.now s.clk)
      .next (s.modLaunch launch fun y => { y with packed := y.packed + 1 })

/-! ### Yielding (R204 to R208, R440) -/

/-- A group takes its yield trap (R204, R208): with a `.yield` label it starts the handler, without one it stops where it
stands. The monitor of a fragment that re-reads its word is dropped. -/
def State.takeYield (s : State) (k tb : Nat) (g : Group) : State :=
  let s := g.frags.foldl (fun s f => match f.2.wait with
    | .reread i _ => s.dropMonitor i
    | _ => s) s
  let s := s.forgetPasses k
  let calm := g.frags.map fun (f : Nat × Frag) => (f.1, f.2.calm s.clk)
  match (Table.find s.launches g.launch).bind fun l => l.lrec.yield with
  | some y => s.setGroup k { g with saved := some ⟨calm, g.fflags, g.srseed, g.horizon⟩, yield := .running tb, frags := [(0, wholeFrag g (12 * y) s.clk .none)] }
  | none => s.setGroup k { g with frags := calm, yield := .suspended }

/-- Whether an instruction of a group that has been issued has still to complete (R204, step 1): an access that host memory has
still to answer or has answered, an acquire, or matrix work that is to raise flags (R81, R107). -/
def State.unfinished (s : State) (g : Group) : Bool :=
  s.flagsBusy g || g.frags.any fun f => f.2.wait == .host || f.2.wait == .horizon || (f.2.wait == .none && f.2.hostOk)

/-- `YIELD_TRAP` (R204): at an instruction boundary, and not while a supervisor handler runs. -/
def execYieldTrap (g : Nat) : State → Host.Outcome State Fault Refusal := fun s =>
  match s.group? g with
  | none => .next s
  | some x =>
    match x.yield, x.handler with
    | .raised tb, none => if s.unfinished x then .next s else .next (({ s with cur := if (s.cur.map (·.g)) == some g then none else s.cur } : State).takeYield g tb x)
    | _, _ => .next s

/-- The yield budget in ns (R205). -/
def yieldBudget : Nat := 50000

/-- Whether a group of a yielding gang has overrun its budget: counted from its trap, for a group that holds one from
the trap it takes (R205, R210). -/
def Group.overran (g : Group) (now : Nat) : Bool :=
  match g.yield with
  | .raised tb | .running tb => tb + yieldBudget ≤ now
  | _ => false

/-- A group is stopped where it stands, with kind 0x34 (R440). -/
def State.stopGroup (s : State) (k : Nat) (g : Group) : State :=
  let pc := ((g.acting.head?).map fun f => f.2.pc).getD 0
  let lanes := maskOf (lanesOf (g.frags.foldl (fun m f => m ||| f.2.mask) 0))
  let r := (Event.plain kOverrun 0 lanes).record pc
  let s := g.frags.foldl (fun s f => match f.2.wait with
    | .reread i _ => s.dropMonitor i
    | _ => s) (s.dropCur k)
  (s.setGroup k { g with record := r, yield := .suspended }).reportFault k g r 0 0 lanes

/-- `YIELD_BUDGET_EXPIRY` (R440): every group of the gang that has not suspended is stopped in place. -/
def execYieldBudgetExpiry (gang : Nat) : State → Host.Outcome State Fault Refusal := fun s =>
  let gs := s.groups.filter fun g => g.2.gang == some gang
  if ((Table.find s.gangs gang).bind fun x => x.yielding).isSome && gs.any fun g => g.2.overran s.now then
    .next ((gs.filter fun g => g.2.yield != .suspended).foldl (fun s g => s.stopGroup g.1 g.2) s)
  else .next s

/-- The windows that a gang has still to write back (R206): workgroup, entry, window. -/
def State.owed (s : State) (gang : Nat) : List (Nat × Nat × Window) :=
  (s.wgs.filter fun w => w.2.gang == gang).flatMap fun w =>
    (w.2.wins.filter fun v => !(w.2.dirtyWords v.2).isEmpty).map fun v => (w.1, v.1, v.2)

/-- The thread that writes a window of a workgroup back at a save: the lowest lane of its first group (log 27). -/
def State.writer (s : State) (w : Nat) : Option X :=
  (s.groups.find? fun g => g.2.wg == some w).bind fun g => (g.2.acting.head?).map fun f =>
    ⟨g.1, f.1, g.2, { f.2 with hostOk := true }, laneBit (lowLane f.2.mask)⟩

/-- The saved form of a quiet gang (R207, R208, R440). -/
def State.saveOf (s : State) (k : Nat) (x : Gang) : SavedGang :=
  let gs := (s.groups.filter fun g => g.2.gang == some k).map fun (g : Nat × Group) =>
    { g.2 with was := g.2.was ++ [(64 * s.logical (coreOf g.1) + slotOf g.1, g.2.placed, s.now)] }
  let ws := s.wgs.filter fun w => w.2.gang == k
  let mats := ws.flatMap fun w => ((List.range 4).filter fun p => (s.mat w.2.core p).owner == some w.1).map fun p =>
    (w.1, { s.mat w.2.core p with cache := [] })
  ⟨k, x.launch, x.no, x.pens, gs, ws, mats, (ws.map (·.1)).filter fun w => gs.any fun g => g.wg == some w && !g.quiet, []⟩

/-- Whether a save reads a store (R207, R208, R440): registers of a group that the firmware saves, allocations saved whole,
accumulators and kiln slots. -/
def State.savesStore (s : State) (k : Nat) (v : SavedGang) (x : Store) : Bool :=
  match x with
  | .vreg g _ _ => (s.group? g).any fun g => g.gang == some k && !g.quiet
  | .spad w _ => v.full.contains w
  | .acc m _ | .kiln m _ _ => (s.mat (m / 4) (m % 4)).owner.any fun w => v.wgs.any fun q => q.1 == w
  | _ => false
/-- A save reads the stores that hold what it saves (R456); whether an uncorrectable error was found. -/
def State.saveReads (s : State) (k : Nat) (v : SavedGang) : State × Bool :=
  ((s.flaws.map (·.1)).filter (s.savesStore k v)).foldl (fun (acc : State × Bool) x =>
    let (s, bad) := acc.1.readStore x (some (s.ctxOf v.launch))
    (s, acc.2 || bad)) (s, false)

/-- A gang's resources are released, its sealed-copy counts kept (R207). -/
def State.vacate (s : State) (k : Nat) : State :=
  let ws := (s.wgs.filter fun w => w.2.gang == k).map (·.1)
  let s := ((s.groups.filter fun g => g.2.gang == some k).map (·.1)).foldl (fun s g => s.removeGroup g) s
  let s := ws.foldl (fun s w => s.mendAll (Store.ofWg w)) s
  let s := ((s.mats.filter fun m => m.2.owner.any ws.contains).map (·.1)).foldl (fun s u => s.mendAll (Store.ofUnit u)) s
  { s with wgs := s.wgs.filter (fun w => w.2.gang != k), gangs := Table.erase s.gangs k,
           mats := s.mats.filter fun m => !(m.2.owner.any ws.contains) }

/-- Whether a gang has come to its quiesce point and drained (R206). -/
def State.quiesced (s : State) (k : Nat) (x : Gang) : Bool :=
  x.yielding.isSome && (s.groups.all fun g => g.2.gang != some k || g.2.yield == .suspended)
    && !(s.ops.any fun o => o.2.gang == some k)

/-- Write a window back at a save, as `WINFL` does (R206, R329): the firmware fills the from-pool leaves that it touches first
(R496); a write that cannot perform kills the gang (log 27). To the workgroup's groups the writes are of before the yield (R211).
None while nothing can be done. -/
def State.saveWindow (s : State) (e : Nat) (v : Window) (x : X) (w : Workgroup) : Option State :=
  let ctx := s.ctxOf x.g.launch
  let go (s : State) (lines : List Nat) : Option State :=
    match s.writeBack x e fun w _ => w with
    | (t, .next) => some { t with groups := t.groups.map fun (g : Nat × Group) =>
        (g.1, if g.2.wg == x.g.wg then { g.2 with was := g.2.was ++ [(64 * s.logical x.core + slotOf x.k, s.now, s.now + 1)] } else g.2) }
    | (t, .gone) => some t
    | (t, .event ev) => some (t.escalate x.k (ev.record x.f.pc) 0 x.f.mask)
    | (t, _) => if lines.any fun n => (s.entry n).devs.any fun d => !(s.entry n).asked.contains d then some t else none
  match engEach (fun s (q : Nat × Word) => s.engTranslate x.core ctx q.1 true) s (w.dirtyWords v) with
  | .wait t true => some t
  | .wait _ false => none
  | .bad t _ => go t []
  | .ok t ps => go t (ps.map fun p => p.1 / 128)

/-- Save a quiesced gang: its windows are written back first, one at a time; a store that cannot be read kills it (R206, R207,
R456). None while nothing can be done. -/
def State.saveGang (s : State) (k : Nat) (x : Gang) : Option State :=
  if !s.quiesced k x then none
  else
    match s.owed k with
    | (w, e, v) :: _ =>
      match s.writer w, Table.find s.wgs w with
      | some y, some g => s.saveWindow e v y g
      | _, _ => some (s.kill k true)
    | [] =>
      let v := s.saveOf k x
      let (s, bad) := s.saveReads k v
      match bad, s.groups.find? fun g => g.2.gang == some k with
      | true, some g => some (s.abortKill g.1 (abortRecord 3 0 0) 0)
      | _, _ =>
        let ctx := s.ctxOf x.launch
        some (((s.vacate k).modCtx ctx fun c => { c with saved := c.saved ++ [v] }).sealSaved ctx)

/-- `GANG_STATE_SAVE` (R206 to R208, R215). -/
def execGangStateSave (gang : Nat) : State → Host.Outcome State Fault Refusal := fun s =>
  match Table.find s.gangs gang with
  | none => .next s
  | some x => .next ((s.saveGang gang x).getD s)

end Sys2Proof.Machine
end

