-- ==== Sys2Proof/Machine/Coherence.lean ====
section
/-! DEFINITION. The messages between cores and homes as steps of their own (R142 to R153), prefetches that land (R325) and
table walks (R135, R137). The accesses of threads and engines perform whole (R174); these steps are the same transitions,
message by message. -/

namespace Sys2Proof.Machine

/-- A core and a line that requests may name: a core of the device, local memory (R142). -/
def lineOk (core line : Nat) : Bool := core < 144 && 128 * line < dramEnd

/-- Whether nothing is on its way from a core to a line's home, or back: what one of them sends then arrives next (R143). -/
def State.wayClear (s : State) (core line : Nat) (toHome : Bool) : Bool :=
  !(s.msgs.any fun m => m.core == core && m.toHome == toHome && homeOf (128 * m.line) == homeOf (128 * line))

/-- Whether the home takes a request of a core for a line now (R143, R164): one of a line that peers hold partial state of waits
for theirs. -/
def State.takesRequest (s : State) (core line : Nat) : Bool := lineOk core line && !s.homeBusy line && s.wayClear core line true

/-! ### Requests (R145) -/

/-- A request waits while holders are probed, each under the line's seq (R143, R146, R150). -/
def State.askHolders (s : State) (line c : Nat) (q : Req) (m : Word) (hs : List Nat) (k : ProbeKind) : State :=
  let seq := (s.entry line).seq
  let p : Pend := ⟨c, q, m, hs, []⟩
  if hs.isEmpty then s.servePend line p
  else
    let s := s.modEntry line fun d => { d with pend := some p }
    { s with msgs := s.msgs ++ hs.map fun y => .probe y line seq k }

/-- `READ` (R145, R147, R155): nothing while the line's home is busy. -/
def execRead (core line : Nat) (mask : Word) : State → Host.Outcome State Fault Refusal := fun s =>
  let d := s.entry line
  if !s.takesRequest core line then .next s
  else if !d.devs.isEmpty then .next (s.askPeers line)
  else if d.sealed.isSome then .next (s.sendGrant core line mask false)
  else
    match d.st with
    | .I | .S => .next (s.askHolders line core .read mask [] .forward)
    | .M =>
      if d.holders.contains core then .next (s.sendGrant core line mask true)
      else .next (s.askHolders line core .read mask d.holders .forward)
    | .D =>
      if d.masks.any fun k => k.1 != core && k.2 &&& mask != 0 then .next (s.askHolders line core .read mask d.holders .recall)
      else .next s
    | .P => .next (s.askHolders line core .read mask d.holders .merge)

/-- `OWN` (R145, R148, R149). -/
def execOwn (core line : Nat) (mask : Word) : State → Host.Outcome State Fault Refusal := fun s =>
  let d := s.entry line
  if !s.takesRequest core line || d.sealed.isSome then .next s
  else if !d.devs.isEmpty then .next (s.askPeers line)
  else
    match d.st with
    | .I => .next ((s.dropL1 core line).askHolders line core .own mask [] .recall)
    | .S => .next (s.askHolders line core .own mask (d.holders.filter (· != core)) .recall)
    | .M =>
      if d.holders.contains core then .next (s.sendGrant core line mask true)
      else .next (s.askHolders line core .own mask d.holders .downgrade)
    | .D =>
      let mine := Table.get 0 d.masks core
      let hs := if d.holders.contains core then d.holders else d.holders ++ [core]
      if (d.masks.all fun k => k.1 == core || k.2 &&& mask == 0) && hs.length ≤ 8 then
        .next ((s.modEntry line fun d => { d with holders := hs, masks := Table.insert d.masks core (mine ||| mask) }).sendGrant core line mask true)
      else .next (s.askHolders line core .own mask d.holders .recall)
    | .P => .next (s.askHolders line core .own mask d.holders .merge)

/-- A holder joins the partial state of a line (R145, R159): a core, or a peer device, which is told so (R415). -/
def State.joinP (s : State) (line c : Nat) : State :=
  if c < 256 then s.modEntry line fun d => if d.holders.contains c then d else { d with holders := d.holders ++ [c] }
  else (s.modEntry line fun d => if d.devs.contains (c - 256) then d else { d with devs := d.devs ++ [c - 256] }).send (c - 256) (.joined line)

/-- The home takes the Update of a core or a peer (R145, R164): a copy of the line that the core holds is dropped. -/
def State.takeUpdate (s : State) (core line : Nat) (tag : Op) : State :=
  let d := s.entry line
  match d.st with
  | .P =>
    if d.tag = tag then s.joinP line core
    else if !d.devs.isEmpty then s.askPeers line
    else s.askHolders line core (.upd tag) 0 d.holders .merge
  | .I => (s.dropL1 core line).askHolders line core (.upd tag) 0 [] .recall
  | _ => s.askHolders line core (.upd tag) 0 d.holders .recall

/-- Whether the Update of a peer has to wait until peers have given up their partials of the line (R164). -/
def Dir.mustAsk (d : Dir) (tag : Op) : Bool := d.st == .P && !d.devs.isEmpty && (d.tag != tag || !d.asked.isEmpty)

/-- `UPDATE` (R145, R159, R164): a core joins the partial state of the line of a word under a tag; a device does that has asked
to, 256 and its node standing for the core. -/
def execUpdate (core addr : Nat) (tag : Op) : State → Host.Outcome State Fault Refusal := fun s =>
  let line := addr / 128
  let d := s.entry line
  if core < 256 then
    if !s.takesRequest core line || d.sealed.isSome then .next s else .next (s.takeUpdate core line tag)
  else if !d.joinq.contains (core - 256, tag) || s.homeBusy line || d.sealed.isSome then .next s
  else if d.mustAsk tag then .next (s.askPeers line)
  else
    let s := s.modEntry line fun d => { d with joinq := d.joinq.erase (core - 256, tag) }
    .next ((if d.st == .P && !d.dparts.isEmpty then (s.mergeLine line).told else s).takeUpdate core line tag)

/-! ### Messages in flight -/

/-- The oldest message between a core and a home in a direction, where it is about a line (R143), and the state without it. -/
def State.takeMsg (s : State) (core line : Nat) (toHome : Bool) : Option (Msg × State) :=
  match s.msgs.find? fun m => m.core == core && m.toHome == toHome && homeOf (128 * m.line) == homeOf (128 * line) with
  | some m => if m.line == line then some (m, { s with msgs := s.msgs.erase m }) else none
  | none => none
/-- Send a message. -/
def State.post (s : State) (m : Msg) : State := { s with msgs := s.msgs ++ [m] }

/-- What a core returns of a copy: its dirty words, and the stamps of the words of a mask. -/
def L1Line.returned (x : L1Line) (m : Word) (kept : Option Word) : Returned :=
  ⟨x.words.filter fun w => x.dirty.getLsbD w.1 && m.getLsbD w.1, x.stamps.filter fun w => m.getLsbD w.1, [], kept⟩

/-- Install what a core returned (R143, R146, R443). -/
def State.installReturned (s : State) (line : Nat) (r : Returned) : State :=
  let s := r.words.foldl (fun s w => s.putWord (128 * line + 4 * w.1) w.2) s
  r.stamps.foldl (fun s w => s.setStamps (128 * line + 4 * w.1) ((s.stampsOf (128 * line + 4 * w.1)).back w.2)) s

/-- A core sends a Writeback (R144): it gives up a copy that it holds in M or D. -/
def State.sendWriteback (s : State) (c line : Nat) : State :=
  let d := s.entry line
  let s := s.readCopy c line
  match s.l1? c line with
  | none => s
  | some x =>
    if (d.st == .M || d.st == .D) && d.holders.contains c then
      (s.dropL1 c line).post (.writeback c line x.seq x.dirty (x.returned (BitVec.allOnes 32) none))
    else s

/-- A core sends a Flush (R163): it gives up its partials of a line; one that is uncorrectable loses the line (R456). -/
def State.sendFlush (s : State) (c line : Nat) : State :=
  if !(s.core c).ubuf.any fun u => u.addr / 128 == line then s
  else
    let (s, flawed) := s.readSlots line
    if flawed then (s.clearParts line).lose line (BitVec.allOnes 32)
    else
      let (us, s) := s.popSlots c line
      s.post (.flush c line (s.entry line).tag us)

/-- Install the words of a Grant in a core's L1 (R143, R150, R443). -/
def State.takeGrant (s : State) (c line : Nat) (seq : BitVec 8) (words : Table Word) (stamps : Table Stamps) : State :=
  let s := s.makeRoom c line
  let x := (s.l1? c line).getD ⟨.dc, seq, 0, 0, [], [], 0⟩
  let x := (words.filter fun w => !x.valid.getLsbD w.1).foldl (fun (x : L1Line) w =>
    { x with valid := x.valid ||| wordBit w.1, words := Table.put 0 x.words w.1 w.2, stamps := Table.put Stamps.blank x.stamps w.1 (Table.get Stamps.blank stamps w.1) }) x
  s.setL1 c line { x with seq := seq }

/-- Whether a seq is older than another (R150). -/
def seqOlder (a b : BitVec 8) : Bool := 1 ≤ (b - a).toNat && (b - a).toNat ≤ 127

/-- A core answers a merge probe with its partials (R164). -/
def State.answerMerge (s : State) (c line : Nat) (seq : BitVec 8) : State :=
  if !(s.core c).ubuf.any fun u => u.addr / 128 == line then s.post (.gone c line seq)
  else
    let (s, flawed) := s.readSlots line
    let (us, s) := s.popSlots c line
    if flawed then (s.lose line (BitVec.allOnes 32)).post (.gone c line seq)
    else s.post (.answer c line seq ⟨[], [], us, none⟩)

/-- A core answers a probe (R146, R151): recall and forward-read return the dirty words; a downgrade for words that the
copy has not written keeps the dirty ones (R145), and is a recall otherwise; a merge returns the partials, or the words of D. -/
def State.answerProbe (s : State) (c line : Nat) (seq : BitVec 8) (k : ProbeKind) : State :=
  if k == .merge && (s.entry line).st == .P then s.answerMerge c line seq
  else
    let s := s.readCopy c line
    let say (s : State) (r : Returned) : State := s.post (.answer c line seq r)
    match s.l1? c line with
    | none => s.post (.gone c line seq)
    | some x =>
      let want := (((s.entry line).pend).map fun p => p.mask).getD 0
      match k with
      | .forward => say (s.setL1 c line { x with dirty := 0 }) (x.returned (BitVec.allOnes 32) (some x.valid))
      | .downgrade =>
        if x.dirty &&& want = 0 then
          let s := if x.dirty = 0 then s.dropL1 c line
            else s.setL1 c line { x with valid := x.dirty, stamps := x.stamps.filter fun w => x.dirty.getLsbD w.1 }
          say s (x.returned (~~~x.dirty) (some x.dirty))
        else say (s.dropL1 c line) (x.returned (BitVec.allOnes 32) none)
      | _ => say (s.dropL1 c line) (x.returned (BitVec.allOnes 32) none)

/-- The home takes what a holder returned in answer to a probe (R143, R146, R164). -/
def State.takeAnswer (s : State) (core line : Nat) (r : Returned) : State :=
  ((s.installReturned line r).modEntry line fun d =>
    let d := { d with pend := d.pend.map fun (p : Pend) => { p with parts := p.parts ++ r.parts.map fun u => (core, u) } }
    match (d.pend.map fun (p : Pend) => p.req : Option Req), r.kept with
    | some .read, some _ => { d with st := .S }
    | some .own, some m => { d with st := .D, masks := [(core, m)] }
    | _, _ => if d.st = .P then { d with holders := d.holders.filter (· != core) } else d.without core).answered line core

/-- A core without a copy is no holder; where its Writeback has been taken as its answer, the probe is closed and nothing
changes (R144, R151, R152). -/
def State.takeGone (s : State) (core line : Nat) : State :=
  if ((s.entry line).pend.map fun p => p.left.contains core).getD false then
    (s.modEntry line fun d => if d.st = .P then { d with holders := d.holders.filter (· != core) } else d.without core).answered line core
  else s

/-- WHAT A MESSAGE DOES WHERE IT ARRIVES (R143 to R152): a probe older than the core's copy is discarded, and a lost core answers
none; to a probe under way a Writeback is the answer. -/
def State.arrive (s : State) : Msg → State
  | .grant c line seq words stamps _ => s.takeGrant c line seq words stamps
  | .probe c line seq k =>
    if (match s.l1? c line with
      | some x => seqOlder seq x.seq
      | none => false) then s else s.answerProbe c line seq k
  | .writeback c line _ _ r => ((s.installReturned line r).modEntry line fun d => d.without c).answered line c
  | .flush c line _ us => s.takeFlush c line us
  | .answer c line _ r => s.takeAnswer c line r
  | .gone c line _ => s.takeGone c line

/-- A message of a core and a line arrives if it is next on its way and of a kind. -/
def State.arriveIf (s : State) (core line : Nat) (toHome : Bool) (kind : Msg → Bool) : State :=
  match s.takeMsg core line toHome with
  | some (m, t) => if kind m then t.arrive m else s
  | none => s

/-- `WRITEBACK` (R143 to R145, R152): one on its way arrives; where nothing is, the core sends one. -/
def execWriteback (core line : Nat) : State → Host.Outcome State Fault Refusal := fun s =>
  match s.takeMsg core line true with
  | some (.writeback .., _) => .next (s.arriveIf core line true fun _ => true)
  | some _ => .next s
  | none => if lineOk core line && !(s.core core).lost then .next (s.sendWriteback core line) else .next s

/-- `FLUSH` (R143, R145, R159, R163): one on its way arrives; where nothing is, the core sends one. -/
def execFlush (core line : Nat) : State → Host.Outcome State Fault Refusal := fun s =>
  match s.takeMsg core line true with
  | some (.flush .., _) => .next (s.arriveIf core line true fun _ => true)
  | some _ => .next s
  | none => if core < 144 && !(s.core core).lost then .next (s.sendFlush core line) else .next s

/-- `GRANT` (R143): the copy arrives. -/
def execGrant (core line : Nat) : State → Host.Outcome State Fault Refusal := fun s =>
  .next (s.arriveIf core line false fun m => match m with
    | .grant .. => true
    | _ => false)

/-- `PROBE` (R151): a core that is not lost takes it. -/
def execProbe (core line : Nat) : State → Host.Outcome State Fault Refusal := fun s =>
  if (s.core core).lost then .next s
  else
    .next (s.arriveIf core line false fun m => match m with
      | .probe .. => true
      | _ => false)

/-- `ANSWER` (R143, R146, R164): with the last holder's, the request is served. -/
def execAnswer (core line : Nat) : State → Host.Outcome State Fault Refusal := fun s =>
  .next (s.arriveIf core line true fun m => match m with
    | .answer .. => true
    | _ => false)

/-- `GONE` (R144, R151, R152). -/
def execGone (core line : Nat) : State → Host.Outcome State Fault Refusal := fun s =>
  .next (s.arriveIf core line true fun m => match m with
    | .gone .. => true
    | _ => false)

/-! ### Prefetches (R325) -/

/-- `PREFETCH_LANDS`: a requested word arrives in the core's L1, under its policy hint (R318), or in its home slice (R128); one that
cannot be delivered is told of (R460) and dropped (R462). -/
def execPrefetchLands (i : Nat) : State → Host.Outcome State Fault Refusal := fun s =>
  match s.prefetches.find? fun p => p.id == i with
  | none => .next s
  | some p =>
    if s.lineBusy (p.addr / 128) then .next (s.askPeers (p.addr / 128))
    else
      let s := { s with prefetches := s.prefetches.filter fun q => q.id != i }
      let s := s.readStores (some p.core) (some p.ctx) p.addr
      let s := if s.inL1 p.core p.addr || (s.dirtyAt p.addr).isSome then s else s.fetchWords [p.addr]
      match s.badAt p.core p.addr with
      | some code => .next (s.noteAbort p.addr code (some p.ctx))
      | none => .next (if p.l1 then (s.prepRead p.core p.hint false (p.addr / 128) p.cls (wordBit (p.addr / 4 % 32))).told else s)

/-! ### The table walker (R135, R137) -/

/-- Entries of a core's TLB and of a cluster's (R137). -/
def coreTlb : Nat := 256
def clusterTlb : Nat := 8192

/-- `TABLE_WALK`: a miss of both TLBs is walked; a populated leaf enters them. A from-pool leaf and a fault change nothing
here: they are the access's (R139). -/
def execTableWalk (core ctx va : Nat) : State → Host.Outcome State Fault Refusal := fun s =>
  if core < 144 ∧ va < 2 ^ 57 ∧ (s.tlbHit core ctx va).isNone = true then
    let s := s.noteWalk ctx va
    match s.walk ctx va with
    | .leaf _ lv e =>
      if leafOk e lv && ptePop e == 0 then
        let b := levelBits lv
        let t : Tlb := ⟨ctx, va / 2 ^ b * 2 ^ b, b, e⟩
        let s := s.modCore core fun c => { c with tlb := tlbAdd coreTlb c.tlb t }
        .next { s with ctlb := Table.put [] s.ctlb (clusterOf core) (tlbAdd clusterTlb (Table.get [] s.ctlb (clusterOf core)) t) }
      else .next s
    | .bad => .next s
  else .next s

end Sys2Proof.Machine
end

