-- ==== Sys2Proof/Machine/Dram.lean ====
section
/-! DEFINITION. Bursts between a channel controller and its word devices (R129 to R131, R453 to R455), abort completions
(R461 to R463), and the loss of a core (R468, R469). -/

namespace Sys2Proof.Machine

/-! ### Bursts (R130, R131, R453 to R455) -/

/-- A burst command that the fields of R130 can hold, on a channel of the device. -/
def burstOk (chan : Nat) (b : Burst) : Bool :=
  chan < 256 && b.op < 3 && b.page < 393216 && 1 ≤ b.count && b.count ≤ 16 && b.masks.length ≤ 16 &&
    (if b.kind = 0 then 1 ≤ b.stride && b.stride < 1024 && b.start + (b.count - 1) * b.stride < 1024
      else b.kind = 1 && b.count ≤ b.list.length && b.list.length ≤ 16 && b.list.all fun w => w < 1024)

/-- `BURST_COMMAND` (R131): a channel's word devices receive a command. -/
def execBurstCommand (chan : Nat) (b : Burst) : State → Host.Outcome State Fault Refusal := fun s =>
  if burstOk chan b then
    let (i, s) := s.fresh
    .next { s with bursts := s.bursts ++ [⟨i, chan, b, 0, []⟩] }
  else .next s

/-- The physical addresses of a burst's words, by position (R126). -/
def Flight.addrs (f : Flight) : List Nat := (burstOffs f.b).map (burstAddr f.chan f.b)

/-- `BURST_COMPLETE` (R453, R454): a bad frame is reissued up to three times; then every word of the burst is
uncorrectable, and who reads it aborts with code 1 (R463). -/
def execBurstComplete (i : Nat) (frameOk : Bool) : State → Host.Outcome State Fault Refusal := fun s =>
  match s.bursts.find? fun f => f.id == i with
  | none => .next s
  | some f =>
    let rest := s.bursts.filter fun g => g.id != i
    if frameOk then
      .next ((f.addrs.zip (List.range f.b.count)).foldl (fun s q => s.burstWord f.b.op q.1 (f.b.masks.getD q.2 0xF)) { s with bursts := rest })
    else if f.tries < 3 then .next { s with bursts := s.bursts.map fun g => if g.id == i then { g with tries := g.tries + 1 } else g }
    else
      .next ((({ s with bursts := rest, spoilt := f.addrs.foldl (fun l a => addSorted (a / 4) l) s.spoilt } : State).log1 4 f.chan 0 0 0 0).alarm
        none)

/-- `DEVICE_BEAT_TIMEOUT` (R455): after a second miss of one burst the word device is failed on its channel. -/
def execDeviceBeatTimeout (i dev : Nat) : State → Host.Outcome State Fault Refusal := fun s =>
  match s.bursts.find? fun f => f.id == i with
  | none => .next s
  | some f =>
    if !((burstOffs f.b).any fun w => devOf w == dev) then .next s
    else if !f.missed.contains dev then .next { s with bursts := s.bursts.map fun g => if g.id == i then { g with missed := g.missed ++ [dev] } else g }
    else if (Table.get 0 s.devFail f.chan).getLsbD dev then .next s
    else
      let m := Table.get 0 s.devFail f.chan ||| BitVec.twoPow 16 dev
      let s := { s with devFail := Table.put 0 s.devFail f.chan m, health := { s.health with wdev := Table.put 0 s.health.wdev f.chan m } }
      .next (s.log1 5 f.chan 0 0 0 (BitVec.ofNat 32 dev))

/-! ### Abort completions (R462) -/

/-- The instruction index at which a group stands. -/
def Group.index (g : Group) : Nat := ((g.acting.head?).map fun f => f.2.pc / 12).getD 0
/-- The active lanes of a group's acting fragments. -/
def Group.live (g : Group) : Mask := g.acting.foldl (fun m f => m ||| f.2.mask) 0

/-- The record and alerts of the error behind an abort that answers an access to a virtual address (R459, R460). -/
def State.noteAt (s : State) (core ctx va code : Nat) : State :=
  match s.translate core ctx va with
  | .page pa _ _ _ => s.noteAbort pa code (some ctx)
  | _ => s

/-- A group's thread or walker consumes an abort. -/
def State.abortGroup (s : State) (k code addr : Nat) : State :=
  match s.group? k with
  | some g => (s.noteAt (coreOf k) (s.ctxOf g.launch) addr code).abortKill k (abortRecord code addr g.index) g.live
  | none => s

/-- `ABORT_COMPLETION` (R460, R462): a requester receives an abort in place of data. -/
def execAbortCompletion (who : AbortWho) (code addr : Nat) : State → Host.Outcome State Fault Refusal := fun s =>
  match who with
  | .thread k | .walker k => .next (s.abortGroup k code addr)
  | .matrix i =>
    match Table.find s.ops i with
    | some o => if o.cls = 1 ∨ o.cls = 5 then .next (matKill o 0 (s.noteAt o.core (o.ctx s) addr code) ⟨8, code, addr⟩) else .next s
    | none => .next s
  | .copy i =>
    match Table.find s.ops i with
    | some o =>
      match o.k with
      | .copy c => if o.done ∨ c.status ≠ 0 then .next s else .next ((s.noteAt o.core (o.ctx s) addr code).modCopy i fun d => { d with status := 8 })
      | _ => .next s
    | none => .next s
  | .prefetch i =>
    match s.prefetches.find? fun p => p.id == i with
    | some p => .next { s.noteAbort p.addr code (some p.ctx) with prefetches := s.prefetches.filter fun p => p.id != i }
    | none => .next s
  | .merge line =>
    if (s.entry line).st = .P then
      .next ((((s.noteAbort addr code none).clearParts line).modEntry line fun d => { d with devs := [], pend := none }).lose line (BitVec.allOnes 32))
    else .next s
  | .command fn q =>
    match s.cmd? fn q with
    | some c => if c.out.isSome then .next s else .next ((s.noteAt homeReader c.ctx addr code).retireCmd c 6 0)
    | none => .next s

/-! ### The loss of a core (R468, R469, R489) -/

/-- The state codes of a unit's health entry (R494). -/
def uWorn : BitVec 4 := 1
def uFenced : BitVec 4 := 2
def uFailed : BitVec 4 := 3
def uLost : BitVec 4 := 4

/-- Record a unit's state in the health data (R489, R494). -/
def State.markUnit (s : State) (u : Nat) (st : BitVec 4) : State :=
  let x := Table.get UnitHealth.reset s.health.units u
  { s with health := { s.health with units := Table.put UnitHealth.reset s.health.units u { x with st := st } } }

/-- Fence a core (R489, R490): it receives no placement; the map changes later (R491). -/
def State.fence (s : State) (c : Nat) (st : BitVec 4) : State := (s.markUnit c st).modCore c fun k => { k with fenced := true }

/-- A core is lost (R468): every gang with a group or a workgroup on it is killed, and relaunched where R466 lets it; its
packed groups and queued items end; its copies and partials are gone, and it is fenced (R489, log 28). -/
def State.loseCore (s : State) (c : Nat) : State :=
  if (s.core c).lost then s
  else
    let s := (s.fence c uLost).modCore c fun k => { k with lost := true, l1 := [], ubuf := [], tlb := [], start := [], overdue := [], passed := [] }
    let s := s.mendAll fun x => match x with
      | .l1 d _ | .slot d _ => d == c
      | _ => false
    let gangs := (s.gangs.filter fun g => s.wgs.any fun w => w.2.gang == g.1 && w.2.core == c).map (·.1)
    let s := gangs.foldl (fun s k => s.kill k true) s
    let packed := s.groups.filter fun g => coreOf g.1 == c
    let s := packed.foldl (fun s g => s.killPacked g.1 g.2) s
    let ls := ((s.core c).items.map (·.launch)).dedup
    ls.foldl (fun s l => s.endLaunchIf l) (s.modCore c fun k => { k with items := [] })

/-- What a lost core sent to a home slice before its loss arrives (R143); what was on its way to it is gone. -/
def State.dropMsgs (s : State) (slice c : Nat) : State :=
  let mine := s.msgs.filter fun m => m.core == c && homeOf (128 * m.line) == slice
  (mine.filter Msg.toHome).foldl State.arrive { s with msgs := s.msgs.filter fun m => !(m.core == c && homeOf (128 * m.line) == slice) }

/-- A home removes a lost core from a line (R469): the words it alone held in M or D are lost; a line in P is lost after
the other holders' partials have been merged and stored. -/
def State.removeHolder (s : State) (c line : Nat) : State :=
  let d := s.entry line
  let s := match d.pend with
    | some p => if p.core = c then s.modEntry line fun d => { d with pend := none } else s
    | none => s
  if !d.holders.contains c then s.answered line c
  else
    match d.st with
    | .M => ((s.modEntry line fun d => d.without c).lose line (BitVec.allOnes 32)).answered line c
    | .D => ((s.modEntry line fun d => d.without c).lose line (Table.get 0 d.masks c)).answered line c
    | .P =>
      let parts := ((d.pend.map fun p => p.parts).getD []).filter fun q => q.1 != c
      let s := s.modEntry line fun d => { d with holders := d.holders.filter (· != c), pend := none }
      (s.mergeAnswers line parts).told.lose line (BitVec.allOnes 32)
    | _ => (s.modEntry line fun d => d.without c).answered line c

/-- A home slice removes a lost core from its lines. -/
def State.removeFrom (s : State) (slice c : Nat) : State :=
  let s := s.dropMsgs slice c
  ((s.dir.filter fun d => homeOf (128 * d.1) == slice && (d.2.holders.contains c || (d.2.pend.any fun p => p.core == c || p.left.contains c))).map (·.1)).foldl
    (fun s l => s.removeHolder c l) s

/-- `PROBE_TIMEOUT` (R468): a core leaves a probe unanswered for 100 µs; its silence stands in for the broadcast. -/
def execProbeTimeout (core line : Nat) : State → Host.Outcome State Fault Refusal := fun s =>
  if s.msgs.any fun m => match m with
    | .probe c l _ _ => c == core && l == line
    | _ => false
  then .next ((List.range 128).foldl (fun s h => s.removeFrom h core) (s.loseCore core)) else .next s

/-- `CORE_LOSS_BROADCAST` (R468, R469): a home slice receives a core's broadcast of its loss. -/
def execCoreLossBroadcast (slice core : Nat) : State → Host.Outcome State Fault Refusal := fun s =>
  if slice < 128 ∧ core < 144 then .next ((s.loseCore core).removeFrom slice core) else .next s

end Sys2Proof.Machine
end

