-- ==== Sys2Proof/Machine/Record.lean ====
section
/-! DEFINITION. Launch record images (R411) and the entry of a launch record (R190, R407, R416); host queues and their
registers (R403, R404, R432). -/

namespace Sys2Proof.Machine

/-! ### The record image (R411) -/

/-- A field of `n` bytes at offset `o`. -/
def fieldOf (b : List Byte) (o n : Nat) : Nat := leNat ((b.drop o).take n)
/-- Whether `n` bytes from offset `o` are 0. -/
def zeroAt (b : List Byte) (o n : Nat) : Bool := ((b.drop o).take n).all (· == 0)

/-- A token in the form of the signal token field: whether one is present, its number, and whether its reserved bits are
0. -/
def tokenField (v : Nat) : Bool × Nat × Bool := (v / 2 ^ 15 == 1, v % 1024, v / 2 ^ 10 % 32 == 0)

/-- The role of group `k` in the roles field. -/
def roleField (v k : Nat) : Option Role :=
  match v / 4 ^ k % 4 with
  | 0 => some .V
  | 1 => some .M
  | 2 => some .C
  | _ => none

/-- Whether the declaration of ring `i` has accepted values: undeclared, or 2 to 16 slots at multiples of 128 inside the
scratchpad (R34, R411). -/
def ringFieldOk (b : List Byte) (i : Nat) : Bool :=
  let o := 128 + 12 * i
  let n := fieldOf b o 1
  let base := fieldOf b (o + 4) 4
  let bytes := fieldOf b (o + 8) 4
  zeroAt b (o + 1) 3 && (n == 0 || (2 ≤ n && n ≤ 16 && base % 128 == 0 && bytes % 128 == 0 && base + n * bytes ≤ fieldOf b 28 4))

/-- Whether every field of a record image holds an accepted value (R411). -/
def recordOk (b : List Byte) : Bool :=
  let f (o n : Nat) : Nat := fieldOf b o n
  b.length == 1024 && f 0 8 % 4 == 0 && f 0 8 < 2 ^ 57 && 1 ≤ f 16 4 && f 16 4 ≤ 16777216 && 1 ≤ f 20 1 && f 20 1 ≤ 16
    && 1 ≤ f 21 1 && f 21 1 ≤ 128 && 1 ≤ f 22 1 && f 22 1 ≤ 8 && f 16 4 % f 22 1 == 0 && 1 ≤ f 23 1 && f 23 1 ≤ 128
    && 64 ≤ f 24 2 && f 24 2 ≤ 2048 && f 24 2 % 64 == 0 && f 26 1 ≤ 48 && f 27 1 ≤ 5 && f 28 4 ≤ 786432 && f 28 4 % 128 == 0
    && ((List.range (f 20 1)).all fun k => (roleField (f 32 4) k).isSome) && f 32 4 < 4 ^ f 20 1
    && f 36 1 ≤ 32 && f 37 1 ≤ 8 && f 38 1 ≤ 63 && f 39 1 < 4 && f 40 1 ≤ 63 && f 41 1 ≤ 7 && (tokenField (f 42 2)).2.2
    && ((List.range 4).all fun i => (tokenField (f (48 + 8 * i) 2)).2.2 && zeroAt b (50 + 8 * i) 2) && zeroAt b 80 48
    && ((List.range 16).all fun i => ringFieldOk b i)
    && ((((b.drop 848).take 128).zip (List.range 128)).all fun q => if q.2 < f 23 1 then q.1.toNat < 128 else q.1 == 0) && zeroAt b 976 48

/-- The launch record that an image holds; none where a field is refused (R411, status 1). -/
def recordOf (b : List Byte) : Option LRec :=
  if !recordOk b then none
  else
    let f (o n : Nat) : Nat := fieldOf b o n
    let waits : List Token := (List.range 4).filterMap fun i =>
      let t := tokenField (f (48 + 8 * i) 2)
      if t.1 then some ⟨t.2.1, BitVec.ofNat 32 (f (52 + 8 * i) 4)⟩ else none
    let rings : List RingDecl := (List.range 16).filterMap fun i =>
      let o := 128 + 12 * i
      if f o 1 = 0 then none else some ⟨i, f o 1, f (o + 4) 4, f (o + 8) 4⟩
    let pre : Table Word := (List.range 128).filterMap fun n =>
      if f 320 16 / 2 ^ n % 2 = 1 then some (n, BitVec.ofNat 32 (f (336 + 4 * n) 4)) else none
    some {
      code := f 0 8, entry := f 8 4, yield := if f 12 4 = 0xFFFFFFFF then none else some (f 12 4), wg := f 16 4, groups := f 20 1,
      threads := f 21 1, gang := f 22 1, devices := f 23 1, regs := f 24 2, preds := f 26 1, swizzle := f 27 1, scratch := f 28 4,
      roles := (List.range (f 20 1)).map fun k => (roleField (f 32 4) k).getD .V, pens := f 36 1, gpens := f 37 1, spawn := f 38 1,
      cores := f 39 1 % 2 == 1, again := f 39 1 / 2 == 1, queue := f 40 1, prio := f 41 1,
      signal := if (tokenField (f 42 2)).1 then some ⟨(tokenField (f 42 2)).2.1, BitVec.ofNat 32 (f 44 4)⟩ else none,
      waits := waits, rings := rings, pre := pre, nodes := (List.range (f 23 1)).map fun d => f (848 + d) 1 }

/-! ### Entering a record (R190, R411, R416) -/

/-- The function whose context holds a token, if any (R409). -/
def State.tokenFn (s : State) (n : Nat) : Option Nat :=
  (s.ctxs.find? fun c => c.2.tok ≤ n && n < c.2.tok + c.2.ntok).map fun c => c.2.fn

/-- The status that a token earns a function's command: 0, 2 for another function's, 3 for none (R402, R406). -/
def State.tokenStatus (s : State) (fn n : Nat) : Nat :=
  match s.tokenFn n with
  | some f => if f = fn then 0 else 2
  | none => 3

/-- A launch as it is entered. -/
def launchOf (ctx id : Nat) (r : LRec) (gen dev after : Nat) : Launch :=
  { ctx := ctx, id := id, lrec := r, started := false, go := r.devices ≤ 1, gen := gen, dev := dev, next := 0, redo := [], tries := [],
    ended := [], status := 0, grid := Pennant.start r.gridMembers, packed := 0, closed := false, reports := [], notBefore := after }

/-- Enter a launch in its queue (R190, R191, R444): its key. -/
def State.enter (s : State) (ctx id : Nat) (r : LRec) (gen dev : Nat) : Nat × State :=
  let (l, s) := s.fresh
  (l, { s with launches := Table.insert s.launches l (launchOf ctx id r gen dev s.stampNow),
               queues := Table.put [] s.queues r.queue (Table.get [] s.queues r.queue ++ [l]) })

/-- Enter a record for a context of this device: it takes the context's next launch id (R412); a launch of several devices
takes a generation and is replicated (R416). -/
def State.enterRecord (s : State) (ctx : Nat) (r : LRec) (image : List Byte) : Nat × State :=
  let id := ((Table.find s.ctxs ctx).map fun c => c.nextId).getD 1
  let s := s.modCtx ctx fun c => { c with nextId := id + 1 }
  let gen := s.generation
  let many := 1 < r.devices
  let s := if many then { s with generation := gen + 1 } else s
  let (l, s) := s.enter ctx id r (if many then gen else 0) 0
  (l, if many then ((List.range r.devices).drop 1).foldl (fun s d => s.send (r.node d) (.launch (r.node 0) gen d ctx id image)) s else s)

/-- The status of a record that a function's command enters in a context (R402, R407, R411): 0 to enter it. -/
def State.recordStatus (s : State) (fn : Nat) (r : LRec) : Nat :=
  let bad := ((r.waits ++ r.signal.toList).map fun t => s.tokenStatus fn t.n).filter (· != 0)
  match bad with
  | n :: _ => n
  | [] => if 1 < r.devices && r.node 0 != s.node.toNat then 3 else 0

/-! ### Queue registers (R403, R404, R432) -/

/-- The functions present: the physical one, and those of the 16 virtual ones that it has enabled (R402); the host queues of
each (R403). -/
def State.fnOk (s : State) (fn : Nat) : Bool := fn == 0 || (fn < 17 && (s.fn fn).on)
def State.queueOk (s : State) (fn q : Nat) : Bool := s.fnOk fn && q < 16

def QRegs.enabled (r : QRegs) : Bool := r.cqcfg.getLsbD 31
def QRegs.error (r : QRegs) : Bool := r.cqcfg.getLsbD 30
/-- The value of CQCFG with an enable bit, an error bit and q. -/
def cqcfgOf (enable error : Bool) (q : Nat) : Word :=
  BitVec.ofNat 32 ((if enable then 2 ^ 31 else 0) + (if error then 2 ^ 30 else 0) + q)

/-- `CQDOOR` (R403, R404): bits 31:16 are reserved. -/
def execCqdoor (fn q : Nat) (tail : BitVec 16) : State → Host.Outcome State Fault Refusal := fun s =>
  if s.queueOk fn q then .next (s.setQueue fn q { s.queue fn q with cqdoor := tail.zeroExtend 32 }) else .next s

/-- `QUEUE_REGISTER` (R404): a write of CQCFG with enable 1; a q outside 4 to 16, and a base last written with a reserved bit
set, are rejected. -/
def execQueueRegister (fn q : Nat) (v : Word) : State → Host.Outcome State Fault Refusal := fun s =>
  if !s.queueOk fn q || !v.getLsbD 31 then .next s
  else
    let r := s.queue fn q
    let n := v.toNat % 32
    let error := r.error && !v.getLsbD 30
    if 4 ≤ n && n ≤ 16 && !r.cqbad && !r.ccbad then
      .next (s.setQueue fn q { r with cqcfg := cqcfgOf true error n, cqdoor := 0, cqhead := 0, cctail := 0, cchead := 0, closing := false })
    else .next (s.setQueue fn q { r with cqcfg := cqcfgOf false true n })

/-- `QUEUE_UNREGISTER` (R404): a write of CQCFG with enable 0: the queue is unregistered once its current command has
completed. -/
def execQueueUnregister (fn q : Nat) (v : Word) : State → Host.Outcome State Fault Refusal := fun s =>
  if !s.queueOk fn q || v.getLsbD 31 then .next s
  else
    let r := s.queue fn q
    let error := r.error && !v.getLsbD 30
    if r.enabled && (s.cmd? fn q).isSome then
      .next (s.setQueue fn q { r with cqcfg := cqcfgOf true error (r.cqcfg.toNat % 32), closing := true })
    else .next (s.setQueue fn q { r with cqcfg := cqcfgOf false error (v.toNat % 32) })

/-- `QUEUE_ERROR_CLEAR` (R404). -/
def execQueueErrorClear (fn q : Nat) : State → Host.Outcome State Fault Refusal := fun s =>
  if s.queueOk fn q then .next (s.setQueue fn q { s.queue fn q with cqcfg := (s.queue fn q).cqcfg &&& ~~~(0x40000000#32) }) else .next s

/-- `CCHEAD` (R404): the host frees completion entries, and a held completion is written. -/
def execCchead (fn q : Nat) (head : BitVec 16) : State → Host.Outcome State Fault Refusal := fun s =>
  if !s.queueOk fn q then .next s
  else
    let s := s.setQueue fn q { s.queue fn q with cchead := head.zeroExtend 32 }
    match s.cmd? fn q with
    | some c =>
      match c.out with
      | some (status, value) => .next (s.retireCmd c status value)
      | none => .next s
    | none => .next s

/-- `FQHEAD` (R432). -/
def execFqhead (fn : Nat) (head : BitVec 12) : State → Host.Outcome State Fault Refusal := fun s =>
  if s.fnOk fn then .next (s.setFn fn { s.fn fn with fqhead := head.zeroExtend 32 }) else .next s

/-- `FQ_OVERFLOW_CLEAR` (R432). -/
def execFqOverflowClear (fn : Nat) : State → Host.Outcome State Fault Refusal := fun s =>
  if s.fnOk fn then .next (s.setFn fn { s.fn fn with fqtail := (s.fn fn).fqtail &&& 0x7FFFFFFF }) else .next s

/-- Whether a base is written with a reserved bit set (R404, log 29). -/
def baseBad (v : DWord) : Bool := v &&& 0xFFF != 0

/-- The physical function enables the virtual functions of a mask, and disables the others (R402, log 51). -/
def State.enableFns (s : State) (v : DWord) : State :=
  (List.range 16).foldl (fun s i => s.setFn (i + 1) { s.fn (i + 1) with on := v.getLsbD (i + 1) }) s

/-- `REGISTER_WRITE` (R5, R402, R404, R432): a host write of FQBASE, FQCFG, CQBASE or CCBASE, whose reserved bits are ignored, or
of the physical function's enables of the virtual ones. Any other offset is read-only or has its own step. -/
def execRegisterWrite (fn off : Nat) (v : DWord) : State → Host.Outcome State Fault Refusal := fun s =>
  if !s.fnOk fn then .next s
  else if off = 0x200 then .next (s.setFn fn { s.fn fn with fqbase := v &&& 0xFFFFFFFFFFFFF000 })
  else if off = 0x208 then .next (s.setFn fn { s.fn fn with fqcfg := v.truncate 32 &&& 0xF1 })
  else
    let q := (off - 0x1000) / 0x40
    if 0x1000 ≤ off ∧ q < 16 then
      if off % 0x40 = 0 then .next (s.setQueue fn q { s.queue fn q with cqbase := v &&& 0xFFFFFFFFFFFFF000, cqbad := baseBad v })
      else if off % 0x40 = 8 then .next (s.setQueue fn q { s.queue fn q with ccbase := v &&& 0xFFFFFFFFFFFFF000, ccbad := baseBad v })
      else .next s
    else if fn = 0 ∧ off = Config.vfControl then .next (s.enableFns v)
    else .next s

/-- The code of every command (R407). -/
def commandCodes : List Nat := [1, 2, 3, 4, 5, 6, 7, 8, 9, 10, 11, 12, 13, 16, 17, 18, 19, 20, 21]

/-- Whether a queue's next command may start (R404). -/
def State.mayStart (s : State) (fn q : Nat) : Bool :=
  let r := s.queue fn q
  let n := 2 ^ (r.cqcfg.toNat % 32)
  s.queueOk fn q && r.enabled && !r.closing && (s.cmd? fn q).isNone && !r.full && r.cqhead.toNat % n != r.cqdoor.toNat % n

/-- `COMMAND_START` (R404, R405): the firmware reads the next entry; an unknown code is malformed (R406). -/
def execCommandStart (fn q : Nat) : State → Host.Outcome State Fault Refusal := fun s =>
  if !s.mayStart fn q then .next s
  else
    let r := s.queue fn q
    let n := 2 ^ (r.cqcfg.toNat % 32)
    let h := r.cqhead.toNat % n
    let b := s.hostBytes (r.cqbase.toNat / 4096 * 4096 + 64 * h) 64
    let c : Cmd := ⟨fn, q, fieldOf b 0 2, fieldOf b 2 2, BitVec.ofNat 32 (fieldOf b 4 4), fieldOf b 8 4, b.drop 12, none, none⟩
    let s := s.setQueue fn q { r with cqhead := BitVec.ofNat 32 ((h + 1) % n) }
    let s := { s with cmds := s.cmds ++ [c] }
    .next (if commandCodes.contains c.code then s else s.retireCmd c 1 0)

end Sys2Proof.Machine
end

