-- ==== Sys2Proof/Machine/Firmware.lean ====
section
/-! DEFINITION. The firmware's command set (R402, R405 to R413, R474) and its fills of from-pool leaves (R496). A command
that waits stays in progress and its step is taken again. -/

namespace Sys2Proof.Machine

/-! ### Commands in general (R405 to R408) -/

/-- An operand of `n` bytes at entry offset `o` (R408). -/
def Cmd.fld (c : Cmd) (o n : Nat) : Nat := fieldOf c.ops (o - 12) n
/-- Whether every operand byte outside the named ranges is 0 (R408). -/
def Cmd.tidy (c : Cmd) (used : List (Nat × Nat)) : Bool :=
  (List.range 52).all fun i => c.ops.getD i 0 == 0 || used.any fun u => u.1 ≤ i + 12 && i + 12 < u.1 + u.2

/-- What a command names: the operand bytes it uses, whether it names a context, whether only the physical function may
issue it (R407, R408). -/
structure Form where
  code  : Nat
  used  : List (Nat × Nat)
  named : Bool
  pf    : Bool
  deriving DecidableEq, Repr

/-- A step of the command in progress of a queue: the checks of R402, R405, R406 and R408, then its effect, by context; none
where there is nothing to do. -/
def State.command (s : State) (fn q : Nat) (f : Form) (body : State → Cmd → Ctx → Option State) : Option State :=
  match s.cmd? fn q with
  | none => none
  | some c =>
    if c.code ≠ f.code ∨ c.out.isSome = true then none
    else if c.flags / 2 ≠ 0 ∨ c.tidy f.used = false ∨ (f.named = false ∧ c.ctx ≠ 0) then some (s.retireCmd c 1 0)
    else if f.pf = true ∧ fn ≠ 0 then some (s.retireCmd c 2 0)
    else
      let blank : Ctx := ⟨fn, false, 0, 0, [], [], [], 0, 0, [], 1, [], [], false, [], [], []⟩
      if f.named then
        match Table.find s.ctxs c.ctx with
        | none => some (s.retireCmd c 3 0)
        | some x => if x.fn ≠ fn then some (s.retireCmd c 2 0) else body s c x
      else body s c blank

/-- The command status of an engine status (R355, R406): a page not mapped, one that may not be written, an abort; a write
to a sealed line is not permitted (log 30). -/
def cmdStatus : Nat → Nat
  | 2 => 3
  | 3 => 2
  | 6 => 2
  | _ => 6

/-- A command goes on from an access: it waits, completes with a status, or has its answer. -/
def Eng.cmd {α : Type} (e : Eng α) (c : Cmd) (ok : State → α → Option State) : Option State :=
  match e with
  | .wait s true => some s
  | .wait _ false => none
  | .bad s f => some (s.retireCmd c (cmdStatus f.status) 0)
  | .ok s a => ok s a

/-- Bytes of device-virtual or host memory. -/
def State.getBytes (s : State) (ctx : Nat) (host : Bool) (a n : Nat) : Eng (List Byte) :=
  if host then .ok s (s.hostBytes a n) else s.engRead homeReader ctx s.hostWho true a n
/-- Write bytes of device-virtual or host memory. -/
def State.putBytes (s : State) (ctx : Nat) (host : Bool) (a : Nat) (b : List Byte) : Eng Unit :=
  if host then .ok (s.setHost a b) () else s.engWrite homeReader ctx s.hostWho (wordsFrom a (b.map some))

/-- The smallest page. -/
def pageBytes : Nat := 65536
/-- An address in each page that a range touches. -/
def pagesOf (va n : Nat) : List Nat :=
  (List.range ((va + n - 1) / pageBytes + 1 - va / pageBytes)).map fun i => max va (pageBytes * (va / pageBytes + i))
/-- Check every page of a range, a from-pool leaf being filled first (R496), and wait for every line of it: then nothing in it
waits. -/
def State.checkPages (s : State) (ctx va n : Nat) (write : Bool) : Eng Unit :=
  (engEach (fun s a => s.engTranslate homeReader ctx a write) s (pagesOf va n)).bind fun s _ =>
    (engEach (fun s p => (s.engTranslate homeReader ctx p.1 write).bind fun s q =>
      if s.lineBusy (q.1 / 128) then s.engBusy (q.1 / 128) else .ok s ()) s (linePieces va n)).bind fun s _ => .ok s ()

/-! ### Launch (R407, R411, R412) -/

/-- Enter the record that an image holds; `ok` is what then becomes of the command. -/
def State.enterImage (s : State) (c : Cmd) (b : List Byte) (ok : State → Nat → Launch → State) : State :=
  match recordOf b with
  | none => s.retireCmd c 1 0
  | some r =>
    match s.recordStatus c.fn r with
    | 0 =>
      let (l, s) := s.enterRecord c.ctx r b
      match Table.find s.launches l with
      | some x => ok s l x
      | none => s
    | n => s.retireCmd c n 0

/-- A launch is aborted wherever it runs (R412, R478). -/
def State.abortWhole (s : State) (l : Nat) (x : Launch) : State := if 1 < x.lrec.devices then s.abortEverywhere l else s.abortLaunch l
/-- Link the command of a queue with a launch. -/
def State.linkCmd (s : State) (fn q l : Nat) : State :=
  { s with cmds := s.cmds.map fun d => if d.fn == fn && d.q == q then { d with launch := some l } else d }

/-- The step of a launch command: it completes when the launch has ended on every device (R188). -/
def State.cmdLaunch (s : State) (fn q : Nat) : Option State :=
  s.command fn q ⟨0x0001, [(12, 8), (20, 1)], true, false⟩ fun s c _ =>
    if c.launch.isSome then none
    else if c.fld 20 1 ≥ 2 ∨ c.fld 12 8 % 128 ≠ 0 then some (s.retireCmd c 1 0)
    else (s.getBytes c.ctx (c.fld 20 1 == 1) (c.fld 12 8) 1024).cmd c fun s b =>
      some (s.enterImage c b fun s l _ => s.linkCmd fn q l)
/-- `LAUNCH` (R407). -/
def execLaunch (fn q : Nat) : State → Host.Outcome State Fault Refusal := fun s => .next ((s.cmdLaunch fn q).getD s)

/-- The step of a launch abort (R412): of a launch of several devices only the device of node-list entry 0 accepts it. The launch
is aborted once, also where its gangs here have all ended, and the command completes once it has ended on every device. -/
def State.cmdAbort (s : State) (fn q : Nat) : Option State :=
  s.command fn q ⟨0x000B, [(12, 4)], true, false⟩ fun s c x =>
    let id := c.fld 12 4
    match s.launches.find? fun l => l.2.ctx == c.ctx && l.2.id == id with
    | none => some (s.retireCmd c (if 1 ≤ id ∧ id < x.nextId then 0 else 3) 0)
    | some (l, y) =>
      if c.launch.isSome then none
      else if y.dev ≠ 0 then some (s.retireCmd c 3 0)
      else some ((s.linkCmd fn q l).abortWhole l y)
/-- `LAUNCH_ABORT` (R412). -/
def execLaunchAbort (fn q : Nat) : State → Host.Outcome State Fault Refusal := fun s => .next ((s.cmdAbort fn q).getD s)

/-! ### Host copy (R407) -/

/-- Copy bytes in ascending order, by aligned words where `wide`. -/
def State.copyRun (ctx : Nat) (hs hd wide : Bool) : Nat → State → Nat → Nat → Nat → Eng Unit
  | 0, s, _, _, _ => .ok s ()
  | k + 1, s, src, dst, n =>
    if n = 0 then .ok s ()
    else
      let w := if wide && dst % 4 == 0 && 4 ≤ n then 4 else 1
      (s.getBytes ctx hs src w).bind fun s b => (s.putBytes ctx hd dst b).bind fun s _ => State.copyRun ctx hs hd wide k s (src + w) (dst + w) (n - w)

/-- The step of a host copy: every device-virtual page is checked before any byte is written. -/
def State.cmdCopy (s : State) (fn q : Nat) : Option State :=
  s.command fn q ⟨0x0002, [(12, 8), (20, 8), (28, 8), (36, 1)], true, false⟩ fun s c _ =>
    let src := c.fld 12 8
    let dst := c.fld 20 8
    let n := c.fld 28 8
    let hs := c.fld 36 1 % 2 == 1
    let hd := c.fld 36 1 / 2 == 1
    if 4 ≤ c.fld 36 1 ∨ n < 1 ∨ 2 ^ 40 < n then some (s.retireCmd c 1 0)
    else
      let near := hs == hd && src < dst && dst < src + 4
      ((if hs then .ok s () else s.checkPages c.ctx src n false : Eng Unit).bind fun s _ =>
        (if hd then .ok s () else s.checkPages c.ctx dst n true : Eng Unit).bind fun s _ =>
          State.copyRun c.ctx hs hd (!near) n s src dst n).cmd c fun s _ => some (s.retireCmd c 0 0)
/-- `HOST_COPY` (R407). -/
def execHostCopy (fn q : Nat) : State → Host.Outcome State Fault Refusal := fun s => .next ((s.cmdCopy fn q).getD s)

/-! ### Mappings (R409) -/

/-- Take a zeroed 4 KiB table from the firmware's memory for a context (R409, log 6). -/
def State.newTable (s : State) (ctx : Nat) : Option (Nat × State) :=
  let take (a : Nat) (s : State) : Nat × State :=
    (a, (s.zeroFrame a 4096).modCtx ctx fun c => { c with tables := c.tables ++ [a] })
  match s.fwFree with
  | a :: r => some (take a { s with fwFree := r })
  | [] => if s.fw + 4096 ≤ dramEnd then some (take s.fw { s with fw := s.fw + 4096 }) else none

/-- A pointer entry to a table (R136). -/
def ptePointer (a : Nat) : DWord := BitVec.ofNat 64 (2 ^ 63 + a)

/-- The entry that maps an address at a level, with tables built on the way (R409): or a status, where a leaf stands above
the level or a pointer at it (3), no table is left (4), or an entry cannot be read (6). -/
def State.mapSlot (ctx va level : Nat) : Nat → List (Nat × Nat) → State → Nat ⊕ (Nat × State)
  | _, [], _ => .inl 3
  | base, (lv, lo) :: r, s =>
    let a := base + 8 * (va / 2 ^ lo % (if lv == 4 then 32 else 512))
    match s.pte a with
    | none => .inl 6
    | some e =>
    if lv = level then (if pteValid e && lv != 4 && !pteLeaf e then .inl 3 else .inr (a, s))
    else if !pteValid e then
      match s.newTable ctx with
      | none => .inl 4
      | some (t, s) => State.mapSlot ctx va level t r (s.putPte a (ptePointer t))
    else if (2 ≤ lv && pteLeaf e) || !pteTidy e then .inl 3
    else State.mapSlot ctx va level (pteFrame e) r s

/-- The entries of several pages, or the first status. -/
def State.mapSlots (ctx level root : Nat) : List Nat → State → Nat ⊕ (List Nat × State)
  | [], s => .inr ([], s)
  | va :: r, s =>
    match State.mapSlot ctx va level root walkLevels s with
    | .inl n => .inl n
    | .inr (a, s) =>
      match State.mapSlots ctx level root r s with
      | .inl n => .inl n
      | .inr (l, s) => .inr (a :: l, s)

/-- The addresses of pages. -/
def pageList (va count bits : Nat) : List Nat := (List.range count).map fun i => va + i * 2 ^ bits

/-- The step of a map (R409): every check before any leaf is written. A frame that the class may not map is the access's to fault
(R138). A range of frames that passes 2^52 gives status 1, and one of virtual addresses that passes 2^57 status 3 (DESIGN CHOICE, log
118). -/
def State.cmdMap (s : State) (fn q : Nat) : Option State :=
  s.command fn q ⟨0x0003, [(12, 8), (20, 1), (24, 4), (28, 8)], true, false⟩ fun s c x =>
    let va := c.fld 12 8
    let lv := c.fld 20 1
    let n := c.fld 24 4
    let bits := levelBits lv
    let leaf := BitVec.ofNat 64 (c.fld 28 8)
    let leaves := (List.range n).map fun i => pteSetFrame leaf (pteFrame leaf + i * 2 ^ bits)
    if lv < 2 ∨ 4 < lv ∨ n < 1 ∨ 2 ^ 20 < n ∨ va % 2 ^ bits ≠ 0 ∨ 2 ^ 52 < pteFrame leaf + n * 2 ^ bits ∨ (leaves.all fun e => leafForm e lv) = false
    then some (s.retireCmd c 1 0)
    else if 2 ^ 57 < va + n * 2 ^ bits then some (s.retireCmd c 3 0)
    else
      let pages := pageList va n bits
      match State.mapSlots c.ctx lv x.root pages s with
      | .inl st => some (s.retireCmd c st 0)
      | .inr (slots, t) =>
        let t := ((pages.zip slots).zip leaves).foldl (fun (s : State) p => (s.setLeaf c.ctx p.1.1 p.1.2 bits p.2).releaseLeaf p.1.2) t
        some (t.retireCmd c 0 0)
/-- `MAP` (R407, R409). -/
def execMap (fn q : Nat) : State → Host.Outcome State Fault Refusal := fun s => .next ((s.cmdMap fn q).getD s)

/-- The entry of a valid leaf at a level, with its frame. -/
def State.leafAt (s : State) (ctx va lv : Nat) : Option (Nat × Nat) :=
  match s.walk ctx va with
  | .leaf a l e => if l = lv then some (a, pteFrame e) else none
  | .bad => none

/-- Whether an operation on its way has translated to a frame of some (R409). -/
def EngOp.uses (o : EngOp) (frames : List Nat) (bits : Nat) : Bool :=
  match o.k with
  | .red pa _ _ _ _ _ _ _ _ _ => !o.done && frames.any fun f => f ≤ pa && pa < f + 2 ^ bits
  | .mapbit pa _ _ => !o.done && frames.any fun f => f ≤ pa && pa < f + 2 ^ bits
  | _ => false

/-- The step of an unmap (R409): it follows every access that has translated under the leaves; prefetches on their way
are dropped. A misaligned address, a level and a count that R408 does not name give status 1 (DESIGN CHOICE, log 118). -/
def State.cmdUnmap (s : State) (fn q : Nat) : Option State :=
  s.command fn q ⟨0x0004, [(12, 8), (20, 1), (24, 4)], true, false⟩ fun s c _ =>
    let va := c.fld 12 8
    let lv := c.fld 20 1
    let n := c.fld 24 4
    let bits := levelBits lv
    if lv < 2 ∨ 4 < lv ∨ n < 1 ∨ 2 ^ 20 < n ∨ va % 2 ^ bits ≠ 0 then some (s.retireCmd c 1 0)
    else
      let pages := pageList va n bits
      let found := pages.map fun a => s.leafAt c.ctx a lv
      if found.any Option.isNone then some (s.retireCmd c 3 0)
      else
        let leaves := found.filterMap id
        let frames := leaves.map (·.2)
        if s.ops.any fun o => o.2.uses frames bits then none
        else
          let s := (pages.zip leaves).foldl (fun (s : State) p => (s.setLeaf c.ctx p.1 p.2.1 bits 0).releaseLeaf p.2.1) s
          let s := { s with prefetches := s.prefetches.filter fun p => !(frames.any fun f => f ≤ p.addr && p.addr < f + 2 ^ bits) }
          some (s.retireCmd c 0 0)
/-- `UNMAP` (R407, R409). -/
def execUnmap (fn q : Nat) : State → Host.Outcome State Fault Refusal := fun s => .next ((s.cmdUnmap fn q).getD s)

/-! ### Pools (R283, R434, R496) -/

/-- Fill a from-pool leaf for an engine or a command (R496): a leaf that is no longer filling needs nothing; with an empty
pool the host is told once. -/
def State.fillPool (s : State) (f : Fill) : Option State :=
  let drop (s : State) : State := { s with fills := s.fills.filter fun g => !(g.ctx == f.ctx && g.pte == f.pte) }
  match (s.pte f.pte).filter fun e => pteValid e && ptePop e == 2 with
  | none => some ((drop s).releaseLeaf f.pte)
  | some e =>
    match s.takeFrame f.ctx (levelSize f.level) with
    | some (a, s) =>
      some (((drop s).setLeaf f.ctx f.va f.pte (levelBits f.level) (pteSetFrame (pteSetPop e 0) a)).releaseLeaf f.pte)
    | none =>
      if f.told then none
      else
        let fn := ((Table.find s.ctxs f.ctx).map fun c => c.fn).getD 0
        let s := s.pushFault fn (faultEntry f.ctx 0 kPool 0 2 0 (BitVec.ofNat 64 f.va) 0 0 0 0 s.now)
        some { s with fills := s.fills.map fun g => if g.ctx == f.ctx && g.pte == f.pte then { g with told := true } else g }

/-- `FIRMWARE_POOL_FILL` (R496). -/
def execFirmwarePoolFill (ctx va : Nat) : State → Host.Outcome State Fault Refusal := fun s =>
  match s.fills.find? fun f => f.ctx == ctx && f.va == va with
  | some f => .next ((s.fillPool f).getD s)
  | none => .next s

/-- Waiting `POOLGET`s of a context take frames of a size in the order they found the pool empty (R434). -/
def State.servePool (ctx size : Nat) : Nat → State → State
  | 0, s => s
  | n + 1, s =>
    match (Table.find s.ctxs ctx).bind fun c => c.poolq.find? fun w => w.2.2.1 == size with
    | none => s
    | some w =>
      match s.takeFrame ctx size with
      | none => s
      | some (a, s) =>
        let s := s.modCtx ctx fun c => { c with poolq := c.poolq.erase w }
        match (s.group? w.1).bind fun g => (g.frag w.2.1).filter fun f => f.wait == .pool size with
        | some f => State.servePool ctx size n ((s.modGroup w.1 fun g => g.sset2 w.2.2.2 (BitVec.ofNat 64 a)).move w.1 w.2.1 (f.pc + 12) .none)
        | none => State.servePool ctx size n s

/-- The step of a pool grant (R407): the firmware's own fills that wait take frames before the `POOLGET`s that wait (DESIGN CHOICE,
log 45: R434 and R496 give no order between them). -/
def State.cmdGrant (s : State) (fn q : Nat) : Option State :=
  s.command fn q ⟨0x0005, [(12, 8), (20, 2), (22, 1)], true, false⟩ fun s c _ =>
    let n := c.fld 20 2
    let size := c.fld 22 1
    if n < 1 ∨ 4096 < n ∨ 2 < size then some (s.retireCmd c 1 0)
    else
      let b := s.hostBytes (c.fld 12 8) (8 * n)
      let frames := (List.range n).map fun i => fieldOf b (8 * i) 8
      if frames.any fun a => a % sizeBytes size != 0 || dramEnd < a + sizeBytes size then some (s.retireCmd c 3 0)
      else
        let s := s.modCtx c.ctx fun x => x.setPool size (x.pool size ++ frames)
        let v := ((Table.find s.ctxs c.ctx).map fun x => (x.pool size).length).getD 0
        let s := (s.fills.filter fun f => f.ctx == c.ctx && levelSize f.level == size).foldl (fun s f => (s.fillPool f).getD s) s
        some ((State.servePool c.ctx size (v + 1) s).retireCmd c 0 (BitVec.ofNat 64 v))
/-- `POOL_GRANT` (R407, R434). -/
def execPoolGrant (fn q : Nat) : State → Host.Outcome State Fault Refusal := fun s => .next ((s.cmdGrant fn q).getD s)

/-! ### Tokens (R344, R407, R409) -/

/-- The step of a token signal. -/
def State.cmdSignal (s : State) (fn q : Nat) : Option State :=
  s.command fn q ⟨0x0006, [(12, 2), (16, 4)], false, false⟩ fun s c _ =>
    match s.tokenStatus fn (c.fld 12 2) with
    | 0 => some ((s.signal (c.fld 12 2) (BitVec.ofNat 32 (c.fld 16 4))).retireCmd c 0 0)
    | n => some (s.retireCmd c n 0)
/-- `TOKEN_SIGNAL` (R407). -/
def execTokenSignal (fn q : Nat) : State → Host.Outcome State Fault Refusal := fun s => .next ((s.cmdSignal fn q).getD s)

/-- The step of a token wait: it completes when the token is at least the value. -/
def State.cmdWait (s : State) (fn q : Nat) : Option State :=
  s.command fn q ⟨0x0007, [(12, 2), (16, 4)], false, false⟩ fun s c _ =>
    match s.tokenStatus fn (c.fld 12 2) with
    | 0 => if c.fld 16 4 ≤ (s.token (c.fld 12 2)).toNat then some (s.retireCmd c 0 0) else none
    | n => some (s.retireCmd c n 0)
/-- `TOKEN_WAIT` (R407). -/
def execTokenWait (fn q : Nat) : State → Host.Outcome State Fault Refusal := fun s => .next ((s.cmdWait fn q).getD s)

/-! ### Contexts -/

/-- The lowest context id that is free, from 1 (log 31). -/
def State.freeCtx (s : State) : Nat := ((List.range (s.ctxs.length + 1)).map (· + 1)).find? (fun i => (Table.find s.ctxs i).isNone) |>.getD 0
/-- The first of the lowest run of free tokens (R407). -/
def State.freeTokens (s : State) (n : Nat) : Option Nat :=
  (List.range (1025 - n)).find? fun a => s.ctxs.all fun c => c.2.tok + c.2.ntok ≤ a || a + n ≤ c.2.tok || c.2.ntok == 0

/-- The step of a context create (R407, R212). -/
def State.cmdCreate (s : State) (fn q : Nat) : Option State :=
  s.command fn q ⟨0x0008, [(12, 1), (14, 2)], false, false⟩ fun s c _ =>
    let n := c.fld 14 2
    if 2 ≤ c.fld 12 1 ∨ 1024 < n then some (s.retireCmd c 1 0)
    else
      let id := s.freeCtx
      match if n = 0 then some 0 else s.freeTokens n with
      | none => some (s.retireCmd c 4 0)
      | some a =>
        match s.newTable id with
        | none => some (s.retireCmd c 4 0)
        | some (root, s) =>
          let key := Config.contextKey s.free
          let x : Ctx := ⟨fn, c.fld 12 1 == 1, key, root, [], [], [], a, n, [], 1, [], [], false, [], [], [root]⟩
          let s := { s with free := s.free + 1, ctxs := Table.insert s.ctxs id x,
                            tokens := (List.range n).foldl (fun t i => Table.erase t (a + i)) s.tokens }
          some (s.retireCmd c 0 (BitVec.ofNat 64 (id + a * 2 ^ 32)))
/-- `CONTEXT_CREATE` (R407, R212). -/
def execContextCreate (fn q : Nat) : State → Host.Outcome State Fault Refusal := fun s => .next ((s.cmdCreate fn q).getD s)

/-- The launches of a context. -/
def State.launchesOf (s : State) (ctx : Nat) : List (Nat × Launch) := s.launches.filter fun l => l.2.ctx == ctx
/-- Whether a launch is never pre-empted (R203). -/
def Launch.fixed (x : Launch) : Bool := x.lrec.cores && 1 < x.lrec.devices

/-- The step of a context save (R407): nothing of the context is placed from now on; it completes with the last save and
the last packed group. -/
def State.cmdSave (s : State) (fn q : Nat) : Option State :=
  s.command fn q ⟨0x0009, [], true, false⟩ fun s c x =>
    let ls := s.launchesOf c.ctx
    let mine := s.gangs.filter fun g => ls.any fun l => l.1 == g.2.launch && !l.2.fixed
    let wait := mine.filter fun g => g.2.yielding.isNone
    if x.hold = false ∨ wait ≠ [] then
      some (wait.foldl (fun s g => s.raiseYield g.1) (s.modCtx c.ctx fun y => { y with hold := true }))
    else if mine ≠ [] ∨ s.groups.any (fun g => g.2.packed && ls.any fun l => l.1 == g.2.launch) = true then none
    else
      match ls.find? fun l => l.2.fixed && l.2.started with
      | some l => some (s.retireCmd c 4 (BitVec.ofNat 64 l.2.id))
      | none => some (s.retireCmd c 0 0)
/-- `CONTEXT_SAVE` (R407). -/
def execContextSave (fn q : Nat) : State → Host.Outcome State Fault Refusal := fun s => .next ((s.cmdSave fn q).getD s)

/-- The step of a context restore (R407): it completes once every saved gang has been placed again; it fails with status 5, and the
context stays saved, where the firmware refuses an image of a protected one (R215, R406). -/
def State.cmdRestore (s : State) (fn q : Nat) : Option State :=
  s.command fn q ⟨0x000A, [], true, false⟩ fun s c x =>
    if x.saved = [] then some ((s.modCtx c.ctx fun y => { y with hold := false }).retireCmd c 0 0)
    else if x.hold then
      (if x.saved.all (s.imagesOk c.ctx) then some (s.modCtx c.ctx fun y => { y with hold := false }) else some (s.retireCmd c 5 0))
    else none
/-- `CONTEXT_RESTORE` (R407, R209). -/
def execContextRestore (fn q : Nat) : State → Host.Outcome State Fault Refusal := fun s => .next ((s.cmdRestore fn q).getD s)

/-- The frames of the populated leaves of a table, with the address bits of each. -/
def State.leavesOf (s : State) : List (Nat × Nat) → Nat → List (Nat × Nat)
  | [], _ => []
  | (lv, _) :: r, base =>
    (List.range (if lv == 4 then 32 else 512)).flatMap fun i =>
      let e := (s.pte (base + 8 * i)).getD 0
      if !pteValid e then []
      else if lv == 4 || (2 ≤ lv && pteLeaf e) then (if leafOk e lv && ptePop e == 0 then [(pteFrame e, levelBits lv)] else [])
      else if pteTidy e then s.leavesOf r (pteFrame e) else []

/-- Free every seal entry of a context (R157, R413). -/
def State.freeSeals (s : State) (ctx : Nat) : State :=
  let es := (s.seals.filter fun e => e.2.ctx == ctx).map (·.1)
  { s with seals := s.seals.filter fun e => e.2.ctx != ctx,
           dir := (s.dir.map fun (d : Nat × Dir) => if d.2.sealed.any es.contains then (d.1, { d.2 with sealed := none }) else d).filter fun d => d.2 != Dir.reset }

/-- A command waits for a line: for the peers that hold partial state of it, which are asked once. -/
def State.awaitLine (s : State) (line : Nat) : Option State :=
  if (s.entry line).devs.any fun n => !(s.entry line).asked.contains n then some (s.askPeers line) else none

/-- What is left to do of a context that has no launch (R413): every copy and partial of its frames goes home, then its
seal entries, tables, tokens and key go. -/
def State.endContext (s : State) (ctx : Nat) (x : Ctx) : Option State :=
  let frames := s.leavesOf walkLevels x.root
  let inside (line : Nat) : Bool := frames.any fun f => f.1 ≤ 128 * line && 128 * line < f.1 + 2 ^ f.2
  let lines := (s.dir.map (·.1)).filter inside
  match lines.find? s.lineBusy with
  | some l => s.awaitLine l
  | none =>
    let s := lines.foldl (fun s l => (s.gather l).told) s
    let clean (k : CoreSt) : CoreSt := { k with l1 := k.l1.filter (fun l => !inside l.1), tlb := k.tlb.filter fun t => t.ctx != ctx }
    let s := s.mendAll fun x => match x with
      | .l1 _ pa => inside (pa / 128)
      | _ => false
    let s := { s with cores := s.cores.map (fun (c : Nat × CoreSt) => (c.1, clean c.2)),
                      ctlb := s.ctlb.map fun (c : Nat × List Tlb) => (c.1, c.2.filter fun t => t.ctx != ctx) }
    let s := s.freeSeals ctx
    some { s with ctxs := Table.erase s.ctxs ctx, fwFree := s.fwFree ++ x.tables, fills := s.fills.filter fun f => f.ctx != ctx }

/-- The step of a context destroy (R413): at first every launch is aborted, wherever it still runs; one that is entered while the
command waits is aborted too. -/
def State.cmdDestroy (s : State) (fn q : Nat) : Option State :=
  s.command fn q ⟨0x000D, [], true, false⟩ fun s c x =>
    let ls := s.launchesOf c.ctx
    let open_ := ls.filter fun l => !(l.2.lrec.gangs ≤ l.2.ended.length && l.2.redo.isEmpty)
    let mine (i : Item) : Bool := ls.any fun l => l.1 == i.launch
    if (c.launch.isNone && !ls.isEmpty) || !open_.isEmpty || s.cores.any fun k => k.2.items.any mine then
      let open_ := if c.launch.isNone then ls else open_
      let s := s.linkCmd fn q 0
      let s := { s with cores := s.cores.map fun (k : Nat × CoreSt) => (k.1, { k.2 with items := k.2.items.filter fun i => !mine i }) }
      let s := open_.foldl (fun s l => s.abortWhole l.1 l.2) s
      some (ls.foldl (fun s l => s.endLaunchIf l.1) s)
    else if ls ≠ [] then none
    else (s.endContext c.ctx x).map fun s => s.retireCmd c 0 0
/-- `CONTEXT_DESTROY` (R413). -/
def execContextDestroy (fn q : Nat) : State → Host.Outcome State Fault Refusal := fun s => .next ((s.cmdDestroy fn q).getD s)

/-! ### Load image (R410) -/

/-- The header of a kernel image: code bytes, data bytes, record present, code and data addresses, data class; none where
a field is refused. -/
def imageHeader (b : List Byte) : Option (Nat × Nat × Bool × Nat × Nat × Nat) :=
  let f (o n : Nat) : Nat := fieldOf b o n
  let ok := f 0 4 == 1 && f 4 4 % 12 == 0 && f 12 4 < 2 && f 16 8 % 4096 == 0 && f 24 8 % 65536 == 0 && f 32 1 ≤ 2 && zeroAt b 33 95
    && b.length == 128 + f 4 4 + f 8 4 + (if f 12 4 == 1 then 1024 else 0)
  if ok then some (f 4 4, f 8 4, f 12 4 == 1, f 16 8, f 24 8, f 32 1) else none

/-- The status of the pages of an image once their leaves are filled: 3 for a page that is not mapped or a data page of
another class, 2 for one that lacks x or w. -/
def State.imageStatus (s : State) (ctx cva cn dva dn cls : Nat) : Nat :=
  let code := if cn = 0 then [] else (pagesOf cva cn).map fun a => s.translate homeReader ctx a
  let data := if dn = 0 then [] else (pagesOf dva dn).map fun a => s.translate homeReader ctx a
  let lost (t : Tr) : Bool := match t with
    | .page _ _ _ _ => false
    | _ => true
  if code.any lost || data.any lost || data.any fun t => match t with
      | .page _ c _ _ => c != clsOf cls
      | _ => true then 3
  else if (code.any fun t => match t with
      | .page _ _ _ x => !x
      | _ => true) || data.any fun t => match t with
      | .page _ _ w _ => !w
      | _ => true then 2
  else 0

/-- Fill the from-pool leaves that a range touches (R496); pages that are not mapped are found later. -/
def State.fillPages (s : State) (ctx va n : Nat) : Eng Unit :=
  if n = 0 then .ok s ()
  else (engEach (fun (s : State) a =>
    match s.translate homeReader ctx a with
    | .pool _ _ _ | .filling _ _ => (s.engTranslate homeReader ctx a false).bind fun s _ => .ok s ()
    | _ => .ok s ()) s (pagesOf va n)).bind fun s _ => .ok s ()

/-- Write bytes of a loaded image at its home, whatever the page's w bit; none while a line is busy (R410). -/
def State.loadBytes (s : State) (ctx va : Nat) (b : List Byte) : Eng Unit :=
  (engEach (fun (s : State) (w : Nat × BitVec 4 × Word) =>
    match s.translate homeReader ctx w.1 with
    | .page pa c _ _ => (s.engWritable ctx w (pa, c)).bind fun s p => .ok (s.putHomeBytes p.1 w.2.1 w.2.2 p.2 s.hostWho) ()
    | _ => .bad s (Fail.plain 2)) s (wordsFrom va (b.map some))).bind fun s _ => .ok s ()

/-- The lines of a range leave every L1 of the device (R410). -/
def State.dropRange (s : State) (ctx va n : Nat) : State :=
  let lines := (linePieces va n).filterMap fun p => match s.translate homeReader ctx p.1 with
    | .page pa _ _ _ => some (pa / 128)
    | _ => none
  let s := s.mendAll fun x => match x with
    | .l1 _ pa => lines.contains (pa / 128)
    | _ => false
  { s with cores := s.cores.map fun (c : Nat × CoreSt) => (c.1, { c.2 with l1 := c.2.l1.filter fun l => !lines.contains l.1 }) }

/-- The step of a load image (R410): the code and the data are written, and the record, if there is one, is entered; its
launch id is the value. -/
def State.cmdLoad (s : State) (fn q : Nat) : Option State :=
  s.command fn q ⟨0x000C, [(12, 8), (20, 4)], true, false⟩ fun s c _ =>
    let b := s.hostBytes (c.fld 12 8) (c.fld 20 4)
    match imageHeader b with
    | none => some (s.retireCmd c 1 0)
    | some (cn, dn, rec, cva, dva, cls) =>
      let code := (b.drop 128).take cn
      let data := (b.drop (128 + cn)).take dn
      let image := b.drop (128 + cn + dn)
      if rec && (recordOf image).isNone then some (s.retireCmd c 1 0)
      else
        ((s.fillPages c.ctx cva cn).bind fun s _ => s.fillPages c.ctx dva dn).cmd c fun s _ =>
          match s.imageStatus c.ctx cva cn dva dn cls with
          | 0 =>
            ((s.loadBytes c.ctx cva code).bind fun s _ => s.loadBytes c.ctx dva data).cmd c fun s _ =>
              let s := (s.dropRange c.ctx cva cn).dropRange c.ctx dva dn
              let s := s.modCtx c.ctx fun x => { x with images := x.images.filter (fun m => m.1 != cva) ++ [(cva, cn)], loaded := x.loaded ++ b }
              let here := match recordOf image with
                | some r => r.devices ≤ 1 || r.node 0 == s.node.toNat
                | none => false
              if rec && here then some (s.enterImage c image fun s _ y => s.retireCmd c 0 (BitVec.ofNat 64 y.id))
              else some (s.retireCmd c 0 0)
          | n => some (s.retireCmd c n 0)
/-- `LOAD_IMAGE` (R410). -/
def execLoadImage (fn q : Nat) : State → Host.Outcome State Fault Refusal := fun s => .next ((s.cmdLoad fn q).getD s)

/-! ### Reclaim and node query -/

/-- The step of a reclaim (R474): the value is the former mask. -/
def State.cmdReclaim (s : State) (fn q : Nat) : Option State :=
  s.command fn q ⟨0x0014, [(12, 8)], false, true⟩ fun s c _ =>
    let a := c.fld 12 8
    let m := (s.entry (a / 128)).lost
    if a % 128 ≠ 0 then some (s.retireCmd c 1 0)
    else if dramEnd ≤ a then some (s.retireCmd c 3 0)
    else if m = 0 then some (s.retireCmd c 0 0)
    else if s.lineBusy (a / 128) then s.awaitLine (a / 128)
    else
      let s := (s.gather (a / 128)).told
      let m := (s.entry (a / 128)).lost
      let s := s.modEntry (a / 128) fun d => { d with lost := 0 }
      let s := (wordsOf m).foldl (fun s i => ((s.putWord (a + 4 * i) 0).setStamps (a + 4 * i) Stamps.blank).wrote (a + 4 * i) 0 []) s
      some (s.retireCmd c 0 (m.zeroExtend 64))
/-- `RECLAIM` (R474). -/
def execReclaim (fn q : Nat) : State → Host.Outcome State Fault Refusal := fun s => .next ((s.cmdReclaim fn q).getD s)

/-- The step of a node query (R407, R414). -/
def State.cmdNode (s : State) (fn q : Nat) : Option State :=
  s.command fn q ⟨0x0015, [], false, false⟩ fun s c _ => some (s.retireCmd c 0 (s.node.zeroExtend 64))
/-- `NODE_QUERY` (R407). -/
def execNodeQuery (fn q : Nat) : State → Host.Outcome State Fault Refusal := fun s => .next ((s.cmdNode fn q).getD s)

end Sys2Proof.Machine
end

