-- ==== Sys2Proof/Machine/Health.lean ====
section
/-! DEFINITION. Power and temperature (R16, R17, R492), ageing (R484, R485), scan tests and deconfiguration (R486 to R491),
the health record (R493 to R495), management (R419, R420) and the resets. -/

namespace Sys2Proof.Machine

/-! ### Power and temperature (R16, R17, R492) -/

/-- Clock limits and step in MHz. -/
def mhzFloor : Nat := 450
def mhzTop : Nat := 950
def mhzStep : Nat := 25

/-- Whether the mean of the windows measured, at most ten of them, lies above a power, and below one (R16). -/
def meanAbove (l : List Nat) (watts : Nat) : Bool := watts * max 1 l.length < total l
def meanBelow (l : List Nat) (watts : Nat) : Bool := total l < watts * max 1 l.length

/-- The clock after a window: temperature from 100 °C, or a mean power above 2,400 W, lowers it; from 95 °C it is not raised, and
power raises it only below 2,300 W (R16, R17). From 95 to 100 °C with a mean above 2,400 W, where R16 lowers the clock and R17
holds it, it is lowered (DESIGN CHOICE, log 41). -/
def nextMhz (mhz : Nat) (means : List Nat) (hottest : Nat) : Nat :=
  if 100 ≤ hottest ∨ meanAbove means 2400 = true then max mhzFloor (mhz - mhzStep)
  else if 95 ≤ hottest ∨ meanBelow means 2300 = false then mhz
  else min mhzTop (mhz + mhzStep)

/-- `POWER_WINDOW` (R16, R17): a 1 ms window ends with its mean power in W and the hottest sensor in °C. -/
def execPowerWindow (watts hottest : Nat) : State → Host.Outcome State Fault Refusal := fun s =>
  let ms := (watts :: s.power.means).take 10
  .next { s with power := { s.power with means := ms }, mhz := nextMhz s.mhz ms hottest }

/-- `THERMAL_TRIP` (R17, R492): a sensor of a half reaches 115 °C. -/
def execThermalTrip (half : Bool) : State → Host.Outcome State Fault Refusal := fun s =>
  if (if half then s.power.trip1 else s.power.trip0) then .next s
  else .next { s with power := if half then { s.power with trip1 := true } else { s.power with trip0 := true }, health := s.health.bump 4 }

/-- `THERMAL_TRIP_END` (R492): every sensor of the half reads below 95 °C. -/
def execThermalTripEnd (half : Bool) : State → Host.Outcome State Fault Refusal := fun s =>
  .next { s with power := if half then { s.power with trip1 := false } else { s.power with trip0 := false } }

/-! ### The logical core map (R490, R491) -/

/-- The physical cores that are not fenced, in the order of cluster and position. -/
def State.inService (s : State) : List Nat := (List.range 144).filter fun c => !(s.core c).fenced

/-- Whether a new map may take effect (R491). -/
def State.mapDue (s : State) : Bool := s.inService != s.coreMap && s.groups.isEmpty && s.wgs.isEmpty

/-- `CORE_MAP_CHANGE` (R491): the new map takes effect, and the check of R193 is repeated. -/
def execCoreMapChange : State → Host.Outcome State Fault Refusal := fun s =>
  if !s.mapDue then .next s
  else
    let s := { s with coreMap := s.inService }
    .next ((s.launches.map (·.1)).foldl (fun s l =>
      match Table.find s.launches l with
      | some x => if s.hasPending l && !s.couldPlace l x then s.refuse l else s
      | none => s) s)

/-! ### Draining and testing a core (R486 to R489) -/

/-- The scan test or deconfiguration at work on a core: the first that came. -/
def State.scanOn (s : State) (core : Nat) : Option Scan := s.scans.find? fun x => x.core == core

/-- Start to drain a core (R486). -/
def State.startScan (s : State) (x : Scan) : State := { s with scans := s.scans ++ [x] }.modCore x.core fun k => { k with drain := true }

/-- The work on a core is over: its command completes, and the core takes work again unless another waits to drain it. -/
def State.endScan (s : State) (x : Scan) (value : Nat) : State :=
  let s := { s with scans := s.scans.erase x }
  let s := s.modCore x.core fun k => { k with drain := s.scans.any fun y => y.core == x.core }
  match s.cmd? x.fn x.q with
  | some c => s.retireCmd c 0 (BitVec.ofNat 64 value)
  | none => s

/-- Whether a core is empty (R486): no workgroup, no group, no queued item. -/
def State.coreEmpty (s : State) (c : Nat) : Bool :=
  (s.groupsOn c).isEmpty && !(s.wgs.any fun w => w.2.core == c) && (s.core c).items.isEmpty

/-- Every dirty L1 word is written back and every update-buffer slot flushed (R163, R486). -/
def State.cleanCore (s : State) (c : Nat) : State :=
  let s := ((s.core c).l1.map (·.1)).foldl (fun s l => s.evict l c) s
  ((((s.core c).ubuf.map fun u => u.addr / 128).dedup).foldl (fun s l => s.flushLine c l) s).modCore c fun k => { k with l1 := [] }

/-- Restore (R486): the placement state of an empty core. -/
def State.restoreCore (s : State) (c : Nat) : State :=
  (List.range 4).foldl (fun s p => (s.setMat c p Mat.reset).mendAll (Store.ofUnit (4 * c + p)))
    (s.modCore c fun k => { k with l1 := [], tlb := [], start := [], overdue := [], passed := [], pipe := [] })

/-- The state code with which a fence is recorded (R494): what the core is already recorded as, or fenced by command. -/
def State.fenceCode (s : State) (c : Nat) : BitVec 4 :=
  let st := (Table.get UnitHealth.reset s.health.units c).st
  if st = 0 then uFenced else st

/-- The launches of priority 6 or 7 whose records are eligible (R191, R487). -/
def State.urgent (s : State) : List Nat :=
  (s.launches.filter fun l => 6 ≤ l.2.lrec.prio && !l.2.started && (Table.get [] s.queues l.2.lrec.queue).head? == some l.1
    && s.tokensMet l.2.lrec).map (·.1)

/-- The step of a scan test or a deconfiguration (R486, R489): those of one core follow each other. -/
def State.cmdScan (s : State) (fn q code : Nat) (scan : Bool) : Option State :=
  s.command fn q ⟨code, [(12, 4)], false, true⟩ fun s c _ =>
    if s.scans.any fun x => x.fn == fn && x.q == q then none
    else
      match s.coreMap[c.fld 12 4]? with
      | none => some (s.retireCmd c 3 0)
      | some core =>
        if scan && 8 ≤ (s.scans.filter fun x => x.scan).length then some (s.retireCmd c 4 0)
        else if (s.scanOn core).isSome then none
        else some (s.startScan ⟨core, fn, q, false, scan, s.now, s.urgent⟩)
/-- `SCAN_TEST` (R407, R486). -/
def execScanTest (fn q : Nat) : State → Host.Outcome State Fault Refusal := fun s => .next ((s.cmdScan fn q 0x0011 true).getD s)
/-- `DECONFIGURE` (R407, R489). -/
def execDeconfigure (fn q : Nat) : State → Host.Outcome State Fault Refusal := fun s => .next ((s.cmdScan fn q 0x0012 false).getD s)

/-- Whether the drain of a core is done: it is empty and no message about a line of it is on its way. -/
def State.drained (s : State) (c : Nat) : Bool :=
  s.coreEmpty c && !((s.core c).l1.any fun l => s.lineBusy l.1) && !((s.core c).ubuf.any fun u => s.lineBusy (u.addr / 128))

/-- `SCAN_DRAIN_DONE` (R486, R489): a tested core runs its pattern; another is fenced. -/
def execScanDrainDone (core : Nat) : State → Host.Outcome State Fault Refusal := fun s =>
  match s.scanOn core with
  | none => .next s
  | some x =>
    if x.run || !s.drained core then .next s
    else
      let s := s.cleanCore core
      if x.scan then .next { s with scans := s.scans.map fun y => if y == x then { y with run := true, tb := s.now } else y }
      else .next ((s.fence core (s.fenceCode core)).endScan x 0)

/-- The limit of a drain and the length of the pattern in ns (R486). -/
def drainLimit : Nat := 1000000000
def patternTime : Nat := 200000

/-- `SCAN_DRAIN_TIMEOUT` (R486): after 1 s a scan test is abandoned with value 3. -/
def execScanDrainTimeout (core : Nat) : State → Host.Outcome State Fault Refusal := fun s =>
  match s.scanOn core with
  | some x => if x.scan && !x.run && x.tb + drainLimit ≤ s.now then .next (s.endScan x 3) else .next s
  | none => .next s

/-- `SCAN_RUN_DONE` (R486, R488): the signature is compared; a failing core is fenced at once. -/
def execScanRunDone (core : Nat) (pass : Bool) : State → Host.Outcome State Fault Refusal := fun s =>
  match s.scanOn core with
  | some x =>
    if !x.run || s.now < x.tb + patternTime then .next s
    else if pass then .next (({ s with health := s.health.bump 5 }.restoreCore core).endScan x 0)
    else .next ((({ s with health := s.health.bump 6 }.fence core uFailed).restoreCore core).endScan x 1)
  | none => .next s

/-- Restore of a core that may still hold work (R487): what none of it holds takes its placement state. -/
def State.restoreIdle (s : State) (c : Nat) : State :=
  (List.range 4).foldl (fun s p => if (s.mat c p).owner.isNone then s.setMat c p Mat.reset else s) (s.modCore c fun k => { k with tlb := [] })

/-- `SCAN_TEST_ABORT` (R487): an urgent launch that becomes eligible during drain or run ends a scan test with value 2, after restore;
before the drain is done work of the core keeps what it holds (log 121). -/
def execScanTestAbort (core : Nat) : State → Host.Outcome State Fault Refusal := fun s =>
  match s.scanOn core with
  | some x =>
    if !x.scan || s.urgent.all x.heads.contains then .next s
    else
      let s : State := { s with health := s.health.bump 7 }
      .next ((if x.run then s.restoreCore core else if s.drained core then (s.cleanCore core).restoreCore core else s.restoreIdle core).endScan x 2)
  | none => .next s

/-! ### Ageing (R484, R485) -/

/-- A unit's health entry. -/
def State.unitAt (s : State) (u : Nat) : UnitHealth := Table.get UnitHealth.reset s.health.units u
def State.putUnit (s : State) (u : Nat) (x : UnitHealth) : State :=
  { s with health := { s.health with units := Table.put UnitHealth.reset s.health.units u x } }

/-- What a sample of the monitors makes of an entry (R484): three consecutive shortfalls raise g; three more at g = 12 wear
the unit. The second part is whether it is worn now. -/
def UnitHealth.sample (x : UnitHealth) (short : Bool) (slow : BitVec 8) : UnitHealth × Bool :=
  let x := { x with slow := slow }
  if !short then ({ x with short := if x.g = 12 then x.short else 0 }, false)
  else if x.g = 12 then
    if x.short + 1 < 3 then ({ x with short := x.short + 1 }, false)
    else ({ x with short := 3, st := if x.st = 0 then uWorn else x.st }, x.st = 0)
  else if x.short + 1 < 3 then ({ x with short := x.short + 1 }, false)
  else ({ x with short := 0, g := x.g + 1 }, false)

/-- The time between samples of a monitor in ns (R484). -/
def sampleTime : Nat := 1000000000

/-- `AGEING_SAMPLE` (R484, R485, R489): a monitor is sampled once per second; a worn core is drained and fenced; a worn home slice
stays in service. -/
def execAgeingSample (unit : Nat) (short : Bool) (slow : BitVec 8) : State → Host.Outcome State Fault Refusal := fun s =>
  if 272 ≤ unit ∨ (s.unitAt unit).last.any (fun t => s.now < t + sampleTime) = true then .next s
  else
    let (x, worn) := (s.unitAt unit).sample short slow
    let s := s.putUnit unit { x with last := some s.now }
    if worn && unit < 144 then .next (s.startScan ⟨unit, 0, 16, false, false, s.now, []⟩) else .next s

/-! ### The health record (R493 to R495) -/

/-- Cores of a cluster in a map (R490). -/
def clusterSize (cores : List Nat) (k : Nat) : Nat := (cores.filter fun c => c / 8 == k).length
/-- A unit's entry (R494). -/
def UnitHealth.entry (x : UnitHealth) : Nat := x.g.toNat * 4096 + x.st.toNat * 256 + x.slow.toNat
/-- The serial's 16 bytes. -/
def serialBytes : List Byte := leBytes 16 Config.serial.toNat

/-- What a record rebuilt now shows (R493). -/
def State.shown (s : State) : Shown where
  seq := s.health.seq + 1
  tb := s.now
  secs := s.health.secs + s.now / 1000000000
  cores := s.coreMap
  fenced := (List.range 144).filter fun c => (s.core c).fenced
  units := (s.health.units.map fun u => (u.1, u.2.entry)).filter fun u => u.2 != 0
  counts := s.health.counts
  rows := s.health.rows
  wdev := s.health.wdev
  free := s.free

/-- Bytes 0 to 2,239 of a health record (R493). -/
def Shown.body (r : Shown) : List Byte :=
  leBytes 4 1 ++ leBytes 4 4096 ++ leBytes 8 r.seq ++ leBytes 8 r.tb
    ++ serialBytes ++ leBytes 8 r.secs ++ leBytes 4 r.cores.length
    ++ (List.range 18).flatMap (fun k => leBytes 1 (clusterSize r.cores k)) ++ leBytes 2 0
    ++ leBytes 18 (total (r.fenced.map fun c => 2 ^ c)) ++ leBytes 6 0
    ++ (List.range 272).flatMap (fun u => leBytes 2 (Table.get 0 r.units u))
    ++ (List.range 8).flatMap (fun i => leBytes 8 (r.counts.getD i 0))
    ++ (List.range 128).flatMap (fun i => match r.rows[i]? with
      | some q => leBytes 2 q.1 ++ leBytes 2 0 ++ leBytes 4 q.2.toNat
      | none => leBytes 8 0)
    ++ (List.range 256).flatMap (fun c => leBytes 2 (Table.get 0 r.wdev c).toNat)

/-- A SHAKE256 digest of 64 bytes, as bytes and as the message of a signature (R420). -/
def digestOf (b : List Byte) : List Byte := (shake256 (b.map (·.toNat)) 64).map fun n => BitVec.ofNat 8 n
def digestBits (d : List Byte) : BitVec 512 := BitVec.ofNat 512 (leNat d)
/-- The device's signature over a digest with its length, filled with zeros to `n` bytes (R420, R493), by the number of its free
value. -/
def signed (free : Nat) (d : List Byte) (n : Nat) : Nat × List Byte :=
  let len := min n (Config.signatureLength free (digestBits d)).toNat
  (len, (List.range n).map fun i => if i < len then Config.signature free (digestBits d) i else 0)

/-- The 4,096 bytes of a health record, signed (R493, R495). -/
def Shown.bytes (r : Shown) : List Byte :=
  let d := digestOf r.body
  let (len, sig) := signed r.free d 1536
  r.body ++ d ++ leBytes 2 len ++ List.replicate 254 0 ++ sig

/-- The longest interval between rebuilds in ns (R493). -/
def rebuildTime : Nat := 60000000000

/-- Whether the record is to be rebuilt (R493): a field has changed, or 60 s have gone by. -/
def State.rebuildDue (s : State) : Bool :=
  let r := s.health.record
  s.health.tb.toNat + rebuildTime ≤ s.now || { s.shown with seq := r.seq, tb := r.tb, free := r.free } != r

/-- `HEALTH_REBUILD` (R493). -/
def execHealthRebuild : State → Host.Outcome State Fault Refusal := fun s =>
  if s.rebuildDue then
    .next { s with health := { s.health with record := s.shown, seq := s.health.seq + 1, tb := s.tb }, free := s.free + 1 }
  else .next s

/-- The step of a health query (R407, R495): the record fills the one buffer that R408 gives it; what R459 has it read of the error
log is what the record shows, its counts and failing rows (DEDUCED, log 122). -/
def State.cmdHealth (s : State) (fn q : Nat) : Option State :=
  s.command fn q ⟨0x0010, [(12, 8)], false, false⟩ fun s c _ => some ((s.setHost (c.fld 12 8) s.health.record.bytes).retireCmd c 0 0)
/-- `HEALTH_QUERY` (R407, R495). -/
def execHealthQuery (fn q : Nat) : State → Host.Outcome State Fault Refusal := fun s => .next ((s.cmdHealth fn q).getD s)

/-! ### Management and identity (R419, R420) -/

/-- A reply over the side-band port. -/
def State.reply (s : State) (b : List Byte) : State := { s with sideband := s.sideband ++ [b] }

/-- `HEALTH_RECORD_READ` (R419, R495). -/
def execHealthRecordRead : State → Host.Outcome State Fault Refusal := fun s => .next (s.reply s.health.record.bytes)

/-- `AGEING_MONITOR_READ` (R419): the entries of R494, in the order of the health record. -/
def execAgeingMonitorRead : State → Host.Outcome State Fault Refusal := fun s =>
  .next (s.reply ((List.range 272).flatMap fun u => leBytes 2 (s.unitAt u).entry))

/-- A record of the error log as bytes (R459). -/
def LogRec.toBytes (r : LogRec) : List Byte :=
  leBytes 2 r.type.toNat ++ leBytes 2 r.unit.toNat ++ leBytes 4 r.row.toNat ++ leBytes 8 r.addr.toNat ++ leBytes 4 r.count.toNat
    ++ leBytes 4 r.detail.toNat ++ leBytes 8 r.time.toNat

/-- `ERROR_LOG_READ` (R419, R459): the records, oldest first. -/
def execErrorLogRead : State → Host.Outcome State Fault Refusal := fun s => .next (s.reply (s.log.flatMap LogRec.toBytes))

/-- The attestation report for a nonce (R420). -/
def State.report (s : State) (x : Ctx) (nonce : List Byte) : List Byte :=
  let body := nonce ++ serialBytes ++ leBytes 4 Config.romVersion.toNat
    ++ s.coreMap.flatMap (fun c => leBytes 2 c) ++ (List.range 18).flatMap (fun k => leBytes 1 (clusterSize s.coreMap k))
    ++ leBytes 1 (if x.prot then 1 else 0) ++ digestOf x.loaded ++ digestOf s.health.record.bytes
  let (len, sig) := signed s.free (digestOf body) 1536
  body ++ leBytes 2 len ++ sig.take len

/-- The step of an attestation (R407, R420). -/
def State.cmdAttest (s : State) (fn q : Nat) : Option State :=
  s.command fn q ⟨0x0013, [(12, 8), (20, 8)], true, false⟩ fun s c x =>
    let r := s.report x (s.hostBytes (c.fld 12 8) 32)
    some (({ s with free := s.free + 1 }.setHost (c.fld 20 8) r).retireCmd c 0 0)
/-- `ATTEST` (R407, R420). -/
def execAttest (fn q : Nat) : State → Host.Outcome State Fault Refusal := fun s => .next ((s.cmdAttest fn q).getD s)

/-! ### Resets (R414, R419, R489) -/

/-- A core that no work holds, with what a fence and a loss leave (R489). -/
def CoreSt.emptied (k : CoreSt) : CoreSt := { k with tlb := [], items := [], start := [], overdue := [], passed := [], pipe := [], drain := false }

/-- Whether a store is of the memory side or of a core's caches. -/
def Store.ofMemory : Store → Bool
  | .home _ | .entry _ | .l1 _ _ | .slot _ _ => true
  | _ => false

/-- The devices that this one has to do with: those it has messages of or for, and the other members of its launches. -/
def State.partners (s : State) : List Nat :=
  ((s.peers.map (·.1) ++ s.launches.flatMap fun l => if 1 < l.2.lrec.devices then l.2.lrec.nodes else []).dedup).filter (· != s.node.toNat)
/-- A reset is reported to the other devices (R477). -/
def State.reportReset (s : State) (nodes : List Nat) : State := nodes.foldl (fun s n => s.send n .reset) s

/-- `WARM_RESET` (R419, R470, R477, R489, R491): every context ends as by a gang kill; registers and tokens take their reset values;
the error log, memory and its directory stay, and a fatal error clears. A core that was to be fenced once it had drained is fenced. -/
def execWarmReset : State → Host.Outcome State Fault Refusal := fun s =>
  let nodes := s.partners
  let s := (s.launches.map (·.1)).foldl (fun s l => s.abortLaunch l) s
  let s := (s.scans.filter fun x => !x.scan).foldl (fun s x => s.fence x.core (s.fenceCode x.core)) s
  let s := { s with agenda := [], cur := none, scan := 0, groups := [], wgs := [], gangs := [], launches := [], queues := [], served := [],
                    hoists := [], ctlb := [], mats := [], seals := [], monitors := [], prefetches := [], ops := [], fatal := false,
                    ctxs := [], fills := [], leafRel := [], tokens := [], fns := [], cmds := [], scans := [], fw := fwBase, fwFree := [],
                    flaws := s.flaws.filter fun f => f.1.ofMemory,
                    dir := (s.dir.map fun (d : Nat × Dir) => (d.1, { d.2 with sealed := none })).filter fun d => d.2 != Dir.reset,
                    cores := (s.cores.map fun (c : Nat × CoreSt) => (c.1, c.2.emptied)).filter fun c => c.2 != CoreSt.reset }
  .next (({ s with coreMap := s.inService } : State).reportReset nodes)

/-- The cores that the health data show as fenced (R489). -/
def Health.fencedCores (h : Health) : List Nat :=
  (List.range 144).filter fun c => (Table.get UnitHealth.reset h.units c).st != 0

/-- The device after a reset that keeps only the fuses and the health record: fences and failed word devices are set from
it (R419, R455, R484, R489). Memory that is not the device's own keeps its bytes, and the reset is reported (R477). -/
def State.afterCold (s : State) : State :=
  let h := { s.health with secs := s.health.secs + s.now / 1000000000, tb := 0,
                           units := s.health.units.map fun (u : Nat × UnitHealth) => (u.1, { u.2 with short := 0, last := none }) }
  let t := { State.reset with health := h, devFail := h.wdev, free := s.free, serial := s.serial,
                              mem := s.mem.filter fun c => dramEnd ≤ c.1,
                              cores := h.fencedCores.map fun c => (c, { CoreSt.reset with fenced := true }) }
  ({ t with coreMap := t.inService } : State).reportReset s.partners

/-- `COLD_RESET` (R419). -/
def execColdReset : State → Host.Outcome State Fault Refusal := fun s => .next s.afterCold

/-- `POWER_ON` (R414): as a cold reset; training the links sets the node number. -/
def execPowerOn (node : BitVec 7) : State → Host.Outcome State Fault Refusal := fun s => .next { s.afterCold with node := node }

/-- `ERROR_FILTER_EPOCH` (R458): bits 63:46 of `%tb` have changed. -/
def execErrorFilterEpoch : State → Host.Outcome State Fault Refusal := fun s =>
  if s.now / 2 ^ 46 = s.epoch then .next s else .next { s with epoch := s.now / 2 ^ 46, bloom := [], repeats := [] }

end Sys2Proof.Machine
end

