-- ==== Sys2Proof/Machine/Fabric.lean ====
section
/-! DEFINITION. Halyard (R414 to R418, R475 to R479): flits, links, messages between devices, the hoist of a launch, aborts
and the loss of a device. -/

namespace Sys2Proof.Machine

/-! ### Links (R414, R475) -/

/-- Halyard links of the device (R414). -/
def linkCount : Nat := 24
/-- Unacknowledged flits that a sender holds (R475). -/
def linkWindow : Nat := 1024
/-- Flits after which a receiver acknowledges at the latest (R475). -/
def ackEvery : Nat := 64
/-- Replay requests without progress after which a link is retrained (R475). -/
def replayLimit : Nat := 16

/-- A link. -/
def State.link (s : State) (l : Nat) : Link := Table.get Link.reset s.links l
def State.setLink (s : State) (l : Nat) (x : Link) : State := { s with links := Table.put Link.reset s.links l x }
/-- What is held of a peer. -/
def State.peer (s : State) (n : Nat) : Peer := Table.get Peer.reset s.peers n
def State.setPeer (s : State) (n : Nat) (p : Peer) : State := { s with peers := Table.put Peer.reset s.peers n p }

/-- The link that carries the traffic to a peer: the lowest trained one that is known to lead to it, or else the lowest one that is
not known to lead anywhere (log 33). -/
def State.carrier (s : State) (n : Nat) : Option Nat :=
  let up := (List.range linkCount).filter fun l => (s.link l).up
  (up.find? fun l => (s.link l).peer == some n).or (up.find? fun l => (s.link l).peer.isNone)

/-- Whether a link takes a message to a peer: its window is open and its receiver has not stopped it (R414, R475), and no message to
the peer is unacknowledged on another link, so that they arrive in order (R415, R476). -/
def State.canSend (s : State) (n l : Nat) : Bool :=
  !(s.link l).stop && (s.link l).sent.length < linkWindow && s.links.all fun q => q.1 == l || !(q.2.sent.any fun f => f.peer == n)

/-- A link sends a message to a peer as its next flit, which acknowledges what the link has received (R475, R476, log 34). -/
def Link.put (x : Link) (n : Nat) (mseq : BitVec 16) (m : HMsg) : Link :=
  { x with tx := x.tx + 1, sent := x.sent ++ [⟨x.tx, n, mseq, some m, some (x.rx - 1)⟩], since := 0 }

/-- Send the next waiting message to a peer as a flit, where the carrying link takes it (R414, R475, R476). -/
def State.pumpTo (s : State) (n : Nat) (p : Peer) : Option State :=
  match p.outbox, s.carrier n with
  | m :: rest, some l =>
    if s.canSend n l then
      some ((s.setLink l ((s.link l).put n (p.tx - BitVec.ofNat 16 p.outbox.length) m)).setPeer n { p with outbox := rest })
    else none
  | _, _ => none
/-- Send the next message that can be sent. -/
def State.pump (s : State) : Option State := s.peers.findSome? fun q => s.pumpTo q.1 q.2

/-- A flit's message enters the receive buffer of its link (R414): at the upper watermark the sender is told to stop. -/
def Link.hold (x : Link) (f : Flit) : Link :=
  match f.body with
  | none => x
  | some m =>
    let x := { x with buf := x.buf ++ [(f.peer, f.mseq, m)] }
    if !x.full && Config.stopMark ≤ x.buf.length then { x with full := true, flow := x.flow ++ [true] } else x

/-- The oldest message leaves the receive buffer: at the lower watermark the sender is told to go (R414). -/
def Link.release (x : Link) : Link :=
  let x := { x with buf := x.buf.drop 1 }
  if x.full && x.buf.length ≤ Config.goMark then { x with full := false, flow := x.flow ++ [false] } else x

/-- The oldest message of a receive buffer is handed on. -/
def State.takeBuffered (s : State) : Option State :=
  s.links.findSome? fun l => (l.2.buf.head?).map fun m =>
    { (s.setLink l.1 l.2.release) with agenda := s.agenda ++ [.message m.1 m.2.1 m.2.2] }

/-- The flits up to an acknowledged one are held no longer (R475); one that names no flit held changes nothing. -/
def Link.acked (x : Link) (a : Option (BitVec 12)) : Link :=
  match a, x.sent with
  | some q, f :: _ =>
    let n := (q + 1 - f.seq).toNat
    if n = 0 ∨ x.sent.length < n then x else { x with sent := x.sent.drop n, tries := 0 }
  | _, _ => x

/-- `HALYARD_FLIT_RECEIVE` (R414, R475, R476): an intact flit in sequence is accepted into the receive buffer, and shows the node
that the link leads to and the flits that have arrived there; another is discarded with a replay request that names the flit
expected. -/
def execHalyardFlitReceive (link : Nat) (f : Flit) (crcOk : Bool) : State → Host.Outcome State Fault Refusal := fun s =>
  let x := s.link link
  if linkCount ≤ link || !x.up then .next s
  else if !crcOk || f.seq != x.rx then .next (s.setLink link { x with out := x.out ++ [(true, x.rx)] })
  else
    let x := { x.acked f.ack with rx := x.rx + 1, since := x.since + 1, peer := some f.peer }
    let x := if ackEvery ≤ x.since then { x with since := 0, out := x.out ++ [(false, x.rx - 1)] } else x
    .next (s.setLink link (x.hold f))

/-- `REPLAY_REQUEST` (R475): the flits before the named one are acknowledged (log 34), and those from it on are sent again. -/
def execReplayRequest (link : Nat) (seq : BitVec 12) : State → Host.Outcome State Fault Refusal := fun s =>
  let x := s.link link
  let n := (seq - ((x.sent.head?).map (·.seq)).getD x.tx).toNat
  if linkCount ≤ link || !x.up || x.sent.length < n then .next s
  else .next (s.setLink link { x with sent := x.sent.drop n, tries := if n = 0 ∧ x.sent ≠ [] then x.tries + 1 else 0 })

/-- `STOP_GO` (R414). -/
def execStopGo (link : Nat) (stop : Bool) : State → Host.Outcome State Fault Refusal := fun s =>
  if linkCount ≤ link then .next s else .next (s.setLink link { s.link link with stop := stop })

/-- Messages go back to the front of the messages to send, in order. -/
def State.resend (s : State) (fs : List Flit) : State :=
  (fs.reverse).foldl (fun s f => match f.body with
    | some m => s.setPeer f.peer { s.peer f.peer with outbox := m :: (s.peer f.peer).outbox }
    | none => s) s

/-- A link is down (R475, R476): a record, and its unacknowledged messages are sent again over another link. -/
def State.dropLink (s : State) (l : Nat) : State :=
  let x := s.link l
  if !x.up then s
  else ((s.setLink l { x with up := false, sent := [], tries := 0, out := [], down := some s.now }).resend x.sent).log1 10 l 0 0 0 0

/-- Replay requests that this device has sent for one flit since it last accepted one (R475). -/
def Link.asked (x : Link) : Nat := (x.out.reverse.takeWhile fun o => o == (true, x.rx)).length

/-- `LINK_RETRAIN` (R475): after 16 replay requests for one flit; a link that fails to train is down. -/
def execLinkRetrain (link : Nat) (trained : Bool) : State → Host.Outcome State Fault Refusal := fun s =>
  let x := s.link link
  if linkCount ≤ link || !x.up || (x.tries < replayLimit && x.asked < replayLimit) then .next s
  else if trained then .next (s.setLink link { x with tries := 0, out := [], stop := false })
  else .next (s.dropLink link)

/-- `LINK_DOWN` (R476). -/
def execLinkDown (link : Nat) : State → Host.Outcome State Fault Refusal := fun s =>
  if linkCount ≤ link then .next s else .next (s.dropLink link)

/-! ### Messages (R415, R476) -/

/-- The launch of several devices that the node of its device 0 and that device's generation number name (R416). -/
def State.launchGen (s : State) (lead gen : Nat) : Option (Nat × Launch) :=
  s.launches.find? fun l => 1 < l.2.lrec.devices && l.2.lrec.node 0 == lead && l.2.gen == gen

/-- A replica of a launch record arrives (R416): it is entered on this device. -/
def State.enterReplica (s : State) (gen dev ctx id : Nat) (image : List Byte) : State :=
  match recordOf image with
  | some r => ((s.enter ctx id r gen dev).2).modCtx ctx fun c => { c with nextId := max c.nextId (id + 1) }
  | none => s

/-- What another device of a launch tells of the current phase of the grid-wide pennant takes effect (R342, R436). -/
def State.penNow (s : State) (r : PenRef) (p : Pennant) : PenMsg → State
  | .arrive x => s.setPen r (p.arrive x s.stampNow)
  | .join x => s.setPen r (p.join x)
  | .leave x => s.setPen r (p.leave x)
  | .quit x => s.setPen r (p.quit x)
  | .expect n => s.setPen r (p.expect n)
  | .broken => s.abandonPhase r p
  | .stuck dev on => s.setPen r { p with stuck := if on then (if p.stuck.contains dev then p.stuck else p.stuck ++ [dev]) else p.stuck.erase dev }

/-- What it tells of a phase that has ended here: a member that joined in it is one now; an arrival in an abandoned phase is not
carried (R436), and one made after a completed phase's first counts now; what concerns the phase alone is past (log 67). -/
def State.penPast (s : State) (r : PenRef) (p : Pennant) (no : Nat) : PenMsg → State
  | .arrive x => if p.gone.contains no then s else s.penNow r p (.arrive x)
  | .join x => s.setPen r { p with members := if p.members.contains x then p.members else p.members ++ [x] }
  | .leave x => s.penNow r p (.leave x)
  | .quit x => s.penNow r p (.quit x)
  | .expect _ | .broken | .stuck _ _ => s

/-- A message about a phase takes effect, where that phase has begun. -/
def State.penSays (s : State) (r : PenRef) (p : Pennant) (no : Nat) (m : PenMsg) : State :=
  if p.no = no then s.penNow r p m else s.penPast r p no m

/-- What another device of a launch tells of a phase of the grid-wide pennant (R342, R436): of a phase still to come, or behind a
message that waits, it waits. -/
def State.hearPen (s : State) (l no : Nat) (m : PenMsg) : State :=
  match s.pen? (.grid l) with
  | some p =>
    if p.no < no || p.ahead.any (fun q => q.1 ≤ p.no) then s.setPen (.grid l) { p with ahead := p.ahead ++ [(no, m)] }
    else s.penSays (.grid l) p no m
  | none => s

/-- The first message about a grid-wide pennant whose phase has begun takes effect. -/
def State.penAhead (s : State) : Option State :=
  s.launches.findSome? fun l => (l.2.grid.ahead.find? fun q => q.1 ≤ l.2.grid.no).map fun q =>
    let p := { l.2.grid with ahead := l.2.grid.ahead.erase q }
    (s.setPen (.grid l.1) p).penSays (.grid l.1) p q.1 q.2

/-! ### Partial state of a peer's memory (R159, R165, R415) -/

/-- Line numbers that the memory of one node spans in peer addresses (R127). -/
def nodeLines : Nat := 2 ^ 36
/-- The line of a peer, as this device addresses it. -/
def peerLine (node line : Nat) : Nat := peerBase / 128 + node * nodeLines + line % nodeLines

/-- A peer asks to hold partial state of a line of this device (R159): it waits its turn. -/
def State.hearUpdate (s : State) (node line : Nat) (t : Op) : State :=
  let n := line % nodeLines
  if dramEnd ≤ 128 * n || (s.entry n).joinq.contains (node, t) then s
  else s.modEntry n fun d => { d with joinq := d.joinq ++ [(node, t)] }

/-- A peer that holds no partial state of a line any longer: with its last holder gone the line leaves P (R145). -/
def State.leaveP (s : State) (node n : Nat) : State :=
  let s := s.modEntry n fun d => { d with devs := d.devs.filter (· != node), asked := d.asked.filter (· != node) }
  let d := s.entry n
  if d.st == .P && d.holders.isEmpty && d.devs.isEmpty && d.pend.isNone then (s.mergeLine n).told else s

/-- A peer gives back its partials of a line of this device (R159, R164, R165): what it was probed for joins the merge to come;
what it gives up of itself is combined into the home partials, as a Flush is. -/
def State.hearParts (s : State) (node line : Nat) (ps : List (Nat × DWord)) : State :=
  let n := line % nodeLines
  let d := s.entry n
  let mine := (ps.map fun q => (q.1 % 2 ^ 43, q.2)).filter fun q => q.1 / 128 == n
  if !d.devs.contains node then s
  else if d.asked.contains node then
    (s.modEntry n fun d => { d with dparts := d.dparts ++ [(node, mine)] }).leaveP node n
  else
    (mine.foldl (fun s q => s.modEntry n fun d =>
      let p : Partial := ⟨q.2.zeroExtend 128, false, false, false, false, false, false⟩
      { d with hpart := Table.insert d.hpart q.1 (Partial.merge d.tag ((Table.find d.hpart q.1).getD (Partial.ofTag d.tag)) p) }) s).leaveP node n

/-- The owner of a line asks for the partials that this device holds of it (R159, R165). Where it holds none that the owner has
acknowledged, it has given them back, and that is its answer: messages keep their order (R415). -/
def State.hearProbe (s : State) (node line : Nat) : State :=
  let n := peerLine node line
  if (s.entry n).st == .P && !(s.entry n).unacked then (s.mergeLine n).told else s

/-! ### Monitors of a peer (R340) -/

/-- A request of a peer waits for homes of lines (R153), and for peers that hold partial state of them (R159). -/
def State.park (s : State) (node : Nat) (m : HMsg) (lines : List Nat) : State :=
  lines.foldl State.askPeers { s with parked := s.parked ++ [(node, m)] }

/-- The word of this device that a peer's monitor names. -/
def watchedAt (addr : Nat) : Nat := addr % 2 ^ 43 / 4 * 4

/-- The monitor of a peer on a word is registered. -/
def State.enterWatch (s : State) (node key a : Nat) (cond : Option (Cmp × Word)) : State :=
  let (i, s) := s.fresh
  { s with monitors := s.monitors ++ [⟨i, some (node, key), 0, 0, 0, a, cond, .sys, s.monitorFree a, s.newest a, none, 0, 0⟩] }

/-- A peer registers a monitor on a word of this device (R340), which is read as a load would be, merged first where it is in P
(R164): a condition that holds wakes the peer at once. Of a word that cannot be read the abort is told of (R460), and the monitor
waits for a write. -/
def State.hearWatch (s : State) (node key addr : Nat) (cond : Option (Cmp × Word)) : State :=
  let a := watchedAt addr
  if dramEnd ≤ a then s
  else
    match cond with
    | none => s.enterWatch node key a cond
    | some (c, v) =>
      if s.lineBusy (a / 128) then s.park node (.watch key addr cond) [a / 128]
      else
        let r := s.homeRead (a / 128) (wordBit (a / 4 % 32)) .dc s.hostWho (fun _ => 0) none
        if r.abort.isNone && cmpHolds c (r.s.newest a) v then
          r.s.send node (.woke key (maxStamp 0 (((r.s.newestRels a).filter fun r => r.scope == 6).map (·.stamp))))
        else r.told.enterWatch node key a cond

/-- The owner of a word tells of the write that satisfies a monitor of this device: what the wait observes is a release of the
peer's, of system scope (R171, R186). -/
def State.hearWoke (s : State) (key stamp : Nat) : State :=
  let rels : List Release := if stamp = 0 then [] else [⟨farLaunch, 0, 6, stamp, 0xF⟩]
  { s with monitors := s.monitors.map fun m =>
      if m.id == key && m.peer.isNone && m.sat.isNone then { m with held := false, sat := some rels } else m }

/-- Launches whose end waited for a peer to acknowledge partial state end (R415). -/
def State.settleLaunches (s : State) : State := (s.launches.map (·.1)).foldl State.endLaunchIf s

/-- What a message brings about: the next step of those that a message starts, or its effect (R415). -/
def State.receive (s : State) (node : Nat) (m : HMsg) : State :=
  let later (t : Task) : State := { s with agenda := s.agenda ++ [t] }
  match m with
  | .ready lead gen dev => later (.ready lead gen dev)
  | .go lead gen => later (.go lead gen)
  | .abort lead gen => later (.abort lead gen)
  | .ended lead gen dev status => later (.ended lead gen dev status)
  | .bags r => later (.bags node r)
  | .rows key status words seed => s.modCopy key fun c => if c.asked && c.reply.isNone then { c with reply := some (status, words, seed) } else c
  | .update line t => s.hearUpdate node line t
  | .joined line => (s.modEntry (peerLine node line) fun d => { d with unacked := false }).settleLaunches
  | .probe line => s.hearProbe node line
  | .parts line _ ps => s.hearParts node line ps
  | .pen lead gen no m => match s.launchGen lead gen with
    | some (l, _) => s.hearPen l no m
    | none => s
  | .watch key addr cond => s.hearWatch node key addr cond
  | .woke key stamp => s.hearWoke key stamp
  | .launch _ gen dev ctx id image => s.enterReplica gen dev ctx id image
  | .reset => s.setPeer node { s.peer node with back := true }

/-- `HALYARD_MESSAGE` (R415, R476): the next message of a peer is received; one whose number has been accepted is
discarded. -/
def execHalyardMessage (peer : Nat) (seq : BitVec 16) (m : HMsg) : State → Host.Outcome State Fault Refusal := fun s =>
  let p := s.peer peer
  if p.dropped || seq != p.rx then .next s
  else .next ((s.setPeer peer { p with rx := p.rx + 1 }).receive peer m)

/-! ### The hoist (R416, R417) -/

/-- Whether a launch has been aborted, or has ended here: reports and go messages of it are discarded (R417, R478, R479). -/
def Launch.over (x : Launch) : Bool := x.closed || x.status == 6

/-- `HOIST_READY` (R416): the member that leads the launch sends go once it holds every report of the generation. -/
def execHoistReady (g : LaunchGen) (dev : Nat) : State → Host.Outcome State Fault Refusal := fun s =>
  match s.launchGen g.lead g.gen with
  | some (l, x) =>
    if x.dev ≠ s.leader x.lrec ∨ x.go = true ∨ x.over = true ∨ x.lrec.devices ≤ dev then .next s
    else
      let r := Table.get [] s.hoists l
      let r := if r.contains dev then r else r ++ [dev]
      if (List.range x.lrec.devices).all r.contains then
        let s := { s with hoists := Table.erase s.hoists l, agenda := s.agenda ++ [.go g.lead g.gen] }
        .next (((List.range x.lrec.devices).filter (· != x.dev)).foldl (fun s d => s.send (x.lrec.node d) (.go g.lead g.gen)) s)
      else .next { s with hoists := Table.insert s.hoists l r }
  | none => .next s

/-- `HOIST_GO` (R416). -/
def execHoistGo (g : LaunchGen) : State → Host.Outcome State Fault Refusal := fun s =>
  match s.launchGen g.lead g.gen with
  | some (l, x) => if x.over then .next s else .next { (s.modLaunch l fun x => { x with go := true }) with hoists := Table.erase s.hoists l }
  | none => .next s

/-- Whether a member of a launch is ready (R416): its code and data are in place, and its first gang can be placed. -/
def State.hoistReady (s : State) (l : Nat) (x : Launch) : Bool :=
  1 < x.lrec.devices && !x.go && !x.over && !(Table.get [] s.hoists l).contains x.dev
    && (((Table.find s.ctxs x.ctx).map fun c => c.images.any fun m => m.1 == x.lrec.code).getD false)
    && (Table.get [] s.queues x.lrec.queue).head? == some l && s.tokensMet x.lrec && (s.placeUnit l x).isSome

/-- A ready member reports: to itself where it leads, else to the member that leads. -/
def State.reportReady (s : State) : Option State :=
  match s.launches.find? fun l => s.hoistReady l.1 l.2 with
  | some (l, x) =>
    let lead := x.lrec.node 0
    if x.dev = s.leader x.lrec then some { s with agenda := s.agenda ++ [.ready lead x.gen x.dev] }
    else some ({ s with hoists := Table.insert s.hoists l [x.dev] }.send (x.lrec.node (s.leader x.lrec)) (.ready lead x.gen x.dev))
  | none => none

/-- `LAUNCH_END_REPORT` (R190, R417): the leading member counts a member's report, and the launch ends with the last; to another
member it says that the launch has ended on every device, and its record goes. -/
def execLaunchEndReport (g : LaunchGen) (dev status : Nat) : State → Host.Outcome State Fault Refusal := fun s =>
  match s.launchGen g.lead g.gen with
  | some (l, x) =>
    if x.lrec.devices ≤ dev then .next s
    else if x.dev ≠ s.leader x.lrec then
      (if x.closed && dev == s.leader x.lrec then .next { s with launches := Table.erase s.launches l } else .next s)
    else
      let s := s.modLaunch l fun y =>
        { y with reports := if y.reports.contains dev then y.reports else y.reports ++ [dev], status := if status = 0 then y.status else status }
      .next (s.endEverywhereIf l)
  | none => .next s

/-! ### Aborts and dropped devices (R477 to R479) -/

/-- A member that has ended a launch here reports it to the member that leads now (R417, R478). -/
def State.reportEnd (s : State) (l : Nat) : State :=
  match Table.find s.launches l with
  | some x => if x.closed then s.send (x.lrec.node (s.leader x.lrec)) (.ended (x.lrec.node 0) x.gen x.dev x.status) else s
  | none => s

/-- `LAUNCH_ABORT_MESSAGE` (R478, R479): the leading member aborts the launch everywhere; another kills its gangs and reports
the end, again if it has done so before. -/
def execLaunchAbortMessage (g : LaunchGen) : State → Host.Outcome State Fault Refusal := fun s =>
  match s.launchGen g.lead g.gen with
  | some (l, x) =>
    let s := { s with hoists := Table.erase s.hoists l }
    if x.dev = s.leader x.lrec then .next ((s.abortEverywhere l).endEverywhereIf l)
    else
      let t := s.abortLaunch l
      .next (if x.closed then t.reportEnd l else t)
  | none => .next s

/-- A member of a launch finds another dropped (R478): the leader aborts it everywhere; another tells the leader, and reports its
own end where it has come. -/
def State.memberLost (s : State) (l : Nat) (x : Launch) : State :=
  if x.dev = s.leader x.lrec then (if x.status = 6 then s else s.abortEverywhere l).endEverywhereIf l
  else (s.send (x.lrec.node (s.leader x.lrec)) (.abort (x.lrec.node 0) x.gen)).reportEnd l

/-- What a dropped device held of a line of this device is lost with the line, once the others' partials have been merged (R469,
R477). -/
def State.losePeer (s : State) (node line : Nat) : State :=
  let s := s.modEntry line fun d => { d with joinq := d.joinq.filter fun q => q.1 != node }
  if (s.entry line).devs.contains node then (s.leaveP node line).lose line (BitVec.allOnes 32) else s

/-- Whether an operation waits for a peer to pool a bag of a table in its memory (R418). -/
def State.asksPeer (s : State) (o : EngOp) (node : Nat) : Bool :=
  match o.k with
  | .copy c => c.asked && c.reply.isNone && match c.trec with
    | some t => s.tablePeer o.core (o.ctx s) t == some node
    | none => false
  | _ => false

/-- The time for which every path to a device has to be down before it is dropped: 1 ms (R477). -/
def pathDownFor : Nat := 1000000
/-- The paths to a peer: the links known to lead to it, or, where none is, those not known to lead anywhere (log 33). -/
def State.paths (s : State) (n : Nat) : List Nat :=
  let known := (List.range linkCount).filter fun l => (s.link l).peer == some n
  if known.isEmpty then (List.range linkCount).filter fun l => (s.link l).peer.isNone else known
/-- Whether a link has been down for that time. -/
def State.longDown (s : State) (l : Nat) : Bool := ((s.link l).down.map fun t => t + pathDownFor ≤ s.now : Option Bool).getD false
/-- Whether a device is to be dropped (R477): it has reported a reset, or every path to it has been down for 1 ms. -/
def State.cutOff (s : State) (n : Nat) : Bool := (s.peer n).back || (!(s.paths n).isEmpty && (s.paths n).all s.longDown)

/-- `DEVICE_DROP` (R469, R477, R478), once the device is cut off: a record; its messages, monitors and requests go, the lines of
which it held partials are lost, copies that it pools for abort, and the launches that it is a member of are aborted. -/
def execDeviceDrop (node : Nat) : State → Host.Outcome State Fault Refusal := fun s =>
  let p := s.peer node
  if p.dropped || 128 ≤ node || node == s.node.toNat || !s.cutOff node then .next s
  else
    let s := (s.setPeer node { p with dropped := true, outbox := [] }).log1 11 node 0 0 0 0
    let s : State := { s with monitors := s.monitors.filter fun (m : Monitor) => !(m.peer.any fun (q : Nat × Nat) => q.1 == node),
                              parked := s.parked.filter fun q => q.1 != node }
    let s := (s.dir.map (·.1)).foldl (fun s l =>
      if place (128 * l) == .peer then (if nodeOf (128 * l) == node then s.modEntry l fun d => { d with unacked := false } else s)
      else s.losePeer node l) s
    let s := (s.ops.filter fun o => s.asksPeer o.2 node).foldl (fun s o => s.modCopy o.1 fun c => { c with reply := c.reply.or (some (8, [], c.rng)) }) s
    .next ((s.launches.filter fun l => 1 < l.2.lrec.devices && l.2.lrec.nodes.contains node).foldl (fun s l => s.memberLost l.1 l.2) s).settleLaunches

/-! ### Bags pooled for a peer (R418) -/

/-- The lines that the rows of a request name. -/
def bagLines (rows : List (List BagElem)) : List Nat :=
  (rows.flatMap fun l => l.filterMap fun e => match e with
    | .at pa => some (pa / 128)
    | _ => none).dedup

/-- An element of a row that a request names, by address of this device, read at its home as an engine reads it (R364): none where it
is not there; and whether reading it aborts, which is told of (R460, R462). -/
def State.bagWord (s : State) : BagElem → State × Option Word × Bool
  | .zero => (s, some 0, false)
  | .skip => (s, none, false)
  | .at pa =>
    let r := s.homeRead (pa / 128) (wordBit (pa / 4 % 32)) .dc s.hostWho (fun _ => 0) none
    (r.told, some (r.s.newest pa), r.abort.isSome)

/-- The words of a row, up to one whose read aborts. -/
def State.bagWords : List BagElem → State → State × List (Option Word) × Bool
  | [], s => (s, [], false)
  | e :: l, s =>
    let (s, w, bad) := s.bagWord e
    if bad then (s, [], true)
    else
      let (s, ws, bad) := State.bagWords l s
      (s, w :: ws, bad)

/-- The words of rows, up to one that aborts. -/
def State.bagTable : List (List BagElem) → State → State × List (List (Option Word)) × Bool
  | [], s => (s, [], false)
  | e :: l, s =>
    let (s, ws, bad) := State.bagWords e s
    if bad then (s, [], true)
    else
      let (s, r, bad) := State.bagTable l s
      (s, ws :: r, bad)

/-- Pool the rows of a request (R361, R418): the state, the status of R355, the words, and the generator after them. An abort comes
before the status of the row with which the request ends. -/
def State.poolFor (s : State) (r : BagReq) : State × Nat × List Word × Word :=
  let (s, rows, bad) := State.bagTable r.rows s
  if bad then (s, 8, [], r.seed)
  else if r.stop != 0 then (s, r.stop, [], r.seed)
  else
    let (vs, g) := poolBag r.op r.mode r.seed r.tcols rows
    (s, 0, vs, g)

/-- `PEER_BAG_POOLING` (R418): the owning device pools the bag and returns its row; no counter of a group counts its reads. It waits
for the homes of the lines that it reads (R153). -/
def execPeerBagPooling (peer : Nat) (r : BagReq) : State → Host.Outcome State Fault Refusal := fun s =>
  let lines := bagLines r.rows
  if lines.any s.lineBusy then .next (s.park peer (.bags r) lines)
  else
    let (s, st, ws, g) := s.poolFor r
    .next (s.send peer (.rows r.key st ws g))

/-! ### Requests that wait -/

/-- The lines that a request of a peer waits for. -/
def requestLines : HMsg → List Nat
  | .bags r => bagLines r.rows
  | .watch _ addr _ => [watchedAt addr / 128]
  | _ => []

/-- A request of a peer whose lines are free is received again; for the others peers are asked (R153, R159). -/
def State.unparkRequest (s : State) (q : Nat × HMsg) : State :=
  let busy := (requestLines q.2).filter s.lineBusy
  if busy.isEmpty then ({ s with parked := s.parked.erase q } : State).receive q.1 q.2 else busy.foldl State.askPeers s

end Sys2Proof.Machine
end

