-- ==== Sys2Proof/Machine/Internal.lean ====
section
/-! DEFINITION. What the device does of itself between instructions (log 4): steps that have come due, in one fixed order, the
choice of the partition that issues next, and the tick of the clock. Each due step is the event of the opcode table. -/

namespace Sys2Proof.Machine

/-- The state after a step, where the step changes anything. -/
def State.changed (s : State) (o : Host.Outcome State Fault Refusal) : Option State :=
  match o with
  | .next t => if t = s then none else some t
  | _ => none

/-- A step that answers a state, where it changes anything. -/
def State.try (s : State) (o : Option State) : Option State :=
  match o with
  | some t => if t = s then none else some t
  | none => none

/-! ### Steps that follow at once -/

/-- Run a task of the agenda. -/
def Task.run (t : Task) (s : State) : Host.Outcome State Fault Refusal :=
  match t with
  | .pass => execDispatcherPass s
  | .message n seq m => execHalyardMessage n seq m s
  | .ready lead gen dev => execHoistReady ⟨lead, gen⟩ dev s
  | .go lead gen => execHoistGo ⟨lead, gen⟩ s
  | .abort lead gen => execLaunchAbortMessage ⟨lead, gen⟩ s
  | .ended lead gen dev status => execLaunchEndReport ⟨lead, gen⟩ dev status s
  | .bags n r => execPeerBagPooling n r s

/-! ### Waiting fragments -/

/-- The event that may end a fragment's wait. Host memory answers with what it holds (log 4). -/
def State.wake (s : State) (k en : Nat) (f : Frag) : Option State :=
  match f.wait with
  | .none | .join | .leaf _ | .pool _ | .susp => if overdueAt ≤ s.passes k en then s.changed (execFragmentOverdue k en s) else none
  | .sleep _ => s.changed (execSleepExpiry k en s)
  | .pennant _ _ => s.changed (execPennantWaitRelease k en s)
  | .ring _ _ => s.changed (execRingWaitResume k en s)
  | .line w l => s.changed (execFullLineStallEnd w l s)
  | .fill w l => s.changed (execWindowLineFill w l s)
  | .cnt _ _ => s.changed (execWaitcntReturn k en s)
  | .monitor _ => s.changed (execMonitorWake k en s)
  | .reread _ _ => s.changed (execMonitorReread k en s)
  | .itend => if (s.group? k).any fun g => s.count g 2 == 0 then s.changed (.next (s.unpark k en)) else none
  | .room _ _ _ => s.changed (execSpawnRoom k en s)
  | .spq => s.changed (execSpqQueueEmpty k en s)
  | .unseal _ => s.changed (execUnsealCountZero k en s)
  | .host => s.changed (execHostMemoryCompletion k en [] s)
  | .horizon => s.changed (execHorizonReached k en s)

/-- The first fragment whose wait ends. -/
def State.wakeAny (s : State) : Option State :=
  s.groups.findSome? fun g => g.2.frags.findSome? fun f => s.wake g.1 f.1 f.2

/-! ### Work under way -/

/-- A step of an outstanding operation. -/
def State.advance (s : State) (i : Nat) (o : EngOp) : Option State :=
  if o.done then none
  else
    match o.k with
    | .copy _ => (s.try (s.copyRow i)).or (s.try (s.copyFinish i))
    | .kset _ _ _ _ => s.try (s.ksetFinish i)
    | .drain _ => s.try (s.drainFinish i)
    | .load _ => s.try (s.loadFinish i)
    | .pass p => ((p.missing (s.matOf o)).head?.bind fun key => s.try (s.scaleFill i key)).or (s.try (s.passFinish i))
    | .mapbit _ _ _ => s.try (s.mapWrite i)
    | .red _ _ _ _ _ _ _ _ _ _ => s.changed (execAtomicAtHome i s)

/-- A step of a message between a core and a home (R143 to R152). -/
def State.deliverMsg (s : State) (m : Msg) : Option State :=
  match m with
  | .probe c l _ _ => s.changed (execProbe c l s)
  | .answer c l _ _ => s.changed (execAnswer c l s)
  | .gone c l _ => s.changed (execGone c l s)
  | .grant c l _ _ _ _ => s.changed (execGrant c l s)
  | .writeback c l _ _ _ => s.changed (execWriteback c l s)
  | .flush c l _ _ => s.changed (execFlush c l s)

/-- The Update of a peer that waits its turn (R159). -/
def State.joinAny (s : State) : Option State :=
  s.dir.findSome? fun d => d.2.joinq.findSome? fun q => s.changed (execUpdate (peerAgent q.1) (128 * d.1) q.2 s)

/-- A home slice learns of a lost core (R468). -/
def State.spread (s : State) : Option State :=
  s.dir.findSome? fun d => (d.2.holders.find? fun c => (s.core c).lost).bind fun c => s.changed (execCoreLossBroadcast (homeOf (128 * d.1)) c s)

/-- A step of a command in progress (R407). -/
def State.work (s : State) (c : Cmd) : Option State :=
  let t : Option State := match c.code with
    | 0x0001 => s.cmdLaunch c.fn c.q
    | 0x0002 => s.cmdCopy c.fn c.q
    | 0x0003 => s.cmdMap c.fn c.q
    | 0x0004 => s.cmdUnmap c.fn c.q
    | 0x0005 => s.cmdGrant c.fn c.q
    | 0x0006 => s.cmdSignal c.fn c.q
    | 0x0007 => s.cmdWait c.fn c.q
    | 0x0008 => s.cmdCreate c.fn c.q
    | 0x0009 => s.cmdSave c.fn c.q
    | 0x000A => s.cmdRestore c.fn c.q
    | 0x000B => s.cmdAbort c.fn c.q
    | 0x000C => s.cmdLoad c.fn c.q
    | 0x000D => s.cmdDestroy c.fn c.q
    | 0x0010 => s.cmdHealth c.fn c.q
    | 0x0011 => s.cmdScan c.fn c.q 0x0011 true
    | 0x0012 => s.cmdScan c.fn c.q 0x0012 false
    | 0x0013 => s.cmdAttest c.fn c.q
    | 0x0014 => s.cmdReclaim c.fn c.q
    | 0x0015 => s.cmdNode c.fn c.q
    | _ => none
  s.try t

/-- The next command of a queue starts (R404). -/
def State.startAny (s : State) : Option State :=
  (s.fns.flatMap fun f => f.2.queues.map fun q => (f.1, q.1)).findSome? fun q => s.changed (execCommandStart q.1 q.2 s)

/-- A partial group starts, or times out (R69). -/
def State.packAny (s : State) : Option State :=
  s.cores.findSome? fun c => c.2.items.findSome? fun i =>
    (s.changed (execPackedGroupStart c.1 i.launch i.pc s)).or (s.changed (execPackingTimeout c.1 i.launch i.pc s))

/-- A step of a gang that yields (R204 to R207, R440). -/
def State.yieldAny (s : State) : Option State :=
  (s.groups.findSome? fun g => if g.2.yield.isRaised then s.changed (execYieldTrap g.1 s) else none).or
    (s.gangs.findSome? fun g =>
      if g.2.yielding.isSome then (s.changed (execYieldBudgetExpiry g.1 s)).or (s.changed (execGangStateSave g.1 s)) else none)

/-- A step of a scan test or a deconfiguration (R486 to R489). What the pattern gives comes from outside. -/
def State.scanAny (s : State) : Option State :=
  s.scans.findSome? fun x => ((s.changed (execScanTestAbort x.core s)).or (s.changed (execScanDrainDone x.core s))).or
    (s.changed (execScanDrainTimeout x.core s))

/-- A peer or a member of a launch that is cut off is dropped (R477). -/
def State.dropAny (s : State) : Option State :=
  ((s.peers.map (·.1)) ++ s.launches.flatMap fun l => l.2.lrec.nodes).findSome? fun n => s.changed (execDeviceDrop n s)

/-- THE NEXT STEP THAT HAS COME DUE, in a fixed order (log 4). -/
def State.due (s : State) : Option State :=
  [fun (_ : Unit) => s.yieldAny,
   fun _ => s.msgs.findSome? s.deliverMsg,
   fun _ => s.joinAny,
   fun _ => s.wakeAny,
   fun _ => s.brokenPen.bind fun r => s.changed (execBrokenPennant r s),
   fun _ => s.sayStuck,
   fun _ => s.wgs.findSome? fun w => w.2.rings.findSome? fun r => s.changed (execRingPublishDeferred w.1 r.1 s),
   fun _ => s.ops.findSome? fun o => s.advance o.1 o.2,
   fun _ => s.prefetches.findSome? fun p => s.changed (execPrefetchLands p.id s),
   fun _ => s.bursts.findSome? fun b => s.changed (execBurstComplete b.id true s),
   fun _ => s.spread,
   fun _ => s.fills.findSome? fun f => s.try (s.fillPool f),
   fun _ => s.packAny,
   fun _ => s.cmds.findSome? s.work,
   fun _ => s.startAny,
   fun _ => s.takeBuffered,
   fun _ => s.penAhead,
   fun _ => s.parked.findSome? fun q => s.try (some (s.unparkRequest q)),
   fun _ => s.pump,
   fun _ => s.reportReady,
   fun _ => s.dropAny,
   fun _ => s.scanAny,
   fun _ => s.changed (execCoreMapChange s),
   fun _ => s.changed (execErrorFilterEpoch s),
   fun _ => s.changed (execHealthRebuild s)].findSome? fun f => f ()

/-! ### Issue and time -/

/-- The partition that issues next in this clk: the first from the cursor on with a ready fragment; none after a fatal error
(R195, R470). -/
def State.nextPart (s : State) : Option (Nat × Nat) :=
  if s.fatal then none
  else
    let parts := ((s.groups.map fun g => 4 * coreOf g.1 + partOf g.1).dedup).filter fun p => s.scan ≤ p && !(s.readyOn (p / 4) (p % 4)).isEmpty
    match parts with
    | [] => none
    | p :: r => let m := r.foldl min p; some (m / 4, m % 4)

/-- The tick of the core clock: `%tb` counts at 1 GHz whatever the clock (R12, R18); the fragments that are not ready in the new
clk begin to count anew (R197), and the dispatcher makes a pass (R192). -/
def State.tick (s : State) : State :=
  let ns := s.tbFrac + 1000
  ({ s with clk := s.clk + 1, tb := s.tb + BitVec.ofNat 64 (ns / s.mhz), tbFrac := ns % s.mhz, scan := 0, agenda := [.pass] } : State).recount

/-! ### Placing an instruction where the next step fetches it -/

/-- The address of code in a placed launch, and of its page tables at the top of the firmware's memory. -/
def placedCode : Nat := 0x10000
def placedRoot : Nat := dramEnd - 0x3000

/-- The record of a placed launch: one group of 128 threads with every register, predicate, ring and pennant. -/
def placedRecord (role : Role) : LRec :=
  { code := placedCode, entry := 0, yield := none, wg := 1, groups := 1, threads := 128, gang := 1, devices := 1, regs := 2048, preds := 48,
    swizzle := 0, scratch := 786432, roles := [role], pens := 32, gpens := 8, spawn := 1, cores := true, again := false, queue := 0, prio := 0,
    signal := none, waits := [], rings := (List.range 16).map fun i => ⟨i, 2, 256 * i, 128⟩, pre := [], nodes := [0] }

/-- The role and the level that an instruction runs at (R58, R84). -/
def placedRole (i : Option Instr) : Role :=
  match i.map fun i => (need i).cls with
  | some 12 => .C
  | some 13 => .M
  | _ => .V

/-- The group of a placed launch: for a supervisor instruction it runs a handler at the same address. -/
def placedGroup (l : Nat) (r : LRec) (wg gang now clk : Nat) (sup : Bool) : Group :=
  let g := startGroup l r wg gang 0 0 now clk
  if sup then
    let f : Frag := { Frag.handler allLanes clk with pc := 0 }
    { g with level := .sup, frags := [(0, f)],
             handler := some ⟨0, { f with sup := false }, allLanes, .next, placedCode, kPool, none, 0⟩ }
  else g

/-- A launch of one group on core 0 whose next instruction is the one that bytes of code hold: its page tables (one leaf of
1 GiB, level 2), context 1, launch, gang, workgroup and group, chosen for the next step. -/
def State.placeCode (s : State) (code : List Byte) (role : Role) (sup : Bool) : State :=
  let root := placedRoot
  let leaf : DWord := 0xD300000000000000
  let mem := ((s.mem.setDword root (ptePointer (root + 0x1000))).setDword (root + 0x1000) (ptePointer (root + 0x2000))).setDword (root + 0x2000) leaf
  let mem := mem.setBytes placedCode code
  let l := s.serial
  let r := placedRecord role
  let wg := startWg 0 0 l r (l + 1) 0
  let gang : Gang := ⟨l, 0, [0], (List.range 8).map fun p => (p, Pennant.start [0]), 0, none, false⟩
  let x : Launch := { launchOf 1 1 r 0 0 0 with started := true, next := 1 }
  let c : Ctx := ⟨0, true, 0, root, [], [], [], 0, 0, [], 2, [], [], false, [], [], []⟩
  { s with serial := l + 3, agenda := [], fatal := false, mem := mem, ctxs := Table.insert s.ctxs 1 c,
           launches := Table.insert s.launches l x, gangs := Table.insert s.gangs (l + 1) gang, wgs := Table.insert s.wgs (l + 2) wg,
           mats := Table.insert s.mats 0 { Mat.reset with owner := some (l + 2) },
           groups := Table.insert s.groups 0 (placedGroup l r (l + 2) (l + 1) s.now s.clk sup), cur := some ⟨0, 0, []⟩ }

/-- The same for a word numbered as the opcode table numbers it. -/
def State.placeWord (s : State) (nbits w : Nat) : State :=
  let i := decodeTableWord nbits w
  s.placeCode (tableBytes nbits w) (placedRole i) ((i.map fun i => (need i).sup).getD false)

end Sys2Proof.Machine
end

