-- ==== Sys2Proof/Machine/Lane.lean ====
section
/-! DEFINITION. Class 7: lane operations and checksums (R306 to R311). -/

namespace Sys2Proof.Machine

/-- The source lane of `SHFL` (R306). -/
def shflSrc (m : ShflMode) (l b : Nat) : Nat :=
  match m with
  | .idx => if b ≤ 127 then b else l
  | .up => if b ≤ l then l - b else l
  | .down => if l + b ≤ 127 then l + b else l
  | .xor => if b ≤ 127 then l ^^^ b else l

/-- `SHFL` (R306). -/
def execShfl (p : Pre) (m : ShflMode) (d a : VReg) (b : VSI) : State → Host.Outcome State Fault Refusal :=
  run (.shfl p m d a b) (upd fun x g => g.vwrite d.toNat x.lanes fun l => x.g.vget a.toNat (shflSrc m l (VSIval x.g 0 l b).toNat))

/-- `BCAST` (R306). -/
def execBcast (p : Pre) (d a : VReg) (b : SI) : State → Host.Outcome State Fault Refusal :=
  run (.bcast p d a b) (upd fun x g => g.vwrite d.toNat x.lanes fun _ => x.g.vget a.toNat ((SIval x.g b).toNat % 128))

/-- A binary32 input under ftz (R87, R307). -/
def flushIn (ftz : Bool) (c : Word) : Word :=
  if ftz && c.toNat / 2 ^ 23 % 256 == 0 then c &&& 0x80000000 else c
/-- Whether a tag works on binary32 values. -/
def floatTag : Op → Bool
  | .fadd32 | .fmin32 | .fmax32 | .xsum32 => true
  | _ => false
/-- The value of a lane as an operand of a reduction (R307). -/
def redIn (o : Op) (ftz : Bool) (c : Word) : DWord := (if floatTag o then flushIn ftz c else c).zeroExtend 64
/-- The flag of a signalling NaN among the inputs (R307). -/
def redSig (o : Op) (ls : List DWord) : Fl :=
  if floatTag o then sigFl (ls.map fun c => BinFmt.f32.read false c.toNat) else 0

/-- One combine of a reduction with its flags; stochastic rounding advances the state for `fadd32` (R307). -/
def redStep (o : Op) (ftz : Bool) (mode : BitVec 3) (acc : Acc) (a b : DWord) : DWord × Acc :=
  let s := if o = .fadd32 ∧ mode = 7 then srNext acc.seed else acc.seed
  let (c, fl) := combine o (env32 ftz mode s) a b
  (c, ⟨acc.fl ||| fl, s⟩)

/-- The result of `VRED` over the values of P (R307). -/
def reduce (o : Op) (ftz : Bool) (mode : BitVec 3) (seed : Word) (ls : List DWord) : Word × Acc :=
  if o = .xsum32 then
    let p := ls.foldl (fun p c => p.add (c.truncate 32)) Partial.zero
    let s := if mode = 7 then srNext seed else seed
    let (c, fl) := p.final none mode s
    (c, ⟨fl, s⟩)
  else
    let (c, acc) := treeBy (redStep o ftz mode) 12 ⟨redSig o ls, seed⟩ ls
    ((c.getD 0).truncate 32, acc)

/-- `VRED` (R307). -/
def execVred (p : Pre) (o : Op) (rnd : BitVec 3) (d : VS) (a : VReg) : State → Host.Outcome State Fault Refusal :=
  run (.vred p o rnd d a) (upd fun x g =>
    let P := if isScalar d then x.f.mask else x.lanes
    let ls := (lanesOf P).map fun l => redIn o (ftzOf x.f) (x.g.vget a.toNat l)
    let e0 := lowLane P
    let (c, acc) := reduce o (ftzOf x.f) (modeOf x.f rnd) (x.g.seed e0) ls
    let g := match d with
      | .v r => (lanesOf P).foldl (fun (g : Group) l => (g.vset r.toNat l c).account l ⟨acc.fl, g.seed l⟩) g
      | .s r => (g.sset r.toNat c).account e0 ⟨acc.fl, g.seed e0⟩
    g.account e0 ⟨0, acc.seed⟩)

/-- The steps of a scan (R308): for each lane after the first, the value before it and its own are combined.
Answers the inclusive values and the flags of each step, in lane order, and the state. -/
def scanFrom (o : Op) (ftz : Bool) (mode : BitVec 3) : DWord → Word → List DWord → List (DWord × Fl) × Word
  | _, s, [] => ([], s)
  | v, s, c :: r =>
    let (w, acc) := redStep o ftz mode ⟨redSig o [v, c], s⟩ v c
    let (ws, s) := scanFrom o ftz mode w acc.seed r
    ((w, acc.fl) :: ws, s)

/-- What each executing lane of `VSCAN` receives, with its flags, and the state (R308). The exclusive scan does
not perform the last step. -/
def scan (o : Op) (ftz : Bool) (mode : BitVec 3) (s : Word) (ex : Bool) (vs : List DWord) : List (DWord × Fl) × Word :=
  match vs with
  | [] => ([], s)
  | v :: r =>
    if ex then
      let (ws, s) := scanFrom o ftz mode v s r.dropLast
      (((tagId o, 0) :: (v, 0) :: ws).take vs.length, s)
    else
      let (ws, s) := scanFrom o ftz mode v s r
      ((v, 0) :: ws, s)

/-- `VSCAN` (R308). -/
def execVscan (p : Pre) (o : Op) (rnd : BitVec 3) (d a : VReg) (ex : Bool) : State → Host.Outcome State Fault Refusal :=
  run (.vscan p o rnd d a ex) (upd fun x g =>
    let es := lanesOf x.lanes
    let e0 := lowLane x.lanes
    let (ws, s) := scan o (ftzOf x.f) (modeOf x.f rnd) (x.g.seed e0) ex
      (es.map fun l => redIn o (ftzOf x.f) (x.g.vget a.toNat l))
    let g := (es.zip ws).foldl (fun (g : Group) w => (g.vset d.toNat w.1 (w.2.1.truncate 32)).account w.1 ⟨w.2.2, g.seed w.1⟩) g
    g.account e0 ⟨0, s⟩)

/-- `VCOMPACT` (R309). -/
def execVcompact (p : Pre) (d a : VReg) (q : PReg) : State → Host.Outcome State Fault Refusal :=
  run (.vcompact p d a q) (upd fun x g =>
    let es := lanesOf x.lanes
    let ls := es.filter (pbit x.g q)
    (es.zip ls).foldl (fun (g : Group) w => g.vset d.toNat w.1 (x.g.vget a.toNat w.2)) g)

/-- A sum rounded to nearest even without ftz (R310). -/
def sumRne (a b : Word) : Word × Fl :=
  let (c, fl) := combine .fadd32 envRne (a.zeroExtend 64) (b.zeroExtend 64)
  (c.truncate 32, fl)
/-- One fold of a checksum (R310). -/
def ckaAdd (fp : Bool) (a b : Word) : Word × Fl := if fp then sumRne a b else (a + b, 0)
/-- A lane's term over the positions of the block (R310). -/
def ckaTerm (fp : Bool) (g : Group) (e : Ext) (a : VReg) (l : Nat) : Word × Fl :=
  match blockRegs e a.toNat with
  | [] => (0, 0)
  | r :: rs => rs.foldl (fun (w : Word × Fl) r =>
      let (c, fl) := ckaAdd fp w.1 (g.vget r l)
      (c, w.2 ||| fl)) (g.vget r l, 0)

/-- `CKA` (R310). -/
def execCka (p : Pre) (e : Ext) (fp : Bool) (d : VS) (a : VReg) : State → Host.Outcome State Fault Refusal :=
  run (.cka p e fp d a) (upd fun x g =>
    match d with
    | .v r =>
      (lanesOf x.lanes).foldl (fun g l =>
        let (t, fl) := ckaTerm fp x.g e a l
        let (c, fl') := ckaAdd fp (x.g.vget r.toNat l) t
        (g.vset r.toNat l c).account l ⟨fl ||| fl', g.seed l⟩) g
    | .s r =>
      let ts := (lanesOf x.f.mask).map (ckaTerm fp x.g e a)
      let (t, fl) := treeBy (fun (fl : Fl) a b => ((ckaAdd fp a b).1, fl ||| (ckaAdd fp a b).2)) 12
        (ts.foldl (fun fl t => fl ||| t.2) 0) (ts.map (·.1))
      let (c, fl') := ckaAdd fp (x.g.sget r.toNat) (t.getD 0)
      (g.sset r.toNat c).account x.low ⟨fl ||| fl', g.seed x.low⟩)

/-- Whether a `CHK` comparison passes (R311). -/
def chkOk (fp : Bool) (d a : Word) (tol : Nat) : Bool :=
  if fp then
    match BinFmt.f32.read false d.toNat, BinFmt.f32.read false a.toNat with
    | .fin x, .fin y =>
      let n (z : Exact) : Int := z.at (-149)
      let m : Exact := if (n y).natAbs < (n x).natAbs then x else y
      let ulp : Nat := if m.m == 0 || m.binade < -126 then 1 else 2 ^ (m.binade + 126).toNat
      (n x - n y).natAbs ≤ tol * ulp
    | .inf m, .inf n => m == n
    | _, _ => false
  else (d.toInt - a.toInt).natAbs ≤ tol

/-- `CHK` (R311): a negative tolerance is an illegal operand; the lowest failing lane is in the code, d and a in the
address. -/
def execChk (p : Pre) (fp : Bool) (d a : VS) (b : SI) : State → Host.Outcome State Fault Refusal :=
  run (.chk p fp d a b) fun s x =>
    let ls := if isScalar d then [x.low] else lanesOf x.lanes
    let dv (l : Nat) := VSval x.g 0 l d
    let av (l : Nat) := VSval x.g 0 l a
    let tol := SIval x.g b
    if tol.msb then (s, .event (Event.plain kOperand 0 x.lanes))
    else
      let bad := ls.filter fun l => !chkOk fp (dv l) (av l) tol.toNat
      match bad with
      | [] => (s, .next)
      | l :: _ => (s, .event ⟨kChecksum, l, av l ++ dv l, if isScalar d then x.f.mask else maskOf bad, 0, none⟩)

end Sys2Proof.Machine
end

