-- ==== Sys2Proof/Machine/Dispatch.lean ====
section
/-! DEFINITION. One arm per instruction and event. -/

namespace Sys2Proof.Machine

/-- The meaning of an instruction word at the chosen fragment, or of an event (R245 to R247). -/
def exec (i : Instr) (s : State) : Host.Outcome State Fault Refusal :=
  match i with
  | .nop p uni => Sys2Proof.Machine.execNop p uni s
  | .br p t => Sys2Proof.Machine.execBr p t s
  | .brc p z c t => Sys2Proof.Machine.execBrc p z c t s
  | .brd p t r => Sys2Proof.Machine.execBrd p t r s
  | .brx p a => Sys2Proof.Machine.execBrx p a s
  | .call p d t => Sys2Proof.Machine.execCall p d t s
  | .ret p a => Sys2Proof.Machine.execRet p a s
  | .loop p c t => Sys2Proof.Machine.execLoop p c t s
  | .exit p => Sys2Proof.Machine.execExit p s
  | .sleep p n => Sys2Proof.Machine.execSleep p n s
  | .trap p code => Sys2Proof.Machine.execTrap p code s
  | .rtt p => Sys2Proof.Machine.execRtt p s
  | .yielddSusp p => Sys2Proof.Machine.execYielddSusp p s
  | .yielddRet p => Sys2Proof.Machine.execYielddRet p s
  | .bkpt p code => Sys2Proof.Machine.execBkpt p code s
  | .sadd p ty d a b => Sys2Proof.Machine.execSadd p ty d a b s
  | .ssub p ty d a b => Sys2Proof.Machine.execSsub p ty d a b s
  | .smul p d a b => Sys2Proof.Machine.execSmul p d a b s
  | .smulh p ty d a b => Sys2Proof.Machine.execSmulh p ty d a b s
  | .sdiv p ty d a b => Sys2Proof.Machine.execSdiv p ty d a b s
  | .srem p ty d a b => Sys2Proof.Machine.execSrem p ty d a b s
  | .sand p d a b => Sys2Proof.Machine.execSand p d a b s
  | .sor p d a b => Sys2Proof.Machine.execSor p d a b s
  | .sxor p d a b => Sys2Proof.Machine.execSxor p d a b s
  | .sshl p ty d a b => Sys2Proof.Machine.execSshl p ty d a b s
  | .sshr p ty d a b => Sys2Proof.Machine.execSshr p ty d a b s
  | .ssar p ty d a b => Sys2Proof.Machine.execSsar p ty d a b s
  | .smin p ty d a b => Sys2Proof.Machine.execSmin p ty d a b s
  | .smax p ty d a b => Sys2Proof.Machine.execSmax p ty d a b s
  | .scmp p cc d a b => Sys2Proof.Machine.execScmp p cc d a b s
  | .smov p ty d a => Sys2Proof.Machine.execSmov p ty d a s
  | .smovi p d v => Sys2Proof.Machine.execSmovi p d v s
  | .slea p k d a b => Sys2Proof.Machine.execSlea p k d a b s
  | .ssel p d a b => Sys2Proof.Machine.execSsel p d a b s
  | .pset p d a => Sys2Proof.Machine.execPset p d a s
  | .plop p tt d a b => Sys2Proof.Machine.execPlop p tt d a b s
  | .pcnt p d a => Sys2Proof.Machine.execPcnt p d a s
  | .pfirst p d a => Sys2Proof.Machine.execPfirst p d a s
  | .pvote p m d a => Sys2Proof.Machine.execPvote p m d a s
  | .rdsp p d sr => Sys2Proof.Machine.execRdsp p d sr s
  | .wrsp p sr a => Sys2Proof.Machine.execWrsp p sr a s
  | .setfmt p v => Sys2Proof.Machine.execSetfmt p v s
  | .setrm p v => Sys2Proof.Machine.execSetrm p v s
  | .rdff p d => Sys2Proof.Machine.execRdff p d s
  | .clrff p m => Sys2Proof.Machine.execClrff p m s
  | .iadd p e ty d a b => Sys2Proof.Machine.execIadd p e ty d a b s
  | .isub p e ty d a b => Sys2Proof.Machine.execIsub p e ty d a b s
  | .imul p e d a b => Sys2Proof.Machine.execImul p e d a b s
  | .imulh p e ty d a b => Sys2Proof.Machine.execImulh p e ty d a b s
  | .imad p e d a b => Sys2Proof.Machine.execImad p e d a b s
  | .idiv p e ty d a b => Sys2Proof.Machine.execIdiv p e ty d a b s
  | .irem p e ty d a b => Sys2Proof.Machine.execIrem p e ty d a b s
  | .imin p e ty d a b => Sys2Proof.Machine.execImin p e ty d a b s
  | .imax p e ty d a b => Sys2Proof.Machine.execImax p e ty d a b s
  | .iabs p e d a => Sys2Proof.Machine.execIabs p e d a s
  | .ineg p e d a => Sys2Proof.Machine.execIneg p e d a s
  | .icmp p cc d a b => Sys2Proof.Machine.execIcmp p cc d a b s
  | .isel p e q d a b => Sys2Proof.Machine.execIsel p e q d a b s
  | .imov p e d a => Sys2Proof.Machine.execImov p e d a s
  | .imovi p e d v => Sys2Proof.Machine.execImovi p e d v s
  | .iand p e d a b => Sys2Proof.Machine.execIand p e d a b s
  | .ior p e d a b => Sys2Proof.Machine.execIor p e d a b s
  | .ixor p e d a b => Sys2Proof.Machine.execIxor p e d a b s
  | .inot p e d a => Sys2Proof.Machine.execInot p e d a s
  | .ishl p e d a b => Sys2Proof.Machine.execIshl p e d a b s
  | .ishr p e d a b => Sys2Proof.Machine.execIshr p e d a b s
  | .isar p e d a b => Sys2Proof.Machine.execIsar p e d a b s
  | .irot p e d a b => Sys2Proof.Machine.execIrot p e d a b s
  | .bfx p e ty d a b => Sys2Proof.Machine.execBfx p e ty d a b s
  | .bfi p e d a b => Sys2Proof.Machine.execBfi p e d a b s
  | .popc p e d a => Sys2Proof.Machine.execPopc p e d a s
  | .clz p e d a => Sys2Proof.Machine.execClz p e d a s
  | .fadd p e rnd d a b => Sys2Proof.Machine.execFadd p e rnd d a b s
  | .fsub p e rnd d a b => Sys2Proof.Machine.execFsub p e rnd d a b s
  | .fmul p e rnd d a b => Sys2Proof.Machine.execFmul p e rnd d a b s
  | .ffma p e rnd d a b => Sys2Proof.Machine.execFfma p e rnd d a b s
  | .fmin p e d a b => Sys2Proof.Machine.execFmin p e d a b s
  | .fmax p e d a b => Sys2Proof.Machine.execFmax p e d a b s
  | .fabs p e d a => Sys2Proof.Machine.execFabs p e d a s
  | .fneg p e d a => Sys2Proof.Machine.execFneg p e d a s
  | .fcmp p cc d a b => Sys2Proof.Machine.execFcmp p cc d a b s
  | .fclass p e d a => Sys2Proof.Machine.execFclass p e d a s
  | .fdiv p e rnd d a b => Sys2Proof.Machine.execFdiv p e rnd d a b s
  | .fsqrt p e rnd d a => Sys2Proof.Machine.execFsqrt p e rnd d a s
  | .frcp p e rnd d a => Sys2Proof.Machine.execFrcp p e rnd d a s
  | .frsq p e rnd d a => Sys2Proof.Machine.execFrsq p e rnd d a s
  | .fexp2 p e rnd d a => Sys2Proof.Machine.execFexp2 p e rnd d a s
  | .flog2 p e rnd d a => Sys2Proof.Machine.execFlog2 p e rnd d a s
  | .fsinpi p e rnd d a => Sys2Proof.Machine.execFsinpi p e rnd d a s
  | .fcospi p e rnd d a => Sys2Proof.Machine.execFcospi p e rnd d a s
  | .fround p e rnd d a => Sys2Proof.Machine.execFround p e rnd d a s
  | .faddPacked p e bf rnd d a b => Sys2Proof.Machine.execFaddPacked p e bf rnd d a b s
  | .fsubPacked p e bf rnd d a b => Sys2Proof.Machine.execFsubPacked p e bf rnd d a b s
  | .fmulPacked p e bf rnd d a b => Sys2Proof.Machine.execFmulPacked p e bf rnd d a b s
  | .ffmaPacked p e bf rnd d a b => Sys2Proof.Machine.execFfmaPacked p e bf rnd d a b s
  | .fminPacked p e bf d a b => Sys2Proof.Machine.execFminPacked p e bf d a b s
  | .fmaxPacked p e bf d a b => Sys2Proof.Machine.execFmaxPacked p e bf d a b s
  | .fabsPacked p e bf d a => Sys2Proof.Machine.execFabsPacked p e bf d a s
  | .fnegPacked p e bf d a => Sys2Proof.Machine.execFnegPacked p e bf d a s
  | .fcmpPacked p bf cc d a b => Sys2Proof.Machine.execFcmpPacked p bf cc d a b s
  | .fclassPacked p e bf d a => Sys2Proof.Machine.execFclassPacked p e bf d a s
  | .fdivPacked p e bf rnd d a b => Sys2Proof.Machine.execFdivPacked p e bf rnd d a b s
  | .fsqrtPacked p e bf rnd d a => Sys2Proof.Machine.execFsqrtPacked p e bf rnd d a s
  | .frcpPacked p e bf rnd d a => Sys2Proof.Machine.execFrcpPacked p e bf rnd d a s
  | .frsqPacked p e bf rnd d a => Sys2Proof.Machine.execFrsqPacked p e bf rnd d a s
  | .fexp2Packed p e bf rnd d a => Sys2Proof.Machine.execFexp2Packed p e bf rnd d a s
  | .flog2Packed p e bf rnd d a => Sys2Proof.Machine.execFlog2Packed p e bf rnd d a s
  | .fsinpiPacked p e bf rnd d a => Sys2Proof.Machine.execFsinpiPacked p e bf rnd d a s
  | .fcospiPacked p e bf rnd d a => Sys2Proof.Machine.execFcospiPacked p e bf rnd d a s
  | .froundPacked p e bf rnd d a => Sys2Proof.Machine.execFroundPacked p e bf rnd d a s
  | .cvt p e tgt rnd d a src nosat => Sys2Proof.Machine.execCvt p e tgt rnd d a src nosat s
  | .qblk p tgt rnd d a b => Sys2Proof.Machine.execQblk p tgt rnd d a b s
  | .dqblk p src d a b => Sys2Proof.Machine.execDqblk p src d a b s
  | .shfl p m d a b => Sys2Proof.Machine.execShfl p m d a b s
  | .bcast p d a b => Sys2Proof.Machine.execBcast p d a b s
  | .vred p o rnd d a => Sys2Proof.Machine.execVred p o rnd d a s
  | .vscan p o rnd d a ex => Sys2Proof.Machine.execVscan p o rnd d a ex s
  | .vcompact p d a q => Sys2Proof.Machine.execVcompact p d a q s
  | .cka p e fp d a => Sys2Proof.Machine.execCka p e fp d a s
  | .chk p fp d a b => Sys2Proof.Machine.execChk p fp d a b s
  | .ld p sz sc d m => Sys2Proof.Machine.execLd p sz sc d m s
  | .st p sz sc d m => Sys2Proof.Machine.execSt p sz sc d m s
  | .ldx p e sz sc d m => Sys2Proof.Machine.execLdx p e sz sc d m s
  | .stx p e sz sc d m => Sys2Proof.Machine.execStx p e sz sc d m s
  | .prf p m => Sys2Proof.Machine.execPrf p m s
  | .invl p m => Sys2Proof.Machine.execInvl p m s
  | .lds p sz sc d m => Sys2Proof.Machine.execLds p sz sc d m s
  | .sts p sz sc d m => Sys2Proof.Machine.execSts p sz sc d m s
  | .winmap p e a b => Sys2Proof.Machine.execWinmap p e a b s
  | .winfl p e => Sys2Proof.Machine.execWinfl p e s
  | .windrop p e => Sys2Proof.Machine.execWindrop p e s
  | .atom p o sc d m => Sys2Proof.Machine.execAtom p o sc d m s
  | .red p o sc d m => Sys2Proof.Machine.execRed p o sc d m s
  | .atoms p o sc d m => Sys2Proof.Machine.execAtoms p o sc d m s
  | .upd p o rnd d m => Sys2Proof.Machine.execUpd p o rnd d m s
  | .fence p uni k sc => Sys2Proof.Machine.execFence p uni k sc s
  | .seal p a b => Sys2Proof.Machine.execSeal p a b s
  | .unseal p a => Sys2Proof.Machine.execUnseal p a s
  | .waitcnt p cl n => Sys2Proof.Machine.execWaitcnt p cl n s
  | .waitcmp p cc sc d m => Sys2Proof.Machine.execWaitcmp p cc sc d m s
  | .waitw p sc m => Sys2Proof.Machine.execWaitw p sc m s
  | .pjoin p n => Sys2Proof.Machine.execPjoin p n s
  | .pleave p n => Sys2Proof.Machine.execPleave p n s
  | .pexpect p n b => Sys2Proof.Machine.execPexpect p n b s
  | .parrive p n => Sys2Proof.Machine.execParrive p n s
  | .pwait p n => Sys2Proof.Machine.execPwait p n s
  | .psync p n => Sys2Proof.Machine.execPsync p n s
  | .racq p d ring => Sys2Proof.Machine.execRacq p d ring s
  | .rpub p ring b => Sys2Proof.Machine.execRpub p ring b s
  | .rtake p d ring => Sys2Proof.Machine.execRtake p d ring s
  | .rfree p ring b => Sys2Proof.Machine.execRfree p ring b s
  | .tsig p a b => Sys2Proof.Machine.execTsig p a b s
  | .cpy p a => Sys2Proof.Machine.execCpy p a s
  | .cpyg p a => Sys2Proof.Machine.execCpyg p a s
  | .cpys p a => Sys2Proof.Machine.execCpys p a s
  | .cpyr p a => Sys2Proof.Machine.execCpyr p a s
  | .cpyb p rnd a => Sys2Proof.Machine.execCpyb p rnd a s
  | .cpyf p a => Sys2Proof.Machine.execCpyf p a s
  | .cpyq p a => Sys2Proof.Machine.execCpyq p a s
  | .scbind p tid a => Sys2Proof.Machine.execScbind p tid a s
  | .scdrop p tid => Sys2Proof.Machine.execScdrop p tid s
  | .kset p fm k a b => Sys2Proof.Machine.execKset p fm k a b s
  | .krel p k => Sys2Proof.Machine.execKrel p k s
  | .mzero p acc => Sys2Proof.Machine.execMzero p acc s
  | .mma p e sat rnd acc tid a k km1 => Sys2Proof.Machine.execMma p e sat rnd acc tid a k km1 s
  | .mmasp p e sat rnd acc tid a k km1 => Sys2Proof.Machine.execMmasp p e sat rnd acc tid a k km1 s
  | .mdrain p add fm rnd acc sp pub ring m => Sys2Proof.Machine.execMdrain p add fm rnd acc sp pub ring m s
  | .mload p fm acc sp m => Sys2Proof.Machine.execMload p fm acc sp m s
  | .itset p a => Sys2Proof.Machine.execItset p a s
  | .itnext p d => Sys2Proof.Machine.execItnext p d s
  | .itdone p a => Sys2Proof.Machine.execItdone p a s
  | .itend p => Sys2Proof.Machine.execItend p s
  | .resq p d m => Sys2Proof.Machine.execResq p d m s
  | .spawn p a b => Sys2Proof.Machine.execSpawn p a b s
  | .spq p => Sys2Proof.Machine.execSpq p s
  | .sealsave p g a b => Sys2Proof.Machine.execSealsave p g a b s
  | .sealload p g a b => Sys2Proof.Machine.execSealload p g a b s
  | .ptew p a b => Sys2Proof.Machine.execPtew p a b s
  | .poolget p d => Sys2Proof.Machine.execPoolget p d s
  | .fltinfo p d => Sys2Proof.Machine.execFltinfo p d s
  | .issueSelect core part => Sys2Proof.Machine.execIssueSelect core part s
  | .fragmentOverdue g en => Sys2Proof.Machine.execFragmentOverdue g en s
  | .sleepExpiry g en => Sys2Proof.Machine.execSleepExpiry g en s
  | .pennantWaitRelease g en => Sys2Proof.Machine.execPennantWaitRelease g en s
  | .brokenPennant r => Sys2Proof.Machine.execBrokenPennant r s
  | .ringWaitResume g en => Sys2Proof.Machine.execRingWaitResume g en s
  | .ringPublishDeferred wg ring => Sys2Proof.Machine.execRingPublishDeferred wg ring s
  | .fullLineStallEnd wg line => Sys2Proof.Machine.execFullLineStallEnd wg line s
  | .windowLineFill wg line => Sys2Proof.Machine.execWindowLineFill wg line s
  | .waitcntReturn g en => Sys2Proof.Machine.execWaitcntReturn g en s
  | .monitorWake g en => Sys2Proof.Machine.execMonitorWake g en s
  | .monitorReread g en => Sys2Proof.Machine.execMonitorReread g en s
  | .spawnRoom g en => Sys2Proof.Machine.execSpawnRoom g en s
  | .spqQueueEmpty g en => Sys2Proof.Machine.execSpqQueueEmpty g en s
  | .unsealCountZero g en => Sys2Proof.Machine.execUnsealCountZero g en s
  | .packingTimeout core launch pc => Sys2Proof.Machine.execPackingTimeout core launch pc s
  | .packedGroupStart core launch pc => Sys2Proof.Machine.execPackedGroupStart core launch pc s
  | .copyRowLands op => Sys2Proof.Machine.execCopyRowLands op s
  | .copyComplete op => Sys2Proof.Machine.execCopyComplete op s
  | .peerBagPooling peer r => Sys2Proof.Machine.execPeerBagPooling peer r s
  | .scaleCacheFill op key => Sys2Proof.Machine.execScaleCacheFill op key s
  | .octetPassComplete op => Sys2Proof.Machine.execOctetPassComplete op s
  | .ksetComplete op => Sys2Proof.Machine.execKsetComplete op s
  | .mdrainComplete op => Sys2Proof.Machine.execMdrainComplete op s
  | .mloadComplete op => Sys2Proof.Machine.execMloadComplete op s
  | .walkerMapWriteDone op => Sys2Proof.Machine.execWalkerMapWriteDone op s
  | .prefetchLands id => Sys2Proof.Machine.execPrefetchLands id s
  | .tableWalk core ctx va => Sys2Proof.Machine.execTableWalk core ctx va s
  | .firmwarePoolFill ctx va => Sys2Proof.Machine.execFirmwarePoolFill ctx va s
  | .read core line mask => Sys2Proof.Machine.execRead core line mask s
  | .own core line mask => Sys2Proof.Machine.execOwn core line mask s
  | .update core addr tag => Sys2Proof.Machine.execUpdate core addr tag s
  | .writeback core line => Sys2Proof.Machine.execWriteback core line s
  | .flush core line => Sys2Proof.Machine.execFlush core line s
  | .grant core line => Sys2Proof.Machine.execGrant core line s
  | .probe core line => Sys2Proof.Machine.execProbe core line s
  | .answer core line => Sys2Proof.Machine.execAnswer core line s
  | .gone core line => Sys2Proof.Machine.execGone core line s
  | .burstCommand chan b => Sys2Proof.Machine.execBurstCommand chan b s
  | .burstComplete id frameOk => Sys2Proof.Machine.execBurstComplete id frameOk s
  | .deviceBeatTimeout id dev => Sys2Proof.Machine.execDeviceBeatTimeout id dev s
  | .abortCompletion who code addr => Sys2Proof.Machine.execAbortCompletion who code addr s
  | .probeTimeout core line => Sys2Proof.Machine.execProbeTimeout core line s
  | .coreLossBroadcast slice core => Sys2Proof.Machine.execCoreLossBroadcast slice core s
  | .dispatcherPass => Sys2Proof.Machine.execDispatcherPass s
  | .yieldTrap g => Sys2Proof.Machine.execYieldTrap g s
  | .gangStateSave gang => Sys2Proof.Machine.execGangStateSave gang s
  | .yieldBudgetExpiry gang => Sys2Proof.Machine.execYieldBudgetExpiry gang s
  | .coreMapChange => Sys2Proof.Machine.execCoreMapChange s
  | .powerWindow watts hottest => Sys2Proof.Machine.execPowerWindow watts hottest s
  | .thermalTrip half => Sys2Proof.Machine.execThermalTrip half s
  | .thermalTripEnd half => Sys2Proof.Machine.execThermalTripEnd half s
  | .cqdoor fn q tail => Sys2Proof.Machine.execCqdoor fn q tail s
  | .queueRegister fn q v => Sys2Proof.Machine.execQueueRegister fn q v s
  | .queueUnregister fn q v => Sys2Proof.Machine.execQueueUnregister fn q v s
  | .queueErrorClear fn q => Sys2Proof.Machine.execQueueErrorClear fn q s
  | .cchead fn q head => Sys2Proof.Machine.execCchead fn q head s
  | .fqhead fn head => Sys2Proof.Machine.execFqhead fn head s
  | .fqOverflowClear fn => Sys2Proof.Machine.execFqOverflowClear fn s
  | .registerWrite fn off v => Sys2Proof.Machine.execRegisterWrite fn off v s
  | .commandStart fn q => Sys2Proof.Machine.execCommandStart fn q s
  | .launch fn q => Sys2Proof.Machine.execLaunch fn q s
  | .hostCopy fn q => Sys2Proof.Machine.execHostCopy fn q s
  | .map fn q => Sys2Proof.Machine.execMap fn q s
  | .unmap fn q => Sys2Proof.Machine.execUnmap fn q s
  | .poolGrant fn q => Sys2Proof.Machine.execPoolGrant fn q s
  | .tokenSignal fn q => Sys2Proof.Machine.execTokenSignal fn q s
  | .tokenWait fn q => Sys2Proof.Machine.execTokenWait fn q s
  | .contextCreate fn q => Sys2Proof.Machine.execContextCreate fn q s
  | .contextSave fn q => Sys2Proof.Machine.execContextSave fn q s
  | .contextRestore fn q => Sys2Proof.Machine.execContextRestore fn q s
  | .launchAbort fn q => Sys2Proof.Machine.execLaunchAbort fn q s
  | .loadImage fn q => Sys2Proof.Machine.execLoadImage fn q s
  | .contextDestroy fn q => Sys2Proof.Machine.execContextDestroy fn q s
  | .healthQuery fn q => Sys2Proof.Machine.execHealthQuery fn q s
  | .scanTest fn q => Sys2Proof.Machine.execScanTest fn q s
  | .scanDrainDone core => Sys2Proof.Machine.execScanDrainDone core s
  | .scanDrainTimeout core => Sys2Proof.Machine.execScanDrainTimeout core s
  | .scanRunDone core pass => Sys2Proof.Machine.execScanRunDone core pass s
  | .scanTestAbort core => Sys2Proof.Machine.execScanTestAbort core s
  | .deconfigure fn q => Sys2Proof.Machine.execDeconfigure fn q s
  | .attest fn q => Sys2Proof.Machine.execAttest fn q s
  | .reclaim fn q => Sys2Proof.Machine.execReclaim fn q s
  | .nodeQuery fn q => Sys2Proof.Machine.execNodeQuery fn q s
  | .halyardFlitReceive link f crcOk => Sys2Proof.Machine.execHalyardFlitReceive link f crcOk s
  | .replayRequest link seq => Sys2Proof.Machine.execReplayRequest link seq s
  | .stopGo link stop => Sys2Proof.Machine.execStopGo link stop s
  | .linkRetrain link trained => Sys2Proof.Machine.execLinkRetrain link trained s
  | .linkDown link => Sys2Proof.Machine.execLinkDown link s
  | .halyardMessage peer seq m => Sys2Proof.Machine.execHalyardMessage peer seq m s
  | .deviceDrop node => Sys2Proof.Machine.execDeviceDrop node s
  | .launchAbortMessage gen => Sys2Proof.Machine.execLaunchAbortMessage gen s
  | .hoistReady gen dev => Sys2Proof.Machine.execHoistReady gen dev s
  | .hoistGo gen => Sys2Proof.Machine.execHoistGo gen s
  | .launchEndReport gen dev status => Sys2Proof.Machine.execLaunchEndReport gen dev status s
  | .healthRecordRead => Sys2Proof.Machine.execHealthRecordRead s
  | .ageingMonitorRead => Sys2Proof.Machine.execAgeingMonitorRead s
  | .errorLogRead => Sys2Proof.Machine.execErrorLogRead s
  | .warmReset => Sys2Proof.Machine.execWarmReset s
  | .coldReset => Sys2Proof.Machine.execColdReset s
  | .ageingSample unit short slow => Sys2Proof.Machine.execAgeingSample unit short slow s
  | .errorFilterEpoch => Sys2Proof.Machine.execErrorFilterEpoch s
  | .healthRebuild => Sys2Proof.Machine.execHealthRebuild s
  | .horizonReached g en => Sys2Proof.Machine.execHorizonReached g en s
  | .hostMemoryCompletion g en data => Sys2Proof.Machine.execHostMemoryCompletion g en data s
  | .atomicAtHome op => Sys2Proof.Machine.execAtomicAtHome op s
  | .powerOn node => Sys2Proof.Machine.execPowerOn node s

end Sys2Proof.Machine
end

