-- ==== Sys2Proof/Machine/Step.lean ====
section
/-! DEFINITION. The step of the device (log 4): what has to follow at once, else the instruction of the chosen fragment, else
what has come due, else the choice of a fragment, else a tick of the clock. -/

namespace Sys2Proof.Machine

/-- One step of the device. -/
def step (s : State) : Host.Outcome State Fault Refusal :=
  match s.agenda with
  | t :: r => t.run { s with agenda := r }
  | [] =>
    match s.cur with
    | some _ =>
      match s.ahead with
      | .run i t => exec i t
      | .done t => .next t
    | none =>
      match s.due with
      | some t => .next t
      | none =>
        match s.nextPart with
        | some p => execIssueSelect p.1 p.2 s
        | none => .next s.tick

/-- `s` with an instruction stored where the next step fetches it (log 8). -/
def State.withFetchWord (s : State) (nbits w : Nat) : State := s.placeWord nbits w

end Sys2Proof.Machine
end

