-- ==== Sys2Proof/Safety.lean ====
section
/-! DEFINITION. The terms that claims use: when an instruction word executes and what its completion is; what a write of
registers leaves; which bytes a state holds; and what a safe run of the device is: it goes on, and no gang has been killed. -/

namespace Sys2Proof.Safety

open Sys2Proof.Machine

/-! ### Instruction words -/

/-- Instruction word `i` executes in `s` as `x` says: `s` has chosen the fragment `x.f`, entry `x.en` of group `x.g` under key
`x.k` (R195); no register that the word names is one that a copy is to land in (R352); the decode checks pass: role, privilege
and range (R246); the guard holds in the lanes `x.lanes`, at least one (R21, R49); and no register that the word reads holds an
error that cannot be corrected (R456). -/
structure Executes (i : Instr) (s : State) (x : X) : Prop where
  chosen : s.selected = some (x.k, x.en, x.g, x.f)
  free   : (need i).vs.any (s.heldRegs x.k x.g.gid).contains = false
  legal  : (need i).fault (pre i) x.g = none
  guard  : x.lanes = execLanes (pre i) (uniform i) x.g x.f
  active : x.lanes ≠ 0
  sound  : ((s.issued x.k x.en x.f (need i) (uniform i) (stall i s x)).readRegs x.k (need i) (s.ctxOf x.g.launch) x.lanes).2 = 0

/-- The state in which the effect of the word takes place: the issue slot is spent and the vector pipe taken (R195 to R197), and
the registers that the word names have been read (R456). -/
def begun (i : Instr) (s : State) (x : X) : State :=
  ((s.issued x.k x.en x.f (need i) (uniform i) (stall i s x)).readRegs x.k (need i) (s.ctxOf x.g.launch) x.lanes).1

/-- The word completes: its effect makes `begun i s x` into `t`, and its fragment goes on at byte offset `pc` after the wait
`w`. -/
def Completes (i : Instr) (s : State) (x : X) (t : State) (pc : Nat) (w : Wait) : Prop :=
  exec i s = .next (t.move x.k x.en pc w)

/-- The word completes with no effect but on its group, which becomes `g`, and goes on at the next instruction. -/
def Yields (i : Instr) (s : State) (x : X) (g : Group) : Prop :=
  Completes i s x ((begun i s x).modGroup x.k fun _ => g) (x.f.pc + 12) .none

/-- The word raises an event of a kind in its fragment's active lanes, and does nothing else (R421, R423). -/
def Raises (i : Instr) (s : State) (x : X) (kind code : Nat) : Prop :=
  exec i s = .next ((begun i s x).takeEvent x.k x.en (Event.plain kind code x.f.mask))

/-- The word takes an event, and does nothing else. -/
def Takes (i : Instr) (s : State) (x : X) (e : Event) : Prop := exec i s = .next ((begun i s x).takeEvent x.k x.en e)

/-- The word is not ready (R195): it has not issued, the slot is not spent, and its fragment is not chosen again in this clk. -/
def Again (i : Instr) (s : State) (x : X) : Prop :=
  exec i s = .next ((s.unspent x.k x.en).modFrag x.k x.en fun f => { f with since := s.clk + 1 })

/-- The word waits, with no effect yet, and is executed again after the wait `w`. -/
def Waits (i : Instr) (s : State) (x : X) (w : Wait) : Prop :=
  exec i s = .next ((begun i s x).modFrag x.k x.en fun f => { f with wait := w })

/-- The group of a fragment that has moved to `pc` with a wait, at rest (R54, R56). -/
def moved (g : Group) (clk en pc : Nat) (w : Wait) : Group :=
  match g.frag en with
  | none => g
  | some f => (g.setFrag en { f with pc := pc, wait := w, since := clk, only := none, hostOk := false }).rest clk en

/-- Nothing follows at once for a group: it has lanes left (R47), a handler that runs has a fragment (R426), its fragments do
not all wait to reconverge (R439), and no suspend takes effect (R205). -/
def Settled (g : Group) : Prop :=
  g.done = false ∧ (g.handler.isSome && g.acting.isEmpty) = false ∧ g.deadlocked = false ∧ g.lastSusp = none

/-! ### Exact values -/

/-- The magnitude `m × 2^e` of an exact value, and the value with its sign. -/
def magOf (x : Exact) : ℚ := x.m * (2 : ℚ) ^ x.e
def valOf (x : Exact) : ℚ := if x.neg then -magOf x else magOf x

/-- An exact value stands for the magnitude `q`: it is `q`, or, where it is sticky, `q` lies strictly between it and the next
multiple of its last place, far below the last place of every format (R93). -/
def StandsFor (x : Exact) (q : ℝ) : Prop :=
  if x.sticky then (magOf x : ℝ) < q ∧ q < (magOf x : ℝ) + (2 : ℝ) ^ x.e ∧ 2 ^ 64 ≤ x.m else (magOf x : ℝ) = q

/-! ### Registers -/

/-- `h` is `g` with scalar `d` written. -/
def ScalarSet (g h : Group) (d : Nat) (v : Word) : Prop :=
  (∀ n, h.sget n = if n = d then v else g.sget n) ∧ { h with sregs := g.sregs } = g

/-- `h` is `g` with the scalar pair `d`, `d` + 1 written, the low half first (R3). -/
def PairSet (g h : Group) (d : Nat) (v : DWord) : Prop :=
  (∀ n, h.sget n = if n = d then v.setWidth 32 else if n = d + 1 then (v >>> 32).setWidth 32 else g.sget n) ∧
    { h with sregs := g.sregs } = g

/-- `h` is `g` with the vector registers `d` + `o`, for `o` in `os`, written in the lanes of a mask. -/
def LanesSet (g h : Group) (d : Nat) (os : List Nat) (lanes : Mask) (f : Nat → Nat → Word) : Prop :=
  (∀ o ∈ os, ∀ l < 128, lanes.getLsbD l = true → h.vget (d + o) l = f o l) ∧
    (∀ r, ∀ l < 128, (lanes.getLsbD l = false ∨ ∀ o ∈ os, r ≠ d + o) → h.vget r l = g.vget r l) ∧
    { h with vregs := g.vregs } = g

/-- `h` is `g` with predicate `d` written in the lanes of a mask. -/
def PredSet (g h : Group) (d : Nat) (lanes : Mask) (f : Nat → Bool) : Prop :=
  (∀ l < 128, (h.pmask d).getLsbD l = if lanes.getLsbD l then f l else (g.pmask d).getLsbD l) ∧
    (∀ n, n ≠ d → h.pmask n = g.pmask n) ∧ { h with pregs := g.pregs } = g

/-- `h` is `g` with `%fflags` of every lane written (R81). -/
def FlagsSet (g h : Group) (f : Nat → Word) : Prop := (∀ l < 128, h.flags l = f l) ∧ { h with fflags := g.fflags } = g
/-- `h` is `g` with `%srseed` of every lane written (R82). -/
def SeedsSet (g h : Group) (f : Nat → Word) : Prop := (∀ l < 128, h.seed l = f l) ∧ { h with srseed := g.srseed } = g

/-- The word completes with scalar `d` written, and nothing else of its group. -/
def WritesScalar (i : Instr) (s : State) (x : X) (d : Nat) (v : Word) : Prop := ∃ g, ScalarSet x.g g d v ∧ Yields i s x g
/-- The word completes with the scalar pair `d` written, and nothing else of its group. -/
def WritesPair (i : Instr) (s : State) (x : X) (d : Nat) (v : DWord) : Prop := ∃ g, PairSet x.g g d v ∧ Yields i s x g
/-- The word completes with a vector block written in the executing lanes, and nothing else of its group (R30, R48). -/
def WritesBlock (i : Instr) (s : State) (x : X) (e : Ext) (d : VReg) (f : Nat → Nat → Word) : Prop :=
  ∃ g, LanesSet x.g g d.toNat (blockOffs e) x.lanes f ∧ Yields i s x g
/-- The word completes with one vector register written in the executing lanes, and nothing else of its group. -/
def WritesLanes (i : Instr) (s : State) (x : X) (d : VReg) (f : Nat → Word) : Prop :=
  ∃ g, LanesSet x.g g d.toNat [0] x.lanes (fun _ => f) ∧ Yields i s x g
/-- The word completes with predicate `d` written in the executing lanes, and nothing else of its group. -/
def WritesPred (i : Instr) (s : State) (x : X) (d : PReg) (f : Nat → Bool) : Prop :=
  ∃ g, PredSet x.g g d.toNat x.lanes f ∧ Yields i s x g

/-- `h` is `g` but for some vector registers, `%fflags` and `%srseed` in the lanes of a mask. -/
def LanesOnly (g h : Group) (regs : List Nat) (lanes : Mask) : Prop :=
  (∀ r, ∀ l < 128, (lanes.getLsbD l = false ∨ r ∉ regs) → h.vget r l = g.vget r l) ∧
    (∀ l < 128, lanes.getLsbD l = false → h.flags l = g.flags l ∧ h.seed l = g.seed l) ∧
    { h with vregs := g.vregs, fflags := g.fflags, srseed := g.srseed } = g

/-- Flags have been OR-ed into a lane's `%fflags`, whose bits are 4:0 (R81). -/
def Flagged (g h : Group) (l : Nat) (fl : Fl) : Prop := h.flags l &&& 0x1F = (g.flags l ||| fl.setWidth 32) &&& 0x1F

/-- The word completes as a form that rounds (R98, R295): in every executing lane, the positions of the block take the results of
`f` by offset, element, lane and generator state, in the order of R98; the flags of all results are OR-ed into the lane's
`%fflags`, and its `%srseed` takes the last state. -/
def Rounds (i : Instr) (s : State) (x : X) (e : Ext) (els width : Nat) (mode : BitVec 3) (d : VReg)
    (f : Nat → Nat → Nat → Word → Nat × Fl) : Prop :=
  ∃ g, LanesOnly x.g g (blockRegs e d.toNat) x.lanes ∧ Yields i s x g ∧ ∀ l < 128, x.lanes.getLsbD l = true →
    let r := laneResults els width mode (fun o k w => f o k l w) (blockOffs e) ⟨0, x.g.seed l⟩
    (∀ c ∈ r.1, g.vget (d.toNat + c.1) l = c.2) ∧ Flagged x.g g l r.2.fl ∧ g.seed l = r.2.seed

/-! ### Races and aborts -/

/-- The event of conflicting accesses (R423, R433, R446): kind 0x20 in the lanes that conflicted, of a uniform instruction in every
active lane, with the code, the other agent and the address of a conflict of the lowest of them. -/
def RaceOf (x : X) (uni : Bool) (hits : List Clash) (e : Event) : Prop :=
  e.kind = 0x20 ∧ e.leaf = none ∧ (uni = true → e.lanes = x.f.mask) ∧
    (uni = false → ∀ l < 128, e.lanes.getLsbD l = true ↔ ∃ h ∈ hits, h.lane = l) ∧
    ∃ h ∈ hits, (∀ h' ∈ hits, h.lane ≤ h'.lane) ∧ e.code = h.code ∧ e.agent = h.agent ∧ e.addr = BitVec.ofNat 64 h.va

/-- How the accesses of an instruction end, in the state `t` that those that are performed leave (R446, R450, R461, R462): words that
abort kill the gang, else conflicts raise their exception, else the instruction goes on as `goes` says. -/
def Ends (i : Instr) (s : State) (x : X) (uni : Bool) (t : State) (bad : List Abort) (hits : List Clash) (goes : Prop) : Prop :=
  (bad = [] → hits = [] → goes) ∧
  (bad = [] → hits ≠ [] → ∃ e, RaceOf x uni hits e ∧ exec i s = .next (t.takeEvent x.k x.en e)) ∧
  (bad ≠ [] → exec i s = .next ((t.abortThread x uni bad).1.tidy x.k))

/-! ### Stores -/

/-- The words `ws` are what a store whose accesses are `rs`, of the values `val`, writes (R133): each word once, with the bytes
that some access stores to it, each byte with the value of the highest access that stores it. -/
def Puts (rs : List Res) (val : Res → DWord) (ws : List Put) : Prop :=
  (ws.map (·.pa)).Nodup ∧
    (∀ y, ∀ k < 4, (∃ w ∈ ws, w.pa = y ∧ w.bytes.getLsbD k = true) ↔
      ∃ a ∈ rs, ∃ w ∈ a.puts (val a), w.pa = y ∧ w.bytes.getLsbD k = true) ∧
    ∀ w ∈ ws, ∀ k < 4, w.bytes.getLsbD k = true → ∃ a ∈ rs, ∃ u ∈ a.puts (val a), u.pa = w.pa ∧ u.bytes.getLsbD k = true ∧
      (w.val >>> (8 * k)).setWidth 8 = ((u.val >>> (8 * k)).setWidth 8 : Byte) ∧
      ∀ a' ∈ rs, ∀ u' ∈ a'.puts (val a'), u'.pa = w.pa → u'.bytes.getLsbD k = true →
        a'.pos < a.pos ∨ (a'.pos = a.pos ∧ a'.lane ≤ a.lane)

/-! ### Arithmetic in the integers -/

/-- The number that a word holds, read as unsigned or as signed (R261). -/
def num (u : Bool) (a : Word) : Int := if u then (a.toNat : Int) else a.toInt
/-- The 32-bit and the 64-bit word of a number modulo 2^32 and 2^64 (R262). -/
def word (n : Int) : Word := BitVec.ofInt 32 n
def dword (n : Int) : DWord := BitVec.ofInt 64 n
/-- Whether a condition holds between two words (R223, R265). -/
def Holds (c : Cmp) (a b : Word) : Prop :=
  match c.cond with
  | .eq => a = b
  | .ne => a ≠ b
  | .lt => num c.u a < num c.u b
  | .le => num c.u a ≤ num c.u b
  | .gt => num c.u b < num c.u a
  | .ge => num c.u b ≤ num c.u a

/-! ### Runs -/

/-- `t` follows `s` after some steps. -/
inductive Reaches : State → State → Prop where
  | refl (s : State) : Reaches s s
  | step {s t u : State} : step s = .next t → Reaches t u → Reaches s u

/-- The device goes on: its next step answers a next state. -/
def Goes (s : State) : Prop := ∃ t, step s = .next t

/-- Nothing has gone wrong so far: no fatal error (R470), and no gang kill in the error log (R459, R464). -/
def Clean (s : State) : Prop := s.fatal = false ∧ ∀ r ∈ s.log, r.type ≠ 9

/-- A safe run from a state: every state that it reaches goes on and is clean. -/
def Safe (s : State) : Prop := ∀ t, Reaches s t → Goes t ∧ Clean t

/-! ### Words -/

/-- A word written out field by field (R217): the opcode, the guard, the uniform marker, the extent, the policy, bits 67:65, the
type, and the operands D, A and B. -/
def fieldWord (op : BitVec 10) (neg : BitVec 1) (guard : BitVec 6) (uni : BitVec 1) (h w : BitVec 3) (policy : BitVec 2)
    (rf : BitVec 3) (ty : BitVec 5) (d a b : BitVec 20) : InstrWord :=
  op ++ neg ++ guard ++ uni ++ h ++ w ++ policy ++ 0#2 ++ rf ++ ty ++ d ++ a ++ b

end Sys2Proof.Safety
end

