-- ==== Sys2Proof/Certificates/Slice0/Obligations.lean ====
section
/-! DEFINITION. The statements about the device, for the provers: each follows rules of spec/, which its comment names. -/

open Sys2Proof Sys2Proof.Machine Sys2Proof.Safety

/-- Scalar arithmetic, logic and shifts (R262 to R264): the exact integer result, taken mod 2^n. -/
def Obligations.ScalarArithmetic : Prop :=
  ∀ (p : Pre) (ty : IntTy) (d a : SReg) (b : SI) (s : State) (x : X),
    let A := x.g.sget a.toNat
    let A2 := x.g.sget2 a.toNat
    let B := SIval x.g b
    let B2 := SIval2 x.g b
    let u := ty == .u32
    let n := B.toNat % 32
    let n2 := B2.toNat % 64
    (ty ≠ .d64 → Executes (.sadd p ty d a b) s x → WritesScalar (.sadd p ty d a b) s x d.toNat (word (A.toInt + B.toInt))) ∧
    (Executes (.sadd p .d64 d a b) s x → WritesPair (.sadd p .d64 d a b) s x d.toNat (dword (A2.toInt + B2.toInt))) ∧
    (ty ≠ .d64 → Executes (.ssub p ty d a b) s x → WritesScalar (.ssub p ty d a b) s x d.toNat (word (A.toInt - B.toInt))) ∧
    (Executes (.ssub p .d64 d a b) s x → WritesPair (.ssub p .d64 d a b) s x d.toNat (dword (A2.toInt - B2.toInt))) ∧
    (Executes (.smul p d a b) s x → WritesScalar (.smul p d a b) s x d.toNat (word (A.toInt * B.toInt))) ∧
    (Executes (.smulh p ty d a b) s x → WritesScalar (.smulh p ty d a b) s x d.toNat (word (num u A * num u B / 2 ^ 32))) ∧
    (Executes (.sand p d a b) s x → WritesScalar (.sand p d a b) s x d.toNat (A &&& B)) ∧
    (Executes (.sor p d a b) s x → WritesScalar (.sor p d a b) s x d.toNat (A ||| B)) ∧
    (Executes (.sxor p d a b) s x → WritesScalar (.sxor p d a b) s x d.toNat (A ^^^ B)) ∧
    (Executes (.smin p ty d a b) s x → WritesScalar (.smin p ty d a b) s x d.toNat (word (min (num u A) (num u B)))) ∧
    (Executes (.smax p ty d a b) s x → WritesScalar (.smax p ty d a b) s x d.toNat (word (max (num u A) (num u B)))) ∧
    (Executes (.sdiv p ty d a b) s x →
      WritesScalar (.sdiv p ty d a b) s x d.toNat (if B = 0 then 0xFFFFFFFF else word ((num u A).tdiv (num u B)))) ∧
    (Executes (.srem p ty d a b) s x →
      WritesScalar (.srem p ty d a b) s x d.toNat (if B = 0 then A else word ((num u A).tmod (num u B)))) ∧
    (ty ≠ .d64 → Executes (.sshl p ty d a b) s x → WritesScalar (.sshl p ty d a b) s x d.toNat (word (A.toNat * 2 ^ n))) ∧
    (Executes (.sshl p .d64 d a b) s x → WritesPair (.sshl p .d64 d a b) s x d.toNat (dword (A2.toNat * 2 ^ n2))) ∧
    (ty ≠ .d64 → Executes (.sshr p ty d a b) s x → WritesScalar (.sshr p ty d a b) s x d.toNat (word (A.toNat / 2 ^ n))) ∧
    (Executes (.sshr p .d64 d a b) s x → WritesPair (.sshr p .d64 d a b) s x d.toNat (dword (A2.toNat / 2 ^ n2))) ∧
    (ty ≠ .d64 → Executes (.ssar p ty d a b) s x → WritesScalar (.ssar p ty d a b) s x d.toNat (word (A.toInt / 2 ^ n))) ∧
    (Executes (.ssar p .d64 d a b) s x → WritesPair (.ssar p .d64 d a b) s x d.toNat (dword (A2.toInt / 2 ^ n2)))

/-- Scalar comparison, moves, address formation and selection (R265, R266). -/
def Obligations.ScalarMoves : Prop :=
  ∀ (p : Pre) (ty : IntTy) (cc : Cmp) (k : BitVec 2) (v : BitVec 32) (d a : SReg) (b b' : SI) (s : State) (x : X),
    let A := x.g.sget a.toNat
    let A2 := x.g.sget2 a.toNat
    let B := SIval x.g b
    (Executes (.scmp p cc d a b) s x → (Holds cc A B → WritesScalar (.scmp p cc d a b) s x d.toNat 1) ∧
      (¬ Holds cc A B → WritesScalar (.scmp p cc d a b) s x d.toNat 0)) ∧
    (ty ≠ .d64 → Executes (.smov p ty d a) s x → WritesScalar (.smov p ty d a) s x d.toNat A) ∧
    (Executes (.smov p .d64 d a) s x → WritesPair (.smov p .d64 d a) s x d.toNat A2) ∧
    (Executes (.smovi p d v) s x → WritesScalar (.smovi p d v) s x d.toNat v) ∧
    (Executes (.slea p k d a b) s x → WritesPair (.slea p k d a b) s x d.toNat (dword (A2.toInt + B.toInt * 2 ^ k.toNat))) ∧
    (Executes (.ssel p d b b') s x →
      WritesScalar (.ssel p d b b') s x d.toNat (if x.g.sget d.toNat ≠ 0 then B else SIval x.g b'))

/-- The predicate forms (R267 to R270) and the integer comparison (R292). -/
def Obligations.PredicateResults : Prop :=
  ∀ (p : Pre) (tt : BitVec 4) (m : Vote) (cc : Cmp) (d a b : PReg) (r : SReg) (v : VSI) (w : VS) (s : State) (x : X),
    let P := fun (q : PReg) (l : Nat) => (x.g.pmask q.toNat).getLsbD l
    let act := (List.range 128).filter fun l => x.f.mask.getLsbD l && P a l
    (Executes (.pset p d v) s x → WritesPred (.pset p d v) s x d fun l => decide (VSIval x.g 0 l v ≠ 0)) ∧
    (Executes (.plop p tt d a b) s x →
      WritesPred (.plop p tt d a b) s x d fun l => tt.getLsbD (2 * (P a l).toNat + (P b l).toNat)) ∧
    (Executes (.pcnt p r a) s x → WritesScalar (.pcnt p r a) s x r.toNat (word act.length)) ∧
    (Executes (.pfirst p r a) s x → WritesScalar (.pfirst p r a) s x r.toNat (word ((act.head?.map fun l => (l : Int)).getD (-1)))) ∧
    (Executes (.pvote p m d a) s x → ∃ v : Bool, (WritesPred (.pvote p m d a) s x d fun _ => v) ∧
      (v = true ↔ match m with
        | .any => ∃ l < 128, x.lanes.getLsbD l = true ∧ P a l = true
        | .all => ∀ l < 128, x.lanes.getLsbD l = true → P a l = true
        | .eq => ∀ l < 128, ∀ k < 128, x.lanes.getLsbD l = true → x.lanes.getLsbD k = true → P a l = P a k)) ∧
    (Executes (.icmp p cc d w v) s x → ∃ f : Nat → Bool, WritesPred (.icmp p cc d w v) s x d f ∧
      ∀ l, f l = true ↔ Holds cc (VSval x.g 0 l w) (VSIval x.g 0 l v))

/-- The special-register forms (R83, R271 to R275) and what each register reads as (R77). A form that reads or writes `%fflags` goes
on only when no matrix work that is to raise flags in the group's lanes is under way, and is issued again until then (R107). -/
def Obligations.SpecialRegisters : Prop :=
  ∀ (p : Pre) (sr : BitVec 6) (d : VReg) (r : SReg) (v : VSI) (i7 : BitVec 7) (i4 : BitVec 4) (i5 : BitVec 5) (s : State) (x : X),
    let V := fun (i : Instr) (l : Nat) => spValue (begun i s x) x sr l
    let free := fun (i : Instr) => (begun i s x).flagsBusy x.g = false
    let waits := fun (i : Instr) => Executes i s x → ¬ free i → Again i s x
    let low := lowLane x.f.mask
    let fmt := fun (i : Instr) (w : Word) =>
      (w.toNat % 8 < 6 ∧ w.toNat / 16 % 8 < 4 → Completes i s x
        ((begun i s x).modFrag x.k x.en fun f => { f with fmt := w &&& 0x77 }) (x.f.pc + 12) .none) ∧
      (¬ (w.toNat % 8 < 6 ∧ w.toNat / 16 % 8 < 4) →
        exec i s = .next ((begun i s x).takeEvent x.k x.en (Event.plain 0x09 0 x.f.mask)))
    let rmode := fun (i : Instr) (w : Word) =>
      (w.toNat % 8 ≠ 0 → Completes i s x ((begun i s x).modFrag x.k x.en fun f => { f with rmode := w &&& 0xF }) (x.f.pc + 12) .none) ∧
      (w.toNat % 8 = 0 → exec i s = .next ((begun i s x).takeEvent x.k x.en (Event.plain 0x09 0 x.f.mask)))
    (Executes (.rdsp p (.s r) sr) s x → sr = 10#6 ∨ sr64 sr = true ∨
      WritesScalar (.rdsp p (.s r) sr) s x r.toNat ((V (.rdsp p (.s r) sr) low).setWidth 32)) ∧
    (Executes (.rdsp p (.s r) sr) s x → sr64 sr = true → WritesPair (.rdsp p (.s r) sr) s x r.toNat (V (.rdsp p (.s r) sr) low)) ∧
    (Executes (.rdsp p (.s r) 10#6) s x → free (.rdsp p (.s r) 10#6) →
      WritesScalar (.rdsp p (.s r) 10#6) s x r.toNat (x.g.flags low)) ∧
    (Executes (.rdsp p (.v d) sr) s x → sr = 10#6 ∨ sr64 sr = true ∨
      WritesLanes (.rdsp p (.v d) sr) s x d fun l => (V (.rdsp p (.v d) sr) l).setWidth 32) ∧
    (Executes (.rdsp p (.v d) sr) s x → sr64 sr = true → ∃ g, Yields (.rdsp p (.v d) sr) s x g ∧
      LanesSet x.g g d.toNat [0, 1] x.lanes fun o l => (V (.rdsp p (.v d) sr) l >>> (32 * o)).setWidth 32) ∧
    (Executes (.rdsp p (.v d) 10#6) s x → free (.rdsp p (.v d) 10#6) → WritesLanes (.rdsp p (.v d) 10#6) s x d x.g.flags) ∧
    (Executes (.wrsp p 8#6 v) s x → fmt (.wrsp p 8#6 v) (VSIval x.g 0 low v)) ∧
    (Executes (.wrsp p 9#6 v) s x → rmode (.wrsp p 9#6 v) (VSIval x.g 0 low v)) ∧
    (Executes (.wrsp p 10#6 v) s x → free (.wrsp p 10#6 v) → ∃ g, Yields (.wrsp p 10#6 v) s x g ∧
      FlagsSet x.g g fun l => if x.lanes.getLsbD l then VSIval x.g 0 l v &&& 0x1F else x.g.flags l) ∧
    (Executes (.wrsp p 11#6 v) s x → ∃ g, Yields (.wrsp p 11#6 v) s x g ∧
      SeedsSet x.g g fun l => if x.lanes.getLsbD l then (if VSIval x.g 0 l v = 0 then 1 else VSIval x.g 0 l v) else x.g.seed l) ∧
    (Executes (.setfmt p i7) s x → fmt (.setfmt p i7) (i7.setWidth 32)) ∧
    (Executes (.setrm p i4) s x → rmode (.setrm p i4) (i4.setWidth 32)) ∧
    (Executes (.rdff p (.v d)) s x → free (.rdff p (.v d)) → WritesLanes (.rdff p (.v d)) s x d x.g.flags) ∧
    (Executes (.rdff p (.s r)) s x → free (.rdff p (.s r)) → ∃ w : Word, WritesScalar (.rdff p (.s r)) s x r.toNat w ∧
      ∀ j, w.getLsbD j = true ↔ ∃ l < 128, x.f.mask.getLsbD l = true ∧ (x.g.flags l).getLsbD j = true) ∧
    (Executes (.clrff p i5) s x → free (.clrff p i5) → ∃ g, Yields (.clrff p i5) s x g ∧
      FlagsSet x.g g fun l => if x.lanes.getLsbD l then x.g.flags l &&& ~~~(i5.setWidth 32) &&& 0x1F else x.g.flags l) ∧
    (waits (.rdsp p (.s r) 10#6) ∧ waits (.rdsp p (.v d) 10#6) ∧ waits (.wrsp p 10#6 v) ∧ waits (.rdff p (.v d)) ∧ waits (.rdff p (.s r)) ∧
      waits (.clrff p i5)) ∧
    ∀ (b : State) (l : Nat) (k : Gang) (y : Launch),
      let reads := fun (n : BitVec 6) (v : DWord) => spValue b x n l = v
      let no := fun (n : Nat) => BitVec.ofNat 64 (if x.g.packed then 0xFFFFFFFF else n)
      (reads 0#6 (BitVec.ofNat 64 l) ∧ reads 1#6 (no x.g.no) ∧ reads 2#6 (no x.g.wgNo) ∧ reads 4#6 (BitVec.ofNat 64 (b.logical x.core)) ∧
        reads 7#6 (b.node.setWidth 64)) ∧
      (x.g.packed = true → reads 3#6 0xFFFFFFFF) ∧
      (x.g.gang.bind (Table.find b.gangs) = some k → reads 3#6 (no k.no) ∧
        ((spValue b x 6#6 l).toNat < 2 ^ 32 ∧ ∀ j < 8, (spValue b x 6#6 l).toNat / 2 ^ (4 * j) % 16 = if j < k.cores.length then 8 + k.cores.getD j 0 % 8 else 0)) ∧
      (Table.find b.launches x.g.launch = some y → reads 5#6 (BitVec.ofNat 64 y.dev)) ∧
      (reads 8#6 (x.f.fmt.setWidth 64) ∧ reads 9#6 (x.f.rmode.setWidth 64) ∧ reads 10#6 ((x.g.flags l).setWidth 64) ∧
        reads 11#6 ((x.g.seed l).setWidth 64) ∧ reads 12#6 x.g.horizon ∧ reads 13#6 b.tb ∧
        reads 14#6 (BitVec.ofNat 64 (b.ctxOf x.g.launch))) ∧
      (reads 16#6 (BitVec.ofNat 64 (b.count x.g 0)) ∧ reads 17#6 (BitVec.ofNat 64 (b.count x.g 1)) ∧
        reads 18#6 (BitVec.ofNat 64 (b.count x.g 2)) ∧ reads 19#6 (BitVec.ofNat 64 (b.count x.g 3)))

/-- Vector integer arithmetic (R289), saturating under `.sats` and `.satu`. -/
def Obligations.VectorArithmetic : Prop :=
  ∀ (p : Pre) (e : Ext) (ty : IntTy) (d : VReg) (a : VS) (b : VSI) (s : State) (x : X),
    let A := fun o l => VSval x.g o l a
    let B := fun o l => VSIval x.g o l b
    let D := fun o l => x.g.vget (d.toNat + o) l
    let u := ty == .u32
    let sat := fun (f : Int → Int → Int) (m n : Word) => match ty with
      | .sats => word (max (-2 ^ 31) (min (2 ^ 31 - 1) (f m.toInt n.toInt)))
      | .satu => word (max 0 (min (2 ^ 32 - 1) (f m.toNat n.toNat)))
      | _ => word (f m.toInt n.toInt)
    (Executes (.iadd p e ty d a b) s x → WritesBlock (.iadd p e ty d a b) s x e d fun o l => sat (· + ·) (A o l) (B o l)) ∧
    (Executes (.isub p e ty d a b) s x → WritesBlock (.isub p e ty d a b) s x e d fun o l => sat (· - ·) (A o l) (B o l)) ∧
    (Executes (.imul p e d a b) s x → WritesBlock (.imul p e d a b) s x e d fun o l => word ((A o l).toInt * (B o l).toInt)) ∧
    (Executes (.imulh p e ty d a b) s x →
      WritesBlock (.imulh p e ty d a b) s x e d fun o l => word (num u (A o l) * num u (B o l) / 2 ^ 32)) ∧
    (Executes (.imad p e d a b) s x →
      WritesBlock (.imad p e d a b) s x e d fun o l => word ((A o l).toInt * (B o l).toInt + (D o l).toInt)) ∧
    (Executes (.idiv p e ty d a b) s x → WritesBlock (.idiv p e ty d a b) s x e d fun o l =>
      if B o l = 0 then 0xFFFFFFFF else word ((num u (A o l)).tdiv (num u (B o l)))) ∧
    (Executes (.irem p e ty d a b) s x → WritesBlock (.irem p e ty d a b) s x e d fun o l =>
      if B o l = 0 then A o l else word ((num u (A o l)).tmod (num u (B o l)))) ∧
    (Executes (.imin p e ty d a b) s x →
      WritesBlock (.imin p e ty d a b) s x e d fun o l => word (min (num u (A o l)) (num u (B o l)))) ∧
    (Executes (.imax p e ty d a b) s x →
      WritesBlock (.imax p e ty d a b) s x e d fun o l => word (max (num u (A o l)) (num u (B o l)))) ∧
    (Executes (.iabs p e d a) s x → WritesBlock (.iabs p e d a) s x e d fun o l => word |(A o l).toInt|) ∧
    (Executes (.ineg p e d a) s x → WritesBlock (.ineg p e d a) s x e d fun o l => word (-(A o l).toInt))

/-- Vector bit forms (R290, R291), selection (R293) and moves (R294). -/
def Obligations.VectorBits : Prop :=
  ∀ (p : Pre) (e : Ext) (ty : IntTy) (q : PReg) (v : BitVec 32) (d : VReg) (a : VS) (b b' : VSI) (s : State) (x : X),
    let A := fun o l => VSval x.g o l a
    let B := fun o l => VSIval x.g o l b
    let D := fun o l => x.g.vget (d.toNat + o) l
    let n := fun o l => (B o l).toNat % 32
    let len := fun o l => min ((B o l).toNat / 256 % 64) (32 - n o l)
    let field := fun o l => (A o l).toNat / 2 ^ n o l % 2 ^ len o l
    (Executes (.iand p e d a b) s x → WritesBlock (.iand p e d a b) s x e d fun o l => A o l &&& B o l) ∧
    (Executes (.ior p e d a b) s x → WritesBlock (.ior p e d a b) s x e d fun o l => A o l ||| B o l) ∧
    (Executes (.ixor p e d a b) s x → WritesBlock (.ixor p e d a b) s x e d fun o l => A o l ^^^ B o l) ∧
    (Executes (.inot p e d a) s x → WritesBlock (.inot p e d a) s x e d fun o l => ~~~(A o l)) ∧
    (Executes (.ishl p e d a b) s x → WritesBlock (.ishl p e d a b) s x e d fun o l => word ((A o l).toNat * 2 ^ n o l)) ∧
    (Executes (.ishr p e d a b) s x → WritesBlock (.ishr p e d a b) s x e d fun o l => word ((A o l).toNat / 2 ^ n o l)) ∧
    (Executes (.isar p e d a b) s x → WritesBlock (.isar p e d a b) s x e d fun o l => word ((A o l).toInt / 2 ^ n o l)) ∧
    (Executes (.irot p e d a b) s x → ∃ f : Nat → Nat → Word, WritesBlock (.irot p e d a b) s x e d f ∧
      ∀ o l, ∀ k < 32, (f o l).getLsbD ((k + n o l) % 32) = (A o l).getLsbD k) ∧
    (Executes (.bfx p e ty d a b) s x → WritesBlock (.bfx p e ty d a b) s x e d fun o l =>
      if ty ≠ .u32 ∧ 0 < len o l ∧ 2 ^ (len o l - 1) ≤ field o l then word (field o l - 2 ^ len o l) else word (field o l)) ∧
    (Executes (.bfi p e d a b) s x → ∃ f : Nat → Nat → Word, WritesBlock (.bfi p e d a b) s x e d f ∧
      ∀ o l, ∀ k < 32, (f o l).getLsbD k =
        if n o l ≤ k ∧ k < n o l + len o l then (A o l).getLsbD (k - n o l) else (D o l).getLsbD k) ∧
    (Executes (.popc p e d a) s x → WritesBlock (.popc p e d a) s x e d fun o l =>
      word (((List.range 32).filter fun k => (A o l).getLsbD k).length)) ∧
    (Executes (.clz p e d a) s x → ∃ f : Nat → Nat → Word, WritesBlock (.clz p e d a) s x e d f ∧
      ∀ o l, (f o l).toNat ≤ 32 ∧ (A o l).toNat < 2 ^ (32 - (f o l).toNat) ∧ (A o l ≠ 0 → 2 ^ (31 - (f o l).toNat) ≤ (A o l).toNat)) ∧
    (Executes (.isel p e q d b b') s x → WritesBlock (.isel p e q d b b') s x e d fun o l =>
      if (x.g.pmask q.toNat).getLsbD l then B o l else VSIval x.g o l b') ∧
    (Executes (.imov p e d b) s x → WritesBlock (.imov p e d b) s x e d B) ∧
    (Executes (.imovi p e d v) s x → WritesBlock (.imovi p e d v) s x e d fun _ _ => v)

/-- The uniform branches (R249), `NOP` (R254) and `SLEEP` (R255). -/
def Obligations.ControlFlow : Prop :=
  ∀ (p : Pre) (uni z : Bool) (t : BitVec 32) (d : SReg) (n : SI) (s : State) (x : X),
    let S := x.g.sget d.toNat
    let next := x.f.pc + 12
    (Executes (.nop p uni) s x → Completes (.nop p uni) s x (begun (.nop p uni) s x) next .none) ∧
    (Executes (.br p t) s x → Completes (.br p t) s x (begun (.br p t) s x) (12 * t.toNat) .none) ∧
    (Executes (.brc p z d t) s x → Completes (.brc p z d t) s x (begun (.brc p z d t) s x)
      (if (z = true ∧ S = 0) ∨ (z = false ∧ S ≠ 0) then 12 * t.toNat else next) .none) ∧
    (Executes (.brx p d) s x → Completes (.brx p d) s x (begun (.brx p d) s x) (12 * S.toNat) .none) ∧
    (Executes (.ret p d) s x → Completes (.ret p d) s x (begun (.ret p d) s x) (12 * S.toNat) .none) ∧
    (Executes (.call p d t) s x → ∃ g, ScalarSet x.g g d.toNat (word (next / 12 : Nat)) ∧
      Completes (.call p d t) s x ((begun (.call p d t) s x).modGroup x.k fun _ => g) (12 * t.toNat) .none) ∧
    (Executes (.loop p d t) s x → ∃ g, ScalarSet x.g g d.toNat (if 1 < S.toNat then S - 1 else 0) ∧
      Completes (.loop p d t) s x ((begun (.loop p d t) s x).modGroup x.k fun _ => g)
        (if 1 < S.toNat then 12 * t.toNat else next) .none) ∧
    (Executes (.sleep p n) s x → SIval x.g n = 0 → Completes (.sleep p n) s x (begun (.sleep p n) s x) next .none) ∧
    (Executes (.sleep p n) s x → SIval x.g n ≠ 0 → Completes (.sleep p n) s x (begun (.sleep p n) s x) next
      (.sleep (s.clk + min (SIval x.g n).toNat 131071)))

/-- `BRD` (R251): the whole fragment branches, or it splits (R53), is serialised (R56), or raises kind 0x06 (R438). -/
def Obligations.Divergence : Prop :=
  ∀ (p : Pre) (t r : BitVec 17) (s : State) (x : X), Executes (.brd p t r) s x →
    let b := begun (.brd p t r) s x
    let fall := x.f.mask &&& ~~~x.lanes
    let join := fun (n partner : Nat) => Open.join n (12 * r.toNat) partner x.en x.f.fmt x.f.rmode
    (x.lanes = x.f.mask → Completes (.brd p t r) s x b (12 * t.toNat) .none) ∧
    (x.lanes ≠ x.f.mask → ∀ e < 16, x.g.frag e = none → (∀ n < e, x.g.frag n ≠ none) →
      ∃ stay go : Frag,
        stay.mask = fall ∧ stay.pc = x.f.pc + 12 ∧ stay.chain = join x.g.joins e :: x.f.chain ∧
        go.mask = x.lanes ∧ go.pc = 12 * t.toNat ∧ go.chain = join x.g.joins x.en :: x.f.chain.takeWhile Open.isJoin ∧
        (stay.wait = .none ∧ go.wait = .none ∧ stay.fmt = x.f.fmt ∧ go.fmt = x.f.fmt ∧ stay.rmode = x.f.rmode ∧ go.rmode = x.f.rmode) ∧
        exec (.brd p t r) s = .next ((b.modGroup x.k fun _ =>
          (({ (x.g.setFrag x.en stay).setFrag e go with joins := x.g.joins + 1 } : Group).rest s.clk x.en).rest s.clk e).tidy x.k)) ∧
    (x.lanes ≠ x.f.mask → (∀ n < 16, x.g.frag n ≠ none) → x.g.depth < 64 →
      ∃ first : Frag, first.mask = x.lanes ∧ first.pc = 12 * t.toNat ∧ first.wait = .none ∧
        first.chain = .frame x.lanes fall (x.f.pc + 12) (12 * r.toNat) x.f.fmt x.f.rmode false :: x.f.chain ∧
        exec (.brd p t r) s = .next ((b.modGroup x.k fun _ => (x.g.setFrag x.en first).rest s.clk x.en).tidy x.k)) ∧
    (x.lanes ≠ x.f.mask → (∀ n < 16, x.g.frag n ≠ none) → 64 ≤ x.g.depth → Raises (.brd p t r) s x 0x06 0)

/-- `EXIT` (R253): the executing lanes leave every fragment (R46), and pennant arrivals that waited for them count (R64). The other
lanes stay where they are: where each fragment keeps one, nothing else of the fragments changes. -/
def Obligations.Retirement : Prop :=
  ∀ (p : Pre) (s : State) (x : X), Executes (.exit p) s x → (∃ t, exec (.exit p) s = .next t) ∧ ∃ g : Group,
    g.retired = x.g.retired ||| x.lanes ∧
    (∀ n h, g.frag n = some h → h.mask &&& x.lanes = 0) ∧
    ((∀ c ∈ x.g.frags, c.2.mask &&& ~~~x.lanes ≠ 0) →
      g.frags = x.g.frags.map fun c => (c.1, { c.2 with mask := c.2.mask &&& ~~~x.lanes })) ∧
    (g.vregs = x.g.vregs ∧ g.sregs = x.g.sregs ∧ g.pregs = x.g.pregs ∧ g.fflags = x.g.fflags ∧ g.srseed = x.g.srseed ∧
      g.record = x.g.record ∧ g.level = x.g.level) ∧
    let t := ((begun (.exit p) s x).modGroup x.k fun _ => g).ripenAll g
    (x.f.mask ≠ x.lanes → Completes (.exit p) s x t (x.f.pc + 12) .none) ∧
    (x.f.mask = x.lanes → exec (.exit p) s = .next (t.tidy x.k))

/-- `TRAP`, `BKPT` (R256, R430) and `RTT` (R257, R258). -/
def Obligations.Traps : Prop :=
  ∀ (p : Pre) (code : BitVec 8) (h : Handler) (s : State) (x : X),
    (Executes (.trap p code) s x → x.g.level = .user → Raises (.trap p code) s x 0x0A code.toNat) ∧
    (Executes (.trap p code) s x → x.g.level = .sup → Raises (.trap p code) s x 0x0D code.toNat) ∧
    (Executes (.bkpt p code) s x → x.g.level = .user → Raises (.bkpt p code) s x 0x0B code.toNat) ∧
    (Executes (.bkpt p code) s x → x.g.level = .sup →
      Completes (.bkpt p code) s x (begun (.bkpt p code) s x) (x.f.pc + 12) .none) ∧
    (Executes (.rtt p) s x → x.g.handler = some h →
      let whole := x.g.acting.length = 1 ∧ x.f.mask &&& ~~~h.mask = 0 ∧ h.mask &&& ~~~x.g.retired &&& ~~~x.f.mask = 0
      (whole → exec (.rtt p) s = .next (((begun (.rtt p) s x).endHandler x.k).tidy x.k)) ∧
      (¬ whole → Raises (.rtt p) s x 0x0C 0))

/-- `YIELDD.susp` and `YIELDD.ret` (R259, R260): the end of a yield handler (R205) and of a resume (R210). The latter waits for
matrix work that is to raise flags, since it reinstates those of the interrupted code (R81, R107). `YIELDD.susp` in a supervisor
handler, or before the yield trap is taken, raising kind 0x08 is a choice of the model (log 117). -/
def Obligations.YieldReturns : Prop :=
  ∀ (p : Pre) (tb : Nat) (v : Saved) (s : State) (x : X),
    let back := x.g.yield = .resumed ∨ x.g.yield = .overrun
    (Executes (.yielddSusp p) s x → x.g.handler = none → x.g.yield = .running tb → x.g.frags = [(x.en, x.f)] →
      x.g.done = false → x.f.mask ≠ 0 → ∃ w : Frag,
        w.mask = ~~~x.g.retired ∧ w.pc = x.f.pc + 12 ∧ w.wait = .susp ∧ w.chain = [] ∧
        exec (.yielddSusp p) s = .next ((begun (.yielddSusp p) s x).modGroup x.k fun _ =>
          { x.g with frags := [(0, w)], yield := .suspended })) ∧
    (Executes (.yielddSusp p) s x → x.g.handler = none → x.g.yield = .running tb →
      let b := begun (.yielddSusp p) s x
      exec (.yielddSusp p) s =
        .next ((b.modGroup x.k fun g => g.setFrag x.en { x.f with wait := .susp, since := b.clk }).tidy x.k)) ∧
    (Executes (.yielddSusp p) s x → x.g.handler = none → x.g.yield = .overrun →
      Completes (.yielddSusp p) s x (begun (.yielddSusp p) s x) (x.f.pc + 12) .none) ∧
    (Executes (.yielddSusp p) s x → x.g.handler ≠ none ∨ (x.g.yield ≠ .overrun ∧ ∀ b, x.g.yield ≠ .running b) →
      Raises (.yielddSusp p) s x 0x08 0) ∧
    (Executes (.yielddRet p) s x → x.g.handler = none → back → x.g.saved = some v → (begun (.yielddRet p) s x).flagsBusy x.g = true →
      Again (.yielddRet p) s x) ∧
    (Executes (.yielddRet p) s x → x.g.handler = none → back → x.g.saved = some v → (begun (.yielddRet p) s x).flagsBusy x.g = false →
      exec (.yielddRet p) s = .next (((begun (.yielddRet p) s x).modGroup x.k fun _ =>
        ({ x.g with frags := (v.frags.map fun (f : Nat × Frag) => (f.1, ({ f.2 with mask := f.2.mask &&& ~~~x.g.retired, since := s.clk } : Frag))),
                    fflags := v.fflags, srseed := v.srseed, horizon := v.horizon, saved := none, held := false,
                    yield := if x.g.held then .raised s.now else .none } : Group).restAll s.clk).tidy x.k)) ∧
    (Executes (.yielddRet p) s x → x.g.handler ≠ none ∨ ¬ back ∨ x.g.saved = none → Raises (.yielddRet p) s x 0x08 0)

/-- The decode checks of every instruction word in their order, whatever the guard (R246), and a word whose guard holds in no
active lane (R247). -/
def Obligations.DecodeChecks : Prop :=
  ∀ (i : Instr) (s : State) (k en : Nat) (g : Group) (f : Frag), (encode i).isSome = true →
    s.selected = some (k, en, g, f) → (need i).vs.any (s.heldRegs k g.gid).contains = false →
    let n := need i
    let b := s.issued k en f n (uniform i) (stall i s ⟨k, en, g, f, execLanes (pre i) (uniform i) g f⟩)
    let raises := fun kind => exec i s = .next (b.takeEvent k en (Event.plain kind 0 f.mask))
    let roleBad := (n.cls = 12 ∧ g.role ≠ .C) ∨ (n.cls = 13 ∧ g.role ≠ .M) ∨
      (((3 ≤ n.cls ∧ n.cls ≤ 10) ∨ n.cls = 14) ∧ g.role ≠ .V)
    let privBad := n.sup = true ∧ g.level = .user
    let rangeBad := (∃ r ∈ n.vs, g.regs ≤ r) ∨ (∃ q ∈ n.ps, g.npreds ≤ q) ∨
      ((pre i).guard ≠ 63#6 ∧ g.npreds ≤ (pre i).guard.toNat)
    (roleBad → raises 0x02) ∧ (¬ roleBad → privBad → raises 0x03) ∧ (¬ roleBad → ¬ privBad → rangeBad → raises 0x04) ∧
    (¬ roleBad → ¬ privBad → ¬ rangeBad → execLanes (pre i) (uniform i) g f = 0 →
      exec i s = .next (b.move k en (f.pc + 12) .none))

/-- Taking an event (R421 to R426): what is recorded and where the handler starts. -/
def Obligations.ExceptionEntry : Prop :=
  ∀ (s : State) (k en : Nat) (e : Event) (g : Group) (f : Frag) (image : Nat),
    s.group? k = some g → g.frag en = some f → g.level = .user → e.kind ≠ 0x07 → e.kind ≠ 0x0C → e.kind ≠ 0x0D →
    let t := s.noteVector (coreOf k) (s.ctxOf g.launch) e.kind
    e.lanes &&& f.mask ≠ 0 → t.handlerImage (coreOf k) (t.ctxOf g.launch) e.kind = some image →
    ∃ (g' : Group) (h : Handler) (w : Frag), s.takeEvent k en e = t.setGroup k g' ∧
      g'.record = ⟨true, BitVec.ofNat 16 e.kind, BitVec.ofNat 8 e.code, BitVec.ofNat 32 (f.pc / 12), e.addr⟩ ∧
      g'.level = .sup ∧ g'.handler = some h ∧
      (h.entry = en ∧ h.mask = e.lanes &&& f.mask ∧ h.image = image ∧ h.kind = e.kind ∧ h.leaf = e.leaf.map (·.1)) ∧
      (h.frag.mask = f.mask ∧ h.frag.fmt = f.fmt ∧ h.frag.rmode = f.rmode ∧ h.frag.chain = f.chain ∧ h.frag.wait = .none) ∧
      ((e.kind = 0x05 ∨ e.kind = 0x06 ∨ e.kind = 0x20 ∨ (0x10 ≤ e.kind ∧ e.kind ≤ 0x18) ∨ e.kind = 0x1B ∨ e.kind = 0x39) →
        h.frag.pc = f.pc) ∧
      (¬ (e.kind = 0x05 ∨ e.kind = 0x06 ∨ e.kind = 0x20 ∨ (0x10 ≤ e.kind ∧ e.kind ≤ 0x18) ∨ e.kind = 0x1B ∨ e.kind = 0x39) →
        h.frag.pc = f.pc + 12) ∧
      g'.frag en = some w ∧ (w.mask = e.lanes &&& f.mask ∧ w.pc = 0 ∧ w.wait = .none ∧ w.chain = [] ∧ w.sup = true) ∧
      (∀ n, n ≠ en → g'.frag n = g.frag n) ∧
      { g' with record := g.record, level := g.level, handler := g.handler, frags := g.frags } = g

/-- Escalation (R429): when, and the report and the kill that follow; the leaf of a first touch reverts before (R141). A packed
group has no gang and ends alone (log 14). -/
def Obligations.Escalation : Prop :=
  (∀ (s : State) (k en : Nat) (e : Event) (g : Group) (f : Frag),
    s.group? k = some g → g.frag en = some f →
    let r : Record := ⟨true, BitVec.ofNat 16 e.kind, BitVec.ofNat 8 e.code, BitVec.ofNat 32 (f.pc / 12), e.addr⟩
    let ends := fun (u : State) =>
      let v := match e.leaf with
        | some (a, _) => (u.revertLeaf a).releaseLeaf a
        | none => u
      ∃ g' : Group, v.group? k = some g' ∧ { g' with frags := g.frags } = g ∧ (e.leaf = none → g' = g) ∧
        let t := (v.setGroup k { g' with record := r }).reportFault k g' r 1 e.agent e.lanes
        t.group? k = some { g' with record := r } ∧ (∀ gang, g.gang = some gang → s.takeEvent k en e = t.kill gang false) ∧
        (g.gang = none → s.takeEvent k en e = t.killPacked k { g' with record := r })
    let fatal := g.level = .sup ∨ e.kind = 0x07 ∨ e.kind = 0x0C ∨ e.kind = 0x0D ∨ e.lanes &&& f.mask = 0
    (fatal → ends s) ∧
    let seen := s.noteVector (coreOf k) (s.ctxOf g.launch) e.kind
    (¬ fatal → seen.handlerImage (coreOf k) (seen.ctxOf g.launch) e.kind = none → ends seen)) ∧
  ∀ (s : State) (k : Nat) (again : Bool) (y : Gang) (x : Launch), Table.find s.gangs k = some y → Table.find s.launches y.launch = some x →
    let u := s.clearGang k y
    let gids := ((s.groups.filter fun g => g.2.gang == some k).map fun g => g.2.gid) ++ ((s.ops.filter fun o => o.2.gang == some k).map fun o => o.2.gid)
    let mine := fun (launch gid : Nat) => launch == y.launch && gids.contains gid
    let more := fun (l : Launch) (n : Nat) => Table.get 0 l.tries n < 3
    ((∀ j g, u.group? j = some g → g.gang ≠ some k) ∧ (∀ w ∈ u.wgs, w.2.gang ≠ k) ∧ Table.find u.gangs k = none ∧
      (∀ w ∈ s.wgs, w.2.gang ≠ k → w ∈ u.wgs) ∧
      (∀ j, (∀ q ∈ s.groups, q.1 = j → q.2.gang ≠ some k) → ∀ g, s.group? j = some g → ∃ g' : Group, u.group? j = some g' ∧ { g' with frags := g.frags } = g) ∧
      u.ops = s.ops.filter (fun o => !mine o.2.launch o.2.gid) ∧
      u.monitors = s.monitors.filter (fun m => m.peer.isSome || !mine m.launch m.gid) ∧
      (∀ c, (u.core c).items = (s.core c).items.filter fun i => i.gang != some k) ∧
      (∀ c, (u.core c).l1 = (s.core c).l1 ∧ (u.core c).ubuf = (s.core c).ubuf) ∧
      ((∀ g ∈ s.groups, g.2.gang = some k → g.2.handler = none) → u.mem = s.mem) ∧
      (∀ w ∈ s.wgs, w.2.gang = k → ∀ p < 4, (s.mat w.2.core p).owner = some w.1 → u.mat w.2.core p = Mat.reset) ∧
      ∀ n a b, Table.find s.seals n = some a → Table.find u.seals n = some b → b.copies ≤ a.copies) ∧
    (∃ f : Launch → Launch, s.killGang k again = ((u.log1 9 (s.logical (y.cores.headD 0)) 0 0 0 (BitVec.ofNat 32 x.id)).modLaunch y.launch f).endLaunchIf y.launch ∧
      ∀ l : Launch, (again = true → l.lrec.again = true → more l y.no → (f l).redo = l.redo ++ [y.no] ∧
          Table.get 0 (f l).tries y.no = Table.get 0 l.tries y.no + 1 ∧ { f l with redo := l.redo, tries := l.tries, notBefore := l.notBefore } = l) ∧
        ((again = false ∨ l.lrec.again = false ∨ ¬ more l y.no) → f l = { l with ended := l.ended ++ [y.no], status := 6 })) ∧
    (x.lrec.cores = false → s.kill k again = s.killGang k again) ∧
    (x.lrec.cores = true → 1 < x.lrec.devices → s.kill k again = s.abortEverywhere y.launch) ∧
    (x.lrec.cores = true → x.lrec.devices ≤ 1 → (again = false ∨ x.lrec.again = false ∨ ∃ n < x.lrec.gangs, ¬ more x n) →
      s.kill k again = s.abortLaunch y.launch) ∧
    (x.lrec.cores = true → x.lrec.devices ≤ 1 → again = true → x.lrec.again = true → (∀ n < x.lrec.gangs, more x n) →
      let t := s.kill k again
      (∀ q ∈ t.gangs, q.2.launch ≠ y.launch) ∧ (∀ c ∈ t.ctxs, ∀ v ∈ c.2.saved, v.launch ≠ y.launch) ∧
      ∃ x' : Launch, Table.find t.launches y.launch = some x' ∧ x'.redo = List.range x.lrec.gangs ∧ x'.ended = [] ∧
        x'.grid = Pennant.start x.lrec.gridMembers ∧ (∀ n < x.lrec.gangs, Table.get 0 x'.tries n = Table.get 0 x.tries n + 1) ∧
        { x' with redo := x.redo, ended := x.ended, grid := x.grid, tries := x.tries, notBefore := x.notBefore } = x)

/-- The return from a handler (R257, R428): its fragments go, the recorded fragment stands in its entry at its resume point, and
the entries come to rest. After a race the lanes of the handler alone replay, or the next instruction is the resume point where
they have all retired, once `%tb` has reached the horizon that the other lanes' acquire has raised (R445); a leaf still filling reverts (R141). Where the recorded fragment was alone and held no join, it is all
there is. -/
def Obligations.ExceptionReturn : Prop :=
  ∀ (s : State) (k : Nat) (g : Group) (h : Handler), s.group? k = some g → g.handler = some h →
    let live := h.mask &&& ~~~g.retired
    let back : Frag := if h.resume ≠ .race then h.frag
      else if live = 0 then { h.frag with pc := h.frag.pc + 12, only := none } else { h.frag with only := some live }
    let back : Frag := { back with wait := if h.resume = .race ∧ live = 0 ∧ s.now < g.horizon.toNat then .horizon else .none }
    let u := match h.leaf with
      | some a => (s.revertLeaf a).releaseLeaf a
      | none => s
    ∃ g' : Group, s.endHandler k = u.setGroup k g' ∧
      g' = ({ g with level := .user, handler := none,
                     frags := Table.insert (g.frags.filter fun c => !c.2.sup) h.entry { back with since := s.clk } } :
        Group).restAll s.clk ∧
      (g'.level = .user ∧ g'.handler = none ∧ g'.vregs = g.vregs ∧ g'.sregs = g.sregs ∧ g'.pregs = g.pregs ∧
        g'.fflags = g.fflags ∧ g'.srseed = g.srseed ∧ g'.horizon = g.horizon ∧ g'.record = g.record ∧ g'.retired = g.retired) ∧
      ((∀ c ∈ g.frags, c.2.sup = true) → h.frag.sup = false → h.frag.mask ≠ 0 → h.frag.chain = [] →
        g'.frags = [(h.entry, { back with since := s.clk })] ∧
        { g' with level := g.level, handler := g.handler, frags := g.frags } = g)

/-- The rounding floating-point forms (R295, R296, R298) in binary32 and the packed types. `FloatSpecials` says what the element
operations give for special values and for finite ones, and `RoundingExact` what rounding does. -/
def Obligations.FloatArithmetic : Prop :=
  ∀ (p : Pre) (e : Ext) (bf : Bool) (rnd : BitVec 3) (d : VReg) (a b : VS) (s : State) (x : X),
    let A := fun (pk : Bool) (v : Env) o l k => v.read (elemOf pk k (VSval x.g o l a))
    let B := fun (pk : Bool) (v : Env) o l k => v.read (elemOf pk k (VSval x.g o l b))
    let D := fun (pk : Bool) (v : Env) o l k => v.read (elemOf pk k (x.g.vget (d.toNat + o) l))
    let R := fun (i : Instr) (pk : Bool) (op : Env → Nat → Nat → Nat → Nat × Fl) => Executes i s x →
      Rounds i s x e (if pk then 2 else 1) (if pk then 16 else 32) (if rnd = 0 then x.f.rmode.truncate 3 else rnd) d fun o k l w =>
        op ⟨if pk then (if bf then BinFmt.bf16 else BinFmt.f16) else BinFmt.f32, x.f.rmode.getLsbD 3,
          if rnd = 0 then x.f.rmode.truncate 3 else rnd, w⟩ o l k
    R (.fadd p e rnd d a b) false (fun v o l k => addX v (A false v o l k) (B false v o l k)) ∧
    R (.fsub p e rnd d a b) false (fun v o l k => addX v (A false v o l k) (negX (B false v o l k))) ∧
    R (.fmul p e rnd d a b) false (fun v o l k => mulX v (A false v o l k) (B false v o l k)) ∧
    R (.ffma p e rnd d a b) false (fun v o l k => fmaX v (A false v o l k) (B false v o l k) (D false v o l k)) ∧
    R (.fdiv p e rnd d a b) false (fun v o l k => divX v (A false v o l k) (B false v o l k)) ∧
    R (.fsqrt p e rnd d a) false (fun v o l k => sqrtX v (A false v o l k)) ∧
    R (.frcp p e rnd d a) false (fun v o l k => rcpX v (A false v o l k)) ∧
    R (.frsq p e rnd d a) false (fun v o l k => rsqX v (A false v o l k)) ∧
    R (.fexp2 p e rnd d a) false (fun v o l k => exp2X v (A false v o l k)) ∧
    R (.flog2 p e rnd d a) false (fun v o l k => log2X v (A false v o l k)) ∧
    R (.fsinpi p e rnd d a) false (fun v o l k => sinpiX v (A false v o l k)) ∧
    R (.fcospi p e rnd d a) false (fun v o l k => cospiX v (A false v o l k)) ∧
    R (.fround p e rnd d a) false (fun v o l k => roundX v (A false v o l k)) ∧
    R (.faddPacked p e bf rnd d a b) true (fun v o l k => addX v (A true v o l k) (B true v o l k)) ∧
    R (.fsubPacked p e bf rnd d a b) true (fun v o l k => addX v (A true v o l k) (negX (B true v o l k))) ∧
    R (.fmulPacked p e bf rnd d a b) true (fun v o l k => mulX v (A true v o l k) (B true v o l k)) ∧
    R (.ffmaPacked p e bf rnd d a b) true (fun v o l k => fmaX v (A true v o l k) (B true v o l k) (D true v o l k)) ∧
    R (.fdivPacked p e bf rnd d a b) true (fun v o l k => divX v (A true v o l k) (B true v o l k)) ∧
    R (.fsqrtPacked p e bf rnd d a) true (fun v o l k => sqrtX v (A true v o l k)) ∧
    R (.frcpPacked p e bf rnd d a) true (fun v o l k => rcpX v (A true v o l k)) ∧
    R (.frsqPacked p e bf rnd d a) true (fun v o l k => rsqX v (A true v o l k)) ∧
    R (.fexp2Packed p e bf rnd d a) true (fun v o l k => exp2X v (A true v o l k)) ∧
    R (.flog2Packed p e bf rnd d a) true (fun v o l k => log2X v (A true v o l k)) ∧
    R (.fsinpiPacked p e bf rnd d a) true (fun v o l k => sinpiX v (A true v o l k)) ∧
    R (.fcospiPacked p e bf rnd d a) true (fun v o l k => cospiX v (A true v o l k)) ∧
    R (.froundPacked p e bf rnd d a) true (fun v o l k => roundX v (A true v o l k))

/-- The floating-point forms on codes: `FMIN`, `FMAX`, `FABS`, `FNEG` (R297) and `FCLASS` (R300). -/
def Obligations.FloatCodes : Prop :=
  ∀ (p : Pre) (e : Ext) (bf : Bool) (d : VReg) (a b : VS) (s : State) (x : X),
    let F := fun (pk : Bool) => if pk then (if bf then BinFmt.bf16 else BinFmt.f16) else BinFmt.f32
    let NaN := fun (f : BinFmt) (c : Nat) => f.read false c = .nan true ∨ f.read false c = .nan false
    let bit := fun (f : BinFmt) (c : Nat) => match f.read false c with
      | .nan true => 0
      | .nan false => 1
      | .inf true => 2
      | .inf false => 9
      | .fin v =>
        if v.m = 0 then (if v.neg then 5 else 6)
        else if v.m < 2 ^ f.fb then (if v.neg then 4 else 7)
        else if v.neg then 3 else 8
    let C := fun (i : Instr) (pk : Bool) (ok : BinFmt → Nat → Nat × Fl → Prop) => Executes i s x →
      ∃ q : Nat → Nat → Nat → Nat × Fl, Rounds i s x e (if pk then 2 else 1) (if pk then 16 else 32) 1#3 d (fun o k l _ => q o k l) ∧
        ∀ o k l, k < (if pk then 2 else 1) → ok (F pk) (elemOf pk k (VSval x.g o l a)) (q o k l)
    let M := fun (i : Instr) (pk big : Bool) => Executes i s x →
      ∃ q : Nat → Nat → Nat → Nat × Fl, Rounds i s x e (if pk then 2 else 1) (if pk then 16 else 32) 1#3 d (fun o k l _ => q o k l) ∧
        ∀ o k l, k < (if pk then 2 else 1) →
          let f := F pk
          let u := elemOf pk k (VSval x.g o l a)
          let w := elemOf pk k (VSval x.g o l b)
          ((q o k l).2 = if f.read false u = .nan true ∨ f.read false w = .nan true then Fl.nv else 0) ∧
          (NaN f u → NaN f w → (q o k l).1 = f.nanCode) ∧ (NaN f u → ¬ NaN f w → (q o k l).1 = w) ∧
          (¬ NaN f u → NaN f w → (q o k l).1 = u) ∧
          (¬ NaN f u → ¬ NaN f w →
            let below := (f.read false u).lt (f.read false w) = true ∨
              ((f.read false w).lt (f.read false u) = false ∧ (f.read false u).sign = true ∧ (f.read false w).sign = false)
            (q o k l).1 = if (below ↔ big = false) then u else w)
    M (.fmin p e d a b) false false ∧
    M (.fmax p e d a b) false true ∧
    C (.fabs p e d a) false (fun f c q => q.2 = 0 ∧ if NaN f c then q.1 = f.nanCode else q.1 = c % 2 ^ (f.width - 1)) ∧
    C (.fneg p e d a) false (fun f c q => q.2 = 0 ∧ if NaN f c then q.1 = f.nanCode else q.1 = (c + 2 ^ (f.width - 1)) % 2 ^ f.width) ∧
    C (.fclass p e d a) false (fun f c q => q.2 = 0 ∧ q.1 = 2 ^ bit f c) ∧
    M (.fminPacked p e bf d a b) true false ∧
    M (.fmaxPacked p e bf d a b) true true ∧
    C (.fabsPacked p e bf d a) true (fun f c q => q.2 = 0 ∧ if NaN f c then q.1 = f.nanCode else q.1 = c % 2 ^ (f.width - 1)) ∧
    C (.fnegPacked p e bf d a) true (fun f c q => q.2 = 0 ∧ if NaN f c then q.1 = f.nanCode else q.1 = (c + 2 ^ (f.width - 1)) % 2 ^ f.width) ∧
    C (.fclassPacked p e bf d a) true (fun f c q => q.2 = 0 ∧ q.1 = 2 ^ bit f c)

/-- `FCMP` in binary32 and the packed types (R299). -/
def Obligations.FloatComparison : Prop :=
  ∀ (p : Pre) (cc : FCond) (bf : Bool) (d : PReg) (a b : VS) (s : State) (x : X),
    let V := fun (pk : Bool) (l k : Nat) (o : VS) => (if pk then (if bf then BinFmt.bf16 else BinFmt.f16) else BinFmt.f32).read
      (x.f.rmode.getLsbD 3) (elemOf pk k (VSval x.g 0 l o))
    let NaN := fun (v : XVal) => v = .nan true ∨ v = .nan false
    let C := fun (i : Instr) (pk : Bool) => Executes i s x → ∃ (g : Group) (truth : Nat → Nat → Prop) (nv : Nat → Nat → Prop),
      Yields i s x g ∧ { g with pregs := x.g.pregs, fflags := x.g.fflags } = x.g ∧
      (∀ n, (∀ k < (if pk then 2 else 1), n ≠ d.toNat + k) → g.pmask n = x.g.pmask n) ∧
      (∀ k < (if pk then 2 else 1), ∀ l < 128,
        (x.lanes.getLsbD l = true → ((g.pmask (d.toNat + k)).getLsbD l = true ↔ truth l k)) ∧
        (x.lanes.getLsbD l = false → (g.pmask (d.toNat + k)).getLsbD l = (x.g.pmask (d.toNat + k)).getLsbD l)) ∧
      (∀ l < 128, (x.lanes.getLsbD l = false → g.flags l = x.g.flags l) ∧
        (x.lanes.getLsbD l = true → (∃ k < (if pk then 2 else 1), nv l k) → Flagged x.g g l Fl.nv) ∧
        (x.lanes.getLsbD l = true → (∀ k < (if pk then 2 else 1), ¬ nv l k) → Flagged x.g g l 0)) ∧
      ∀ l k, let u := V pk l k a
        let w := V pk l k b
        (nv l k ↔ u = .nan true ∨ w = .nan true ∨ ((cc = .lt ∨ cc = .le ∨ cc = .gt ∨ cc = .ge) ∧ (NaN u ∨ NaN w))) ∧
        (truth l k ↔ match cc with
          | .un => NaN u ∨ NaN w
          | .ord => ¬ (NaN u ∨ NaN w)
          | .ne => NaN u ∨ NaN w ∨ u.lt w = true ∨ w.lt u = true
          | .eq => ¬ (NaN u ∨ NaN w ∨ u.lt w = true ∨ w.lt u = true)
          | .lt => ¬ (NaN u ∨ NaN w) ∧ u.lt w = true
          | .gt => ¬ (NaN u ∨ NaN w) ∧ w.lt u = true
          | .le => ¬ (NaN u ∨ NaN w) ∧ w.lt u = false
          | .ge => ¬ (NaN u ∨ NaN w) ∧ u.lt w = false)
    C (.fcmp p cc d a b) false ∧ C (.fcmpPacked p bf cc d a b) true

/-- Special values (R86, R87, R296), and for finite operands one rounding of the exact value (R93, R95, R296). -/
def Obligations.FloatSpecials : Prop :=
  ∀ (v : Env) (y z : XVal) (n m : Bool) (t u w : Exact),
    let rounds := fun (r : Nat × Fl) (q : ℚ) (sign : Bool) => ∃ a : Exact, a.sticky = false ∧ valOf a = q ∧ (q = 0 → a.neg = sign) ∧
      r = v.f.round v.mode false v.ftz v.s a
    let sum := fun (a b : Bool) => if a = b then a else decide (v.mode = 3)
    let bad : Nat × Fl := (v.f.nanCode, Fl.nv)
    let zero := fun (w : Exact) => w.m = 0 ∧ w.sticky = false
    (∀ g, addX v (.nan g) y = (v.f.nanCode, if g = true ∨ y = .nan true then Fl.nv else 0)) ∧
    (∀ g, mulX v y (.nan g) = (v.f.nanCode, if g = true ∨ y = .nan true then Fl.nv else 0)) ∧
    (∀ g, divX v (.nan g) y = (v.f.nanCode, if g = true ∨ y = .nan true then Fl.nv else 0)) ∧
    (∀ g, sqrtX v (.nan g) = (v.f.nanCode, if g = true then Fl.nv else 0)) ∧
    (addX v (.inf n) (.inf !n) = bad) ∧ (divX v (.inf n) (.inf m) = bad) ∧
    (zero t → mulX v (.inf n) (.fin t) = bad ∧ mulX v (.fin t) (.inf n) = bad ∧ fmaX v (.inf n) (.fin t) z = bad) ∧
    (zero t → zero u → divX v (.fin t) (.fin u) = bad) ∧
    (¬ zero t → zero u → divX v (.fin t) (.fin u) = (v.f.signBit (t.neg != u.neg) + v.f.infCode, Fl.dz)) ∧
    (¬ zero t → t.neg = true → sqrtX v (.fin t) = bad ∧ rsqX v (.fin t) = bad ∧ log2X v (.fin t) = bad) ∧
    (zero t → rcpX v (.fin t) = (v.f.signBit t.neg + v.f.infCode, Fl.dz) ∧ log2X v (.fin t) = (v.f.signBit true + v.f.infCode, Fl.dz)) ∧
    (sinpiX v (.inf n) = bad ∧ cospiX v (.inf n) = bad ∧ sqrtX v (.inf true) = bad) ∧
    (t.sticky = false → u.sticky = false → w.sticky = false →
      rounds (addX v (.fin t) (.fin u)) (valOf t + valOf u) (sum t.neg u.neg) ∧
      rounds (mulX v (.fin t) (.fin u)) (valOf t * valOf u) (t.neg != u.neg) ∧
      rounds (fmaX v (.fin t) (.fin u) (.fin w)) (valOf t * valOf u + valOf w) (sum (t.neg != u.neg) w.neg) ∧
      (u.m ≠ 0 → ∃ a : Exact, a.neg = (t.neg != u.neg) ∧ StandsFor a ((magOf t / magOf u : ℚ) : ℝ) ∧
        divX v (.fin t) (.fin u) = v.f.round v.mode false v.ftz v.s a) ∧
      (t.neg = false → t.m ≠ 0 → ∃ a : Exact, a.neg = false ∧ StandsFor a (Real.sqrt (magOf t)) ∧
        sqrtX v (.fin t) = v.f.round v.mode false v.ftz v.s a))

/-- Representable values (R93), the neighbour that a mode takes of a value between two (R93, R94, R97, R98), overflow (R96), and the
advance of the generator (R98). -/
def Obligations.RoundingExact : Prop :=
  (∀ (f : BinFmt) (mode : BitVec 3) (sat : Bool) (w : Word) (c : Nat) (v : Exact),
    f ∈ [BinFmt.f32, BinFmt.f16, BinFmt.bf16, BinFmt.E4M3, BinFmt.E5M2] → c < 2 ^ f.width → f.read false c = .fin v →
    f.round mode sat false w v = (c, 0)) ∧
  (∀ (f : BinFmt) (mode : BitVec 3) (sat : Bool) (w : Word) (c : Nat) (x L H : Exact) (q : ℝ),
    f ∈ [BinFmt.f32, BinFmt.f16, BinFmt.bf16, BinFmt.E4M3, BinFmt.E5M2] → c < 2 ^ f.width → f.read false c = .fin L →
    f.read false (c + 1) = .fin H → L.neg = x.neg → H.neg = x.neg → StandsFor x q → (magOf L : ℝ) < q → q < (magOf H : ℝ) →
    let up : Prop := match mode.toNat with
      | 1 => (magOf L : ℝ) + magOf H < 2 * q ∨ (2 * q = (magOf L : ℝ) + magOf H ∧ c % 2 = 1)
      | 3 => x.neg = true
      | 4 => x.neg = false
      | 5 => (magOf L : ℝ) + magOf H ≤ 2 * q
      | 6 => c % 2 = 0
      | 7 => (w.toNat : ℝ) * ((magOf H : ℝ) - magOf L) < (q - magOf L) * 2 ^ 32
      | _ => False
    ∃ fl : Fl, (q < (2 : ℝ) ^ f.emin → fl = Fl.uf ||| Fl.nx) ∧ ((2 : ℝ) ^ f.emin ≤ q → fl = Fl.nx) ∧
      (up → f.round mode sat false w x = (c + 1, fl)) ∧ (¬ up → f.round mode sat false w x = (c, fl))) ∧
  (∀ (f : BinFmt) (mode : BitVec 3) (sat : Bool) (w : Word) (x : Exact) (q : ℝ),
    f ∈ [BinFmt.f32, BinFmt.f16, BinFmt.bf16, BinFmt.E4M3, BinFmt.E5M2] → StandsFor x q →
    ((f.maxFin.1 + 1 : Nat) : ℝ) * (2 : ℝ) ^ f.maxFin.2 ≤ q →
    f.round mode sat false w x =
      if sat then (f.signBit x.neg + f.maxCode, Fl.of ||| Fl.nx)
      else if f.e4m3 then (f.nanCode, Fl.of ||| Fl.nx ||| Fl.nv)
      else (f.signBit x.neg + (if mode = 2 ∨ mode = 6 ∨ (mode = 3 ∧ x.neg = false) ∨ (mode = 4 ∧ x.neg = true) then f.maxCode
        else f.infCode), Fl.of ||| Fl.nx)) ∧
  (∀ (mode : BitVec 3) (sat : Bool) (w : Word) (c : Nat) (v : Exact), c < 256 → tf8Read c = .fin v → tf8Round mode sat w v = (c, 0)) ∧
  (∀ (a : Acc) (mode : BitVec 3) (f : Word → Nat × Fl),
    let t := a.seed ^^^ (a.seed <<< 13)
    let u := t ^^^ (t >>> 17)
    (a.result mode f).2.seed = if mode = 7 then u ^^^ (u <<< 5) else a.seed)

/-- `CVT` (R302), `QBLK` (R303, R304), `DQBLK` (R305), and the conversion of a value to an integer (R92): the forms, and what the
element operations that they name give. That `DQBLK` does not advance the generator is the model's reading (log 17). -/
def Obligations.Conversions : Prop :=
  ∀ (p : Pre) (e : Ext) (tgt src : Fmt) (rnd : BitVec 3) (d dv av b : VReg) (a : VS) (nosat : Bool) (s : State) (x : X),
    let T := if tgt = .f8 then cvt8Of x.f.fmt else tgt
    let S := if src = .f8 then cvt8Of x.f.fmt else src
    let ftz := x.f.rmode.getLsbD 3
    let mode := if rnd = 0 then x.f.rmode.truncate 3 else rnd
    let operand := fun (i : Instr) => exec i s = .next ((begun i s x).takeEvent x.k x.en (Event.plain 0x09 0 x.lanes))
    (Executes (.cvt p e tgt rnd d a src nosat) s x → Rounds (.cvt p e tgt rnd d a src nosat) s x e tgt.elems 16 mode d
      fun o k l w => let q := cvtElem T S nosat ftz mode w ((VSval x.g o l a).toNat / 2 ^ (16 * k) % 2 ^ fmtWidth S)
        (fillReg T q.1, q.2)) ∧
    (Executes (.qblk p tgt rnd dv av b) s x → T = .i8 → operand (.qblk p tgt rnd dv av b)) ∧
    (Executes (.qblk p tgt rnd dv av b) s x → T ≠ .i8 → ∃ g,
      LanesOnly x.g g (b.toNat :: (List.range 8).map (dv.toNat + ·)) x.lanes ∧ Yields (.qblk p tgt rnd dv av b) s x g ∧
      ∀ l < 128, x.lanes.getLsbD l = true → let q := quantLane x T rnd av l
        (∀ j < 8, dv.toNat + j ≠ b.toNat → g.vget (dv.toNat + j) l = q.1.getD j 0) ∧ g.vget b.toNat l = BitVec.ofNat 32 q.2.1 ∧
        Flagged x.g g l q.2.2.fl ∧ g.seed l = q.2.2.seed) ∧
    (Executes (.dqblk p src dv av a) s x → S = .i8 → operand (.dqblk p src dv av a)) ∧
    (Executes (.dqblk p src dv av a) s x → S ≠ .i8 → ∃ g,
      LanesOnly x.g g ((List.range 32).map (dv.toNat + ·)) x.lanes ∧ Yields (.dqblk p src dv av a) s x g ∧
      ∀ l < 128, x.lanes.getLsbD l = true →
        let q := fun k => dequant S ftz ((VSval x.g 0 l a).toNat % 256) ((x.g.vget (av.toNat + k / 4) l).toNat / 2 ^ (8 * (k % 4)) % 256)
        (∀ k < 32, g.vget (dv.toNat + k) l = BitVec.ofNat 32 (q k).1) ∧ g.seed l = x.g.seed l ∧
        Flagged x.g g l (((List.range 32).map fun k => (q k).2).foldl (· ||| ·) 0)) ∧
    (∀ (lo hi : Int) (w : Word) (g n : Bool) (v : Exact), lo ≤ 0 → 0 ≤ hi →
      toInt lo hi mode w (.nan g) = (0, Fl.nv) ∧ toInt lo hi mode w (.inf n) = (if n then lo else hi, Fl.nv) ∧
      let r := if v.neg then -((roundInt mode w v).1 : Int) else (roundInt mode w v).1
      toInt lo hi mode w (.fin v) =
        (max lo (min hi r), if r < lo ∨ hi < r then Fl.nv else if (roundInt mode w v).2 then Fl.nx else 0)) ∧
    (let ints : List (Fmt × Int × Int) := [(.i8, -128, 127), (.u8, 0, 255), (.i16, -32768, 32767), (.u16, 0, 65535),
        (.i32, -2147483648, 2147483647), (.u32, 0, 4294967295)]
      ∀ r ∈ ints, ∀ t ∈ ints, ∀ (w : Word) (c : Nat), (c : Int) ≤ r.2.2 - r.2.1 →
        let n : Int := if r.2.2 < (c : Int) then (c : Int) - (r.2.2 - r.2.1 + 1) else c
        cvtElem t.1 r.1 nosat ftz mode w c = (((if nosat then n else max t.2.1 (min t.2.2 n)) % (t.2.2 - t.2.1 + 1)).toNat, 0)) ∧
    (T ∈ [Fmt.tf8, .e4m3, .e5m2] → ∀ l < 128,
      let y := fun k => BinFmt.f32.read ftz (x.g.vget (av.toNat + k) l).toNat
      let q := quantLane x T rnd av l
      let byte := fun k : Nat => ((q.1.getD (k / 4) 0) >>> (8 * (k % 4))).setWidth 8
      let seed := fun k : Nat => if mode = 7 then srNext^[k] (x.g.seed l) else x.g.seed l
      let top : Int := match T with
        | .tf8 => 0
        | .e4m3 => 8
        | _ => 15
      (q.2.2.seed = seed 32) ∧
      ((∃ k < 32, ∀ v, y k ≠ .fin v) → q.2.1 = 255 ∧ (∀ k < 32, byte k = (0 : Byte)) ∧
        q.2.2.fl = if (List.range 32).any fun k => y k == .nan true then Fl.nv else 0) ∧
      ∀ v : Nat → Exact, (∀ k < 32, y k = .fin (v k)) →
        let r := fun k => roundFmt T false false mode (seed (k + 1)) { v k with e := (v k).e + 127 - (q.2.1 : Int) }
        ((∀ k < 32, (v k).m = 0) → q.2.1 = 127) ∧
        (∀ b : Int, (∃ k < 32, (v k).m ≠ 0 ∧ (Nat.log2 (v k).m : Int) + (v k).e = b) →
          (∀ k < 32, (v k).m ≠ 0 → (Nat.log2 (v k).m : Int) + (v k).e ≤ b) → (q.2.1 : Int) = max 0 (min 254 (b - top + 127))) ∧
        (∀ k < 32, byte k = BitVec.ofNat 8 (r k).1) ∧ q.2.2.fl = ((List.range 32).map fun k => (r k).2).foldl (· ||| ·) 0) ∧
    (S ∈ [Fmt.tf8, .e4m3, .e5m2] → ∀ (E c : Nat) (n g : Bool) (v : Exact), E ≤ 255 → c < 256 →
      let q := dequant S ftz E c
      let size : ℚ := magOf v * (2 : ℚ) ^ ((E : Int) - 127)
      (E = 255 → q = (0x7FC00000, 0)) ∧ (readFmt S false c = .nan g → q = (0x7FC00000, 0)) ∧
      (E ≠ 255 → readFmt S false c = .inf n → q = ((if n then 0xFF800000 else 0x7F800000), 0)) ∧
      (E ≠ 255 → readFmt S false c = .fin v →
        ((2 : ℚ) ^ (128 : Int) ≤ size → q = ((if v.neg then 0xFF800000 else 0x7F800000), Fl.of ||| Fl.nx)) ∧
        (ftz = true → 0 < size → size < (2 : ℚ) ^ (-126 : Int) → q = ((if v.neg then 0x80000000 else 0), Fl.uf ||| Fl.nx)) ∧
        (size < (2 : ℚ) ^ (128 : Int) → (ftz = true → size = 0 ∨ (2 : ℚ) ^ (-126 : Int) ≤ size) →
          q.2 = 0 ∧ ∃ a : Exact, BinFmt.f32.read false q.1 = .fin a ∧ a.neg = v.neg ∧ magOf a = size)))

/-- Forms across lanes: `SHFL` and `BCAST` (R306), `VRED` (R307), `VSCAN` (R308), `VCOMPACT` (R309), `CKA` (R310), `CHK` (R311). -/
def Obligations.LaneForms : Prop :=
  ∀ (p : Pre) (m : ShflMode) (o : Op) (rnd : BitVec 3) (e : Ext) (fp ex : Bool) (d a : VReg) (r : SReg) (b : VSI) (c : SI) (q : PReg)
    (dv av : VS) (s : State) (x : X),
    let B := fun l => (VSIval x.g 0 l b).toNat
    let es := lanesOf x.lanes
    let act := lanesOf x.f.mask
    let ftz := x.f.rmode.getLsbD 3
    let mode := if rnd = 0 then x.f.rmode.truncate 3 else rnd
    let vals := fun (ls : List Nat) => ls.map fun l => redIn o ftz (x.g.vget a.toNat l)
    let sum := fun (ls : List Nat) => (ls.map fun l => x.g.vget a.toNat l).foldl (· + ·) 0
    let rv := reduce o ftz mode (x.g.seed (lowLane x.lanes)) (vals es)
    let rs := reduce o ftz mode (x.g.seed (lowLane x.f.mask)) (vals act)
    let sc := scan o ftz mode (x.g.seed (lowLane x.lanes)) ex (vals es)
    let ct := ckaTerm fp x.g e a
    (Executes (.shfl p m d a b) s x → WritesLanes (.shfl p m d a b) s x d fun l => x.g.vget a.toNat (match m with
      | .idx => if B l ≤ 127 then B l else l
      | .up => if B l ≤ l then l - B l else l
      | .down => if l + B l ≤ 127 then l + B l else l
      | .xor => if B l ≤ 127 then l ^^^ B l else l)) ∧
    (Executes (.bcast p d a c) s x → WritesLanes (.bcast p d a c) s x d fun _ => x.g.vget a.toNat ((SIval x.g c).toNat % 128)) ∧
    (Executes (.vcompact p d a q) s x → ∃ g, LanesOnly x.g g [d.toNat] x.lanes ∧ Yields (.vcompact p d a q) s x g ∧
      let ls := es.filter fun l => (x.g.pmask q.toNat).getLsbD l
      ∀ k (hk : k < es.length), g.vget d.toNat es[k] = match ls[k]? with
        | some l => x.g.vget a.toNat l
        | none => x.g.vget d.toNat es[k]) ∧
    (Executes (.vred p o rnd (.v d) a) s x → ∃ g, LanesOnly x.g g [d.toNat] x.lanes ∧ Yields (.vred p o rnd (.v d) a) s x g ∧
      (∀ l ∈ es, g.vget d.toNat l = rv.1 ∧ Flagged x.g g l rv.2.fl ∧
        g.seed l = if l = lowLane x.lanes then rv.2.seed else x.g.seed l)) ∧
    (Executes (.vred p o rnd (.s r) a) s x → ∃ g, Yields (.vred p o rnd (.s r) a) s x g ∧
      (∀ n, g.sget n = if n = r.toNat then rs.1 else x.g.sget n) ∧ Flagged x.g g (lowLane x.f.mask) rs.2.fl ∧
      g.seed (lowLane x.f.mask) = rs.2.seed ∧
      (∀ l < 128, l ≠ lowLane x.f.mask → g.flags l = x.g.flags l ∧ g.seed l = x.g.seed l) ∧
      { g with sregs := x.g.sregs, fflags := x.g.fflags, srseed := x.g.srseed } = x.g) ∧
    (o = .iadd32 → rv.1 = sum es ∧ rs.1 = sum act ∧ rv.2.fl = 0 ∧ rv.2.seed = x.g.seed (lowLane x.lanes)) ∧
    (Executes (.vscan p o rnd d a ex) s x → ∃ g, LanesOnly x.g g [d.toNat] x.lanes ∧ Yields (.vscan p o rnd d a ex) s x g ∧
      (∀ k (hk : k < es.length) w, sc.1[k]? = some w → g.vget d.toNat es[k] = w.1.setWidth 32 ∧ Flagged x.g g es[k] w.2) ∧
      (∀ l ∈ es, g.seed l = if l = lowLane x.lanes then sc.2 else x.g.seed l)) ∧
    (sc.1.length = es.length) ∧
    (o = .iadd32 → ∀ k < es.length, (sc.1.map fun w => w.1.setWidth 32)[k]? = some (if ex then sum (es.take k) else sum (es.take (k + 1)))) ∧
    (Executes (.cka p e fp (.v d) a) s x → ∃ g, LanesOnly x.g g [d.toNat] x.lanes ∧ Yields (.cka p e fp (.v d) a) s x g ∧
      ∀ l ∈ es, let w := ckaAdd fp (x.g.vget d.toNat l) (ct l).1
        g.vget d.toNat l = w.1 ∧ Flagged x.g g l ((ct l).2 ||| w.2) ∧ g.seed l = x.g.seed l) ∧
    (Executes (.cka p e fp (.s r) a) s x → ∃ (g : Group) (t : Word) (fl : Fl), Yields (.cka p e fp (.s r) a) s x g ∧
      (∀ n, g.sget n = if n = r.toNat then t else x.g.sget n) ∧ Flagged x.g g (lowLane x.f.mask) fl ∧
      (∀ l < 128, l ≠ lowLane x.f.mask → g.flags l = x.g.flags l) ∧ { g with sregs := x.g.sregs, fflags := x.g.fflags } = x.g ∧
      (fp = false → fl = 0 ∧ t = x.g.sget r.toNat + (act.map fun l => (ct l).1).foldl (· + ·) 0)) ∧
    (fp = false → ∀ l, ct l = (((blockRegs e a.toNat).map fun k => x.g.vget k l).foldl (· + ·) 0, 0)) ∧
    (Executes (.chk p fp dv av c) s x →
      let tol := SIval x.g c
      let ls := match dv with
        | .s _ => [lowLane x.f.mask]
        | .v _ => es
      let ok := fun l => if fp then chkOk true (VSval x.g 0 l dv) (VSval x.g 0 l av) tol.toNat = true
        else ((VSval x.g 0 l dv).toInt - (VSval x.g 0 l av).toInt).natAbs ≤ tol.toNat
      (tol.msb = true → exec (.chk p fp dv av c) s =
        .next ((begun (.chk p fp dv av c) s x).takeEvent x.k x.en (Event.plain 0x09 0 x.lanes))) ∧
      (tol.msb = false → (∀ l ∈ ls, ok l) → Completes (.chk p fp dv av c) s x (begun (.chk p fp dv av c) s x) (x.f.pc + 12) .none) ∧
      (tol.msb = false → ∀ l ∈ ls, ¬ ok l → (∀ k ∈ ls, k < l → ok k) → ∃ bad : Mask,
        (∀ k < 128, bad.getLsbD k = true ↔ (match dv with
          | .s _ => x.f.mask.getLsbD k = true
          | .v _ => k ∈ ls ∧ ¬ ok k)) ∧
        exec (.chk p fp dv av c) s = .next ((begun (.chk p fp dv av c) s x).takeEvent x.k x.en
          ⟨0x21, l, VSval x.g 0 l av ++ VSval x.g 0 l dv, bad, 0, none⟩)))

/-- The checks of a `gl:` instruction (R313 to R315, R422, R423): address, alignment, translation, the first touch of a page (kind 0x1B,
R139) and the wait for a leaf that is filling (R140), then protection and the rest; and what it then waits for: host memory (R320), a
busy home, the release of the `PTEW` that wrote a leaf (R282, R445). The lost word as the last check of category 5 is the model's
reading (log 106), and so is the wait for a home that is busy (logs 54, 98). -/
def Obligations.MemoryChecks : Prop :=
  ∀ (s : State) (x : X) (uni : Bool) (md : Mode) (sys : Bool) (l : List Ask),
    let tr := fun (a : Ask) => s.translate x.core (s.ctxOf x.g.launch) a.addr.toNat
    let failsIn := fun (t : State) (kind code : Nat) (leaf : Option (Nat × Nat)) (bad : List (Nat × Int)) => ∃ ev : Event,
      s.resolve x uni md sys l = .stop t (.event ev) ∧ ev.kind = kind ∧ ev.code = code ∧ ev.leaf = leaf ∧
      (uni = true → ev.lanes = x.f.mask) ∧ (uni = false → ∀ k < 128, ev.lanes.getLsbD k = true ↔ ∃ c ∈ bad, c.1 = k) ∧
      ∀ c ∈ bad, (∀ c' ∈ bad, c.1 ≤ c'.1) → (∀ c' ∈ bad, c'.1 = c.1 → c' = c) → ev.addr = BitVec.ofInt 64 c.2
    let fails := fun (kind code : Nat) (bad : List (Nat × Int)) => failsIn s kind code none bad
    let far := (l.filter fun a => a.addr < 0 || 2 ^ 57 ≤ a.addr).map Ask.at
    let odd := (l.filter fun a => a.addr % (a.size : Int) != 0).map Ask.at
    let unformed := (l.filter fun a => (a.addr < 0 || 2 ^ 57 ≤ a.addr) || a.addr % (a.size : Int) != 0).map Ask.at
    let none_ := (l.filter fun a => tr a == .fault).map Ask.at
    let walked := l.foldl (fun t a => t.noteFault x.core (s.ctxOf x.g.launch) a.addr.toNat) s
    let touch : List (Ask × Nat × Nat) := l.filterMap fun a => match tr a with
      | .pool p lv _ => some (a, p, lv)
      | _ => none
    let filling : List Nat := l.filterMap fun a => match tr a with
      | .filling p _ => some p
      | _ => none
    let rs : List Res := l.filterMap fun a => match tr a with
      | .page pa c w _ => some ⟨a.lane, a.pos, a.size, a.addr.toNat, pa, c, w, a.bad⟩
      | _ => none
    let noPerm := fun (r : Res) => md.writes && !r.w
    let illegal := fun (r : Res) => !md.legal r.cls r.pa
    let burst := fun (r : Res) => r.bad
    let sealed_ := fun (r : Res) => md.writes && r.words.any fun w => (s.entry (w / 128)).sealed.isSome
    let gone := fun (r : Res) => md.writes && !(sys && wholeLine rs) && r.words.any s.lostWord
    let barred := (rs.filter fun r => noPerm r || illegal r || burst r || sealed_ r || gone r).map Res.at
    let unanswered := md.answers = true ∧ x.f.hostOk = false ∧ ∃ r ∈ rs, place r.pa = .host
    let busy := ∃ r ∈ rs, ∃ w ∈ r.words, s.waitsFor md r.cls w = true
    let leaf := maxStamp 0 (rs.map fun r => s.leafStamp (s.ctxOf x.g.launch) r.va)
    (∀ a ∈ l, a.lane < 128) →
    (far ≠ [] → fails 0x10 0 unformed) ∧
    (far = [] → odd ≠ [] → fails 0x11 0 unformed) ∧
    (far = [] → odd = [] → none_ ≠ [] → failsIn walked 0x12 0 none none_) ∧
    (far = [] → odd = [] → none_ = [] → ∀ q ∈ touch, (∀ q' ∈ touch, q.1.lane ≤ q'.1.lane) → (∀ q' ∈ touch, q'.1.lane = q.1.lane → q' = q) →
      failsIn (s.fillLeaf q.2.1) 0x1B 0 (some (q.2.1, levelSize q.2.2)) (touch.map fun q => q.1.at)) ∧
    (far = [] → odd = [] → none_ = [] → touch = [] → ∀ p, filling.head? = some p → s.resolve x uni md sys l = .stop s (.wait (.leaf p))) ∧
    (far = [] → odd = [] → rs.length = l.length →
      (rs.any noPerm = true → fails 0x13 0 barred) ∧
      (rs.any noPerm = false → rs.any illegal = true → fails 0x17 0 barred) ∧
      (rs.any noPerm = false → rs.any illegal = false → rs.any burst = true → fails 0x18 0 barred) ∧
      (rs.any noPerm = false → rs.any illegal = false → rs.any burst = false → rs.any sealed_ = true → fails 0x16 0 barred) ∧
      (rs.any noPerm = false → rs.any illegal = false → rs.any burst = false → rs.any sealed_ = false → rs.any gone = true →
        fails 0x39 6 barred) ∧
      (barred = [] →
        (unanswered → s.resolve x uni md sys l = .stop s (.wait .host)) ∧
        (¬ unanswered → busy → s.resolve x uni md sys l = .stop (s.claim (rs.flatMap Res.words)) .hold) ∧
        (¬ unanswered → ¬ busy → x.g.horizon.toNat < leaf ∨ s.now < leaf → s.resolve x uni md sys l =
          .stop (s.modGroup x.k fun g => { g with horizon := BitVec.ofNat 64 (max g.horizon.toNat leaf) }) .hold) ∧
        (¬ unanswered → ¬ busy → leaf ≤ x.g.horizon.toNat → leaf ≤ s.now → s.resolve x uni md sys l = .ok rs)))

/-- `LD` and `LDX` whose accesses have passed their checks (R317, R321, R323, R324), the race check (R172, R446; log 18) and the race
replay (R428, R450): an access that conflicts is not performed and raises kind 0x20, and the others of its instruction are performed;
in a race replay none conflicts. Where a word aborts the rest is performed and the gang killed (R461, R462). -/
def Obligations.Loads : Prop :=
  ∀ (p : Pre) (sz : Size) (sc : Scope) (e : Ext) (d : VReg) (n : SReg) (m : MemOp) (s : State) (x : X) (rs : List Res),
    let wide := if sz = .b64 then 2 else 1
    let whole := wholeLine rs
    let loads := fun (i : Instr) (uni : Bool) (fetch : State → State) (claim : State → List Res → Group → Prop) =>
      let q := sortOut ((fetch ((begun i s x).readFor x rs)).mergeAll rs) (fun t _ w => t.badAt (if whole then homeReader else x.core) w) rs
      let c := (q.s.prepAll (State.prepRead x.core p.policy whole) (linesOf q.ok)).s
      let hit := fun (a : Res) => c.clashOf x.core (x.reader c uni sc a) (x.kind uni a.lane sc) false a
      (x.f.only ≠ none → ∀ a, hit a = none) ∧
      ∃ (t : State) (g : Group), t.group? x.k = some g ∧ t.mem = c.mem ∧
        (q.flags = [] → g.fflags = x.g.fflags) ∧ (sc = .none → g.horizon = x.g.horizon) ∧
        { g with vregs := x.g.vregs, sregs := x.g.sregs, fflags := x.g.fflags, horizon := x.g.horizon, seen := x.g.seen } = x.g ∧
        claim c (q.ok.filter fun a => (hit a).isNone) g ∧
        Ends i s x uni t q.bad (q.ok.filterMap hit)
          (∃ w, Completes i s x t (x.f.pc + 12) w ∧ (sc = .none → w = .none) ∧ (w = .none ∨ w = .horizon ∧ t.now < g.horizon.toNat))
    let val := fun (t : State) (a : Res) => extend sz (t.valueAt (if whole then homeReader else x.core) a.pa a.size)
    (Executes (.ld p sz sc (.v d) m) s x →
      (begun (.ld p sz sc (.v d) m) s x).resolve x false .read false (asks x false m (byteSize sz)) = .ok rs →
      loads (.ld p sz sc (.v d) m) false (fun t => t.fetchFor x.core rs) fun t ok g => g.sregs = x.g.sregs ∧
        (∀ a ∈ ok, ∀ k v, (val t a)[k]? = some v → g.vget (d.toNat + k) a.lane = v) ∧
        ∀ y, ∀ l < 128, (y < d.toNat ∨ d.toNat + wide ≤ y ∨ ∀ a ∈ ok, a.lane ≠ l) → g.vget y l = x.g.vget y l) ∧
    (Executes (.ld p sz sc (.s n) m) s x →
      (begun (.ld p sz sc (.s n) m) s x).resolve x true .read false (asks x true m (byteSize sz)) = .ok rs →
      loads (.ld p sz sc (.s n) m) true (fun t => t.fetchFor x.core rs) fun t ok g => g.vregs = x.g.vregs ∧
        (∀ a ∈ ok, ∀ k v, (val t a)[k]? = some v → g.sget (n.toNat + k) = v) ∧
        ∀ y, (y < n.toNat ∨ n.toNat + wide ≤ y ∨ ok = []) → g.sget y = x.g.sget y) ∧
    (Executes (.ldx p e sz sc d m) s x → (Instr.ldx p e sz sc d m).wf = true →
      (begun (.ldx p e sz sc d m) s x).resolve x false .read false (burstAsks x e (sz == .b64) m) = .ok rs →
      loads (.ldx p e sz sc d m) false (fun t => t.fetchBursts (burstCommands x.g 0 (sz == .b64) m rs)) fun t ok g => g.sregs = x.g.sregs ∧
        (∀ a ∈ ok, ∀ k v, (val t a)[k]? = some v → g.vget (d.toNat + (blockOffs e).getD a.pos 0 + k) a.lane = v) ∧
        ∀ y, ∀ l < 128, (∀ a ∈ ok, a.lane = l → ∀ k < wide, y ≠ d.toNat + (blockOffs e).getD a.pos 0 + k) → g.vget y l = x.g.vget y l) ∧
    ∀ (t : State) (st : Stamps) (a : Who) (j k : StampKind) (writes : Bool) (bytes : BitVec 4),
      let meets := fun (b : BitVec 24) (o : Mark) => a.check = true ∧ a.owns b o.time = false ∧ a.hor ≤ o.time ∧ o.bytes &&& bytes ≠ 0 ∧
        t.clash o.kind k = true
      let wrote := ∃ w o, st.w = some w ∧ o ∈ w.marks ∧ meets w.agent o
      let read := ∃ r o, st.r = some r ∧ o ∈ r.marks ∧ meets r.agent o
      (t.clash j k = false ↔ (∃ tag, j = .upd tag ∧ k = .upd tag) ∨ ∃ c la ta d lb tb, j = .atomic c la ta ∧ k = .atomic d lb tb ∧
        t.reaches (scopeNo c) la ta lb tb = true ∧ t.reaches (scopeNo d) lb tb la ta = true) ∧
      (wrote → ∀ w, st.w = some w → t.race st a k writes bytes = some ((if writes then 0 else 1), w.agent.toNat)) ∧
      (¬ wrote → writes = true → read → ∀ r, st.r = some r → t.race st a k writes bytes = some (2, r.agent.toNat)) ∧
      (¬ wrote → (writes = false ∨ ¬ read) → t.race st a k writes bytes = none)

/-- `ST` and `STX` whose accesses have passed their checks (R133, R317, R321, R323, R473): those that conflict or abort are not
performed, and the others are (R446, R450, R461). -/
def Obligations.Stores : Prop :=
  ∀ (p : Pre) (sz : Size) (sc : Scope) (e : Ext) (d : VReg) (dv : VS) (m : MemOp) (s : State) (x : X) (rs : List Res),
    let stores := fun (i : Instr) (uni : Bool) (val : Res → DWord) (after : State → State) =>
      let b := (begun i s x).readUnder x rs
      let whole := wholeLine rs
      let again := sc == .sys && whole && rs.any fun a => a.words.any fun w => (b.entry (w / 128)).lost != 0
      let hint : BitVec 2 := if again || (whole && rs.all fun a => a.cls == .dc) then 3 else p.policy
      let c := b.fetchFor x.core (rs.filter fun a => a.size < 4)
      let q := sortOut (if again then (c, [], []) else c.mergeAll rs) (fun t a w => t.storeBad x.core a w) rs
      let u := if again then (q.s.prepAll (fun t n _ _ => t.reclaimLine n) (linesOf q.ok)).s
        else (q.s.prepAll (State.prepWrite x.core hint) (linesOf q.ok)).s
      let hit := fun (a : Res) => u.clashOf x.core (x.who u uni a.lane sc) (x.kind uni a.lane sc) true a
      let ok := q.ok.filter fun a => (hit a).isNone
      failed x uni (b.permitted .write (sc == .sys) rs) Res.at rs = none → (begun i s x).owedTo x.g sc = false →
      (x.f.only ≠ none → ∀ a, hit a = none) ∧ ∃ ws : List Put, Puts ok val ws ∧
        let t := ws.foldl (fun t w => t.storeWord x.core hint (x.writers u uni sc (ok.flatMap fun a => a.puts (val a)) w.pa) w) u
        (q.bad = [] → Ends i s x uni (after t) [] (q.ok.filterMap hit) (Completes i s x (after t) (x.f.pc + 12) .none)) ∧
        (q.bad ≠ [] → exec i s = .next ((after (t.abortThread x uni q.bad).1).tidy x.k))
    let size := byteSize sz
    (Executes (.st p sz sc dv m) s x → let uni := isScalar dv
      ((begun (.st p sz sc dv m) s x).resolve x uni .write (sc == .sys) (asks x uni m size) = .ok rs →
        stores (.st p sz sc dv m) uni (fun a => dataOf x.g sz dv 0 a.lane) id)) ∧
    (Executes (.stx p e sz sc d m) s x →
      (begun (.stx p e sz sc d m) s x).resolve x false .write (sc == .sys) (burstAsks x e (sz == .b64) m) = .ok rs →
      stores (.stx p e sz sc d m) false (fun a => dataOf x.g sz (.v d) ((blockOffs e).getD a.pos 0) a.lane)
        fun t => t.storeBursts (burstCommands x.g 1 (sz == .b64) m rs) (rs.flatMap Res.words)) ∧
    (∀ (a : Res) (v : DWord), a.size = 8 → a.puts v =
      [⟨a.lane, a.pa, a.cls, 0xF, v.setWidth 32⟩, ⟨a.lane, a.pa + 4, a.cls, 0xF, (v >>> 32).setWidth 32⟩]) ∧
    (∀ (a : Res) (v : DWord), (a.size = 1 ∨ a.size = 2 ∨ a.size = 4) → a.pa % a.size = 0 → ∃ w, a.puts v = [w] ∧ w.pa = a.pa / 4 * 4 ∧
      ∀ k < a.size, w.bytes.getLsbD (a.pa % 4 + k) = true ∧
        (w.val >>> (8 * (a.pa % 4 + k))).setWidth 8 = ((v >>> (8 * k)).setWidth 8 : Byte))

/-- One word of a store (R145, R148, R189, R318): at the home (for a word whose check bits are right), in an owner's copy, and
where an owner's store without allocation is made at the home. -/
def Obligations.StoredWords : Prop :=
  ∀ (s : State) (c : Nat) (hint : BitVec 2) (by_ : List (Who × StampKind × BitVec 4)) (w : Put), w.pa % 4 = 0 →
    let t := s.storeWord c hint by_ w
    let owns := s.owns c w.pa = true
    let byte := fun (v : Word) (j : Nat) => ((v >>> (8 * j)).setWidth 8 : Byte)
    ((w.cls = .xc ∨ (w.cls = .nc ∧ (hint = 3 ∨ s.inL1 c w.pa = true)) ∨ (w.cls = .dc ∧ ¬ owns)) → Table.find s.check (w.pa / 4) = none →
      ∀ y, t.mem.byte y = if y / 4 * 4 = w.pa ∧ w.bytes.getLsbD (y % 4) = true then byte w.val (y % 4) else s.mem.byte y) ∧
    (w.cls = .dc → owns → hint ≠ 3 → t.mem = s.mem ∧ ∀ j < 4, byte (t.wordAt c w.pa) j =
      if w.bytes.getLsbD j then byte w.val j else byte (s.wordAt c w.pa) j) ∧
    (w.cls = .dc → owns → hint = 3 → ∀ y, t.mem.byte y =
      if y / 4 * 4 = w.pa then (if w.bytes.getLsbD (y % 4) then byte w.val (y % 4) else byte (s.wordAt c w.pa) (y % 4)) else s.mem.byte y)

/-- `PRF` (R325) and `INVL` (R326). -/
def Obligations.PrefetchAndInvalidate : Prop :=
  ∀ (p : Pre) (m : MemOp) (s : State) (x : X) (rs : List Res),
    (Executes (.prf p m) s x → requestMax < (begun (.prf p m) s x).requests x.core + (lanesOf x.lanes).length → Again (.prf p m) s x) ∧
    (Executes (.prf p m) s x → (begun (.prf p m) s x).requests x.core + (lanesOf x.lanes).length ≤ requestMax →
      ∃ t : State, let b := begun (.prf p m) s x
      let ok := fun (f : Prefetch) => ∃ l < 128, x.lanes.getLsbD l = true ∧ 0 ≤ memAddr m x.g false 4 l ∧ memAddr m x.g false 4 l < 2 ^ 57 ∧
        ∃ c w lv, b.translate x.core (b.ctxOf x.g.launch) ((memAddr m x.g false 4 l).toNat / 4 * 4) = .page f.addr c w lv ∧
          place f.addr ≠ .host ∧ f.core = x.core ∧ f.cls = c ∧ f.hint = p.policy ∧ (f.l1 = true ↔ p.policy ≠ 3 ∧ c ≠ .xc)
      Completes (.prf p m) s x t (x.f.pc + 12) .none ∧
      { t with prefetches := b.prefetches, serial := b.serial } = b ∧
      ∃ new, t.prefetches = b.prefetches ++ new ∧ (∀ f ∈ new, ok f) ∧
        ∀ l < 128, x.lanes.getLsbD l = true → 0 ≤ memAddr m x.g false 4 l → memAddr m x.g false 4 l < 2 ^ 57 →
          ∀ pa c w lv, b.translate x.core (b.ctxOf x.g.launch) ((memAddr m x.g false 4 l).toNat / 4 * 4) = .page pa c w lv →
            place pa ≠ .host → ∃ f ∈ new, f.addr = pa) ∧
    (Executes (.invl p m) s x → (begun (.invl p m) s x).resolve x false .inval false (asks x false m 4) = .ok rs → ∃ t : State,
      Completes (.invl p m) s x t (x.f.pc + 12) .none ∧ t.mem = s.mem ∧
      ∀ c y, t.inL1 c y = true ↔ s.inL1 c y = true ∧ ¬ (c = x.core ∧ ∃ a ∈ rs, a.cls = .nc ∧ a.pa / 4 = y / 4))

/-- The checks of scratchpad accesses (R119, R313, R314, R327, R422, R423), and the waits for Pending lines (R118) and for the fill of
Unfilled ones (R121). That every byte of an access has to lie in the allocation is the model's reading (log 104). -/
def Obligations.SpadChecks : Prop :=
  ∀ (s : State) (x : X) (uni : Bool) (m : MemOp) (l : List SAsk) (own k : Nat) (w : Workgroup), l ≠ [] → (∀ a ∈ l, a.lane < 128) →
    let fails := fun (kind : Nat) (bad : SAsk → Prop) => ∃ ev : Event,
      s.spadResolve x uni m l = .stop s (.event ev) ∧ ev.kind = kind ∧ ev.code = 0 ∧ ev.leaf = none ∧
      (uni = true → ev.lanes = x.f.mask) ∧ (uni = false → ∀ n < 128, ev.lanes.getLsbD n = true ↔ ∃ a ∈ l, bad a ∧ a.lane = n)
    let out := fun (a : SAsk) => a.addr < 0 ∨ (w.size : Int) < a.addr + a.size
    let odd := fun (a : SAsk) => a.addr % (a.size : Int) ≠ 0
    let ill := fun (a : SAsk) => out a ∨ odd a
    let fills := l.filterMap fun a => if w.line (a.addr.toNat / 128) == .unfilled then
      (w.window (a.addr.toNat / 128)).map fun q => (⟨a.lane, 0, q.2, 4, false⟩ : Ask) else none
    (x.g.wg = none → fails 0x14 fun _ => True) ∧
    (x.g.wg = some own → m.remote = true →
      (∀ c ∈ s.wgs, ¬ (x.g.gang = some c.2.gang ∧ c.2.core % 8 = m.pos.toNat)) → fails 0x15 fun _ => True) ∧
    (x.g.wg = some own → (if m.remote then s.memberAt x.g.gang m.pos.toNat else some own) = some k → Table.find s.wgs k = some w →
      ((∃ a ∈ l, out a) → fails 0x14 ill) ∧
      ((∀ a ∈ l, ¬ out a) → (∃ a ∈ l, odd a) → fails 0x11 ill) ∧
      ((∀ a ∈ l, ¬ out a) → (∀ a ∈ l, ¬ odd a) →
        ((∀ a ∈ l, w.line (a.addr.toNat / 128) = .full) → s.spadResolve x uni m l = .ok k) ∧
        ((∃ a ∈ l, w.line (a.addr.toNat / 128) ≠ .full) → (∀ a ∈ l, w.line (a.addr.toNat / 128) ≠ .unfilled) →
          ∃ n, (∃ a ∈ l, a.addr.toNat / 128 = n) ∧ s.spadResolve x uni m l = .stop s (.wait (.line k n))) ∧
        (∀ t e, s.translateAll x uni fills = .stop t e → s.spadResolve x uni m l = .stop t e) ∧
        (∀ rs, s.translateAll x uni fills = .ok rs → (∃ a ∈ l, w.line (a.addr.toNat / 128) = .unfilled) →
          (∀ a ∈ l, ∀ ops, w.line (a.addr.toNat / 128) ≠ .pending ops) →
          ∃ n, (∃ a ∈ l, a.addr.toNat / 128 = n ∧ w.line n = .unfilled) ∧ s.spadResolve x uni m l = .stop s (.wait (.fill k n)))))

/-- `LDS` and `STS` whose accesses have passed their checks (R316, R327). -/
def Obligations.Scratchpad : Prop :=
  ∀ (p : Pre) (sz : Size) (sc : Scope) (d : VS) (m : MemOp) (s : State) (x : X) (k : Nat) (wg : Workgroup),
    let size := byteSize sz
    let uni := isScalar d
    let l := sAsks x uni m size
    Table.find s.wgs k = some wg →
    (Executes (.lds p sz sc d m) s x → (begun (.lds p sz sc d m) s x).spadResolve x uni m l = .ok k →
      ((begun (.lds p sz sc d m) s x).spadReads x k false l).2 = [] →
      ∃ (t : State) (g : Group) (w : Wait), Completes (.lds p sz sc d m) s x t (x.f.pc + 12) w ∧ t.group? x.k = some g ∧
        (sc = .none → w = .none ∧ g.horizon = x.g.horizon) ∧ (w = .none ∨ w = .horizon ∧ t.now < g.horizon.toNat) ∧
        t.mem = s.mem ∧ t.wgs = s.wgs ∧
        { g with vregs := x.g.vregs, sregs := x.g.sregs, horizon := x.g.horizon, seen := x.g.seen } = x.g ∧
        ∀ a ∈ l, let vs := extend sz (BitVec.ofNat 64 (leNat (wg.bytes.bytes a.addr.toNat size)))
          match d with
          | .v r => g.sregs = x.g.sregs ∧ (∀ j v, vs[j]? = some v → g.vget (r.toNat + j) a.lane = v) ∧
              ∀ y n, n < 128 → (y < r.toNat ∨ r.toNat + vs.length ≤ y ∨ ∀ b ∈ l, b.lane ≠ n) → g.vget y n = x.g.vget y n
          | .s r => g.vregs = x.g.vregs ∧ (∀ j v, vs[j]? = some v → g.sget (r.toNat + j) = v) ∧
              ∀ y, (y < r.toNat ∨ r.toNat + vs.length ≤ y) → g.sget y = x.g.sget y) ∧
    (Executes (.sts p sz sc d m) s x → (begun (.sts p sz sc d m) s x).spadResolve x uni m l = .ok k →
      (begun (.sts p sz sc d m) s x).owedTo x.g sc = false → ((begun (.sts p sz sc d m) s x).spadReads x k true l).2 = [] →
      ∃ (t : State) (w : Workgroup), Completes (.sts p sz sc d m) s x t (x.f.pc + 12) .none ∧ t.mem = s.mem ∧ t.groups = s.groups ∧
        Table.find t.wgs k = some w ∧ (∀ j, j ≠ k → Table.find t.wgs j = Table.find s.wgs j) ∧
        (w.lines = wg.lines ∧ w.rings = wg.rings ∧ w.pens = wg.pens) ∧
        (∀ y, (∀ a ∈ l, y < a.addr.toNat ∨ a.addr.toNat + size ≤ y) → w.bytes.byte y = wg.bytes.byte y) ∧
        (∀ a ∈ l, ∀ j < size, Table.find w.zero ((a.addr.toNat + j) / 128) = none ∧
          ((∀ b ∈ l, b.addr.toNat ≤ a.addr.toNat + j → a.addr.toNat + j < b.addr.toNat + size → b.lane ≤ a.lane) →
            w.bytes.byte (a.addr.toNat + j) = (dataOf x.g sz d 0 a.lane >>> (8 * j)).setWidth 8)))

/-- `WINMAP` (R328), `WINFL` (R329) and `WINDROP` (R330). -/
def Obligations.Windows : Prop :=
  ∀ (p : Pre) (e : BitVec 3) (a b : SReg) (s : State) (x : X) (k : Nat) (w : Workgroup) (v : Window),
    x.g.wg = some k → Table.find s.wgs k = some w →
    let va := (x.g.sget2 a.toNat).toNat
    let base := (x.g.sget b.toNat).toNat
    let len := (x.g.sget (b.toNat + 1)).toNat
    let good := va % 128 = 0 ∧ va < 2 ^ 57 ∧ base % 128 = 0 ∧ len % 128 = 0 ∧ 128 ≤ len ∧ base + len ≤ w.size ∧
      Table.find w.wins e.toNat = none ∧ ∀ u ∈ w.wins, base + len ≤ u.2.base ∨ u.2.base + u.2.len ≤ base
    let free := ∀ n, v.base / 128 ≤ n → n < v.base / 128 + v.len / 128 → ∀ ops, w.line n ≠ .pending ops
    let after := fun (i : Instr) (f : Workgroup → Workgroup) => ∀ (rs : List Res) (t : State),
      let ws := w.dirtyWords v
      let c := (begun i s x).spadCheck k (s.ctxOf x.g.launch) (v.dirty.flatMap fun d => (wordsOf d.2).map fun i => 32 * d.1 + i)
      c.2 = [] → c.1.resolve x true .write false (ws.map fun q => ⟨x.low, 0, q.1, 4, false⟩) = .ok rs →
      c.1.performStore x true 3 .none ((rs.zip ws).map fun q => (q.1, q.2.2.setWidth 64)) = (t, .next) →
      Completes i s x (t.modWg k f) (x.f.pc + 12) .none
    (Executes (.winmap p e a b) s x → ¬ good → Raises (.winmap p e a b) s x 0x19 0) ∧
    (Executes (.winmap p e a b) s x → good → ∃ w' : Workgroup,
      Completes (.winmap p e a b) s x ((begun (.winmap p e a b) s x).modWg k fun _ => w') (x.f.pc + 12) .none ∧
      (∀ n, Table.find w'.wins n = if n = e.toNat then some ⟨base, len, va, [], []⟩ else Table.find w.wins n) ∧
      (∀ n, w'.line n = if base / 128 ≤ n ∧ n < (base + len) / 128 then .unfilled else w.line n) ∧
      { w' with wins := w.wins, lines := w.lines, zero := w.zero } = w) ∧
    (Executes (.winfl p e) s x → Table.find w.wins e.toNat = none → Raises (.winfl p e) s x 0x19 0) ∧
    (Executes (.windrop p e) s x → Table.find w.wins e.toNat = none → Raises (.windrop p e) s x 0x19 0) ∧
    (Table.find w.wins e.toNat = some v →
      let clean := fun (u : Workgroup) => ({ u with wins := Table.insert u.wins e.toNat { v with dirty := [] } } : Workgroup)
      let drop := fun (u : Workgroup) => { u with wins := Table.erase (clean u).wins e.toNat, lines := u.lines.filter fun n => !(v.base / 128 ≤ n.1 && n.1 < (v.base + v.len) / 128) }
      (Executes (.winfl p e) s x → free → after (.winfl p e) clean) ∧
      (Executes (.windrop p e) s x → free → after (.windrop p e) drop) ∧
      (v.dirty = [] → free → (Executes (.winfl p e) s x →
          Completes (.winfl p e) s x ((begun (.winfl p e) s x).modWg k clean) (x.f.pc + 12) .none) ∧
        (Executes (.windrop p e) s x →
          Completes (.windrop p e) s x ((begun (.windrop p e) s x).modWg k drop) (x.f.pc + 12) .none)) ∧
      ∀ n ops, v.base / 128 ≤ n → n < v.base / 128 + v.len / 128 → w.line n = .pending ops →
        (∀ j, v.base / 128 ≤ j → j < n → ∀ o, w.line j ≠ .pending o) →
        ∀ i ∈ [Instr.winfl p e, .windrop p e], Executes i s x → Waits i s x (.line k n))

/-- One read-modify-write at a home (R331, R332), for words whose check bits are right. -/
def Obligations.AtomicStep : Prop :=
  ∀ (s : State) (x : X) (uni : Bool) (o : Op) (v : Env) (acq rel sc : Scope) (r : Res) (d : DWord × DWord) (put : Group → DWord → Group) (g : Group),
    let n := opBytes o
    let a := x.who s uni r.lane rel
    let rels := r.words.flatMap fun w => relsOn (s.stampsOf w).rel r.bytes
    let b := if acq = .none then a else { a with hor := max a.hor (s.observed rels a.launch a.thread (scopeNo acq)) }
    let old : DWord := if n = 8 then s.mem.dword r.pa else (s.mem.word r.pa).setWidth 64
    s.group? x.k = some g → r.size = n → r.pa % n = 0 → (∀ y ∈ r.words, Table.find s.check (y / 4) = none) →
    let clash := s.clashOf homeReader b (x.kind uni r.lane (atomScope sc r.cls)) true r
    (∀ h, clash = some h → s.atomOne x uni o v acq rel sc r d put = (s, some h)) ∧
    (clash = none → ∃ (t : State) (g' : Group), s.atomOne x uni o v acq rel sc r d put = (t, none) ∧ t.group? x.k = some g' ∧
      { g' with horizon := (put g old).horizon, seen := (put g old).seen } = put g old ∧
      ∀ y, t.mem.byte y = if r.pa ≤ y ∧ y < r.pa + n then ((rmw o v old d) >>> (8 * (y - r.pa))).setWidth 8 else s.mem.byte y) ∧
    (∀ u w : DWord, rmw .exch32 v u d = d.2 ∧ rmw .exch64 v u d = d.2 ∧
      rmw .cas32 v u d = (if u = d.1 then d.2 else u) ∧ rmw .cas64 v u d = (if u = d.1 then d.2 else u) ∧
      rmw .iadd64 v u (0, w) = u + w) ∧
    ∀ p q : Word, let f := fun (o : Op) => (rmw o v (p.setWidth 64) (0, q.setWidth 64)).setWidth 32
      f .iadd32 = word (p.toInt + q.toInt) ∧ f .imin = word (min p.toInt q.toInt) ∧ f .imax = word (max p.toInt q.toInt) ∧
      f .umin = word (min (p.toNat : Int) q.toNat) ∧ f .umax = word (max (p.toNat : Int) q.toNat) ∧
      f .and = p &&& q ∧ f .or = p ||| q ∧ f .xor = p ^^^ q ∧
      f .fadd32 = BitVec.ofNat 32 (addX v (v.read p.toNat) (v.read q.toNat)).1

/-- `ATOM`, `RED` and `ATOMS` whose accesses have passed their checks (R316, R331 to R333): those that conflict or abort are not
performed, and the others are (R446, R450, R461). -/
def Obligations.Atomics : Prop :=
  ∀ (p : Pre) (o : Op) (sc : Scope) (d : VS) (m : MemOp) (s : State) (x : X) (rs : List Res) (k : Nat) (wg : Workgroup),
    let n := opBytes o
    let uni := isScalar d
    let acq := acqScope m sc
    let rel := relScope m sc
    let done := fun (i : Instr) (acq : Scope) (b : State) (near : List Res) (put : Res → Group → DWord → Group) =>
      let q := sortOut (((b.readFor x near).fetchFor x.core near).mergeAll near) (fun t _ w => t.badAt homeReader w) near
      let f := q.ok.foldl (fun (acc : State × List Clash) r =>
        let (t, h) := acc.1.atomOne x uni o envRne acq rel sc r (opData x.g o d r.lane) (put r)
        (t, acc.2 ++ h.toList)) ((q.s.gatherAll q.ok).s, [])
      Ends i s x uni f.1 q.bad f.2 (∃ w, Completes i s x f.1 (x.f.pc + 12) w ∧ (acq = .none → w = .none) ∧ (w = .none ∨ w = .horizon))
    (Executes (.atom p o sc d m) s x → let b := begun (.atom p o sc d m) s x
      b.resolve x uni (.atomic o) false (asks x uni m n) = .ok rs → b.owedTo x.g rel = false →
      done (.atom p o sc d m) acq b rs fun r g v => g.putLoaded d 0 r.lane (oldWords o v)) ∧
    (Executes (.red p o sc d m) s x → let b := begun (.red p o sc d m) s x
      b.resolve x uni (.red o) false (asks x uni m n) = .ok rs → b.owedTo x.g rel = false → b.roomForReds x rs = true →
      let far := rs.filter farAway
      let t := far.foldl (fun t r => t.sendRed x uni o false rel r (opData x.g o d r.lane).2 1 0) b
      t.mem = s.mem ∧ t.groups = s.groups ∧ ((∀ y ∈ s.ops, y.1 < s.serial) → t.ops.length = s.ops.length + far.length) ∧
      done (.red p o sc d m) .none t (rs.filter fun r => !farAway r) fun _ g _ => g) ∧
    (Executes (.atoms p o sc d m) s x → let b := begun (.atoms p o sc d m) s x
      let l := (x.accessLanes uni).map fun l => (⟨l, memAddr m x.g true n l, n⟩ : SAsk)
      b.spadResolve x uni m l = .ok k → Table.find s.wgs k = some wg → b.owedTo x.g rel = false → (b.spadReads x k false l).2 = [] →
      ∃ (t : State) (g : Group) (w : Wait) (wg' : Workgroup), Completes (.atoms p o sc d m) s x t (x.f.pc + 12) w ∧
        (acq = .none → w = .none) ∧ (w = .none ∨ w = .horizon) ∧ t.mem = s.mem ∧ t.group? x.k = some g ∧
        { g with vregs := x.g.vregs, sregs := x.g.sregs, horizon := x.g.horizon, seen := x.g.seen } = x.g ∧
        Table.find t.wgs k = some wg' ∧
        (∀ y, (∀ a ∈ l, y < a.addr.toNat ∨ a.addr.toNat + n ≤ y) → wg'.bytes.byte y = wg.bytes.byte y) ∧
        let reg := fun (a : SAsk) (j : Nat) => match d with
          | .v r => g.vget (r.toNat + j) a.lane
          | .s r => g.sget (r.toNat + j)
        (∀ a ∈ l, (∀ c ∈ l, c.lane ≠ a.lane → c.addr ≠ a.addr) →
          let old : DWord := BitVec.ofNat 64 (leNat (wg.bytes.bytes a.addr.toNat n))
          (∀ j v, (oldWords o old)[j]? = some v → reg a j = v) ∧
          leNat (wg'.bytes.bytes a.addr.toNat n) = (rmw o envRne old (opData x.g o d a.lane)).toNat % 2 ^ (8 * n)) ∧
        (o = .iadd32 → ∀ A : Nat, (∀ a ∈ l, a.addr = A) →
          let sum := fun (bound : Nat) => ((l.filter fun a => a.lane < bound).map fun a =>
            ((opData x.g o d a.lane).2.setWidth 32 : Word)).foldl (· + ·) (wg.bytes.word A)
          wg'.bytes.word A = sum 128 ∧ ∀ a ∈ l, reg a 0 = sum a.lane))

/-- `UPD` (R334, R335) and the slot of a core's update buffer that it combines into (R160); the words that conflict or abort are not
updated (R446, R450, R461). -/
def Obligations.Updates : Prop :=
  (∀ (s : State) (x : X) (uni : Bool) (t : Op) (v : Env) (r : Res) (d : DWord),
    let c := x.core
    let e := s.entry (r.pa / 128)
    let has := (s.core c).ubuf.find? fun u => u.addr == r.pa
    e.st = .P → e.tag = t → c ∈ e.holders → (has ≠ none ∨ (s.core c).ubuf.length < 4096) → s.flaw (.slot c r.pa) = none →
    ∃ s' : State, s.updOne x uni t v r d = (⟨s', [], none⟩, none) ∧ { s' with cores := s.cores } = s ∧
      (∀ y, y ≠ c → s'.core y = s.core y) ∧ { s'.core c with ubuf := (s.core c).ubuf } = s.core c ∧
      ∃ u, ((s'.core c).ubuf.find? fun u => u.addr == r.pa) = some u ∧ u.tag = t ∧
        u.p = Partial.update t v (match has with
          | some w => w.p
          | none => Partial.ofTag t) d) ∧
  ∀ (p : Pre) (o : Op) (rnd : BitVec 3) (d : VS) (m : MemOp) (s : State) (x : X) (rs : List Res),
    let i : Instr := .upd p o rnd d m
    let uni := isScalar d
    let b := begun i s x
    let mode := if rnd = 0 then x.f.rmode.truncate 3 else rnd
    let sr := o = .fadd32 ∧ mode = 7
    let seed := fun (l : Nat) => if sr then srNext (x.g.seed l) else x.g.seed l
    let env := fun (l : Nat) => (⟨BinFmt.f32, false, mode, seed l⟩ : Env)
    let val := fun (r : Res) => (opData x.g o d r.lane).2
    let near := rs.filter fun r => !farAway r && r.cls != .dc
    Executes i s x → b.resolve x uni (.upd o) false (asks x uni m (opBytes o)) = .ok rs → b.roomForReds x rs = true →
    ∃ g : Group, { g with srseed := x.g.srseed } = x.g ∧
      (∀ l < 128, g.seed l = if ∃ r ∈ rs, r.lane = l then (if seed l = 0 then 1 else seed l) else x.g.seed l) ∧
      let t1 := (rs.filter farAway).foldl (fun t r =>
        t.sendRed x uni o (place r.pa == .peer && r.cls == .xc && intTag o) .none r (val r) mode (seed r.lane)) (if sr then b.modGroup x.k fun _ => g else b)
      let q := (rs.filter fun r => !farAway r && r.cls == .dc).foldl (fun (acc : State × List Abort × List Clash) r =>
          let (q, h) := (acc.1.readFor x [r]).updOne x uni o (env r.lane) r (val r)
          (q.s, acc.2.1 ++ q.abort.toList.map fun b => ⟨r.lane, b.1, b.2, r.va⟩, acc.2.2 ++ h.toList))
        (t1.doAtomics x uni o env .none .none .none (near.map fun r => (r, (0, val r))) fun _ g _ => g)
      Ends i s x uni q.1 q.2.1 q.2.2 (Completes i s x q.1 (x.f.pc + 12) .none)

/-- `FENCE` (R175, R336), `SEAL` (R154, R337) and `UNSEAL` (R157, R338). That a release fence is stamped `now + 32`, when its scope
is sure to hold its earlier accesses, is the model's reading (logs 40, 69). -/
def Obligations.FencesAndSeals : Prop :=
  ∀ (p : Pre) (uni : Bool) (k : FenceKind) (sc : Scope) (a b : SReg) (s : State) (x : X) (ls : List Nat) (n : Nat) (e : Seal),
    let acq := k ≠ .rel
    let rel := k ≠ .acq
    let F : Instr := .fence p uni k sc
    let L : Instr := .seal p a b
    let U : Instr := .unseal p a
    let va := (x.g.sget2 a.toNat).toNat
    let len := (x.g.sget b.toNat).toNat
    let fits := va % 128 = 0 ∧ len % 128 = 0 ∧ 128 ≤ len ∧ len ≤ 2 ^ 30
    let ctx := fun (i : Instr) => (begun i s x).ctxOf x.g.launch
    let lines := fun (i : Instr) => (begun i s x).sealLines x.core (ctx i) va (len / 128)
    let full := ∀ j < 256, Table.find s.seals j ≠ none
    (Executes F s x → rel → (begun F s x).owedTo x.g sc = true → Again F s x) ∧
    (Executes F s x → (rel → (begun F s x).owedTo x.g sc = false) → ∃ (g : Group) (w : Wait),
      Completes F s x ((begun F s x).modGroup x.k fun _ => g) (x.f.pc + 12) w ∧
      { g with horizon := x.g.horizon, relF := x.g.relF } = x.g ∧
      (∀ j, (rel → (∃ l < 128, x.lanes.getLsbD l = true ∧ j = l * 8 + scopeNo sc) → Table.get 0 g.relF j = s.now + 32) ∧
        ((rel → ∀ l < 128, x.lanes.getLsbD l = true → j ≠ l * 8 + scopeNo sc) → Table.get 0 g.relF j = Table.get 0 x.g.relF j)) ∧
      (¬ acq → g.horizon = x.g.horizon ∧ w = .none) ∧
      (acq → (∀ l < 128, Table.get 0 x.g.seen (l * 8 + scopeNo sc) < 2 ^ 64) →
        x.g.horizon.toNat ≤ g.horizon.toNat ∧
        (∀ l < 128, x.lanes.getLsbD l = true → Table.get 0 x.g.seen (l * 8 + scopeNo sc) ≤ g.horizon.toNat) ∧
        (g.horizon = x.g.horizon ∨ ∃ l < 128, x.lanes.getLsbD l = true ∧ g.horizon.toNat = Table.get 0 x.g.seen (l * 8 + scopeNo sc)) ∧
        w = if s.now < g.horizon.toNat then .horizon else .none)) ∧
    (Executes L s x → (¬ fits ∨ lines L = none ∨ full ∨
      ∃ l ∈ (lines L).getD [], ((begun L s x).entry l).sealed ≠ none) → Raises L s x 0x1A 0) ∧
    (Executes L s x → fits → lines L = some ls → n < 256 → Table.find s.seals n = none → (∀ j < n, Table.find s.seals j ≠ none) →
      (∀ l ∈ ls, ((begun L s x).entry l).sealed = none) → (∀ l ∈ ls, (begun L s x).lineBusy l = false) →
      (begun L s x).owedTo x.g .dev = false →
      let q := (begun L s x).prepAll (fun s l _ _ => s.gather l) (ls.map fun l => (l, .dc, 0))
      q.abort = none → ∃ t : State, Completes L s x t (x.f.pc + 12) .none ∧
        (∀ l, t.entry l = if l ∈ ls then { q.s.entry l with sealed := some n } else q.s.entry l) ∧
        Table.find t.seals n = some ⟨ctx L, va, len, 0⟩ ∧ (∀ j, j ≠ n → Table.find t.seals j = Table.find q.s.seals j) ∧
        { t with dir := q.s.dir, seals := q.s.seals } = q.s) ∧
    (Executes U s x → (∀ y ∈ s.seals, ¬ (y.2.ctx = ctx U ∧ y.2.va = va)) → Raises U s x 0x1A 0) ∧
    (Executes U s x → s.sealAt (ctx U) va = some (n, e) → e.copies ≠ 0 →
      Waits U s x (.unseal n)) ∧
    (Executes U s x → s.sealAt (ctx U) va = some (n, e) → e.copies = 0 →
      (∃ d ∈ s.dir, d.2.sealed = some n ∧ (begun U s x).homeBusy d.1 = true) → Again U s x) ∧
    (Executes U s x → s.sealAt (ctx U) va = some (n, e) → e.copies = 0 →
      (∀ d ∈ s.dir, d.2.sealed = some n → (begun U s x).homeBusy d.1 = false) → ∃ t : State, Completes U s x t (x.f.pc + 12) .none ∧
      t.mem = s.mem ∧ Table.find t.seals n = none ∧
      ∀ l, (s.entry l).sealed = some n → (t.entry l).sealed = none ∧ (t.entry l).st = .I ∧ (t.entry l).holders = [] ∧ ∀ c, t.l1? c l = none)

/-- `WAITCNT` (R180, R339, R435), `WAITCMP` and `WAITW` (R186, R200, R340). That a peer's home always has room for a monitor is
the model's reading (log 60), and so is when a re-read looks (log 59). -/
def Obligations.CountAndWordWaits : Prop :=
  ∀ (p : Pre) (cl : BitVec 2) (n : BitVec 13) (cc : Cmp) (sc : Scope) (d : VS) (m : MemOp) (s : State) (x : X) (r : Res),
    let C : Instr := .waitcnt p cl n
    let M : Instr := .waitcmp p cc sc d m
    let W : Instr := .waitw p sc m
    let l := lowLane x.lanes
    let ask : List Ask := [⟨l, 0, memAddr m x.g false 4 l, 4, false⟩]
    let mine := x.g.failed.filter fun f => f.cls == cl.toNat
    let watching := fun (i : Instr) (cond : Option (Cmp × Word)) (before : State) => ∃ (t : State) (y : Monitor) (w : Wait),
      exec i s = .next (t.modFrag x.k x.en fun f => { f with wait := w }) ∧ t.mem = before.mem ∧
      t.monitors = before.monitors ++ [y] ∧ (y.id = before.serial ∧ y.peer = none ∧ y.launch = x.g.launch ∧ y.gid = x.g.gid ∧
        y.en = x.en ∧ y.addr = r.pa / 4 * 4 ∧ y.cond = cond ∧ y.scope = sc ∧ y.old = before.homeWord r.pa ∧ y.sat = none ∧ y.va = r.va ∧ y.lane = r.lane) ∧
      (place r.pa = .peer → (Table.get Peer.reset t.peers (nodeOf r.pa)).outbox =
        (Table.get Peer.reset before.peers (nodeOf r.pa)).outbox ++ [.watch y.id (r.pa / 4 * 4) cond]) ∧
      let room := place r.pa = .peer ∨ (place r.pa = .local ∧
        (before.monitors.filter fun q => q.held && place q.addr == .local && homeOf q.addr == homeOf r.pa).length < 4096)
      (room → y.held = true ∧ w = .monitor y.id) ∧ (¬ room → y.held = false ∧ w = .reread y.id s.clk)
    let late := fun (t : State) => n.toNat < t.count x.g cl.toNat ∨ (mine ≠ [] ∧ s.now < Table.get 0 x.g.landed cl.toNat)
    (Executes C s x → late (begun C s x) → Waits C s x (.cnt cl.toNat n.toNat)) ∧
    (Executes C s x → ¬ late (begun C s x) →
      let top := Table.get 0 x.g.landed cl.toNat
      let g : Group := { x.g with horizon := if top ≤ x.g.horizon.toNat then x.g.horizon else BitVec.ofNat 64 top,
                                  failed := x.g.failed.filter fun f => f.cls != cl.toNat }
      (mine = [] → Completes C s x ((begun C s x).setGroup x.k g) (x.f.pc + 12) (if s.now < g.horizon.toNat then .horizon else .none)) ∧
      ∀ f ∈ mine, (∀ f' ∈ mine, f.status < f'.status ∨ f' = f) →
        exec C s = .next (((begun C s x).setGroup x.k g).takeEvent x.k x.en
          ⟨if f.status = 7 then 0x33 else 0x23, f.status, BitVec.ofNat 64 f.addr, x.f.mask, 0, none⟩)) ∧
    (Executes M s x → (begun M s x).resolve x false .read false ask = .ok [r] →
      let b := begun M s x
      let h := b.homeRead (r.pa / 128) (wordBit (r.pa / 4 % 32)) r.cls b.hostWho (fun _ => 0) (some (b.ctxOf x.g.launch))
      let q := h.s
      let a := x.who q false r.lane .none
      let a := { a with hor := max a.hor (q.observed (q.stampsOf r.pa).rel a.launch a.thread (scopeNo sc)) }
      (∀ c, h.abort = some c → exec M s = .next ((q.abortThread x false [⟨r.lane, c.1, c.2, r.va⟩]).1.tidy x.k)) ∧
      (h.abort = none → q.clashOf homeReader a (x.kind false r.lane sc) false r = none →
      (Holds cc (q.homeWord r.pa) (VSval x.g 0 r.lane d) → ∃ (t : State) (g : Group) (w : Wait),
        Completes M s x t (x.f.pc + 12) w ∧ (w = .none ∨ w = .horizon) ∧ t.mem = q.mem ∧ t.group? x.k = some g ∧
        Flagged x.g g r.lane ((Table.find h.flags r.pa).getD 0)) ∧
      (¬ Holds cc (q.homeWord r.pa) (VSval x.g 0 r.lane d) → ∃ before : State, before.mem = q.mem ∧ before.monitors = q.monitors ∧
        watching M (some (cc, VSval x.g 0 r.lane d)) before))) ∧
    (Executes W s x → (begun W s x).resolve x false .inval false ask = .ok [r] →
      (place r.pa = .host → x.f.hostOk = false → Waits W s x .host) ∧
      (place r.pa ≠ .host ∨ x.f.hostOk = true →
        ((begun W s x).badNewest r.pa = none → watching W none (begun W s x)) ∧
        ∀ code, (begun W s x).badNewest r.pa = some code →
          exec W s = .next (((begun W s x).abortThread x false [⟨r.lane, code, r.pa, r.va⟩]).1.tidy x.k)))

/-- Pennant instructions (R341, R342) and phases (R62 to R66). The messages that tell the other devices of a grid-wide pennant are
the model's reading (log 67), and so is the number of the phase that a wait is for (log 68). -/
def Obligations.Pennants : Prop :=
  ∀ (p : Pre) (n : BitVec 6) (b : SI) (s : State) (x : X) (r : PenRef) (q : Pennant),
    let at_ := fun (i : Instr) => Executes i s x ∧ (begun i s x).penRef x.g n.toNat = .inl r ∧ s.pen? r = some q
    let m := s.member r x.g
    let v := (SIval x.g b).toNat
    let sets := fun (i : Instr) (q' : Pennant) (msg : PenMsg) =>
      Completes i s x (((begun i s x).setPen r q').tellPen r q.no msg) (x.f.pc + 12) .none
    let quiet := fun (i : Instr) => (begun i s x).owedTo x.g ((begun i s x).penScope r) = false
    let told := fun (i : Instr) (w : Wait) => ∃ (t : State) (q' : Pennant),
      t.pen? r = some q' ∧ t.mem = s.mem ∧ t.groups = s.groups ∧ (∀ l, r ≠ .grid l → t = (begun i s x).setPen r q') ∧
      q' = q.arriveLanes m x.f.mask (~~~x.g.retired) (s.now + 32) ∧
      exec i s = .next (if w = .none then t.move x.k x.en (x.f.pc + 12) .none
        else t.modFrag x.k x.en fun f => { f with wait := w })
    (at_ (.pjoin p n) → m ∉ q.members → m ∉ q.joining → sets (.pjoin p n) { q with joining := q.joining ++ [m] } (.join m)) ∧
    (at_ (.pjoin p n) → (m ∈ q.members ∨ m ∈ q.joining) → sets (.pjoin p n) q (.join m)) ∧
    (at_ (.pleave p n) → sets (.pleave p n) (q.leave m) (.leave m)) ∧
    ((m ∉ q.members ∨ m ∈ q.leaving) → q.leave m = q) ∧
    (m ∈ q.members → m ∈ q.arrived → m ∉ q.leaving →
      q.leave m = { q with half := q.half.filter fun h => h.1 != m, leaving := q.leaving ++ [m] }) ∧
    (m ∈ q.members → m ∉ q.arrived → m ∉ q.leaving →
      q.leave m = ({ q with half := q.half.filter fun h => h.1 != m, members := q.members.erase m } : Pennant).settle) ∧
    (at_ (.pexpect p n b) → v ≠ 0 → v ≤ 65535 → q.e + v ≤ 2 ^ 20 - 1 → sets (.pexpect p n b) (q.expect v) (.expect v)) ∧
    (at_ (.pexpect p n b) → (v = 0 ∨ 65535 < v ∨ 2 ^ 20 - 1 < q.e + v) → Raises (.pexpect p n b) s x 0x30 0) ∧
    (at_ (.parrive p n) → m ∈ q.members → quiet (.parrive p n) → told (.parrive p n) .none) ∧
    (at_ (.parrive p n) → m ∉ q.members → Raises (.parrive p n) s x 0x30 0) ∧
    (at_ (.pwait p n) → Waits (.pwait p n) s x (.pennant r (q.count + max 1 ((if m ∈ q.arrived then 1 else 0) +
      (q.later.filter fun h => h.1 == m).length + (q.half.filter fun h => h.1 == m).length)))) ∧
    (at_ (.psync p n) → m ∈ q.members → quiet (.psync p n) → told (.psync p n) (.pennant r (q.ownTarget m x.f.mask))) ∧
    (at_ (.psync p n) → m ∉ q.members → Raises (.psync p n) s x 0x30 0) ∧
    (∀ i ∈ [Instr.pjoin p n, .pleave p n, .pexpect p n b, .parrive p n, .pwait p n, .psync p n], Executes i s x →
      (∀ kind, (begun i s x).penRef x.g n.toNat = .inr kind → Raises i s x kind 0) ∧
      (x.g.packed = true → (begun i s x).penRef x.g n.toNat = .inr 0x30) ∧
      ∀ (w g : Nat) (l : Launch), x.g.packed = false → x.g.wg = some w → x.g.gang = some g → Table.find s.launches x.g.launch = some l →
        (begun i s x).penRef x.g n.toNat =
          if n.toNat < 32 ∧ n.toNat < l.lrec.pens then .inl (.wg w n.toNat)
          else if 32 ≤ n.toNat ∧ n.toNat < 40 ∧ n.toNat - 32 < l.lrec.gpens then .inl (.gang g (n.toNat - 32))
          else if n.toNat = 63 then (if l.lrec.cores = true then .inl (.grid x.g.launch) else .inr 0x32)
          else .inr 0x30) ∧
    (∀ (y stamp : Nat) (live : Mask), (∀ h ∈ q.half, h.1 ≠ y) → y ∉ q.arrived →
      let q' := q.arriveLanes y live live stamp
      (q.a + 1 < q.expected → q' = { q with arrived := q.arrived ++ [y], a := q.a + 1, stamp := max q.stamp stamp }) ∧
      (q.expected ≤ q.a + 1 → q.later = [] → q'.phase = !q.phase ∧ q'.count = q.count + 1 ∧ q'.a = 0 ∧ q'.e = 0 ∧ q'.c = q.c ∧
        q'.arrived = [] ∧ q'.joining = [] ∧ q'.leaving = [] ∧ q'.stampOf (q.count + 1) = max q.stamp stamp ∧
        ∀ z, z ∈ q'.members ↔ (z ∈ q.members ∨ z ∈ q.joining) ∧ z ∉ q.leaving))

/-- Stage rings (R60, R61, R343) and `TSIG` (R344). -/
def Obligations.RingsAndTokens : Prop :=
  ∀ (p : Pre) (d : SReg) (i : BitVec 4) (a b : SI) (s : State) (x : X) (w : Nat) (r : Ring),
    let on := fun (I : Instr) => Executes I s x ∧ x.g.wg = some w ∧ s.ring? w i.toNat = some r
    let v := (SIval x.g b).toNat
    let quiet := fun (I : Instr) (sc : Scope) => (begun I s x).owedTo x.g sc = false
    let takes := fun (I : Instr) (k : Nat) (r' : Ring) => ∃ (g : Group) (wt : Wait),
      Completes I s x (((begun I s x).setRing w i.toNat r').modGroup x.k fun _ => g) (x.f.pc + 12) wt ∧
      (∀ y, g.sget y = if y = d.toNat then BitVec.ofNat 32 k else x.g.sget y) ∧
      g.horizon = (if r.stamps.getD k 0 ≤ x.g.horizon.toNat then x.g.horizon else BitVec.ofNat 64 (r.stamps.getD k 0)) ∧
      { g with sregs := x.g.sregs, horizon := x.g.horizon } = x.g ∧ wt = if s.now < g.horizon.toNat then .horizon else .none
    let waits := fun (I : Instr) (take : Bool) => Waits I s x (.ring i.toNat take)
    let sets := fun (I : Instr) (r' : Ring) => Completes I s x ((begun I s x).setRing w i.toNat r') (x.f.pc + 12) .none
    (on (.racq p d i) → r.slot r.prod = .free → takes (.racq p d i) r.prod
      { r with slots := r.slots.set r.prod .held, prod := (r.prod + 1) % r.slots.length }) ∧
    (on (.racq p d i) → r.slot r.prod ≠ .free → waits (.racq p d i) false) ∧
    (on (.rtake p d i) → r.slot r.cons = .full → takes (.rtake p d i) r.cons
      { r with slots := r.slots.set r.cons .taken, cons := (r.cons + 1) % r.slots.length }) ∧
    (on (.rtake p d i) → r.slot r.cons ≠ .full → waits (.rtake p d i) true) ∧
    (on (.rpub p i b) → v < r.slots.length → r.slot v = .held → v ∉ r.early → quiet (.rpub p i b) .wg →
      (r.slot ((v + r.slots.length - 1) % r.slots.length) ≠ .held ∨ v = r.prod → sets (.rpub p i b)
        { r with slots := r.slots.set v .full, phase := r.phase.set v (!r.phase.getD v false), stamps := r.stamps.set v (s.now + 32) }) ∧
      (r.slot ((v + r.slots.length - 1) % r.slots.length) = .held → v ≠ r.prod → sets (.rpub p i b)
        { r with early := r.early ++ [v], stamps := r.stamps.set v (s.now + 32) })) ∧
    (on (.rfree p i b) → v < r.slots.length → r.slot v = .taken → quiet (.rfree p i b) .wg →
      sets (.rfree p i b) { r with slots := r.slots.set v .free, stamps := r.stamps.set v (s.now + 32) }) ∧
    (on (.rpub p i b) → (r.slots.length ≤ v ∨ r.slot v ≠ .held ∨ v ∈ r.early) → Raises (.rpub p i b) s x 0x33 0) ∧
    (on (.rfree p i b) → (r.slots.length ≤ v ∨ r.slot v ≠ .taken) → Raises (.rfree p i b) s x 0x33 0) ∧
    (∀ I ∈ [Instr.racq p d i, .rtake p d i, .rpub p i b, .rfree p i b], Executes I s x →
      (x.g.wg = none ∨ ∃ y, x.g.wg = some y ∧ s.ring? y i.toNat = none) → Raises I s x 0x33 0) ∧
    (let T : Instr := .tsig p a b
     let n := (SIval x.g a).toNat
     let mine := s.ownsToken (s.ctxOf x.g.launch) n = true
     (Executes T s x → ¬ mine → Raises T s x 0x29 0) ∧
     (Executes T s x → mine → quiet T .sys → Completes T s x ((begun T s x).signal n (SIval x.g b)) (x.f.pc + 12) .none ∧
       ∀ k, ((begun T s x).signal n (SIval x.g b)).token k =
         if k = n then (if (s.token n).toNat < v then SIval x.g b else s.token n) else s.token k))

/-- The issue of a copy (R156, R346, R350, R351), by each of its instructions (R357 to R363). -/
def Obligations.CopyIssue : Prop :=
  ∀ (p : Pre) (rnd : BitVec 3) (a : SReg) (s : State) (x : X) (k : CopyKind) (i : Instr) (mode : BitVec 3) (rng : Word),
    ((i, k) ∈ [(Instr.cpy p a, CopyKind.cpy), (.cpyg p a, .cpyg), (.cpys p a, .cpys), (.cpyr p a, .cpyr), (.cpyf p a, .cpyf),
        (.cpyq p a, .cpyq)] ∧ mode = 1 ∧ rng = 0) ∨
      (i = .cpyb p rnd a ∧ k = .cpyb ∧ mode = (if rnd = 0 then x.f.rmode.truncate 3 else rnd) ∧
        rng = if mode = 7 then srNext (x.g.seed (lowLane x.f.mask)) else 0) →
    Executes i s x →
    let raw := x.g.octet a.toNat
    let blk := readBlock raw
    let b := begun i s x
    let makes := fun (before : State) (status : Nat) => ∃ (t : State) (o : EngOp) (c : Copy),
      Completes i s x t (x.f.pc + 12) .none ∧ t.mem = before.mem ∧ Table.find t.ops before.serial = some o ∧
      (∀ n, n ≠ before.serial → Table.find t.ops n = Table.find before.ops n) ∧
      (o.launch = x.g.launch ∧ o.gid = x.g.gid ∧ o.cls = 0 ∧ o.done = false ∧ o.index = x.f.pc / 12 ∧ o.k = .copy c) ∧
      (c.kind = k ∧ c.blk = blk ∧ c.mode = mode ∧ c.row = 0 ∧ c.landed = 0 ∧ c.status = status ∧ c.rng = rng) ∧
      ∃ g, t.group? x.k = some g ∧ { g with srseed := x.g.srseed } = x.g ∧ ∀ l < 128,
        g.seed l = if k = .cpyb ∧ mode = 7 ∧ l = lowLane x.f.mask then (if rng = 0 then 1 else rng) else x.g.seed l
    (b.blockOk x.g k raw = false → Raises i s x 0x22 0) ∧
    (b.blockOk x.g k raw = true → 4096 ≤ b.count x.g 0 →
      Again i s x) ∧
    (b.blockOk x.g k raw = true → b.count x.g 0 < 4096 →
      (∀ t e, b.engTranslate x.core (b.ctxOf x.g.launch) blk.recAddr false = .bad t e → makes t e.status) ∧
      (∀ t m, b.engTranslate x.core (b.ctxOf x.g.launch) blk.recAddr false = .wait t m → ∃ pte,
        exec i s = .next (t.modFrag x.k x.en fun f => { f with wait := .leaf pte })) ∧
      ∀ t pa cls, b.engTranslate x.core (b.ctxOf x.g.launch) blk.recAddr false = .ok t (pa, cls) → t.lineBusy (pa / 128) = false →
        let q := t.homeRead (pa / 128) (BitVec.allOnes 32) cls t.hostWho (fun _ => 0) (some (b.ctxOf x.g.launch))
        let lost := q.abort.isSome = true
        let record := readRecord ((List.range 128).map fun j => q.s.homeByte (pa + j))
        (lost → makes q.s 8) ∧ (¬ lost → record = none → makes q.s 1) ∧
        ∀ r, ¬ lost → record = some r →
          (recStatus k blk r ≠ 0 → makes q.s (recStatus k blk r)) ∧
          (recStatus k blk r = 0 → q.s.destOf x.g k blk r = none → makes q.s 5) ∧
          ∀ ws tgt regs, recStatus k blk r = 0 → q.s.destOf x.g k blk r = some (ws, tgt, regs) → makes q.s 0 ∧
            (k ≠ .cpys → ∃ (t : State), exec i s = .next (t.move x.k x.en (x.f.pc + 12) .none) ∧ ∀ w ∈ ws, ∀ (y : Workgroup), Table.find q.s.wgs w = some y →
              ∃ (y' : Workgroup), Table.find t.wgs w = some y' ∧ y'.bytes = y.bytes ∧ ∀ n ∈ destLines k blk r, ∃ l, y'.line n = Line.pending l ∧ q.s.serial ∈ l) ∧
            (blk.dkind = 2 → zeroTile k blk r = false → ∃ (t : State), exec i s = .next (t.move x.k x.en (x.f.pc + 12) .none) ∧
              t.seals = (q.s.addCopies (q.s.issueSeals x.core (b.ctxOf x.g.launch) k blk r)).seals))

/-- `SCBIND`, `SCDROP`, `MZERO` and `KREL` (R365, R366, R369). That `SCBIND` and `SCDROP` wait while an earlier pass uses the id, and that
`SCBIND` of an address in a leaf from the pool binds it, are the model's reading (log 74). -/
def Obligations.MatrixState : Prop :=
  ∀ (p : Pre) (tid acc : BitVec 6) (k : BitVec 3) (a : SReg) (s : State) (x : X) (i : Instr) (u : Use),
    let b := begun i s x
    let m := b.mat x.core (partOf x.k)
    let va := x.g.sget2 a.toNat
    let tr := b.translate x.core (b.ctxOf x.g.launch) va.toNat
    let bind : Instr := .scbind p tid a
    let drop : Instr := .scdrop p tid
    let zero : Instr := .mzero p acc
    let rel : Instr := .krel p k
    let gone := m.slotsAt k.toNat
    let makes := fun (t : State) (claim : Mat → Prop) => ∃ m' : Mat,
      Completes i s x (t.setMat x.core (partOf x.k) m') (x.f.pc + 12) .none ∧ claim m'
    let others := m.cache.filter fun c => c.1 / 512 != tid.toNat
    Executes i s x →
    (i, u) ∈ [(bind, ⟨[], [], [], some tid.toNat⟩), (drop, ⟨[], [], [], some tid.toNat⟩), (zero, Use.of [acc.toNat] [] []),
      (rel, Use.of [] (k.toNat :: gone.flatMap fun n => [n, n + 1]) [])] →
    (b.matBusy x u = true → Again i s x) ∧
    (b.matBusy x u = false →
      (i = bind → 2 ^ 57 ≤ va.toNat → Takes i s x ⟨0x10, 0, va, x.f.mask, 0, none⟩) ∧
      (i = bind → va.toNat < 2 ^ 57 → tr = .fault → Takes i s x ⟨0x12, 0, va, x.f.mask, 0, none⟩) ∧
      (i = bind → va.toNat < 2 ^ 57 → tr ≠ .fault → makes b fun m' =>
        (∀ n, Table.find m'.binds n = if n = tid.toNat then some va.toNat else Table.find m.binds n) ∧
        m'.cache = others ∧ { m' with binds := m.binds, cache := m.cache } = m) ∧
      (i = drop → makes b fun m' =>
        (∀ n, Table.find m'.binds n = if n = tid.toNat then none else Table.find m.binds n) ∧
        m'.cache = others ∧ { m' with binds := m.binds, cache := m.cache } = m) ∧
      (i = zero → makes (b.mendAll (Store.ofAcc (4 * x.core + partOf x.k) acc.toNat)) fun m' =>
        (∀ n, Table.get 0 m'.acc n = if n / 1024 = acc.toNat then 0 else Table.get 0 m.acc n) ∧ { m' with acc := m.acc } = m) ∧
      (i = rel → makes (b.releaseSeals ((m.kiln.filter fun c => gone.contains c.1).flatMap fun c => c.2.seals)) fun m' =>
        (∀ n, Table.find m'.kiln n = if n ∈ gone then none else Table.find m.kiln n) ∧
        (∀ n, n ∈ gone ↔ ∃ slot, (n, slot) ∈ m.kiln ∧ (n = k.toNat ∨ (isHalf slot.fmt = true ∧ n + 1 = k.toNat))) ∧
        { m' with kiln := m.kiln } = m))

/-- The issue of matrix work (R196, R365, R367, R370 to R375, R383). The 16 clk from the end of a pass in the array to its result
are the model's (R13 gives the sum for one format), and its reading are the lanes of a failing octet (log 11), the place of the second
block of a 16-bit `KSET` (log 75) and that a drain advances `%srseed` by 1,024 as it issues (log 76). -/
def Obligations.MatrixIssue : Prop :=
  ∀ (p : Pre) (fm : Fmt) (mf : MFmt) (k : BitVec 3) (a c : SReg) (add sat sp pub sparse : Bool) (e : Ext) (rnd : BitVec 3)
    (acc tid : BitVec 6) (va : VReg) (km1 : BitVec 7) (ring : BitVec 4) (mo : MemOp) (s : State) (x : X),
    let kset : Instr := .kset p fm k a c
    let mma : Instr := if sparse then .mmasp p e sat rnd acc tid va k km1 else .mma p e sat rnd acc tid va k km1
    let drain : Instr := .mdrain p add mf rnd acc sp pub ring mo
    let load : Instr := .mload p mf acc sp mo
    let mode : BitVec 3 := if rnd = 0 then x.f.rmode.truncate 3 else rnd
    let starts := fun (i : Instr) (t : State) (cls : Nat) (l : List OpKind) => let b := begun i s x
      (∀ j o, l[j]? = some o → Table.find t.ops (b.serial + j) =
        some ⟨x.k, x.g.launch, x.g.gid, x.g.wg, x.g.gang, x.core, partOf x.k, cls, x.f.pc / 12, false, 0, 0, 0, o⟩) ∧
      (∀ n, n < b.serial ∨ b.serial + l.length ≤ n → Table.find t.ops n = Table.find b.ops n)
    let issues := fun (i : Instr) (cls : Nat) (l : List OpKind) => ∃ t : State,
      Completes i s x t (x.f.pc + 12) .none ∧ starts i t cls l ∧ { t with ops := (begun i s x).ops, serial := (begun i s x).serial } = begun i s x
    let size := fun (t : State) => ((x.g.wg.bind (Table.find t.wgs)).map fun (w : Workgroup) => w.size).getD 0
    let ea := (x.g.sget a.toNat).toNat
    let sb := (x.g.sget c.toNat).toNat
    let K := km1.toNat + 1
    let bytes := 1024 * tileBytes mf
    let at_ := memAddr mo x.g sp 16 (lowLane x.f.mask)
    let tgt := if sp then x.g.wg else none
    (Executes kset s x → let b := begun kset s x
      (b.matBusy x (Use.of [] (slotKeys fm k.toNat) []) = true → Again kset s x) ∧
      (b.matBusy x (Use.of [] (slotKeys fm k.toNat) []) = false →
        let odd := isHalf fm = true ∧ k.toNat % 2 = 1
        let off := ea % 128 ≠ 0 ∨ size b < ea + ksetBytes fm
        let offS := sb % 128 ≠ 0 ∨ (scaled fm = true ∧ size b < sb + 512)
        (odd → Raises kset s x 0x24 0) ∧
        (¬ odd → off → Takes kset s x ⟨0x14, 0, BitVec.ofNat 64 ea, x.f.mask, 0, none⟩) ∧
        (¬ odd → ¬ off → offS → Takes kset s x ⟨0x14, 0, BitVec.ofNat 64 sb, x.f.mask, 0, none⟩) ∧
        (¬ odd → ¬ off → ¬ offS → 4096 ≤ b.count x.g 1 → Again kset s x) ∧
        (¬ odd → ¬ off → ¬ offS → b.count x.g 1 < 4096 → issues kset 1 [.kset k.toNat fm ea sb]))) ∧
    (Executes mma s x → let b := begun mma s x
      let m := b.mat x.core (partOf x.k)
      let afmt := x.f.fmt.toNat % 8
      let row := fun (l : Nat) => (blockRegs e va.toNat).map fun r => x.g.vget r l
      let badLane := fun (l : Nat) => 63 < acc.toNat + l / 8 ∨ (sparse = true ∧ ∃ f, aFmt afmt = some f ∧ metaOk f (row l) = false)
      let formOk := ∃ f slot, aFmt afmt = some f ∧ Table.find m.kiln k.toNat = some slot ∧ combines f slot.fmt = true ∧
        needPos sparse f K ≤ extSize e ∧ (sat = true → f = .i8) ∧ (scaled f = true → Table.find m.binds tid.toNat ≠ none) ∧ mode ≠ 7
      let clk := (if 4 ≤ afmt then 32 else if afmt = 3 then 12 else 8) / (if sparse then 2 else 1)
      (b.matBusy x (mmaUse x acc.toNat k.toNat) = true ∨ s.clk < m.next → Again mma s x) ∧
      (b.matBusy x (mmaUse x acc.toNat k.toNat) = false → m.next ≤ s.clk →
        (¬ formOk → Takes mma s x (Event.plain 0x24 0 x.lanes)) ∧
        (formOk → (∃ l < 128, x.lanes.getLsbD l = true ∧ badLane l) → ∃ bad : Mask, Takes mma s x (Event.plain 0x24 0 bad) ∧
          ∀ l < 128, bad.getLsbD l = true ↔ x.lanes.getLsbD l = true ∧ badLane l) ∧
        (formOk → (∀ l < 128, x.lanes.getLsbD l = true → ¬ badLane l) →
          ∃ t : State, Completes mma s x (t.setMat x.core (partOf x.k) { m with next := s.clk + clk * (octets x.lanes).length })
              (x.f.pc + 12) .none ∧ { t with ops := b.ops, serial := b.serial } = b ∧
            starts mma t 5 (((octets x.lanes).zip (List.range (octets x.lanes).length)).map fun o => .pass ⟨acc.toNat + o.1, o.1, k.toNat, K, afmt,
              (List.range 8).map fun j => row (8 * o.1 + j), (List.range 8).map fun j => x.lanes.getLsbD (8 * o.1 + j),
              tid.toNat, sat, mode, sparse, s.clk + clk * (o.2 + 1) + 16⟩)))) ∧
    (Executes load s x → let b := begun load s x
      (b.matBusy x (Use.of [acc.toNat] [] []) = true → Again load s x) ∧
      (b.matBusy x (Use.of [acc.toNat] [] []) = false →
        (∀ ev, b.tileFault x sp false at_ bytes = some ev → Takes load s x ev) ∧
        (b.tileFault x sp false at_ bytes = none → 4096 ≤ b.count x.g 1 → Again load s x) ∧
        (b.tileFault x sp false at_ bytes = none → b.count x.g 1 < 4096 →
          issues load 1 [.load ⟨acc.toNat, mf, false, tgt, at_.toNat, 1, 0, none, lowLane x.f.mask⟩]))) ∧
    (Executes drain s x → let b := begun drain s x
      let slot := if sp ∧ 0 ≤ at_ then (x.g.wg.bind fun w => b.ring? w ring.toNat).bind fun r => r.heldAt at_.toNat bytes else none
      let seed := x.g.seed (lowLane x.f.mask)
      (b.matBusy x (Use.of [acc.toNat] [] []) = true → Again drain s x) ∧
      (b.matBusy x (Use.of [acc.toNat] [] []) = false →
        (pub = true → slot = none → Raises drain s x 0x33 0) ∧
        ((pub = true → slot ≠ none) →
          (∀ ev, b.tileFault x sp true at_ bytes = some ev → Takes drain s x ev) ∧
          (b.tileFault x sp true at_ bytes = none → 4096 ≤ b.count x.g 1 → Again drain s x) ∧
          (b.tileFault x sp true at_ bytes = none → b.count x.g 1 < 4096 → ∃ (t : State) (g : Group),
            Completes drain s x t (x.f.pc + 12) .none ∧ t.mem = b.mem ∧
            starts drain t 1 [.drain ⟨acc.toNat, mf, add, tgt, at_.toNat, mode, seed,
              if pub then slot.map fun j => (ring.toNat, j) else none, lowLane x.f.mask⟩] ∧
            t.group? x.k = some g ∧ { g with srseed := x.g.srseed } = x.g ∧
            (∀ l < 128, g.seed l = if mode = 7 ∧ l = lowLane x.f.mask then
              (let v := srAfter 1024 seed; if v = 0 then 1 else v) else x.g.seed l) ∧
            ∀ w, tgt = some w → ∀ (y : Workgroup), Table.find b.wgs w = some y → ∃ (y' : Workgroup), Table.find t.wgs w = some y' ∧
              y'.bytes = y.bytes ∧ ∀ n ∈ rowLines at_.toNat 0 bytes 1, ∃ l, y'.line n = Line.pending l ∧ b.serial ∈ l))))

/-- The iteration walker (R376 to R380). -/
def Obligations.Walker : Prop :=
  ∀ (p : Pre) (a : SReg) (d : VReg) (q : PReg) (m : MemOp) (s : State) (x : X) (w : Walk),
    let set : Instr := .itset p a
    let resq : Instr := .resq p q m
    let nxt : Instr := .itnext p d
    let don : Instr := .itdone p d
    let end_ : Instr := .itend p
    (Executes set s x → (x.g.walk ≠ none ∨ walkBad (x.g.octet a.toNat) = true → Raises set s x 0x25 0) ∧
      (x.g.walk = none → walkBad (x.g.octet a.toNat) = false → Yields set s x { x.g with walk := some (walkOf (x.g.octet a.toNat)) })) ∧
    (Executes resq s x → let b := begun resq s x
      WritesPred resq s x q fun l => b.residentAt x.core (b.ctxOf x.g.launch) (memAddr m x.g false 4 l)) ∧
    (x.g.walk = none → (Executes nxt s x → Takes nxt s x (Event.plain 0x25 0 x.lanes)) ∧
      (Executes don s x → Takes don s x (Event.plain 0x25 0 x.lanes)) ∧ (Executes end_ s x → Raises end_ s x 0x25 0)) ∧
    (x.g.walk = some w → Executes end_ s x →
      ((begun end_ s x).count x.g 2 = 0 → Yields end_ s x { x.g with walk := none }) ∧
      ((begun end_ s x).count x.g 2 ≠ 0 → Waits end_ s x .itend)) ∧
    (x.g.walk = some w → Executes nxt s x → ∀ rs : List Res,
      let b := begun nxt s x
      let asks : List Ask := w.window.map fun i => ⟨lowLane x.f.mask, i, w.list + 4 * i, 4, false⟩
      (∀ a ∈ asks, a.addr < 2 ^ 57) → b.translateAll x false asks = .ok rs → (∀ r ∈ rs, b.lineBusy (r.pa / 128) = false) →
      let c := b.prepAll (fun t l cl k => t.homeRead l k cl (x.walker b) (fun _ => 0xF) (some (b.ctxOf x.g.launch))) (linesOf rs)
      c.abort = none →
      let vals : Table Word := rs.map fun r => (r.pos, c.s.homeWord r.pa)
      let sights := c.s.sights x w vals
      let asked := c.s.scanPrefetch x w vals sights.2.2
      let r := asked.2.1.scanned (lanesOf x.lanes).length sights
      (asked.2.2 = false → ∃ t : State, exec nxt s = .next (t.modFrag x.k x.en fun f => { f with since := s.clk + 1 })) ∧
      (asked.2.2 = true → ∃ f : Group → Group, Completes nxt s x (asked.1.modGroup x.k f) (x.f.pc + 12) .none ∧ ∀ (y : Group),
        (f y).walk = some r.1 ∧ { f y with vregs := y.vregs, walk := y.walk } = y ∧
        (∀ (j l : Nat), (lanesOf x.lanes)[j]? = some l → (f y).vget d.toNat l =
          match r.2[j]? with
          | some i => BitVec.ofNat 32 i
          | none => if r.1.handed.length = w.n then 0xFFFFFFFF else 0xFFFFFFFE) ∧
        ∀ v, ∀ l < 128, (v ≠ d.toNat ∨ x.lanes.getLsbD l = false) → (f y).vget v l = y.vget v l) ∧
      asked.1.requests x.core ≤ max (c.s.requests x.core) 4096 ∧
      r.1.handed = w.handed ++ r.2 ∧ r.2.length ≤ (lanesOf x.lanes).length ∧
      ∀ i ∈ r.2, i < w.n ∧ i ∉ w.handed ∧ (w.bound ≤ Table.get 0 w.passes i ∨
        ∀ o ∈ w.operand (Table.get 0 vals i), c.s.residentAt x.core (c.s.ctxOf x.g.launch) (o : Int) = true)) ∧
    (x.g.walk = some w → Executes don s x → ∀ (rs : List Res) (points : List Nat),
      let b := begun don s x
      let named := ((lanesOf x.lanes).map fun l => (l, (x.g.vget d.toNat l).toNat)).filter fun c => c.2 != 0xFFFFFFFE && c.2 != 0xFFFFFFFF
      let bad := named.filter fun c => !w.handed.contains c.2 || w.done.contains c.2
      points = (named.map (·.2)).dedup →
      (bad ≠ [] → Takes don s x (Event.plain 0x25 0 (maskOf (bad.map (·.1))))) ∧
      (bad = [] → w.map = 0 → Yields don s x { x.g with walk := some { w with done := w.done ++ points } }) ∧
      (bad = [] → w.map ≠ 0 →
        b.resolve x false (.red .or) false (named.map fun c => ⟨c.1, c.2, w.map + 4 * (c.2 / 32), 4, false⟩) = .ok rs →
        (4096 < b.count x.g 2 + points.length → Again don s x) ∧
        (b.count x.g 2 + points.length ≤ 4096 → ∃ t : State,
          Completes don s x (t.modGroup x.k fun g => { g with walk := some { w with done := w.done ++ points } }) (x.f.pc + 12) .none ∧
          { t with ops := b.ops, serial := b.serial } = b ∧
          ∀ i ∈ points, ∀ r ∈ rs, r.pos = i → ∃ r' ∈ rs, r'.pos = i ∧ ∃ n o, Table.find t.ops n = some o ∧ b.serial ≤ n ∧
            o.cls = 2 ∧ o.gid = x.g.gid ∧ o.done = false ∧ o.k = .mapbit r'.pa (i % 32) r'.va)))

/-- Spawned items (R68, R69, R381, R382). -/
def Obligations.Spawning : Prop :=
  ∀ (p : Pre) (a : VReg) (c : SI) (s : State) (x : X) (k en core launch pc : Nat) (g : Group) (f : Frag) (v : VReg) (target : Nat) (lanes : Mask),
    let sp : Instr := .spawn p a c
    let spq : Instr := .spq p
    let tgt := (SIval x.g c).toNat
    let appends := fun (b t : State) (co : Nat) (g : Group) (v target : Nat) (lanes : Mask) =>
      { t with cores := b.cores } = b ∧ (∀ n, n ≠ co → t.core n = b.core n) ∧
      (t.core co).start = (b.core co).start.filter (· != ⟨g.launch, 12 * target⟩) ∧
      { t.core co with items := (b.core co).items, start := (b.core co).start } = b.core co ∧
      (t.core co).items = (b.core co).items ++ (lanesOf lanes).map fun l =>
        (⟨g.launch, g.gang, 12 * target, (List.range 8).map fun j => g.vget (v + j) l, b.clk, b.stampNow⟩ : Item)
    (Executes sp s x → let b := begun sp s x
      let may := ∃ l, Table.find s.launches x.g.launch = some l ∧ l.lrec.spawn ≠ 0
      (¬ may → Takes sp s x (Event.plain 0x26 0 x.lanes)) ∧
      (may → b.owedTo x.g .dev = true → Again sp s x) ∧
      (may → b.owedTo x.g .dev = false → (b.core x.core).items.length + (lanesOf x.lanes).length ≤ 1024 → ∃ t : State,
        Completes sp s x t (x.f.pc + 12) .none ∧ appends b t x.core x.g a.toNat tgt x.lanes) ∧
      (may → b.owedTo x.g .dev = false → 1024 < (b.core x.core).items.length + (lanesOf x.lanes).length →
        Waits sp s x (.room a tgt x.lanes))) ∧
    (s.group? k = some g → g.frag en = some f → g.eligible f = true → f.wait = .room v target lanes →
      (s.core (coreOf k)).items.length + (lanesOf lanes).length ≤ 1024 → ∃ t : State,
        exec (.spawnRoom k en) s = .next (t.move k en (f.pc + 12) .none) ∧ appends s t (coreOf k) g v.toNat target lanes) ∧
    (Executes spq s x → let b := begun spq s x
      ((∀ i ∈ (b.core x.core).items, i.launch ≠ x.g.launch) → Completes spq s x b (x.f.pc + 12) .none) ∧
      ((∃ i ∈ (b.core x.core).items, i.launch = x.g.launch) → Waits spq s x .spq)) ∧
    (s.group? k = some g → g.frag en = some f → g.eligible f = true → f.wait = .spq → (∀ i ∈ (s.core (coreOf k)).items, i.launch ≠ g.launch) →
      exec (.spqQueueEmpty k en) s = .next (s.move k en (f.pc + 12) .none)) ∧
    (let mine := (s.core core).items.filter fun i => i.launch == launch && i.pc == pc;
      (mine ≠ [] → (∀ i ∈ mine, i.clk + 2048 ≤ s.clk) → (s.core core).start.contains ⟨launch, pc⟩ = false →
        exec (.packingTimeout core launch pc) s =
          .next (s.setCore core { s.core core with start := (s.core core).start ++ [⟨launch, pc⟩] })) ∧
      ((∃ i ∈ mine, s.clk < i.clk + 2048) → exec (.packingTimeout core launch pc) s = .next s))

/-- `SEALSAVE` and `SEALLOAD` (R213, R214, R276 to R279, R285). The order of the checks is the model's choice (logs 48, 78). -/
def Obligations.SealedImages : Prop :=
  ∀ (p : Pre) (rg : BitVec 8) (a c : SReg) (s : State) (x : X) (rs : List Res) (d : Desc) (co : Ctx),
    let save : Instr := .sealsave p rg a c
    let load : Instr := .sealload p rg a c
    let va := (x.g.sget2 a.toNat).toNat
    let last := Table.get 0 co.latest rg.toNat
    let ctx := fun (i : Instr) => (begun i s x).ctxOf x.g.launch
    let desc := fun (i : Instr) => (begun i s x).descOf x.g c.toNat
    let here := fun (i : Instr) => Executes i s x ∧ desc i = some d ∧ Table.find (begun i s x).ctxs (ctx i) = some co
    let passes := fun (i : Instr) (md : Mode) => here i ∧ va % 128 = 0 ∧ co.prot = true ∧ (begun i s x).descHeld x d = false ∧
      (begun i s x).resolve x true md false (imageAsks x va (64 + d.length)) = .ok rs
    (∀ i ∈ [save, load], (Executes i s x → desc i = none → Raises i s x 0x09 0) ∧
      (here i → va % 128 ≠ 0 → Raises i s x 0x09 0) ∧
      (here i → va % 128 = 0 → co.prot = false → Raises i s x 0x27 0) ∧
      (here i → va % 128 = 0 → co.prot = true → last = 2 ^ 64 - 1 → Raises i s x 0x09 0) ∧
      (here i → va % 128 = 0 → co.prot = true → last ≠ 2 ^ 64 - 1 → (begun i s x).descHeld x d = true → Again i s x)) ∧
    (passes save .write → last ≠ 2 ^ 64 - 1 → let b := begun save s x
      (d.lines = [] ∨ ∃ ss, b.spadResolve x true ownSpad (d.lines.map fun (n : Nat) => ⟨lowLane x.f.mask, 128 * n, 4⟩) = .ok ss) →
      let c := (b.readDesc x d).1.readUnder x rs
      let q := sortOut ((c.fetchFor x.core (rs.filter fun r => r.size < 4)).mergeAll rs) (fun t a w => t.storeBad x.core a w) rs
      let hint : BitVec 2 := if wholeLine rs && rs.all fun a => a.cls == .dc then 3 else 0
      let u := (q.s.prepAll (State.prepWrite x.core hint) (linesOf q.ok)).s
      let hit := fun (a : Res) => u.clashOf x.core (x.who u true a.lane .none) (x.kind true a.lane .none) true a
      let ok := q.ok.filter fun a => (hit a).isNone
      let img := sealImage co.key (ctx save) rg.toNat (last + 1) (b.payload x.g d)
      let val := fun (r : Res) => BitVec.ofNat 64 (leNat ((img.drop (4 * r.pos)).take 4))
      (b.readDesc x d).2.1 = 0 → failed x true (c.permitted .write false rs) Res.at rs = none →
      ∃ ws : List Put, Puts ok val ws ∧
        let t := ws.foldl (fun t w => t.storeWord x.core hint (x.writers u true .none (ok.flatMap fun a => a.puts (val a)) w.pa) w) u
        Ends save s x true t q.bad (q.ok.filterMap hit) (Completes save s x
          (t.modCtx (ctx save) fun c => { c with latest := Table.put 0 c.latest rg.toNat (last + 1) }) (x.f.pc + 12) .none)) ∧
    (passes load .read → last ≠ 2 ^ 64 - 1 → let b := begun load s x
      b.pendingLine x.g d.lines = none →
      let whole := wholeLine rs
      let reader := if whole then homeReader else x.core
      let q := sortOut (((b.readFor x rs).fetchFor x.core rs).mergeAll rs) (fun t _ w => t.badAt reader w) rs
      let v := (q.s.prepAll (State.prepRead x.core 0 whole) (linesOf q.ok)).s
      q.bad = [] → (∀ r ∈ rs, v.clashOf x.core (x.reader v true .none r) (x.kind true r.lane .none) false r = none) →
      let opened := openImage co.key (ctx load) rg.toNat last d.length (rs.flatMap fun r => leBytes 4 (v.wordAt reader r.pa).toNat)
      ∃ (u : State) (y : Group), u.mem = v.mem ∧ u.group? x.k = some y ∧
        { y with fflags := x.g.fflags, horizon := x.g.horizon, seen := x.g.seen } = x.g ∧
        (opened = none → exec load s = .next (u.takeEvent x.k x.en (Event.plain 0x28 0 x.f.mask))) ∧
        ∀ pl, opened = some pl →
          let t := (u.mendDesc x d).restore x.k y d pl
          let word := fun (n : Nat) => BitVec.ofNat 32 (leNat ((pl.drop (4 * n)).take 4))
          Completes load s x t (x.f.pc + 12) .none ∧
          (d.kind = 0 → ∃ g, t.group? x.k = some g ∧ { g with vregs := y.vregs } = y ∧ ∀ r, ∀ l < 128,
            g.vget r l = if d.first ≤ r ∧ r < d.first + d.count then word (128 * (r - d.first) + l) else y.vget r l) ∧
          (d.kind = 1 → ∀ w (z : Workgroup), y.wg = some w → Table.find u.wgs w = some z → ∃ z' : Workgroup, Table.find t.wgs w = some z' ∧
            (∀ n, z'.line n = if n ∈ d.lines then Line.full else z.line n) ∧
            ∀ n, z'.bytes.byte n = if d.first ≤ n ∧ n < d.first + pl.length then pl.getD (n - d.first) 0 else z.bytes.byte n) ∧
          (d.kind = 2 → ∃ g, t.group? x.k = some g ∧ { g with sregs := y.sregs, pregs := y.pregs } = y ∧
            (∀ n, g.sget n = if n < 128 then word n else y.sget n) ∧
            ∀ n, g.pmask n = if n < y.npreds then BitVec.ofNat 128 (leNat ((pl.drop (512 + 16 * n)).take 16)) else y.pmask n))

/-- `PTEW`, `POOLGET` and `FLTINFO` (R137, R140, R282 to R284, R434). -/
def Obligations.PagesAndPools : Prop :=
  ∀ (p : Pre) (a c d : SReg) (s : State) (x : X),
    let ptew : Instr := .ptew p a c
    let pool : Instr := .poolget p d
    let info : Instr := .fltinfo p d
    let va := x.g.sget2 a.toNat
    let e := x.g.sget2 c.toNat
    (Executes ptew s x → let b := begun ptew s x
      let ctx := b.ctxOf x.g.launch
      (2 ^ 57 ≤ va.toNat ∨ b.walk ctx va.toNat = .bad → Takes ptew s x ⟨0x12, 0, va, x.f.mask, 0, none⟩) ∧
      ∀ pte lv old, va.toNat < 2 ^ 57 → b.walk ctx va.toNat = .leaf pte lv old →
        (leafForm e lv = false → Raises ptew s x 0x09 0) ∧
        (leafForm e lv = true → b.owedTo x.g .dev = true → Again ptew s x) ∧
        (leafForm e lv = true → b.owedTo x.g .dev = false → pte % 4 = 0 → ∃ t : State, Completes ptew s x t (x.f.pc + 12) .none ∧
          t.mem.dword pte = e ∧ Table.get 0 t.leafRel pte = s.now + 32 ∧ (∀ y, (y < pte ∨ pte + 8 ≤ y) → t.mem.byte y = b.mem.byte y) ∧
          (∀ core, ∀ h ∈ (t.core core).tlb ++ Table.get [] t.ctlb (clusterOf core),
            ¬ (h.ctx = ctx ∧ h.va / 2 ^ levelBits lv = va.toNat / 2 ^ levelBits lv)) ∧
          ∀ k g en f, t.group? k = some g → g.frag en = some f → f.wait ≠ .leaf pte)) ∧
    (Executes pool s x → let b := begun pool s x
      let ctx := b.ctxOf x.g.launch
      let size := x.g.poolSize
      (∀ (y : Ctx) n r, Table.find b.ctxs ctx = some y → y.pool size = n :: r → ∃ t : State,
        Completes pool s x (t.modGroup x.k fun g => g.sset2 d.toNat (BitVec.ofNat 64 n)) (x.f.pc + 12) .none ∧
        t.groups = b.groups ∧ (∀ k, Table.find t.ctxs k = if k = ctx then some (y.setPool size r) else Table.find b.ctxs k) ∧
        ∀ z, t.mem.byte z = if n ≤ z ∧ z < n + sizeBytes size then 0 else b.mem.byte z) ∧
      ((∀ y, Table.find b.ctxs ctx = some y → y.pool size = []) →
        let r : Record := ⟨true, 0x1C, 0, BitVec.ofNat 32 (x.f.pc / 12), 0⟩
        exec pool s = .next (((((b.modGroup x.k fun g => { g with record := r }).reportFault x.k x.g r 2 0 x.f.mask).modCtx ctx
          fun y => { y with poolq := y.poolq ++ [(x.k, x.en, size, d.toNat)] })).modFrag x.k x.en fun f => { f with wait := .pool size }))) ∧
    (Executes info s x → ∃ g : Group, Yields info s x g ∧ { g with sregs := x.g.sregs } = x.g ∧
      let r := x.g.record
      (∀ n, (n < d.toNat ∨ d.toNat + 4 ≤ n) → g.sget n = x.g.sget n) ∧
      ((g.sget d.toNat).setWidth 16 = r.kind ∧ ((g.sget d.toNat) >>> 16).setWidth 8 = r.code ∧ (g.sget d.toNat).getLsbD 31 = r.valid ∧
        ∀ j < 31, 24 ≤ j → (g.sget d.toNat).getLsbD j = false) ∧
      g.sget (d.toNat + 1) = r.index ∧ g.sget (d.toNat + 2) = r.addr.setWidth 32 ∧ g.sget (d.toNat + 3) = (r.addr >>> 32).setWidth 32)

/-- `ISSUE_SELECT`, `FRAGMENT_OVERDUE` (R195, R197) and the tick (R12, R18). The order of the rest of a step is the model's (log 4). -/
def Obligations.IssueAndTime : Prop :=
  ∀ (s : State) (core part k en : Nat) (g : Group) (f : Frag),
    let rs := s.readyOn core part
    let line := (s.core core).overdue.filter fun o => partOf o.1 == part && ((s.group? o.1).bind fun g => g.frag o.2).isSome
    (s.cur = none → s.fatal = false → rs ≠ [] → ∃ (k en : Nat) (f : Frag) (others : List (Nat × Nat)),
      exec (.issueSelect core part) s = .next { s with cur := some ⟨k, en, others⟩, scan := 4 * core + part + 1 } ∧ (k, en, f) ∈ rs ∧
      (∀ c, c ∈ others ↔ c ≠ (k, en) ∧ ∃ f, (c.1, c.2, f) ∈ rs) ∧
      (∀ o, line.head? = some o → (∃ f, (o.1, o.2, f) ∈ rs) → (k, en) = o) ∧
      ((∀ o, line.head? = some o → ∀ f, (o.1, o.2, f) ∉ rs) → ∃ before after, rs = before ++ (k, en, f) :: after ∧
        (∀ c ∈ before, f.since < c.2.2.since) ∧ ∀ c ∈ after, f.since ≤ c.2.2.since)) ∧
    (en < 128 → let t := s.unspent k en
      t.cur = none ∧ t.passes k en = 0 ∧ (∀ c, (t.core c).overdue = (s.core c).overdue) ∧ t.scan = 4 * coreOf k + partOf k ∧
      { t with cur := s.cur, scan := s.scan, cores := s.cores } = s) ∧
    (∀ c : Cur, s.cur = some c → c.en < 128 → (∀ o ∈ c.others, coreOf o.1 = coreOf c.g ∧ o.2 < 128) → c.others.Nodup →
      (c.g, c.en) ∉ c.others → let t := s.spend c.g c.en
      t.cur = none ∧ t.passes c.g c.en = 0 ∧ (c.g, c.en) ∉ (t.core (coreOf c.g)).overdue ∧
      (∀ o ∈ c.others, t.passes o.1 o.2 = s.passes o.1 o.2 + 1) ∧ { t with cur := s.cur, cores := s.cores } = s) ∧
    (s.group? k = some g → g.frag en = some f →
      (64 ≤ s.passes k en → (k, en) ∉ (s.core (coreOf k)).overdue → exec (.fragmentOverdue k en) s =
        .next (s.modCore (coreOf k) fun c => { c with overdue := c.overdue ++ [(k, en)] })) ∧
      (s.passes k en < 64 ∨ (k, en) ∈ (s.core (coreOf k)).overdue → exec (.fragmentOverdue k en) s = .next s)) ∧
    (s.agenda = [] → s.cur = none → s.due = none →
      (∀ n m, s.nextPart = some (n, m) → step s = exec (.issueSelect n m) s) ∧
      (s.nextPart = none → ∃ u t : State, step s = .next t ∧ u.clk = s.clk + 1 ∧
        (∀ n : Nat, s.tbFrac + 1000 = n * s.mhz + u.tbFrac → u.tbFrac < s.mhz → u.tb = s.tb + BitVec.ofNat 64 n) ∧
        (0 < s.mhz → u.tbFrac < s.mhz ∧ ∃ n, s.tbFrac + 1000 = n * s.mhz + u.tbFrac) ∧
        { u with clk := s.clk, tb := s.tb, tbFrac := s.tbFrac, scan := s.scan, agenda := s.agenda } = s ∧
        { t with groups := u.groups, cores := u.cores } = u ∧
        (∀ c, { t.core c with passed := (u.core c).passed } = u.core c) ∧
        ∀ k' (g' : Group) en' (f' : Frag), s.group? k' = some g' → g'.frag en' = some f' → ∃ g'' : Group, t.group? k' = some g'' ∧
          { g'' with frags := g'.frags } = g' ∧
          g''.frag en' = some (if u.ready k' en' g' f' then f' else { f' with since := max f'.since u.clk }) ∧
          (en' < 128 → t.passes k' en' = if u.ready k' en' g' f' then s.passes k' en' else 0)))

/-- The ends of waits (R60, R61, R65, R118, R121, R157, R180, R186, R200, R255, R320, R341, R436, R445, R462). That a window line is
filled by the group's copy engine as agent is the model's choice (log 46), and so are what a device does with a broken phase and whom
it tells of it (logs 15, 67) and the abort of a re-read (log 59). -/
def Obligations.WaitEnds : Prop :=
  ∀ (s : State) (k en n j wg : Nat) (g : Group) (f : Frag) (q : PenRef) (pn : Pennant) (take : Bool) (y : Workgroup) (r : Ring) (m : Monitor)
    (data : List (Nat × Byte)),
    let waits := fun (w : Wait) => s.group? k = some g ∧ g.frag en = some f ∧ g.eligible f = true ∧ f.wait = w
    let raised := fun (stamp : Nat) => if stamp ≤ g.horizon.toNat then g.horizon else BitVec.ofNat 64 stamp
    let goes := fun (t : State) (g : Group) => t.move k en (f.pc + 12) (if s.now < g.horizon.toNat then .horizon else .none)
    let again := s.modFrag k en fun f => { f with wait := .none, since := s.clk }
    let freed := fun (t : State) => ({ t with monitors := t.monitors.filter fun m => m.id != j } : State)
    let host := data.foldl (fun (t : State) d => t.setHost d.1 [d.2]) s
    let woken := fun (t : State) (rels : List Release) (out : Host.Outcome State Fault Refusal) => ∃ (t' : State) (g' : Group),
      out = .next (t'.move k en (f.pc + 12) (if t.now < g'.horizon.toNat then .horizon else .none)) ∧ t'.mem = t.mem ∧
      t'.monitors = (freed t).monitors ∧ t'.group? k = some g' ∧ ∀ y : Group, t.group? k = some y →
        let h := fun (c : Nat) => t.observed rels y.launch (m.gid * 256 + m.lane) c
        { g' with horizon := y.horizon, seen := y.seen } = y ∧
        g'.horizon = (if m.scope = .none ∨ h (scopeNo m.scope) ≤ y.horizon.toNat then y.horizon else BitVec.ofNat 64 (h (scopeNo m.scope))) ∧
        ∀ c < 7, c ≠ 0 → Table.get 0 g'.seen (m.lane * 8 + c) =
          if rels = [] then Table.get 0 y.seen (m.lane * 8 + c) else max (Table.get 0 y.seen (m.lane * 8 + c)) (h c)
    let rereads := fun (b : State) (out : Host.Outcome State Fault Refusal) =>
      let line := m.addr / 128
      let ctx := some (b.ctxOf m.launch)
      let a := b.readStores none ctx m.addr
      let r : Merged := if (a.entry line).st = .P then a.mergeLine line else ⟨a, [], none⟩
      let bad := r.abort.or ((r.s.badNewest m.addr).map fun c => (c, m.addr))
      let t := r.s.noteNewest m.addr
      let met := match m.cond with
        | some (c, v) => Holds c (t.newest m.addr) v
        | none => t.newest m.addr ≠ m.old
      let later := fun (t : State) (clk : Nat) => t.modFrag k en fun f => { f with wait := .reread j clk }
      (m.seen = true → woken b (m.sat.getD []) out) ∧
      (m.seen = false → b.lineBusy line = true → out = .next (later (b.askPeers line) (b.clk + 1 - 1024))) ∧
      (m.seen = false → b.lineBusy line = false →
        (∀ code at_, bad = some (code, at_) →
          out = .next (((freed r.s).noteAbort at_ code ctx).abortKill k (abortRecord code m.va (f.pc / 12)) (laneBit m.lane))) ∧
        (bad = none → ¬ met → out = .next (later t t.clk)) ∧
        (bad = none → met → woken t (if place m.addr = .host then (t.stampsOf m.addr).rel else t.newestRels m.addr) out))
    let released := fun (t : State) (w : Wait) (t' : State) => { t' with groups := t.groups } = t ∧ ∀ k' (g : Group), t.group? k' = some g →
      ∃ g' : Group, t'.group? k' = some g' ∧ { g' with frags := g.frags } = g ∧ ∀ en' (f : Frag), g.frag en' = some f →
        g'.frag en' = some (if f.wait = w then { f with wait := .none, since := t.clk } else f)
    (waits (.sleep n) → (n ≤ s.clk → exec (.sleepExpiry k en) s = .next (s.move k en f.pc .none)) ∧
      (s.clk < n → exec (.sleepExpiry k en) s = .next s)) ∧
    (waits .horizon → (g.horizon.toNat ≤ s.now → exec (.horizonReached k en) s = .next (s.move k en f.pc .none)) ∧
      (s.now < g.horizon.toNat → exec (.horizonReached k en) s = .next s)) ∧
    (waits (.pennant q n) → s.pen? q = some pn →
      (let g' : Group := { g with horizon := raised (pn.stampOf n) };
        n ≤ pn.count → exec (.pennantWaitRelease k en) s = .next (goes (s.modGroup k fun _ => g') g')) ∧
      (pn.count < n → exec (.pennantWaitRelease k en) s = .next s)) ∧
    (waits (.ring n take) → g.wg = some wg → s.ring? wg n = some r → let free := if take then r.take.isSome else r.acquire.isSome
      (free = true → exec (.ringWaitResume k en) s = .next again) ∧ (free = false → exec (.ringWaitResume k en) s = .next s)) ∧
    (s.ring? wg n = some r → (r.due ≠ none → exec (.ringPublishDeferred wg n) s = .next (s.setRing wg n r.ripen)) ∧
      (r.due = none → exec (.ringPublishDeferred wg n) s = .next s)) ∧
    (Table.find s.wgs wg = some y → ((∀ l, y.line n ≠ .pending l) → ∃ t' : State,
        exec (.fullLineStallEnd wg n) s = .next t' ∧ released s (.line wg n) t') ∧
      ((∃ l, y.line n = .pending l) → exec (.fullLineStallEnd wg n) s = .next s)) ∧
    (s.filler wg n = some (k, en, g, f) → Table.find s.wgs wg = some y → y.line n = .unfilled →
      let reader : Who := ⟨engineAgent (s.logical (coreOf k)) (slotOf k) 0, g.launch, g.gid * 256 + 255, s.now, 0, false, [], []⟩
      (∀ t, s.fillLine wg n (BitVec.allOnes 32) (coreOf k) (s.ctxOf g.launch) reader f.hostOk = .ok t → ∃ t' : State,
        exec (.windowLineFill wg n) s = .next t' ∧ released t (.fill wg n) t') ∧
      (s.fillLine wg n (BitVec.allOnes 32) (coreOf k) (s.ctxOf g.launch) reader f.hostOk = .host →
        exec (.windowLineFill wg n) s = .next (s.modFrag k en fun f => { f with wait := .host }))) ∧
    (∀ cls, waits (.cnt cls n) →
      (n < s.count g cls ∨ s.failedAhead g cls = true → exec (.waitcntReturn k en) s = .next s) ∧
      (let g' : Group := { g with horizon := raised (Table.get 0 g.landed cls), failed := g.failed.filter fun f => f.cls != cls }
        let bad := g.failed.filter fun f => f.cls == cls
        (s.count g cls ≤ n → bad = [] → exec (.waitcntReturn k en) s = .next (goes (s.setGroup k g') g')) ∧
        ∀ e ∈ bad, s.count g cls ≤ n → s.failedAhead g cls = false → (∀ e' ∈ bad, e.status < e'.status ∨ e' = e) →
          exec (.waitcntReturn k en) s = .next (((s.setGroup k g').modFrag k en fun f => { f with wait := .none }).takeEvent k en
            ⟨if e.status = 7 then 0x33 else 0x23, e.status, BitVec.ofNat 64 e.addr, f.mask, 0, none⟩))) ∧
    (waits (.monitor j) → s.monitorOf j = some m →
      (∀ rels, m.sat = some rels → woken s rels (exec (.monitorWake k en) s)) ∧
      (m.sat = none → exec (.monitorWake k en) s = .next s)) ∧
    (waits (.reread j n) → s.monitorOf j = some m →
      (s.clk < n + 1024 → exec (.monitorReread k en) s = .next s) ∧ (n + 1024 ≤ s.clk → rereads s (exec (.monitorReread k en) s))) ∧
    (waits (.unseal n) → (∀ e, Table.find s.seals n = some e → e.copies = 0) → exec (.unsealCountZero k en) s = .next again) ∧
    (waits .host → exec (.hostMemoryCompletion k en data) s =
      .next (host.modFrag k en fun f => { f with wait := .none, hostOk := true, since := s.clk })) ∧
    (waits (.reread j n) → s.monitorOf j = some m → place m.addr = .host → rereads host (exec (.hostMemoryCompletion k en data) s)) ∧
    (s.pen? q = some pn → (s.penBroken q pn = false → exec (.brokenPennant q) s = .next s) ∧
      (s.penBroken q pn = true → exec (.brokenPennant q) s =
        .next ((((s.groups.filter fun g => s.serves q g.2).map (·.1)).foldl (fun t j => t.breakGroup q pn.count j)
          (s.setPen q pn.abandon)).tellPen q pn.no .broken)))

/-- The steps of copies, map writes, reductions and bags (R332, R352, R354 to R356, R379, R418). What a map write into a line that has
been sealed meanwhile does is the model's choice (log 49), and that an engine's error is written at its completion is its reading
(log 107). -/
def Obligations.CopySteps : Prop :=
  ∀ (s u : State) (i peer : Nat) (o : EngOp) (c : Copy) (r : TRec) (d : RowData) (e : Fail) (wrote : Bool) (bag : BagReq),
    let row := exec (.copyRowLands i) s
    let end_ := exec (.copyComplete i) s
    let copies := Table.find s.ops i = some o ∧ o.k = .copy c ∧ o.done = false
    let goesOn := copies ∧ c.trec = some r ∧ c.status = 0 ∧ c.row < c.rows
    let out := c.blk.dkind = 3 ∨ c.kind = .cpys
    let at_ := c.blk.offset + c.row * r.pitch
    let mine := s.readerWaits c = false ∧ ∀ w ∈ c.dests, ∀ (y : Workgroup), Table.find s.wgs w = some y →
      ∀ n ∈ destRow c.kind c.blk r c.row, y.first i n = true
    let counts := fun (t : State) (wrote : Bool) (claim : Copy → Copy → Prop) => ∀ (o : EngOp) (c : Copy), Table.find u.ops i = some o → o.k = .copy c →
      ∃ c' : Copy, Table.find t.ops i = some { o with k := .copy c' } ∧
        c'.row = c.row + 1 ∧ c'.landed = c.landed + (if wrote then 1 else 0) ∧ c'.asked = false ∧ c'.reply = none ∧ claim c c' ∧
        { c' with row := c.row, landed := c.landed, rng := c.rng, seals := c.seals, asked := c.asked, reply := c.reply } = c
    (goesOn → ¬ out → mine → s.copySource o i c r c.row = .ok u d → ∃ t : State, row = .next t ∧ t.mem = u.mem ∧
      counts t (d.bytes.any Option.isSome) (fun c c' => c'.rng = d.rng ∧ c'.seals = c.seals ++ d.seals) ∧
      (c.kind ≠ .cpyq → ∀ w (y : Workgroup), Table.find u.wgs w = some y → ∃ y' : Workgroup, Table.find t.wgs w = some y' ∧ y'.lines = y.lines ∧
        ∀ n, y'.bytes.byte n = if w ∈ c.dests ∧ at_ ≤ n then (d.bytes.getD (n - at_) none).getD (y.bytes.byte n) else y.bytes.byte n) ∧
      (∀ k gid (g : Group), c.tgt = some (k, gid) → u.group? k = some g → g.gid = gid → c.row < 128 → c.regs.Nodup →
        d.bytes.any Option.isSome = true → ∃ g' : Group, t.group? k = some g' ∧ { g' with vregs := g.vregs } = g ∧
        ∀ q v, c.regs[q]? = some v → ∀ b < 4, ((g'.vget v c.row) >>> (8 * b)).setWidth 8 =
          if 4 * q + b < d.bytes.length then (d.bytes.getD (4 * q + b) none).getD (((g.vget v c.row) >>> (8 * b)).setWidth 8) else (0 : Byte))) ∧
    (goesOn → ¬ out → ¬ mine → row = .next s) ∧
    (goesOn → ¬ out → mine → s.copySource o i c r c.row = .bad u e → row = .next (u.modCopy i fun d => { d with status := e.status })) ∧
    (goesOn → out → s.rowOut o i c r c.row = .ok u wrote → ∃ t : State, row = .next t ∧ t.mem = u.mem ∧
      counts t wrote fun c c' => c'.rng = c.rng ∧ c'.seals = c.seals) ∧
    (goesOn → out → s.rowOut o i c r c.row = .bad u e → row = .next (u.modCopy i fun d => { d with status := e.status })) ∧
    (copies → (c.status ≠ 0 ∨ c.rows ≤ c.row) → ∀ us v lost, let lines := s.markedBy i
      (engEach (fun t (q : Nat × List Nat) => t.engTodo o.core (o.ctx s) (o.who s 0 3) q.1
          (q.2.filter fun n => ((Table.find t.wgs q.1).map fun w => w.line n == .pending [i]).getD false)) s lines = .ok u us) →
      let landed := (lines.foldl (fun t q => t.modWg q.1 fun w => q.2.foldl (fun w n => w.release i n) w)
        (if c.status = 0 then u.zeroBits i lines c.zeroT else u))
      let st := if c.blk.rv ∧ landed.slotHeld o.wg c.blk.ring c.blk.slot = false then 7 else c.status
      let told := (landed.copyArrive o c (c.rows - c.row)).modCopy i fun d => { d with row := d.rows, status := st }
      let word : Word := 0x80000000 + BitVec.ofNat 32 (st * 2 ^ 16 + c.landed % 2 ^ 16)
      (if c.blk.done = 0 then v = told ∧ lost = 0
        else told.engWrite o.core (o.ctx s) (o.who s 0 3) [(c.blk.done, 0xF, word)] = .ok v () ∧ lost = 0 ∨
          ∃ e, told.engWrite o.core (o.ctx s) (o.who s 0 3) [(c.blk.done, 0xF, word)] = .bad v e ∧ lost = e.status) →
      ∃ t : State, end_ = .next (t.completeWith i st c.blk.recAddr) ∧ t.mem = v.mem ∧
        (∀ (o : EngOp) (c : Copy), Table.find v.ops i = some o → o.k = .copy c → Table.find t.ops i = some { o with k := .copy { c with seals := [] } }) ∧
        (let code := if st = 0 then lost else st;
          code ≠ 0 → ∀ g, v.issuer? o = some g → ∃ g' : Group, t.group? o.g = some g' ∧
          { g' with record := g.record } = g ∧ g'.record = ⟨true, 0x23, BitVec.ofNat 8 code, BitVec.ofNat 32 o.index, BitVec.ofNat 64 c.blk.recAddr⟩) ∧
        ∀ w (y : Workgroup), Table.find u.wgs w = some y → v.wgs = told.wgs → ∃ y' : Workgroup, Table.find t.wgs w = some y' ∧ y'.bytes = y.bytes ∧
          ∀ n, Table.find y'.zero n = (if c.status = 0 ∧ lines.any (fun q => q.1 == w && q.2.contains n) = true ∧
              (c.zeroT || lines.all fun q => ((Table.find u.wgs q.1).map fun w => w.allZero q.2).getD true) = true then some i
              else Table.find y.zero n) ∧
            ((∀ l, y.line n ≠ .pending l) → y'.line n = y.line n) ∧
            ∀ l, y.line n = .pending l → (lines.any (fun q => q.1 == w && q.2.contains n)) → i ∈ l → l.Nodup →
              y'.line n = if l = [i] then .full else .pending (l.erase i)) ∧
    (∀ pa b va, Table.find s.ops i = some o → o.k = .mapbit pa b va → o.done = false → s.lineBusy (pa / 128) = false →
      (s.entry (pa / 128)).sealed ≠ none →
        exec (.walkerMapWriteDone i) s = .next (((s.recordError o 0x16 0 va).completeOp i).endWalk o.g)) ∧
    (∀ pa b va, Table.find s.ops i = some o → o.k = .mapbit pa b va → o.done = false → s.lineBusy (pa / 128) = false →
      (s.entry (pa / 128)).sealed = none →
      let rd := s.readStores none (some (o.ctx s)) pa
      let r : Merged := if (rd.entry (pa / 128)).st = .P then rd.mergeLine (pa / 128) else ⟨rd, [], none⟩
      let bad := r.abort.or ((r.s.badAt homeReader pa).map fun c => (c, pa))
      (∀ code at_, bad = some (code, at_) → exec (.walkerMapWriteDone i) s =
        .next ((r.s.noteAbort at_ code (some (o.ctx r.s))).abortOp o (abortRecord code va o.index) 0)) ∧
      (bad = none → pa % 4 = 0 → let q := (r.s.gather (pa / 128)).s.noteRead pa
        ∃ t : State, exec (.walkerMapWriteDone i) s = .next ((t.completeOp i).endWalk o.g) ∧ (t.mem.word pa) = (q.homeWord pa ||| wordBit b) ∧
        ∀ y, (y < pa ∨ pa + 4 ≤ y) → t.mem.byte y = q.mem.byte y)) ∧
    (∀ pa op v mode seed part thread va index rel, Table.find s.ops i = some o → o.k = .red pa op v mode seed part thread va index rel →
      o.done = false →
      let n := opBytes op
      let words := if n = 8 then [pa, pa + 4] else [pa]
      let waits := if part then !s.takesPart pa op else s.lineBusy (pa / 128)
      let rd := words.foldl (fun t w => t.readStores none (some (s.ctxOf o.launch)) w) s
      let r : Merged := if !part && (rd.entry (pa / 128)).st == .P then rd.mergeLine (pa / 128) else ⟨rd, [], none⟩
      let bad := r.abort.or (words.findSome? fun w =>
        (if part then (if r.s.unreachable w then some 4 else none) else r.s.badAt homeReader w).map fun c => (c, w))
      (waits = true → exec (.atomicAtHome i) s = .next s) ∧
      (waits = false → ∀ code at_, bad = some (code, at_) → exec (.atomicAtHome i) s =
        .next (((r.s.noteAbort at_ code (some (s.ctxOf o.launch))).completeOp i).abortOp o (abortRecord code va index) (laneBit (thread % 256 % 128)))) ∧
      (waits = false → bad = none → part = true → exec (.atomicAtHome i) s = .next ((r.s.forwardPart pa op v).completeOp i)) ∧
      (waits = false → bad = none → part = false → pa % n = 0 → let q := ((r.s.fetchWords words).gather (pa / 128)).s
        let new := rmw op (env32 false mode seed) (q.homeValue pa n) (0, v)
        ∃ t : State, exec (.atomicAtHome i) s = .next (t.completeOp i) ∧ ∀ y, t.mem.byte y =
          if pa ≤ y ∧ y < pa + n then (new >>> (8 * (y - pa))).setWidth 8 else q.mem.byte y)) ∧
    (let lines := bagLines bag.rows;
      (lines.any s.lineBusy = true → exec (.peerBagPooling peer bag) s = .next (s.park peer (.bags bag) lines)) ∧
      (lines.any s.lineBusy = false → ∃ (t : State) (st : Nat) (ws : List Word) (rng : Word),
        exec (.peerBagPooling peer bag) s = .next (t.send peer (.rows bag.key st ws rng)) ∧
        ((State.bagTable bag.rows s).2.2 = true → st = 8 ∧ ws = []) ∧
        ((∀ es ∈ bag.rows, ∀ e ∈ es, e = .zero ∨ e = .skip) → t = s ∧ st = bag.stop ∧ (bag.stop ≠ 0 → ws = []) ∧
          (bag.stop = 0 → (ws, rng) = poolBag bag.op bag.mode bag.seed bag.tcols
            (bag.rows.map fun es => es.map fun e => if e = .zero then some (0 : Word) else none)))))

/-- The steps of matrix work (R100, R102, R106, R107, R366, R367, R373 to R375). -/
def Obligations.MatrixSteps : Prop :=
  ∀ (s u : State) (i key base n ea sb : Nat) (o : EngOp) (p : Pass) (tl : Tile) (f : Fmt) (slot : Kiln) (bytes old : List Byte)
    (ls : List (List Byte × Bool × Option Nat)) (ws : List Word) (a b : Nat) (acc : Word),
    let is := fun (k : OpKind) => Table.find s.ops i = some o ∧ o.k = k ∧ o.done = false
    let m := s.matOf o
    let accs := fun (t u : State) (k : Nat) (claim : Nat → Word → Prop) =>
      (∀ j < 1024, claim j (Table.get 0 (t.matOf o).acc (1024 * k + j))) ∧
      (∀ j, j / 1024 ≠ k → Table.get 0 (t.matOf o).acc j = Table.get 0 (u.matOf o).acc j) ∧ { t.matOf o with acc := (u.matOf o).acc } = u.matOf o
    let sound := fun (t : State) => s.readUnit (o.ctx s) (Store.ofAcc o.unit tl.acc) = (t, false)
    (is (.pass p) → key ∈ p.missing m → Table.find m.binds p.tid = some base →
      s.engRead o.core (o.ctx s) (o.who s 1 0) false (base + key % 512) 1 = .ok u bytes → ∃ t : State,
        exec (.scaleCacheFill i key) s = .next t ∧ { t with mats := u.mats } = u ∧ let m := u.matOf o
        { t.matOf o with cache := m.cache } = m ∧
        (t.matOf o).cache = (if 2048 ≤ m.cache.length then m.cache.drop 1 else m.cache) ++ [(key, bytes.headD 0)]) ∧
    (is (.pass p) → s.clk < p.ready → exec (.octetPassComplete i) s = .next s) ∧
    (is (.pass p) → p.ready ≤ s.clk → p.missing m = [] → aFmt p.afmt = some f → Table.find m.kiln p.slot = some slot →
      s.readUnit (o.ctx s) (fun c => Store.ofAcc o.unit p.acc c || Store.ofSlots o.unit (OpKind.use (.pass p)).rd c) = (u, false) → ∃ t : State,
      exec (.octetPassComplete i) s = .next (t.completeOp i) ∧ t.mem = u.mem ∧
      accs t s p.acc (fun j v => let was := Table.get 0 m.acc (1024 * p.acc + j)
        v = if p.live.getD (j / 128) false then (p.elem m f slot (p.rows.getD (j / 128) []) (j / 128) (j % 128) was).1 else was) ∧
      ∀ g, u.issuer? o = some g → ∃ g' : Group, t.group? o.g = some g' ∧ { g' with fflags := g.fflags } = g ∧
        ∀ l < 128, g'.flags l &&& 0x1F = (if l / 8 = p.octet ∧ p.live.getD (l % 8) false then g.flags l |||
          ((List.range 128).foldl (fun (w : Fl) j => w ||| (p.elem m f slot (p.rows.getD (l % 8) []) (l % 8) j
            (Table.get 0 m.acc (1024 * p.acc + (128 * (l % 8) + j)))).2) 0).setWidth 32 else g.flags l) &&& 0x1F) ∧
    (p.sat = false → (p.elem m .i8 slot ws a b acc) = (BitVec.ofInt 32 (acc.toInt + ((List.range ((p.k + 31) / 32)).map fun q =>
      ((p.products .i8 slot ws b q).map fun c => s8 c.1 * s8 c.2).sum).sum), 0)) ∧
    (∀ wg, is (.kset n f ea sb) → o.wg = some wg →
      engEach (fun t l => t.ksetLine o wg l) s (rowLines ea 0 (ksetBytes f) 1 ++ (if scaled f then rowLines sb 0 512 1 else [])) = .ok u ls →
      ∃ (t : State) (k : Kiln), exec (.ksetComplete i) s = .next (t.completeOp i) ∧ t.mem = u.mem ∧
        (∀ j, Table.find (t.matOf o).kiln j = if j = n then some k else
          if j ∈ (slotKeys f n).flatMap (u.matOf o).slotsAt then none else Table.find (u.matOf o).kiln j) ∧
        { t.matOf o with kiln := (u.matOf o).kiln } = u.matOf o ∧ k.fmt = f ∧
        let e := if isHalf f then 2 else 1
        let lines := 128 * e
        (∀ j < 16384, Table.get 0 k.elems j = BitVec.ofNat 16 (leNat ((((ls.take lines).flatMap (·.1)).drop (e * j)).take e))) ∧
        (∀ j, k.scales.byte j = ((ls.drop lines).flatMap (·.1)).getD j 0) ∧
        ∀ q < 4, k.zero.getLsbD q = ((ls.drop (32 * e * q)).take (32 * e)).all fun c => c.2.1) ∧
    (∀ v r, is (.drain tl) → sound r → tl.tgt = none → let sz := 1024 * tileBytes tl.fmt
      (if tl.add then r.engRead o.core (o.ctx s) (o.who s 1 0) true tl.addr sz = .ok u old else u = r ∧ old = []) →
      let d := drainTile tl (m.tile tl.acc) old
      u.engWrite o.core (o.ctx s) (o.who s 1 0) (wordsFrom tl.addr (d.1.map some)) = .ok v () →
      exec (.mdrainComplete i) s = .next (v.drainEnd i o tl d.2)) ∧
    (∀ w (y : Workgroup) v vs q r, is (.drain tl) → sound r → tl.tgt = some w → Table.find r.wgs w = some y → let sz := 1024 * tileBytes tl.fmt
      let lines := rowLines tl.addr 0 sz 1
      let words := (List.range (sz / 4)).map fun j => tl.addr / 4 + j
      (∀ l ∈ lines, y.first i l = true) →
      (if tl.add then r.engTodo o.core (o.ctx s) (o.who s 1 0) w lines = .ok q () ∧ q.spadCheck w (o.ctx s) words = (u, [])
        else u = r.spadMend w words) →
      ∀ y1 : Workgroup, Table.find u.wgs w = some y1 →
      let d := drainTile tl (m.tile tl.acc) (y1.bytes.bytes tl.addr sz);
      let u1 := u.modWg w fun y => y.land tl.addr (d.1.map some)
      u1.engTodo o.core (o.ctx s) (o.who s 1 0) w (lines.filter fun l => ((Table.find u1.wgs w).map fun (y : Workgroup) => y.line l == .pending [i]).getD false)
        = .ok v vs → v = u1 → ∃ t : State, exec (.mdrainComplete i) s = .next (t.drainEnd i o tl d.2) ∧ t.mem = u.mem ∧
          ∃ y' : Workgroup, Table.find t.wgs w = some y' ∧
            ∀ k, y'.bytes.byte k = if tl.addr ≤ k ∧ k < tl.addr + sz then d.1.getD (k - tl.addr) 0 else y1.bytes.byte k) ∧
    (∀ tile : List Word, tile.length = 1024 → (drainTile tl tile old).1.length = 1024 * tileBytes tl.fmt ∧
      ∀ j < 1024, ((drainTile tl tile old).1.drop (tileBytes tl.fmt * j)).take (tileBytes tl.fmt) = leBytes (tileBytes tl.fmt)
        (drainElem tl (if tl.mode = 7 then srAfter (j + 1) tl.seed else tl.seed) (tile.getD j 0)
          (leNat ((old.drop (tileBytes tl.fmt * j)).take (tileBytes tl.fmt)))).1) ∧
    (is (.load tl) → let sz := 1024 * tileBytes tl.fmt
      (match tl.tgt with
        | none => s.engRead o.core (o.ctx s) (o.who s 1 0) true tl.addr sz = .ok u bytes
        | some w => ∃ q, s.engLines o.core (o.ctx s) (o.who s 1 0) w (rowLines tl.addr 0 sz 1) = .ok q () ∧
            q.spadCheck w (o.ctx s) ((List.range (sz / 4)).map fun j => tl.addr / 4 + j) = (u, []) ∧
            ∃ y : Workgroup, Table.find u.wgs w = some y ∧ bytes = y.bytes.bytes tl.addr sz) → ∃ t : State,
        exec (.mloadComplete i) s = .next (t.completeOp i) ∧ t.mem = u.mem ∧
        accs t u tl.acc fun j v => v = loadElem tl.fmt (leNat ((bytes.drop (tileBytes tl.fmt * j)).take (tileBytes tl.fmt))))

/-- The steps of coherence (R143 to R152, R159, R163), prefetches (R325), table walks (R137) and pool fills (R496). What a holder that
is already in M is granted is the model's choice (log 58). -/
def Obligations.CoherenceSteps : Prop :=
  ∀ (s : State) (core line addr i ctx va node : Nat) (mask : Word) (tag : Op) (x : L1Line) (seq : BitVec 8) (k : ProbeKind) (r : Returned)
    (us : List USlot) (words : Table Word) (stamps : Table Stamps) (own : Bool),
    let d := s.entry line
    let clear := s.wayClear core line true = true
    let free := core < 144 ∧ 128 * line < dramEnd ∧ s.lineBusy line = false ∧ clear ∧ addr / 128 = line
    let asks := fun (i : Instr) (q : Req) (m : Word) (hs : List Nat) (k : ProbeKind) => ∃ t : State, exec i s = .next t ∧
      t.entry line = { d with pend := some ⟨core, q, m, hs, []⟩ } ∧ t.msgs = s.msgs ++ hs.map (fun y => .probe y line d.seq k) ∧
      { t with dir := s.dir, msgs := s.msgs } = s
    let sends := fun (t : State) (own : Bool) => ∃ (words : Table Word) (stamps : Table Stamps),
      t.msgs = s.msgs ++ [.grant core line (d.seq + 1) words stamps own] ∧ t.mem = s.mem ∧
      ∀ j < 32, Table.find words j = if mask.getLsbD j = true ∧ s.badWord (128 * line + 4 * j) = none then some (s.homeWord (128 * line + 4 * j)) else none
    let grants := fun (i : Instr) (d' : Dir) (own : Bool) => s.flaws = [] → ∃ t : State, exec i s = .next t ∧ t.entry line = { d' with seq := d.seq + 1 } ∧ sends t own
    let R : Instr := .read core line mask
    let W : Instr := .own core line mask
    let U : Instr := .update core addr tag
    let others := d.holders.filter (· != core)
    let joined := if core ∈ d.holders then d.holders else d.holders ++ [core]
    let next := fun (m : Msg) => s.msgs.find? (fun q => q.core == m.core && q.toHome == m.toHome &&
      homeOf (128 * q.line) == homeOf (128 * m.line)) = some m
    let past := fun (m : Msg) => ({ s with msgs := s.msgs.erase m } : State)
    let installed := fun (t : State) (r : Returned) => (r.words.map (·.1)).Nodup → (∀ w ∈ r.words, w.1 < 32) →
      (∀ w ∈ r.words, t.mem.word (128 * line + 4 * w.1) = w.2) ∧
      ∀ y, (∀ w ∈ r.words, y / 4 ≠ 32 * line + w.1) → t.mem.byte y = s.mem.byte y
    let dirtyOf := fun (r : Returned) (x : L1Line) => ∀ j < 32, Table.find r.words j = if x.dirty.getLsbD j = true then Table.find x.words j else none
    let leaves := fun (d : Dir) => if d.st = .P then { d with holders := d.holders.filter (· != core) } else d.without core
    (free → d.sealed ≠ none → grants R d false ∧ exec W s = .next s ∧ exec U s = .next s) ∧
    (core < 256 → (s.homeBusy line = true ∨ ¬ clear) → addr / 128 = line → exec R s = .next s ∧ exec W s = .next s ∧ exec U s = .next s) ∧
    (free → d.sealed = none →
      (d.st = .I ∨ d.st = .S → grants R { d with st := .S, holders := joined, masks := [], pend := none } false) ∧
      (d.st = .M → core ∈ d.holders → grants R d true ∧ grants W d true) ∧
      (d.st = .M → core ∉ d.holders → d.holders ≠ [] → asks R .read mask d.holders .forward ∧ asks W .own mask d.holders .downgrade) ∧
      (d.st = .D → d.holders ≠ [] → (∃ c ∈ d.masks, c.1 ≠ core ∧ c.2 &&& mask ≠ 0) →
        asks R .read mask d.holders .recall ∧ asks W .own mask d.holders .recall) ∧
      (d.st = .D → (∀ c ∈ d.masks, c.1 = core ∨ c.2 &&& mask = 0) → exec R s = .next s ∧
        (joined.length ≤ 8 → grants W { d with holders := joined, masks := Table.insert d.masks core (Table.get 0 d.masks core ||| mask) } true) ∧
        (8 < joined.length → d.holders ≠ [] → asks W .own mask d.holders .recall)) ∧
      (d.st = .P → d.holders ≠ [] → asks R .read mask d.holders .merge ∧ asks W .own mask d.holders .merge ∧
        (d.tag ≠ tag → asks U (.upd tag) 0 d.holders .merge)) ∧
      (d.st = .S → others ≠ [] → asks W .own mask others .recall) ∧
      (d.st = .I → grants W { d with st := .M, holders := [core], masks := [], pend := none } true) ∧
      (d.st = .P → d.tag = tag → ∃ t : State, exec U s = .next t ∧ t.entry line = { d with holders := joined } ∧ { t with dir := s.dir } = s) ∧
      (d.st = .S ∨ d.st = .M ∨ d.st = .D → d.holders ≠ [] → asks U (.upd tag) 0 d.holders .recall) ∧
      (d.st = .I → ∃ t : State, exec U s = .next t ∧ t.mem = s.mem ∧ t.msgs = s.msgs ∧ t.l1? core line = none ∧ t.entry line =
        { d with st := .P, holders := [core], masks := [], tag := tag, hpart := [], hstamp := [], pend := none, devs := [], asked := [], dparts := [] })) ∧
    (s.homeBusy line = false → d.sealed = none → d.devs = [] → (node, tag) ∈ d.joinq → d.st = .P → d.tag = tag → d.dparts = [] → addr / 128 = line →
      ∃ t : State, exec (.update (256 + node) addr tag) s = .next t ∧
        t.entry line = { d with devs := [node], joinq := d.joinq.erase (node, tag) } ∧ { t with dir := s.dir } = s.send node (.joined line)) ∧
    (core < 144 → 128 * line < dramEnd → (s.core core).lost = false → clear → d.st = .M ∨ d.st = .D → core ∈ d.holders →
      (s.readCopy core line).l1? core line = some x → ∃ (t : State) (r : Returned),
        exec (.writeback core line) s = .next t ∧ t.l1? core line = none ∧ t.mem = s.mem ∧
        t.msgs = s.msgs ++ [.writeback core line x.seq x.dirty r] ∧ dirtyOf r x) ∧
    (next (.writeback core line seq mask r) → ∃ t : State, exec (.writeback core line) s = .next (t.answered line core) ∧
      t.entry line = d.without core ∧ installed t r) ∧
    (core < 144 → (s.core core).lost = false → clear → (∃ u ∈ (s.core core).ubuf, u.addr / 128 = line) → ∃ t : State,
      exec (.flush core line) s = .next t ∧ (∀ u ∈ (t.core core).ubuf, u.addr / 128 ≠ line) ∧
      ((s.readSlots line).2 = false → t.mem = s.mem ∧
        t.msgs = s.msgs ++ [.flush core line d.tag ((s.core core).ubuf.filter fun u => u.addr / 128 == line)])) ∧
    (next (.flush core line tag us) → exec (.flush core line) s = .next ((past (.flush core line tag us)).takeFlush core line us)) ∧
    ((us.map (·.addr)).Nodup → d.pend = none → (others ≠ [] ∨ d.devs ≠ []) → let t := s.takeFlush core line us
      (t.entry line).holders = others ∧ (t.entry line).st = d.st ∧ t.mem = s.mem ∧ ∀ u ∈ us, Table.find (t.entry line).hpart u.addr =
        some (Partial.merge d.tag ((Table.find d.hpart u.addr).getD (Partial.ofTag d.tag)) u.p)) ∧
    (next (.grant core line seq words stamps own) → ∃ (t : State) (x' : L1Line), exec (.grant core line) s = .next t ∧
      t.l1? core line = some x' ∧ x'.seq = seq ∧ ∀ j < 32, Table.find words j ≠ none → x'.valid.getLsbD j = true) ∧
    (let m : Msg := .probe core line seq k;
      next m → (s.core core).lost = false →
      (s.l1? core line = some x → seqOlder seq x.seq = true → exec (.probe core line) s = .next (past m)) ∧
      ((∀ x, s.l1? core line = some x → seqOlder seq x.seq = false) → let u := (past m).readCopy core line
        (k ≠ .merge ∨ (s.entry line).st ≠ .P →
          (u.l1? core line = none → exec (.probe core line) s = .next { u with msgs := u.msgs ++ [.gone core line seq] }) ∧
          (u.l1? core line = some x → k = .recall ∨ k = .merge → ∃ (t : State) (r : Returned), exec (.probe core line) s = .next t ∧
            t.l1? core line = none ∧ t.msgs = (past m).msgs ++ [.answer core line seq r] ∧ t.mem = s.mem ∧ dirtyOf r x) ∧
          (u.l1? core line = some x → k = .forward → ∃ (t : State) (r : Returned), exec (.probe core line) s = .next t ∧
            t.l1? core line = some { x with dirty := 0 } ∧ t.msgs = (past m).msgs ++ [.answer core line seq r] ∧ t.mem = s.mem ∧ dirtyOf r x)) ∧
        (k = .merge → (s.entry line).st = .P →
          ((∀ u ∈ (s.core core).ubuf, u.addr / 128 ≠ line) → exec (.probe core line) s = .next { past m with msgs := (past m).msgs ++ [.gone core line seq] }) ∧
          ((∃ u ∈ (s.core core).ubuf, u.addr / 128 = line) → ((past m).readSlots line).2 = false → ∃ t : State, exec (.probe core line) s = .next t ∧
            (∀ u ∈ (t.core core).ubuf, u.addr / 128 ≠ line) ∧ t.mem = s.mem ∧ t.msgs = (past m).msgs ++
              [.answer core line seq ⟨[], [], (s.core core).ubuf.filter fun u => u.addr / 128 == line, none⟩])))) ∧
    (next (.answer core line seq r) → ∃ t : State, exec (.answer core line) s = .next (t.answered line core) ∧ installed t r ∧
      (d.pend = none → (t.entry line).pend = none)) ∧
    (let m : Msg := .gone core line seq;
      next m → (d.pend = none → exec (.gone core line) s = .next (past m)) ∧
      ∀ p, d.pend = some p → (core ∉ p.left → exec (.gone core line) s = .next (past m)) ∧
        (core ∈ p.left → exec (.gone core line) s = .next (((past m).modEntry line leaves).answered line core))) ∧
    (∀ p, s.prefetches.find? (fun p => p.id == i) = some p →
      (s.lineBusy (p.addr / 128) = true → exec (.prefetchLands i) s = .next (s.askPeers (p.addr / 128))) ∧
      (s.lineBusy (p.addr / 128) = false → let rest : State := { s with prefetches := s.prefetches.filter fun q => q.id != i }
        let u := rest.readStores (some p.core) (some p.ctx) p.addr
        let v := if u.inL1 p.core p.addr || (u.dirtyAt p.addr).isSome then u else u.fetchWords [p.addr]
        (∀ code, v.badAt p.core p.addr = some code → exec (.prefetchLands i) s = .next (v.noteAbort p.addr code (some p.ctx))) ∧
        (v.badAt p.core p.addr = none → p.l1 = false → exec (.prefetchLands i) s = .next v) ∧
        (v.badAt p.core p.addr = none → p.l1 = true →
          exec (.prefetchLands i) s = .next (v.prepRead p.core p.hint false (p.addr / 128) p.cls (wordBit (p.addr / 4 % 32))).told))) ∧
    (core < 144 → va < 2 ^ 57 → s.tlbHit core ctx va = none → let n := s.noteWalk ctx va
      (∀ pte lv e, n.walk ctx va = .leaf pte lv e → leafOk e lv = true → ptePop e = 0 → ∃ t : State, exec (.tableWalk core ctx va) s = .next t ∧
        t.tlbHit core ctx va = some ⟨ctx, va / 2 ^ levelBits lv * 2 ^ levelBits lv, levelBits lv, e⟩ ∧
        { t with cores := n.cores, ctlb := n.ctlb } = n) ∧
      (n.walk ctx va = .bad → exec (.tableWalk core ctx va) s = .next n)) ∧
    (∀ f e a u, s.fills.find? (fun f => f.ctx == ctx && f.va == va) = some f → s.pte f.pte = some e → f.pte % 4 = 0 →
      pteValid e = true → ptePop e = 2 → s.takeFrame f.ctx (levelSize f.level) = some (a, u) → ∃ t : State,
        exec (.firmwarePoolFill ctx va) s = .next t ∧ t.mem.dword f.pte = pteSetFrame (pteSetPop e 0) a ∧
        (∀ y, (y < f.pte ∨ f.pte + 8 ≤ y) → t.mem.byte y = u.mem.byte y) ∧
        (∀ h ∈ t.fills, ¬ (h.ctx = f.ctx ∧ h.pte = f.pte)) ∧ ∀ k g en fr, t.group? k = some g → g.frag en = some fr → fr.wait ≠ .leaf f.pte)

/-- The steps of the memory: bursts (R130, R131, R454, R455), syndromes (R452, R453), corrected errors (R457, R458), on-chip stores
(R456), aborts (R460, R462), and a core's loss (R468, R469). That a word of a burst that failed stays uncorrectable until it is
written, and that each read of it that aborts is recorded, is the model's reading (log 93). -/
def Obligations.MemorySteps : Prop :=
  ∀ (s : State) (chan i dev code addr core line slice k : Nat) (b : Burst) (f : Flight) (o : EngOp) (c : Copy) (good : Bool),
    let flying := s.bursts.find? (fun f => f.id == i) = some f
    let rest : State := { s with bursts := s.bursts.filter fun g => g.id != i }
    (burstOk chan b = true → exec (.burstCommand chan b) s =
      .next { s with serial := s.serial + 1, bursts := s.bursts ++ [⟨s.serial, chan, b, 0, []⟩] }) ∧
    (burstOk chan b = true ↔ chan < 256 ∧ b.op < 3 ∧ b.page < 393216 ∧ 1 ≤ b.count ∧ b.count ≤ 16 ∧ b.masks.length ≤ 16 ∧
      (b.kind = 0 ∧ 1 ≤ b.stride ∧ b.stride < 1024 ∧ b.start + (b.count - 1) * b.stride < 1024 ∨
        b.kind = 1 ∧ b.count ≤ b.list.length ∧ b.list.length ≤ 16 ∧ ∀ w ∈ b.list, w < 1024)) ∧
    (∀ j < b.count, (b.kind = 0 → (burstOffs b)[j]? = some (b.start + j * b.stride)) ∧ (b.kind ≠ 0 → (burstOffs b)[j]? = b.list[j]?)) ∧
    (burstOk chan b = false → exec (.burstCommand chan b) s = .next s) ∧
    (flying → exec (.burstComplete i true) s = .next ((f.addrs.zip (List.range f.b.count)).foldl
      (fun t q => t.burstWord f.b.op q.1 (f.b.masks.getD q.2 0xF)) rest)) ∧
    (f.addrs = (burstOffs f.b).map fun w => granuleOf f.chan f.b.page + 4 * w) ∧
    (flying → f.tries < 3 → exec (.burstComplete i false) s =
      .next { s with bursts := s.bursts.map fun g => if g.id = i then { g with tries := g.tries + 1 } else g }) ∧
    (flying → 3 ≤ f.tries → ∃ t : State, exec (.burstComplete i false) s = .next t ∧ t.alerts = s.alerts ++ [.msix 0, .mctp] ∧
      t.bursts = rest.bursts ∧ t.mem = s.mem ∧ (∀ a, a ∈ t.spoilt ↔ a ∈ s.spoilt ∨ ∃ w ∈ f.addrs, a = w / 4) ∧
      t = ((({ rest with spoilt := t.spoilt } : State).log1 4 f.chan 0 0 0 0).alarm none)) ∧
    (place addr = .local → s.lostWord addr = false → s.heldWord addr = false → addr / 4 ∈ s.spoilt → s.badWord addr = some 1) ∧
    (place addr = .local → s.lostWord addr = false → s.heldWord addr = true → s.badWord addr = none) ∧
    (s.bursts.find? (fun f => f.id == i) = none → exec (.burstComplete i good) s = .next s ∧ exec (.deviceBeatTimeout i dev) s = .next s) ∧
    (flying → (∃ w ∈ burstOffs f.b, devOf w = dev) →
      (dev ∉ f.missed → exec (.deviceBeatTimeout i dev) s =
        .next { s with bursts := s.bursts.map fun g => if g.id = i then { g with missed := g.missed ++ [dev] } else g }) ∧
      (dev ∈ f.missed → dev < 16 → (Table.get 0 s.devFail f.chan).getLsbD dev = false →
        let m := Table.get 0 s.devFail f.chan ||| BitVec.twoPow 16 dev
        let u : State := { s with devFail := Table.put 0 s.devFail f.chan m, health := { s.health with wdev := Table.put 0 s.health.wdev f.chan m } }
        exec (.deviceBeatTimeout i dev) s = .next (u.log1 5 f.chan 0 0 0 (BitVec.ofNat 32 dev)))) ∧
    (place addr = .local → s.lostWord addr = false → s.heldWord addr = false → addr / 4 ∉ s.spoilt →
      (Table.get 0 s.devFail (chanOf addr)).getLsbD (devOf (wordOff addr)) = true → s.badWord addr = some 2) ∧
    (dataCols.length = 32 ∧ dataCols.Pairwise (· < ·) ∧ ∀ c, c ∈ dataCols ↔ c ≤ dataCols.getD 31 0 ∧
      ((List.range 8).filter fun b => c.testBit b).length = 3 ∧ c < 256) ∧
    (place addr = .local → s.lostWord addr = false → s.heldWord addr = false → addr / 4 ∉ s.spoilt →
      (Table.get 0 s.devFail (chanOf addr)).getLsbD (devOf (wordOff addr)) = false →
      let y := s.syndrome addr
      let stored := s.mem.word (addr / 4 * 4)
      y = s.checkBits addr ^^^ eccE stored ^^^ eccF (chanPage addr * 1024 + wordOff addr) ∧
      (y = 0 → s.badWord addr = none ∧ s.homeWord addr = stored ∧ s.noteRead addr = s.fetched addr) ∧
      (y < 256 → Table.find s.check (addr / 4) ≠ none →
        (∀ j < 32, y = dataCols.getD j 0 → s.badWord addr = none ∧ s.homeWord addr = stored ^^^ wordBit j ∧
          s.noteRead addr = (s.fetched addr).corrected addr y) ∧
        (∀ j < 8, y = 2 ^ j → s.badWord addr = none ∧ s.homeWord addr = stored ∧ s.noteRead addr = (s.fetched addr).corrected addr y) ∧
        (y ≠ 0 → y ∉ dataCols → (∀ j < 8, y ≠ 2 ^ j) → s.badWord addr = some 0 ∧ s.noteRead addr = s))) ∧
    (let row := rowId addr
      let ch := chanOf addr
      let hashes := [0x9E3779B1, 0x85EBCA77, 0xC2B2AE3D].map fun K => row.toNat * K % 2 ^ 32 / 2 ^ 20
      let bits := Table.get 0 s.bloom ch
      let q := repeatAdd (Table.get [] s.repeats ch) row
      let passed : State := { s with repeats := Table.put [] s.repeats ch q.1 }
      ((∃ h ∈ hashes, bits.getLsbD h = false) → ∃ bits' : BitVec 4096,
        (∀ j < 4096, bits'.getLsbD j = (bits.getLsbD j || hashes.contains j)) ∧
        s.corrected addr k = ({ s with bloom := Table.put 0 s.bloom ch bits' } : State).log1 1 ch row addr 0 (BitVec.ofNat 32 k)) ∧
      ((∀ h ∈ hashes, bits.getLsbD h = true) →
        (q.2 ≠ 4 → s.corrected addr k = passed) ∧
        (q.2 = 4 → let t := passed.log1 3 ch row addr 4 (BitVec.ofNat 32 k)
          s.corrected addr k = { t with health := { t.health with rows := t.health.rows ++ [(ch, row)] } }))) ∧
    (∀ (tb : List (Word × Nat)) (row : Word), let q := repeatAdd tb row
      (∀ n, tb.find? (fun e => e.1 == row) = some (row, n) → q.2 = n + 1 ∧
        q.1 = tb.map fun e => if e.1 = row then (row, n + 1) else e) ∧
      ((∀ e ∈ tb, e.1 ≠ row) → q.2 = 2 ∧ (tb.length < 64 → q.1 = tb ++ [(row, 2)]) ∧
        (64 ≤ tb.length → ∃ l e r, tb = l ++ e :: r ∧ (∀ d ∈ l, e.2 < d.2) ∧ (∀ d ∈ r, e.2 ≤ d.2) ∧ q.1 = l ++ r ++ [(row, 2)]))) ∧
    ((code = 0 ∨ code = 1 ∨ code = 2) → place addr = .local → s.noteAbort addr code none =
      { s.log1 2 (chanOf addr) (rowId addr) addr 0 (BitVec.ofNat 32 (s.syndrome addr)) with alerts := s.alerts ++ [.msix 0, .mctp] }) ∧
    (∀ (n ctx va pa : Nat) (cl : Cls) (w x : Bool), s.translate n ctx va = .page pa cl w x → s.noteAt n ctx va code = s.noteAbort pa code (some ctx)) ∧
    (∀ g, s.group? k = some g → let t := s.noteAt (coreOf k) (s.ctxOf g.launch) addr code
      exec (.abortCompletion (.thread k) code addr) s = .next (t.abortKill k (abortRecord code addr g.index) g.live) ∧
      exec (.abortCompletion (.walker k) code addr) s = .next (t.abortKill k (abortRecord code addr g.index) g.live)) ∧
    (Table.find s.ops i = some o → o.cls = 1 ∨ o.cls = 5 → exec (.abortCompletion (.matrix i) code addr) s =
      .next ((s.noteAt o.core (o.ctx s) addr code).abortOp o (abortRecord code addr o.index) 0)) ∧
    (Table.find s.ops i = some o → o.k = .copy c → o.done = false → c.status = 0 → exec (.abortCompletion (.copy i) code addr) s =
      let t := s.noteAt o.core (o.ctx s) addr code
      .next { t with ops := Table.insert s.ops i { o with k := .copy { c with status := 8 } } }) ∧
    (∀ p, s.prefetches.find? (fun p => p.id == i) = some p → exec (.abortCompletion (.prefetch i) code addr) s =
      .next { s.noteAbort p.addr code (some p.ctx) with prefetches := s.prefetches.filter fun p => p.id != i }) ∧
    ((s.entry line).st = .P → ∃ t : State, exec (.abortCompletion (.merge line) code addr) s = .next t ∧ (t.entry line).st = .I ∧
      (t.entry line).lost = BitVec.allOnes 32 ∧ (∀ n, ∀ u ∈ (t.core n).ubuf, u.addr / 128 ≠ line) ∧ t.mem = s.mem) ∧
    (∀ fn q y, s.cmd? fn q = some y → y.out = none →
      exec (.abortCompletion (.command fn q) code addr) s = .next ((s.noteAt homeReader y.ctx addr code).retireCmd y 6 0)) ∧
    ((∃ n a, Msg.probe core line n a ∈ s.msgs) → exec (.probeTimeout core line) s =
      .next ((List.range 128).foldl (fun t h => t.removeFrom h core) (s.loseCore core))) ∧
    (slice < 128 → core < 144 → exec (.coreLossBroadcast slice core) s = .next ((s.loseCore core).removeFrom slice core)) ∧
    ((s.entry line).st = .M → (s.entry line).holders = [core] → (s.entry line).pend = none → let d := (s.removeHolder core line).entry line
      d.st = .I ∧ d.holders = [] ∧ d.lost = BitVec.allOnes 32) ∧
    (∀ x, (s.flaw x = some false → s.readStore x none = (((s.mend x).log1 6 (s.storeUnit x) 0 x.addr 0 0), false)) ∧
      (s.flaw x = some true → s.readStore x none = ((((s.mend x).log1 7 (s.storeUnit x) 0 x.addr 0 0).alarm none), true)) ∧
      (s.flaw x = none → s.readStore x none = (s, false)))

/-- The dispatcher, packed groups and yielding (R45, R69, R70, R113, R192, R203 to R207, R215, R440). The model's: that a group whose image
no frame takes is saved without one (log 6), and that the images of a gang are sealed under one counter (log 50). -/
def Obligations.Scheduling : Prop :=
  ∀ (s : State) (k l no core pc tb : Nat) (x : Launch) (g : Group) (y : Gang) (r : LRec) (places : List (Nat × Seat)),
    (s.fatal = true → exec .dispatcherPass s = .next s) ∧
    (s.fatal = false → exec .dispatcherPass s = .next ([7, 6, 5, 4, 3, 2, 1, 0].foldl (fun t p =>
      (t.round p).foldl (fun t q => (t.competing q p).foldl State.serve t) t) s)) ∧
    (s.fitGang (List.replicate x.lrec.gang (some (x.lrec.ask l))) = some places → ∃ (t : State) (y : Gang), s.startGang l x no = some t ∧ t.mem = s.mem ∧
      Table.find t.gangs s.serial = some y ∧ y.launch = l ∧ y.no = no ∧ y.cores = places.map (·.1) ∧ y.yielding = none ∧ y.victim = false ∧
      ∀ z, Table.find s.launches l = some z → Table.find t.launches l = some { z with redo := z.redo.filter (· != no), next := max z.next (no + 1) }) ∧
    (∀ (a : Ask4) (q : Seat), s.fit a core = some q → q.base % 512 = 0 ∧ q.base + a.bytes ≤ 786432 ∧
      ∀ w ∈ s.wgs, w.2.core = core → q.base + a.bytes ≤ w.2.base ∨ w.2.base + w.2.size ≤ q.base) ∧
    (∀ wg gang w n now clk, let g := startGroup l r wg gang w n now clk
      g.gid = 16 * w + n ∧ g.level = .user ∧ g.handler = none ∧ g.yield = .none ∧ g.horizon = BitVec.ofNat 64 now ∧
      (∃ f, g.frags = [(0, f)] ∧ f.mask = firstLanes r.threads ∧ f.pc = 12 * r.entry ∧ f.wait = .none) ∧
      (∀ v l, g.vget v l = 0 ∧ g.flags l = 0) ∧ (∀ n, g.pmask n = 0) ∧ ((r.pre.map (·.1)).Nodup → ∀ n, g.sget n = ((Table.find r.pre n).getD 0)) ∧
      ∀ l < 128, g.seed l = let v : Word := BitVec.ofNat 32 (((w * 16 + n) * 128 + l) * 0x9E3779B9); if v = 0 then 1 else v) ∧
    (Table.find s.launches l = some x → s.mayPack core l pc x = true → ∃ t : State, exec (.packedGroupStart core l pc) s = .next t ∧ t.mem = s.mem ∧
      let items := (s.partial_ core l pc).take 128
      (∀ n, n ≠ 64 * core + (s.freeSlots core).headD 0 → t.group? n = s.group? n) ∧
      t.group? (64 * core + (s.freeSlots core).headD 0) = some (startPacked l x.lrec x.packed items pc s.now s.clk) ∧
      (t.core core).items = takeItems l pc 128 (s.core core).items ∧
      Table.find t.launches l = some { x with packed := x.packed + 1 }) ∧
    (Table.find s.launches l = some x → s.mayPack core l pc x = false → exec (.packedGroupStart core l pc) s = .next s) ∧
    (s.group? k = some g → g.yield = .raised tb → g.handler = none → s.unfinished g = false → ∃ (t : State) (g' : Group), exec (.yieldTrap k) s = .next t ∧
      t.group? k = some g' ∧ (∀ n, n ≠ k → t.group? n = s.group? n) ∧ t.mem = s.mem ∧
      let calm := g.frags.map fun (f : Nat × Frag) => (f.1, f.2.calm s.clk)
      let label := (Table.find s.launches g.launch).bind fun l => l.lrec.yield
      (∀ n, label = some n → g'.yield = .running tb ∧ g'.saved = some ⟨calm, g.fflags, g.srseed, g.horizon⟩ ∧
        g'.frags = [(0, wholeFrag g (12 * n) s.clk .none)] ∧ { g' with yield := g.yield, saved := g.saved, frags := g.frags } = g) ∧
      (label = none → g' = { g with frags := calm, yield := .suspended })) ∧
    (s.group? k = some g → ((∀ tb, g.yield ≠ .raised tb) ∨ g.handler ≠ none ∨ s.unfinished g = true) → exec (.yieldTrap k) s = .next s) ∧
    (Table.find s.gangs k = some y → y.yielding ≠ none → (∃ g ∈ s.groups, g.2.gang = some k ∧ g.2.overran s.now = true) →
      exec (.yieldBudgetExpiry k) s =
        .next ((s.groups.filter fun g => g.2.gang == some k && g.2.yield != .suspended).foldl (fun t g => t.stopGroup g.1 g.2) s)) ∧
    (let pc := (g.acting.head?.map fun f => f.2.pc).getD 0;
      let r : Record := ⟨true, 0x34, 0, BitVec.ofNat 32 (pc / 12), 0⟩
      let t := s.stopGroup k g
      t.group? k = some { g with record := r, yield := .suspended } ∧ (∀ n, n ≠ k → t.group? n = s.group? n) ∧
      ∃ (u : State) (lanes : Mask), (∀ l < 128, lanes.getLsbD l = g.frags.any fun f => f.2.mask.getLsbD l) ∧ t = u.reportFault k g r 0 0 lanes) ∧
    (Table.find s.gangs k = some y → (y.yielding = none ∨ ∀ g ∈ s.groups, g.2.gang = some k → g.2.overran s.now = false) →
      exec (.yieldBudgetExpiry k) s = .next s) ∧
    (Table.find s.gangs k = some y → s.quiesced k y = false → exec (.gangStateSave k) s = .next s) ∧
    (Table.find s.gangs k = some y → s.quiesced k y = true → s.owed k = [] → (s.saveReads k (s.saveOf k y)).2 = false → ∃ t : State,
      exec (.gangStateSave k) s = .next t ∧
      Table.find t.gangs k = none ∧ (∀ w z, Table.find t.wgs w = some z → z.gang ≠ k) ∧
      ∀ c, Table.find s.ctxs (s.ctxOf y.launch) = some c → ∃ c', Table.find t.ctxs (s.ctxOf y.launch) = some c' ∧
        (let bare := fun (v : SavedGang) => { v with images := [] };
          c'.saved.map bare = (c.saved ++ [s.saveOf k y]).map bare) ∧
        (c.prot = false → c'.saved = c.saved ++ [s.saveOf k y] ∧ c'.latest = c.latest) ∧
        (c.prot = true →
          let taken := (s.ctxs.filter fun d => d.1 != s.ctxOf y.launch).flatMap fun d => d.2.saved.flatMap fun v => v.images.map fun i => (i.2.1, 64 + i.2.2)
          let parts := (c.saved ++ [s.saveOf k y]).flatMap SavedGang.parts
          match firstFit taken saveBase dramEnd 128 (total (parts.map fun p => 64 + p.length)) with
          | none => (∀ v ∈ c'.saved, v.images = []) ∧ c'.latest = c.latest
          | some _ => (∀ n, Table.get 0 c'.latest n = if n = 255 then Table.get 0 c.latest 255 + 1 else Table.get 0 c.latest n) ∧
            ∀ v ∈ c'.saved, v.images.map (fun i => i.2.2) = v.parts.map List.length) ∧
        { c' with saved := c.saved, latest := c.latest, poolq := c.poolq } = c)

/-- The registers of functions and queues, and a command's start and end (R402 to R406, R432, R433). -/
def Obligations.QueueRegisters : Prop :=
  ∀ (s : State) (fn q off status : Nat) (v : Word) (d value : DWord) (t16 : BitVec 16) (t12 : BitVec 12) (c : Cmd) (entry : List Byte),
    let fnHere := fn = 0 ∨ fn < 17 ∧ (s.fn fn).on = true
    let here := fnHere ∧ q < 16
    let r := s.queue fn q
    let sets := fun (i : Instr) (r' : QRegs) => ∃ t : State, exec i s = .next t ∧ t.queue fn q = r' ∧ t.mem = s.mem ∧ { t with fns := s.fns } = s ∧
      (∀ f p, (f, p) ≠ (fn, q) → t.queue f p = s.queue f p) ∧ ∀ f, { t.fn f with queues := (s.fn f).queues } = s.fn f
    let setsFn := fun (i : Instr) (f' : Fn) => ∃ t : State, exec i s = .next t ∧ t.fn fn = f' ∧ { t with fns := s.fns } = s ∧ ∀ f, f ≠ fn → t.fn f = s.fn f
    (here → sets (.cqdoor fn q t16) { r with cqdoor := t16.setWidth 32 }) ∧
    (here → sets (.queueErrorClear fn q) { r with cqcfg := r.cqcfg &&& 0xBFFFFFFF }) ∧
    (here → s.cmd? fn q = none → sets (.cchead fn q t16) { r with cchead := t16.setWidth 32 }) ∧
    (here → s.cmd? fn q = some c → ∀ n w, c.out = some (n, w) →
      exec (.cchead fn q t16) s = .next ((s.setQueue fn q { r with cchead := t16.setWidth 32 }).retireCmd c n w)) ∧
    (here → v.getLsbD 31 = true → let n := v.toNat % 32
      let ok := 4 ≤ n ∧ n ≤ 16 ∧ r.cqbad = false ∧ r.ccbad = false
      (ok → ∃ cfg : Word, cfg.getLsbD 31 = true ∧ cfg.toNat % 32 = n ∧ (cfg.getLsbD 30 = true ↔ r.cqcfg.getLsbD 30 = true ∧ v.getLsbD 30 = false) ∧
        sets (.queueRegister fn q v) { r with cqcfg := cfg, cqdoor := 0, cqhead := 0, cctail := 0, cchead := 0, closing := false }) ∧
      (¬ ok → ∃ cfg : Word, cfg.getLsbD 31 = false ∧ cfg.getLsbD 30 = true ∧ sets (.queueRegister fn q v) { r with cqcfg := cfg })) ∧
    (here → v.getLsbD 31 = false → let current := r.cqcfg.getLsbD 31 = true ∧ s.cmd? fn q ≠ none
      ∃ cfg : Word, (cfg.getLsbD 31 = true ↔ current) ∧ (current → cfg.toNat % 32 = r.cqcfg.toNat % 32) ∧
        sets (.queueUnregister fn q v) { r with cqcfg := cfg, closing := if current then true else r.closing }) ∧
    (fnHere → setsFn (.fqhead fn t12) { s.fn fn with fqhead := t12.setWidth 32 }) ∧
    (fnHere → setsFn (.fqOverflowClear fn) { s.fn fn with fqtail := (s.fn fn).fqtail &&& 0x7FFFFFFF }) ∧
    (fnHere → setsFn (.registerWrite fn 0x200 d) { s.fn fn with fqbase := d &&& 0xFFFFFFFFFFFFF000 }) ∧
    (fnHere → setsFn (.registerWrite fn 0x208 d) { s.fn fn with fqcfg := d.setWidth 32 &&& 0xF1 }) ∧
    (here → sets (.registerWrite fn (0x1000 + 0x40 * q) d) { r with cqbase := d &&& 0xFFFFFFFFFFFFF000, cqbad := d &&& 0xFFF != 0 } ∧
      sets (.registerWrite fn (0x1008 + 0x40 * q) d) { r with ccbase := d &&& 0xFFFFFFFFFFFFF000, ccbad := d &&& 0xFFF != 0 }) ∧
    (off ≠ 0x200 → off ≠ 0x208 → (off < 0x1000 ∨ 0x1400 ≤ off) → fn = 0 → off = Config.vfControl → ∃ t : State,
      exec (.registerWrite fn off d) s = .next t ∧ { t with fns := s.fns } = s ∧
      ∀ f, t.fn f = if 1 ≤ f ∧ f ≤ 16 then { s.fn f with on := d.getLsbD f } else s.fn f) ∧
    (off ≠ 0x200 → off ≠ 0x208 → (off < 0x1000 ∨ 0x1400 ≤ off → fn ≠ 0 ∨ off ≠ Config.vfControl) →
      (off < 0x1000 ∨ 0x1400 ≤ off ∨ (off % 0x40 ≠ 0 ∧ off % 0x40 ≠ 8)) → exec (.registerWrite fn off d) s = .next s) ∧
    (¬ fnHere → ∀ i ∈ [Instr.fqhead fn t12, .fqOverflowClear fn, .registerWrite fn off d], exec i s = .next s) ∧
    (¬ here → ∀ i ∈ [Instr.cqdoor fn q t16, .cchead fn q t16, .queueErrorClear fn q, .queueRegister fn q v, .queueUnregister fn q v,
      .commandStart fn q], exec i s = .next s) ∧
    (s.mayStart fn q = false → exec (.commandStart fn q) s = .next s) ∧
    (s.mayStart fn q = true → let n := 2 ^ (r.cqcfg.toNat % 32)
      let h := r.cqhead.toNat % n
      let b := s.hostBytes (r.cqbase.toNat / 4096 * 4096 + 64 * h) 64
      let c : Cmd := ⟨fn, q, leNat (b.take 2), leNat ((b.drop 2).take 2), BitVec.ofNat 32 (leNat ((b.drop 4).take 4)), leNat ((b.drop 8).take 4),
        b.drop 12, none, none⟩
      let t := s.setQueue fn q { r with cqhead := BitVec.ofNat 32 ((h + 1) % n) }
      exec (.commandStart fn q) s = .next (if c.code ∈ [1, 2, 3, 4, 5, 6, 7, 8, 9, 10, 11, 12, 13, 16, 17, 18, 19, 20, 21]
        then { t with cmds := t.cmds ++ [c] } else ({ t with cmds := t.cmds ++ [c] } : State).retireCmd c 1 0)) ∧
    (let u := s.retireCmd c status value
      let r := s.queue c.fn c.q
      let n := 2 ^ (r.cqcfg.toNat % 32)
      let rest := s.cmds.filter fun d => !(d.fn == c.fn && d.q == c.q)
      (c.flags % 2 = 0 → r.closing = false → u = { s with cmds := rest }) ∧
      (c.flags % 2 = 1 → r.full = true → u = { s with cmds := s.cmds.map fun d => if d.fn == c.fn && d.q == c.q then
        { d with out := some (status, value) } else d }) ∧
      (c.flags % 2 = 1 → r.full = false → u.cmds = rest ∧ (u.queue c.fn c.q).cctail = BitVec.ofNat 32 ((r.cctail.toNat % n + 1) % n) ∧
        u.mem = s.mem.setBytes (hostBase + (r.ccbase.toNat / 4096 * 4096 + 16 * (r.cctail.toNat % n)) % 2 ^ 50)
          (leBytes 4 c.tag.toNat ++ leBytes 2 status ++ leBytes 2 0 ++ leBytes 8 value.toNat))) ∧
    (let f := s.fn fn
      let w := f.fqcfg.toNat / 16 % 16
      let tail := f.fqtail.toNat % 4096
      let on := f.fqcfg.getLsbD 0 = true ∧ 4 ≤ w ∧ w ≤ 12 ∧ (tail + 1) % 2 ^ w ≠ f.fqhead.toNat % 2 ^ w
      let u := s.pushFault fn entry
      (on → u.mem = s.mem.setBytes (hostBase + (f.fqbase.toNat / 4096 * 4096 + 64 * (tail % 2 ^ w)) % 2 ^ 50) entry ∧
        u.fn fn = { f with fqtail := (f.fqtail &&& 0x80000000) ||| BitVec.ofNat 32 ((tail + 1) % 2 ^ w) }) ∧
      (¬ on → u.mem = s.mem ∧ u.fn fn = { f with fqtail := f.fqtail ||| 0x80000000 }))

/-- The firmware's commands (R402, R406 to R413, R420, R474, R486, R489, R495). The statuses that the rules name for no case are the model's:
of an abort on a device that does not lead the launch, and of others (logs 87, 118). -/
def Obligations.Commands : Prop :=
  ∀ (s u : State) (fn q : Nat) (c : Cmd) (x : Ctx) (b : List Byte) (r : LRec) (e : Fail),
    let forms : List (Instr × Nat × List (Nat × Nat) × Bool × Bool) :=
      [(.launch fn q, 0x01, [(12, 8), (20, 1)], true, false), (.hostCopy fn q, 0x02, [(12, 8), (20, 8), (28, 8), (36, 1)], true, false),
       (.map fn q, 0x03, [(12, 8), (20, 1), (24, 4), (28, 8)], true, false), (.unmap fn q, 0x04, [(12, 8), (20, 1), (24, 4)], true, false),
       (.poolGrant fn q, 0x05, [(12, 8), (20, 2), (22, 1)], true, false), (.tokenSignal fn q, 0x06, [(12, 2), (16, 4)], false, false),
       (.tokenWait fn q, 0x07, [(12, 2), (16, 4)], false, false), (.contextCreate fn q, 0x08, [(12, 1), (14, 2)], false, false),
       (.contextSave fn q, 0x09, [], true, false), (.contextRestore fn q, 0x0A, [], true, false), (.launchAbort fn q, 0x0B, [(12, 4)], true, false),
       (.loadImage fn q, 0x0C, [(12, 8), (20, 4)], true, false), (.contextDestroy fn q, 0x0D, [], true, false),
       (.healthQuery fn q, 0x10, [(12, 8)], false, false), (.scanTest fn q, 0x11, [(12, 4)], false, true), (.deconfigure fn q, 0x12, [(12, 4)], false, true),
       (.attest fn q, 0x13, [(12, 8), (20, 8)], true, false), (.reclaim fn q, 0x14, [(12, 8)], false, true), (.nodeQuery fn q, 0x15, [], false, false)]
    let tidy := fun (used : List (Nat × Nat)) (named : Bool) => c.flags < 2 ∧ (named = false → c.ctx = 0) ∧
      ∀ k < 52, c.ops.getD k 0 = 0 ∨ ∃ w ∈ used, w.1 ≤ k + 12 ∧ k + 12 < w.1 + w.2
    let arg := fun (o n : Nat) => leNat ((c.ops.drop (o - 12)).take n)
    let ends := fun (i : Instr) (t : State) (st : Nat) (v : DWord) => exec i s = .next (t.retireCmd c st v)
    let at_ := s.cmd? fn q = some c ∧ c.out = none
    let code := fun (e : Fail) => if e.status = 2 then 3 else if e.status = 3 ∨ e.status = 6 then 2 else 6
    let runs := fun (i : Instr) => at_ ∧ ∃ f ∈ forms, f.1 = i ∧ c.code = f.2.1 ∧ tidy f.2.2.1 f.2.2.2.1 ∧ (f.2.2.2.2 = true → fn = 0) ∧
      (f.2.2.2.1 = true → Table.find s.ctxs c.ctx = some x ∧ x.fn = fn)
    (∀ f ∈ forms, at_ → c.code = f.2.1 →
      (¬ tidy f.2.2.1 f.2.2.2.1 → ends f.1 s 1 0) ∧
      (tidy f.2.2.1 f.2.2.2.1 → f.2.2.2.2 = true → fn ≠ 0 → ends f.1 s 2 0) ∧
      (tidy f.2.2.1 f.2.2.2.1 → f.2.2.2.1 = true → Table.find s.ctxs c.ctx = none → ends f.1 s 3 0) ∧
      (tidy f.2.2.1 f.2.2.2.1 → f.2.2.2.1 = true → Table.find s.ctxs c.ctx = some x → x.fn ≠ fn → ends f.1 s 2 0)) ∧
    (runs (.launch fn q) → c.launch ≠ none → exec (.launch fn q) s = .next s) ∧
    (runs (.launch fn q) → c.launch = none → (2 ≤ arg 20 1 ∨ arg 12 8 % 128 ≠ 0) → ends (.launch fn q) s 1 0) ∧
    (runs (.launch fn q) → c.launch = none → arg 20 1 < 2 → arg 12 8 % 128 = 0 → s.getBytes c.ctx (arg 20 1 == 1) (arg 12 8) 1024 = .bad u e →
      ends (.launch fn q) u (code e) 0) ∧
    (u.recordStatus fn r = match ((r.waits ++ r.signal.toList).map fun t => u.tokenStatus fn t.n).find? (· != 0) with
      | some n => n
      | none => if 1 < r.devices ∧ r.node 0 ≠ u.node.toNat then 3 else 0) ∧
    (runs (.launch fn q) → c.launch = none → arg 20 1 < 2 → arg 12 8 % 128 = 0 → s.getBytes c.ctx (arg 20 1 == 1) (arg 12 8) 1024 = .ok u b →
      (recordOf b = none → exec (.launch fn q) s = .next (u.retireCmd c 1 0)) ∧
      (recordOf b = some r → u.recordStatus fn r ≠ 0 → exec (.launch fn q) s = .next (u.retireCmd c (u.recordStatus fn r) 0)) ∧
      (recordOf b = some r → u.recordStatus fn r = 0 → let e := u.enterRecord c.ctx r b
        exec (.launch fn q) s = .next { e.2 with cmds := e.2.cmds.map fun d => if d.fn == fn && d.q == q then { d with launch := some e.1 } else d })) ∧
    (runs (.hostCopy fn q) → (4 ≤ arg 36 1 ∨ arg 28 8 < 1 ∨ 2 ^ 40 < arg 28 8) → ends (.hostCopy fn q) s 1 0) ∧
    (runs (.hostCopy fn q) → arg 36 1 < 4 → 1 ≤ arg 28 8 → arg 28 8 ≤ 2 ^ 40 → ∀ s1 s2 : State,
      let hs := arg 36 1 % 2 == 1
      let hd := arg 36 1 / 2 == 1
      let near := hs == hd && arg 12 8 < arg 20 8 && arg 20 8 < arg 12 8 + 4
      (hs = false → s.checkPages c.ctx (arg 12 8) (arg 28 8) false = .bad u e → ends (.hostCopy fn q) u (code e) 0) ∧
      ((if hs then s1 = s else s.checkPages c.ctx (arg 12 8) (arg 28 8) false = .ok s1 ()) →
        (hd = false → s1.checkPages c.ctx (arg 20 8) (arg 28 8) true = .bad u e → ends (.hostCopy fn q) u (code e) 0) ∧
        ((if hd then s2 = s1 else s1.checkPages c.ctx (arg 20 8) (arg 28 8) true = .ok s2 ()) →
          let copied := State.copyRun c.ctx hs hd (!near) (arg 28 8) s2 (arg 12 8) (arg 20 8) (arg 28 8)
          (copied = .bad u e → ends (.hostCopy fn q) u (code e) 0) ∧ (copied = .ok u () → ends (.hostCopy fn q) u 0 0)))) ∧
    (runs (.map fn q) → ∀ slots, let lv := arg 20 1
      let bits := levelBits lv
      let leaf : DWord := BitVec.ofNat 64 (arg 28 8)
      let leaves := (List.range (arg 24 4)).map fun i => pteSetFrame leaf (pteFrame leaf + i * 2 ^ bits)
      let pages := (List.range (arg 24 4)).map fun i => arg 12 8 + i * 2 ^ bits
      let formed := 2 ≤ lv ∧ lv ≤ 4 ∧ 1 ≤ arg 24 4 ∧ arg 24 4 ≤ 2 ^ 20 ∧ arg 12 8 % 2 ^ bits = 0 ∧ pteFrame leaf + arg 24 4 * 2 ^ bits ≤ 2 ^ 52 ∧
        ∀ e ∈ leaves, leafForm e lv = true
      (¬ formed → ends (.map fn q) s 1 0) ∧
      (formed → 2 ^ 57 < arg 12 8 + arg 24 4 * 2 ^ bits → ends (.map fn q) s 3 0) ∧
      (formed → arg 12 8 + arg 24 4 * 2 ^ bits ≤ 2 ^ 57 →
        (∀ st, State.mapSlots c.ctx lv x.root pages s = .inl st → ends (.map fn q) s st 0) ∧
        (State.mapSlots c.ctx lv x.root pages s = .inr (slots, u) →
          ends (.map fn q) (((pages.zip slots).zip leaves).foldl (fun (t : State) p => (t.setLeaf c.ctx p.1.1 p.1.2 bits p.2).releaseLeaf p.1.2) u) 0 0))) ∧
    (∀ (va level base lv lo : Nat) (rest : List (Nat × Nat)),
      let a := base + 8 * (va / 2 ^ lo % (if lv = 4 then 32 else 512))
      let slot := State.mapSlot c.ctx va level base ((lv, lo) :: rest) s
      (s.pte a = none → slot = .inl 6) ∧
      ∀ e, s.pte a = some e →
        (lv = level → slot = if pteValid e = true ∧ lv ≠ 4 ∧ pteLeaf e = false then .inl 3 else .inr (a, s)) ∧
        (lv ≠ level → pteValid e = false → s.newTable c.ctx = none → slot = .inl 4) ∧
        (lv ≠ level → pteValid e = false → ∀ t v, s.newTable c.ctx = some (t, v) →
          slot = State.mapSlot c.ctx va level t rest (v.putPte a (ptePointer t))) ∧
        (lv ≠ level → pteValid e = true → slot =
          if (2 ≤ lv ∧ pteLeaf e = true) ∨ pteTidy e = false then .inl 3 else State.mapSlot c.ctx va level (pteFrame e) rest s)) ∧
    (runs (.unmap fn q) → ∀ leaves : List (Nat × Nat), let lv := arg 20 1
      let bits := levelBits lv
      let pages := (List.range (arg 24 4)).map fun i => arg 12 8 + i * 2 ^ bits
      let formed := 2 ≤ lv ∧ lv ≤ 4 ∧ 1 ≤ arg 24 4 ∧ arg 24 4 ≤ 2 ^ 20 ∧ arg 12 8 % 2 ^ bits = 0
      (¬ formed → ends (.unmap fn q) s 1 0) ∧
      (formed → (∃ a ∈ pages, s.leafAt c.ctx a lv = none) → ends (.unmap fn q) s 3 0) ∧
      (formed → pages.map (fun a => s.leafAt c.ctx a lv) = leaves.map some → (∃ o ∈ s.ops, o.2.uses (leaves.map (·.2)) bits = true) →
        exec (.unmap fn q) s = .next s) ∧
      (formed → pages.map (fun a => s.leafAt c.ctx a lv) = leaves.map some →
        (∀ o ∈ s.ops, o.2.uses (leaves.map (·.2)) bits = false) → ∃ t : State, ends (.unmap fn q) t 0 0 ∧
        t = { (pages.zip leaves).foldl (fun (t : State) p => (t.setLeaf c.ctx p.1 p.2.1 bits 0).releaseLeaf p.2.1) s with
              prefetches := s.prefetches.filter fun p => !((leaves.map (·.2)).any fun f => f ≤ p.addr && p.addr < f + 2 ^ bits) })) ∧
    (runs (.poolGrant fn q) → let n := arg 20 2
      let size := arg 22 1
      let b := s.hostBytes (arg 12 8) (8 * n)
      let frames := (List.range n).map fun i => leNat ((b.drop (8 * i)).take 8)
      let formed := 1 ≤ n ∧ n ≤ 4096 ∧ size ≤ 2
      (¬ formed → ends (.poolGrant fn q) s 1 0) ∧
      (formed → (∃ a ∈ frames, a % sizeBytes size ≠ 0 ∨ dramEnd < a + sizeBytes size) → ends (.poolGrant fn q) s 3 0) ∧
      (formed → (∀ a ∈ frames, a % sizeBytes size = 0 ∧ a + sizeBytes size ≤ dramEnd) → x.poolq = [] →
      (∀ f ∈ s.fills, f.ctx ≠ c.ctx ∨ levelSize f.level ≠ size) →
      ends (.poolGrant fn q) (s.modCtx c.ctx fun y => y.setPool size (y.pool size ++ frames)) 0 (BitVec.ofNat 64 (x.pool size ++ frames).length))) ∧
    (runs (.tokenSignal fn q) → s.tokenStatus fn (arg 12 2) = 0 → let n := arg 12 2
      let v : Word := BitVec.ofNat 32 (arg 16 4)
      ends (.tokenSignal fn q) (s.signal n v) 0 0 ∧ ((s.signal n v).token n).toNat = max (s.token n).toNat v.toNat) ∧
    (runs (.tokenWait fn q) → s.tokenStatus fn (arg 12 2) = 0 → (arg 16 4 ≤ (s.token (arg 12 2)).toNat → ends (.tokenWait fn q) s 0 0) ∧
      ((s.token (arg 12 2)).toNat < arg 16 4 → exec (.tokenWait fn q) s = .next s)) ∧
    (runs (.contextCreate fn q) → ∀ a root, arg 12 1 < 2 → arg 14 2 ≤ 1024 → (if arg 14 2 = 0 then a = 0 else s.freeTokens (arg 14 2) = some a) →
      s.newTable s.freeCtx = some (root, u) → ∃ t : State, ends (.contextCreate fn q) t 0 (BitVec.ofNat 64 (s.freeCtx + a * 2 ^ 32)) ∧
        Table.find t.ctxs s.freeCtx = some ⟨fn, arg 12 1 == 1, Config.contextKey s.free, root, [], [], [], a, arg 14 2, [], 1, [], [], false, [], [], [root]⟩ ∧
        (∀ k < arg 14 2, t.token (a + k) = 0) ∧ t.mem = u.mem) ∧
    (runs (.contextSave fn q) → (x.hold = false → (∀ g ∈ s.gangs, s.ctxOf g.2.launch ≠ c.ctx) → (∀ l ∈ s.launches, l.2.ctx ≠ c.ctx) →
        exec (.contextSave fn q) s = .next (s.modCtx c.ctx fun y => { y with hold := true })) ∧
      (x.hold = true → (∀ l ∈ s.launches, l.2.ctx ≠ c.ctx) → ends (.contextSave fn q) s 0 0)) ∧
    (runs (.contextRestore fn q) → (x.saved = [] → ends (.contextRestore fn q) (s.modCtx c.ctx fun y => { y with hold := false }) 0 0) ∧
      (x.saved ≠ [] → x.hold = true → (∀ v ∈ x.saved, s.imagesOk c.ctx v = true) →
        exec (.contextRestore fn q) s = .next (s.modCtx c.ctx fun y => { y with hold := false })) ∧
      (x.saved ≠ [] → x.hold = true → (∃ v ∈ x.saved, s.imagesOk c.ctx v = false) → ends (.contextRestore fn q) s 5 0) ∧
      (x.prot = false → ∀ v, s.imagesOk c.ctx v = true) ∧
      (x.saved ≠ [] → x.hold = false → exec (.contextRestore fn q) s = .next s)) ∧
    (runs (.launchAbort fn q) → let id := arg 12 4
      ((∀ l ∈ s.launches, ¬ (l.2.ctx = c.ctx ∧ l.2.id = id)) → ends (.launchAbort fn q) s (if 1 ≤ id ∧ id < x.nextId then 0 else 3) 0) ∧
      ∀ l y, s.launches.find? (fun l => l.2.ctx == c.ctx && l.2.id == id) = some (l, y) →
        (c.launch ≠ none → exec (.launchAbort fn q) s = .next s) ∧
        (c.launch = none → y.dev ≠ 0 → ends (.launchAbort fn q) s 3 0) ∧
        (c.launch = none → y.dev = 0 →
          let t : State := { s with cmds := s.cmds.map fun d => if d.fn == fn && d.q == q then { d with launch := some l } else d }
          exec (.launchAbort fn q) s = .next (if 1 < y.lrec.devices then t.abortEverywhere l else t.abortLaunch l))) ∧
    (runs (.loadImage fn q) → let b := s.hostBytes (arg 12 8) (arg 20 4)
      (imageHeader b = none → ends (.loadImage fn q) s 1 0) ∧
      ∀ cn dn cva dva cls s1 s2 s3, imageHeader b = some (cn, dn, false, cva, dva, cls) →
        s.fillPages c.ctx cva cn = .ok s1 () → s1.fillPages c.ctx dva dn = .ok s2 () → s2.imageStatus c.ctx cva cn dva dn cls = 0 →
        s2.loadBytes c.ctx cva ((b.drop 128).take cn) = .ok s3 () → s3.loadBytes c.ctx dva ((b.drop (128 + cn)).take dn) = .ok u () →
        ends (.loadImage fn q) (((u.dropRange c.ctx cva cn).dropRange c.ctx dva dn).modCtx c.ctx fun y =>
          { y with images := y.images.filter (fun m => m.1 != cva) ++ [(cva, cn)], loaded := y.loaded ++ b }) 0 0) ∧
    (runs (.contextDestroy fn q) → (∀ l ∈ s.launches, l.2.ctx ≠ c.ctx) → s.endContext c.ctx x = some u → ends (.contextDestroy fn q) u 0 0 ∧
      Table.find u.ctxs c.ctx = none ∧ ∀ e ∈ u.seals, e.2.ctx ≠ c.ctx) ∧
    (runs (.healthQuery fn q) → ends (.healthQuery fn q) (s.setHost (arg 12 8) s.health.record.bytes) 0 0) ∧
    (∀ scan : Bool, let i : Instr := if scan then .scanTest fn q else .deconfigure fn q
      runs i → (∀ y ∈ s.scans, ¬ (y.fn = fn ∧ y.q = q)) →
      (s.coreMap[arg 12 4]? = none → ends i s 3 0) ∧
      ∀ core, s.coreMap[arg 12 4]? = some core → (scan = true → 8 ≤ (s.scans.filter fun y => y.scan).length → ends i s 4 0) ∧
        ((scan = true → (s.scans.filter fun y => y.scan).length < 8) → s.scanOn core = none → ∃ t : State, exec i s = .next t ∧
          t.scans = s.scans ++ [⟨core, fn, q, false, scan, s.now, s.urgent⟩] ∧ (t.core core).drain = true)) ∧
    (runs (.attest fn q) → ends (.attest fn q) (({ s with free := s.free + 1 } : State).setHost (arg 20 8) (s.report x (s.hostBytes (arg 12 8) 32))) 0 0) ∧
    (runs (.reclaim fn q) → let a := arg 12 8
      (a % 128 ≠ 0 → ends (.reclaim fn q) s 1 0) ∧ (a % 128 = 0 → dramEnd ≤ a → ends (.reclaim fn q) s 3 0) ∧
      (a % 128 = 0 → a < dramEnd → (s.entry (a / 128)).lost = 0 → ends (.reclaim fn q) s 0 0) ∧
      (a % 128 = 0 → a < dramEnd → (s.entry (a / 128)).lost ≠ 0 → s.lineBusy (a / 128) = false → ∃ t : State,
        let g := (s.gather (a / 128)).s
        ends (.reclaim fn q) t 0 ((g.entry (a / 128)).lost.setWidth 64) ∧ (t.entry (a / 128)).lost = 0 ∧
        ∀ y, t.mem.byte y = if y / 128 = a / 128 ∧ (g.entry (a / 128)).lost.getLsbD (y % 128 / 4) = true then 0 else g.mem.byte y)) ∧
    (runs (.nodeQuery fn q) → ends (.nodeQuery fn q) s 0 (s.node.setWidth 64))

/-- Links, messages, the hoist and dropped devices (R414 to R417, R475 to R479). The model's: that acknowledgements ride in flits and
that a replay request acknowledges the flits before the one it names (log 34), how links lead to peers (log 33), the messages about a
grid-wide pennant (log 67), and that a member releases its record on the leader's report (log 101). -/
def Obligations.Fabric : Prop :=
  ∀ (s : State) (link peer lead gen dev st l : Nat) (f : Flit) (ok stop : Bool) (seq : BitVec 12) (n : BitVec 16) (m : HMsg) (x : Launch),
    let k := s.link link
    let up := link < 24 ∧ k.up = true
    let sets := fun (i : Instr) (k' : Link) => ∃ t : State, exec i s = .next t ∧ t.link link = k' ∧ { t with links := s.links } = s ∧
      ∀ j, j ≠ link → t.link j = s.link j
    let flit : Instr := .halyardFlitReceive link f ok
    let first := ((k.sent.head?).map (·.seq)).getD k.tx
    let back := (seq - first).toNat
    let p := s.peer peer
    let leads := x.dev = s.leader x.lrec
    let launched := s.launchGen lead gen = some (l, x)
    let marked := k.full = false ∧ Config.stopMark ≤ k.buf.length + 1
    let past := x.closed || x.status == 6
    let member := fun (y : Launch) => decide (1 < y.lrec.devices) && y.lrec.nodes.contains peer
    let known := (List.range 24).filter fun j => (s.link j).peer = some peer
    let paths := if known = [] then (List.range 24).filter fun j => (s.link j).peer = none else known
    let cut := p.back = true ∨ (paths ≠ [] ∧ ∀ j ∈ paths, ∃ t, (s.link j).down = some t ∧ t + 1000000 ≤ s.now)
    let abort : HMsg := .abort (x.lrec.node 0) x.gen
    let away := { s with generation := s.generation + 1 }
    (¬ up → exec flit s = .next s ∧ exec (.replayRequest link seq) s = .next s ∧ exec (.linkRetrain link ok) s = .next s) ∧
    (up → (ok = false ∨ f.seq ≠ k.rx) → sets flit { k with out := k.out ++ [(true, k.rx)] }) ∧
    (up → ok = true → f.seq = k.rx → let k1 := if 64 ≤ k.since + 1
          then { k.acked f.ack with rx := k.rx + 1, since := 0, out := k.out ++ [(false, k.rx)], peer := some f.peer }
        else { k.acked f.ack with rx := k.rx + 1, since := k.since + 1, peer := some f.peer }
      (f.body = none → sets flit k1) ∧
      ∀ m, f.body = some m →
        (marked → sets flit { k1 with buf := k.buf ++ [(f.peer, f.mseq, m)], full := true, flow := k.flow ++ [true] }) ∧
        (¬ marked → sets flit { k1 with buf := k.buf ++ [(f.peer, f.mseq, m)] })) ∧
    (k.acked none = k ∧ ∀ q f0 r, k.sent = f0 :: r → let n := (q + 1 - f0.seq).toNat
      (1 ≤ n → n ≤ k.sent.length → k.acked (some q) = { k with sent := k.sent.drop n, tries := 0 }) ∧
      (n = 0 ∨ k.sent.length < n → k.acked (some q) = k)) ∧
    (k.release.buf = k.buf.drop 1 ∧
      (k.full = true → k.buf.length - 1 ≤ Config.goMark → k.release.full = false ∧ k.release.flow = k.flow ++ [false]) ∧
      (k.full = false ∨ Config.goMark < k.buf.length - 1 → k.release.full = k.full ∧ k.release.flow = k.flow)) ∧
    (up → back ≤ k.sent.length →
      sets (.replayRequest link seq) { k with sent := k.sent.drop back, tries := if back = 0 ∧ k.sent ≠ [] then k.tries + 1 else 0 }) ∧
    (link < 24 → sets (.stopGo link stop) { k with stop := stop }) ∧
    (up → (16 ≤ k.tries ∨ 16 ≤ k.asked) → sets (.linkRetrain link true) { k with tries := 0, out := [], stop := false }) ∧
    (up → (16 ≤ k.tries ∨ 16 ≤ k.asked) → exec (.linkRetrain link false) s = exec (.linkDown link) s) ∧
    (up → k.tries < 16 → k.asked < 16 → exec (.linkRetrain link ok) s = .next s) ∧
    (up → ∃ t : State, exec (.linkDown link) s = .next t ∧ (t.link link).up = false ∧ (t.link link).sent = [] ∧ (t.link link).down = some s.now ∧ t.mem = s.mem ∧
      ∀ j, j ≠ link → t.link j = s.link j) ∧
    (link < 24 → k.up = false → exec (.linkDown link) s = .next s) ∧
    (p.dropped = true ∨ n ≠ p.rx → exec (.halyardMessage peer n m) s = .next s) ∧
    (p.dropped = false → n = p.rx → let t := s.setPeer peer { p with rx := p.rx + 1 }
      exec (.halyardMessage peer n m) s = .next (t.receive peer m) ∧
      (m = .go lead gen → t.receive peer m = { t with agenda := t.agenda ++ [.go lead gen] }) ∧
      (m = .ready lead gen dev → t.receive peer m = { t with agenda := t.agenda ++ [.ready lead gen dev] }) ∧
      (m = .ended lead gen dev st → t.receive peer m = { t with agenda := t.agenda ++ [.ended lead gen dev st] }) ∧
      (m = .abort lead gen → t.receive peer m = { t with agenda := t.agenda ++ [.abort lead gen] }) ∧
      (∀ r, m = .bags r → t.receive peer m = { t with agenda := t.agenda ++ [.bags peer r] }) ∧
      (∀ no p, m = .pen lead gen no p → launched → t.receive peer m = t.hearPen l no p) ∧
      (∀ key st ws g, m = .rows key st ws g → t.receive peer m = t.modCopy key fun c =>
        if c.asked && c.reply.isNone then { c with reply := some (st, ws, g) } else c) ∧
      (∀ line tag, m = .update line tag → 128 * (line % 2 ^ 36) < dramEnd → (peer, tag) ∈ ((t.receive peer m).entry (line % 2 ^ 36)).joinq) ∧
      (m = .reset → ((t.receive peer m).peer peer).back = true) ∧
      ∀ line, m = .joined line → ∃ u : State, t.receive peer m = (s.launches.map (·.1)).foldl State.endLaunchIf u ∧
        (u.entry (peerLine peer line)).unacked = false ∧ { u with dir := t.dir } = t ∧ ∀ n, n ≠ peerLine peer line → u.entry n = t.entry n) ∧
    (launched → leads → x.go = false → past = false → dev < x.lrec.devices → let r := Table.get [] s.hoists l
      let r := if dev ∈ r then r else r ++ [dev]
      ((∃ d < x.lrec.devices, d ∉ r) → exec (.hoistReady ⟨lead, gen⟩ dev) s = .next { s with hoists := Table.insert s.hoists l r }) ∧
      ((∀ d < x.lrec.devices, d ∈ r) → exec (.hoistReady ⟨lead, gen⟩ dev) s =
        .next (((List.range x.lrec.devices).filter (· != x.dev)).foldl (fun t d => t.send (x.lrec.node d) (.go lead gen))
          { s with hoists := Table.erase s.hoists l, agenda := s.agenda ++ [.go lead gen] }))) ∧
    (launched → (¬ leads ∨ x.go = true ∨ past = true) → exec (.hoistReady ⟨lead, gen⟩ dev) s = .next s) ∧
    (launched → past = true → exec (.hoistGo ⟨lead, gen⟩) s = .next s) ∧
    (launched → past = false → ∃ t : State, exec (.hoistGo ⟨lead, gen⟩) s = .next t ∧ { t with launches := s.launches, hoists := s.hoists } = s ∧
      ∀ z, Table.find s.launches l = some z → Table.find t.launches l = some { z with go := true }) ∧
    (launched → leads → dev < x.lrec.devices → exec (.launchEndReport ⟨lead, gen⟩ dev st) s = .next ((s.modLaunch l fun y =>
      { y with reports := if y.reports.contains dev then y.reports else y.reports ++ [dev], status := if st = 0 then y.status else st }).endEverywhereIf l)) ∧
    (launched → ¬ leads → dev < x.lrec.devices →
      (x.closed = true ∧ dev = s.leader x.lrec → exec (.launchEndReport ⟨lead, gen⟩ dev st) s = .next { s with launches := Table.erase s.launches l }) ∧
      (¬ (x.closed = true ∧ dev = s.leader x.lrec) → exec (.launchEndReport ⟨lead, gen⟩ dev st) s = .next s)) ∧
    (launched → let t : State := { s with hoists := Table.erase s.hoists l }
      exec (.launchAbortMessage ⟨lead, gen⟩) s = .next (if leads then (t.abortEverywhere l).endEverywhereIf l
        else if x.closed then (t.abortLaunch l).reportEnd l else t.abortLaunch l)) ∧
    (s.launchGen lead gen = none → exec (.hoistReady ⟨lead, gen⟩ dev) s = .next s ∧ exec (.hoistGo ⟨lead, gen⟩) s = .next s ∧
      exec (.launchEndReport ⟨lead, gen⟩ dev st) s = .next s ∧ exec (.launchAbortMessage ⟨lead, gen⟩) s = .next s) ∧
    (launched → 1 < x.lrec.devices ∧ x.lrec.node 0 = lead ∧ x.gen = gen) ∧
    (p.dropped = true ∨ 128 ≤ peer ∨ peer = s.node.toNat ∨ ¬ cut → exec (.deviceDrop peer) s = .next s) ∧
    (p.dropped = false → peer < 128 → peer ≠ s.node.toNat → cut → ∃ t : State,
      exec (.deviceDrop peer) s = .next ((t.launches.map (·.1)).foldl State.endLaunchIf t) ∧
      ∃ u : State, t = (s.launches.filter fun z => member z.2).foldl (fun (u : State) z => u.memberLost z.1 z.2) u ∧
        u.launches = s.launches ∧ (u.peer peer).dropped = true ∧ (u.peer peer).outbox = [] ∧
        ((∀ d ∈ s.dir, peer ∉ d.2.devs) → u.mem = s.mem ∧ (∀ n, n ≠ peer → u.peer n = s.peer n) ∧
          u.log = (if s.log.length < 4096 then s.log else s.log.tail) ++ [⟨11, BitVec.ofNat 16 peer, 0, 0, 0, 0, s.tb⟩]) ∧
        (∀ m ∈ u.monitors, ∀ key, m.peer ≠ some (peer, key)) ∧ (∀ q ∈ u.parked, q.1 ≠ peer) ∧
        ∀ n, place (128 * n) ≠ .peer → peer ∈ (s.entry n).devs → (u.entry n).lost = BitVec.allOnes 32) ∧
    (Table.find s.launches l = some x →
      (leads → s.memberLost l x = (if x.status = 6 then s else s.abortEverywhere l).endEverywhereIf l) ∧
      (¬ leads → s.memberLost l x = (s.send (x.lrec.node (s.leader x.lrec)) abort).reportEnd l) ∧
      (leads → s.abortEverywhere l = ((s.others x).foldl (fun (t : State) d => t.send (x.lrec.node d) abort) away).abortLaunch l) ∧
      (¬ leads → s.abortEverywhere l = (s.send (x.lrec.node (s.leader x.lrec)) abort).abortLaunch l) ∧
      (x.closed = true → s.reportEnd l = s.send (x.lrec.node (s.leader x.lrec)) (.ended (x.lrec.node 0) x.gen x.dev x.status)) ∧
      (x.closed = false → s.reportEnd l = s) ∧
      (∀ d, d ∈ s.others x ↔ d < x.lrec.devices ∧ d ≠ x.dev ∧ s.standing x.lrec d = true) ∧
      ∀ d, s.standing x.lrec d = true ↔ x.lrec.node d = s.node.toNat ∨ (s.peer (x.lrec.node d)).dropped = false)

/-- Power, scan tests, ageing, the health record, management and the resets (R16, R17, R419, R458, R484 to R495). The model's: that
from 95 to 100 °C with a mean above 2,400 W the clock is lowered (log 41) and the mean of fewer than ten windows (log 94), what a
restore before the end of a drain leaves (log 121), what a reset leaves beyond what R419 names (log 90), and the layouts of the
side-band reads (log 91). -/
def Obligations.Health : Prop :=
  ∀ (s : State) (watts hottest core unit : Nat) (half short pass : Bool) (slow : BitVec 8) (node : BitVec 7) (y : Scan),
    let means := (watts :: s.power.means).take 10
    let early := ∃ t, (s.unitAt unit).last = some t ∧ s.now < t + 1000000000
    let r := s.health.record
    let rows := fun (l : List LogRec) => l.flatMap LogRec.toBytes
    (exec (.powerWindow watts hottest) s = .next { s with
      power := { s.power with means := means },
      mhz := if 100 ≤ hottest ∨ 2400 * means.length < means.sum then max 450 (s.mhz - 25)
        else if 95 ≤ hottest ∨ 2300 * means.length ≤ means.sum then s.mhz else min 950 (s.mhz + 25) }) ∧
    (s.tripped (if half then 72 else 0) = true → exec (.thermalTrip half) s = .next s) ∧
    (s.tripped (if half then 72 else 0) = false → ∃ t : State, exec (.thermalTrip half) s = .next t ∧ { t with power := s.power, health := s.health } = s ∧
      ∀ c, t.tripped c = if c / 72 = (if half then 1 else 0) ∨ (half = true ∧ c / 72 ≠ 0) then true else s.tripped c) ∧
    (∃ t : State, exec (.thermalTripEnd half) s = .next t ∧ { t with power := s.power } = s ∧
      ∀ c < 144, t.tripped c = if c / 72 = (if half then 1 else 0) then false else s.tripped c) ∧
    (s.mapDue = false → exec .coreMapChange s = .next s) ∧
    (s.mapDue = true → (let t : State := { s with coreMap := s.inService };
        ∀ l x, Table.find s.launches l = some x → t.hasPending l = true → t.couldPlace l x = true) →
      exec .coreMapChange s = .next { s with coreMap := s.inService }) ∧
    (s.scanOn core = none → exec (.scanDrainDone core) s = .next s ∧ exec (.scanDrainTimeout core) s = .next s ∧
      exec (.scanRunDone core pass) s = .next s ∧ exec (.scanTestAbort core) s = .next s) ∧
    (s.scanOn core = some y →
      (y.run = false → s.drained core = true → y.scan = true → exec (.scanDrainDone core) s = .next { s.cleanCore core with
        scans := (s.cleanCore core).scans.map fun z => if z = y then { y with run := true, tb := (s.cleanCore core).now } else z }) ∧
      (y.run = false → s.drained core = true → y.scan = false →
        exec (.scanDrainDone core) s = .next (((s.cleanCore core).fence core ((s.cleanCore core).fenceCode core)).endScan y 0)) ∧
      (y.run = true ∨ s.drained core = false → exec (.scanDrainDone core) s = .next s) ∧
      (y.scan = true → y.run = false → y.tb + 1000000000 ≤ s.now → exec (.scanDrainTimeout core) s = .next (s.endScan y 3)) ∧
      (y.run = true → y.tb + 200000 ≤ s.now →
        exec (.scanRunDone core true) s = .next ((({ s with health := s.health.bump 5 } : State).restoreCore core).endScan y 0) ∧
        exec (.scanRunDone core false) s = .next (((({ s with health := s.health.bump 6 } : State).fence core 3).restoreCore core).endScan y 1)) ∧
      (y.run = false ∨ s.now < y.tb + 200000 → exec (.scanRunDone core pass) s = .next s) ∧
      (y.scan = true → (∃ z ∈ s.urgent, z ∉ y.heads) → let t : State := { s with health := s.health.bump 7 }
        exec (.scanTestAbort core) s = .next ((if y.run then t.restoreCore core
          else if t.drained core then (t.cleanCore core).restoreCore core else t.restoreIdle core).endScan y 2)) ∧
      (y.scan = false ∨ (∀ z ∈ s.urgent, z ∈ y.heads) → exec (.scanTestAbort core) s = .next s)) ∧
    (∀ z, z ∈ s.urgent ↔ ∃ l : Launch, (z, l) ∈ s.launches ∧ 6 ≤ l.lrec.prio ∧ l.started = false ∧
      (Table.get [] s.queues l.lrec.queue).head? = some z ∧ s.tokensMet l.lrec = true) ∧
    ((((s.cleanCore core).core core).l1 = []) ∧ ((s.fence core 3).core core).fenced = true ∧
      s.fenceCode core = (if (s.unitAt core).st = 0 then 2 else (s.unitAt core).st)) ∧
    (let t := s.restoreCore core;
      (t.core core).l1 = [] ∧ (t.core core).tlb = [] ∧ ∀ p < 4, t.mat core p = Mat.reset) ∧
    (({ s.restoreIdle core with mats := s.mats, cores := s.cores } : State) = s ∧ ∀ p < 4, (s.restoreIdle core).mat core p = (if (s.mat core p).owner = none then Mat.reset else s.mat core p)) ∧
    (272 ≤ unit ∨ early → exec (.ageingSample unit short slow) s = .next s) ∧
    (unit < 272 → ¬ early → ∃ t : State, exec (.ageingSample unit short slow) s = .next t ∧ t.mem = s.mem ∧ (∀ n, n ≠ unit → t.unitAt n = s.unitAt n) ∧
      let x := { s.unitAt unit with last := some s.now }
      let third := short = true ∧ 3 ≤ x.short + 1
      (short = false → t.unitAt unit = { x with slow := slow, short := if x.g = 12 then x.short else 0 }) ∧
      (short = true → ¬ third → t.unitAt unit = { x with slow := slow, short := x.short + 1 }) ∧
      (third → x.g ≠ 12 → t.unitAt unit = { x with slow := slow, short := 0, g := x.g + 1 }) ∧
      (third → x.g = 12 → t.unitAt unit = { x with slow := slow, short := 3, st := if x.st = 0 then 1 else x.st }) ∧
      (third → x.g = 12 → x.st = 0 → unit < 144 → (t.core unit).drain = true) ∧
      (¬ (third ∧ x.g = 12 ∧ x.st = 0 ∧ unit < 144) → { t with health := s.health } = s)) ∧
    (exec .errorFilterEpoch s = .next (if s.now / 2 ^ 46 = s.epoch then s else { s with epoch := s.now / 2 ^ 46, bloom := [], repeats := [] })) ∧
    (s.rebuildDue = false → exec .healthRebuild s = .next s) ∧
    (s.rebuildDue = true → exec .healthRebuild s = .next { s with
      health := { s.health with
        record := ⟨s.health.seq + 1, s.now, s.health.secs + s.now / 1000000000, s.coreMap, (List.range 144).filter fun c => (s.core c).fenced,
          (s.health.units.map fun u => (u.1, u.2.entry)).filter fun u => u.2 != 0, s.health.counts, s.health.rows, s.health.wdev, s.free⟩,
        seq := s.health.seq + 1, tb := s.tb }, free := s.free + 1 }) ∧
    (s.health.tb.toNat + 60000000000 ≤ s.now ∨ r.cores ≠ s.coreMap ∨ r.counts ≠ s.health.counts ∨ r.rows ≠ s.health.rows ∨
      r.wdev ≠ s.health.wdev → s.rebuildDue = true) ∧
    (r.body.length = 2240 ∧ r.bytes.length = 4096 ∧ r.bytes.take 2240 = r.body ∧ (r.bytes.drop 2240).take 64 = digestOf r.body) ∧
    (exec .healthRecordRead s = .next { s with sideband := s.sideband ++ [r.bytes] }) ∧
    (exec .ageingMonitorRead s = .next { s with sideband := s.sideband ++ [(List.range 272).flatMap fun u => leBytes 2 (s.unitAt u).entry] }) ∧
    (exec .errorLogRead s = .next { s with sideband := s.sideband ++ [rows s.log] }) ∧
    (∃ t : State, exec .warmReset s = .next t ∧ t.groups = [] ∧ t.wgs = [] ∧ t.gangs = [] ∧ t.launches = [] ∧ t.ctxs = [] ∧ t.cmds = [] ∧
      t.fns = [] ∧ t.tokens = [] ∧ t.seals = [] ∧ t.ops = [] ∧ t.fatal = false ∧ t.cur = none ∧ t.coreMap = t.inService ∧
      (let u := (s.launches.map (·.1)).foldl State.abortLaunch s;
        t.mem = u.mem ∧ t.held = u.held ∧ t.wet = u.wet ∧ t.log = u.log ∧ t.node = u.node ∧
        (∀ n, t.entry n = { u.entry n with sealed := none }) ∧ (s.launches = [] → u = s)) ∧
      (∀ z ∈ s.scans, z.scan = false → (t.core z.core).fenced = true) ∧ ∀ n ∈ s.partners, HMsg.reset ∈ (t.peer n).outbox) ∧
    (∃ t : State, exec .coldReset s = .next t ∧ exec (.powerOn node) s = .next { t with node := node } ∧
      (∀ a, t.mem.byte a = if a < dramEnd then 0 else s.mem.byte a) ∧ (∀ u, t.unitAt u = { s.unitAt u with short := 0, last := none }) ∧
      t.groups = [] ∧ t.ctxs = [] ∧ t.fns = [] ∧ t.log = [] ∧ t.fatal = false ∧ t.node = 0 ∧ (∀ n ∈ s.partners, HMsg.reset ∈ (t.peer n).outbox) ∧
      t.devFail = s.health.wdev ∧ (∀ c < 144, (t.core c).fenced = true ↔ (s.unitAt c).st ≠ 0) ∧
      t.coreMap = (List.range 144).filter fun c => (s.unitAt c).st == 0)

/-- What the device holds right after reset (R12, R142, R344, R404, R432). That memory reads 0 is the model's choice (log 5), as are
that no core is fenced (log 2) and that no virtual function is enabled (log 51). -/
def Obligations.ResetState : Prop :=
  let s := State.reset
  s.mhz = 950 ∧ s.tb = 0 ∧ s.cur = none ∧ s.groups = [] ∧ s.launches = [] ∧ s.ctxs = [] ∧ s.ops = [] ∧ s.log = [] ∧ s.fatal = false ∧
  (∀ f, (s.fn f).fqbase = 0 ∧ (s.fn f).fqcfg = 0 ∧ (s.fn f).fqhead = 0 ∧ (s.fn f).fqtail = 0) ∧
  (∀ f q, s.queue f q = ⟨0, 0, 0, 0, 0, 0, 0, false, false, false⟩) ∧ (∀ f, (s.fn f).on = false) ∧
  (∀ n, s.token n = 0) ∧
  (∀ line, (s.entry line).st = .I ∧ Table.find s.seals line = none) ∧
  (∀ c < 144, c ∈ s.coreMap) ∧
  s.mem.wf = true ∧ (∀ a, s.mem.byte a = 0)

/-- A step runs the instruction of the chosen fragment (R216, R245, R247, R425), in the state in which its words have been read: they
may be fetched from DRAM, and a line in P is merged. A word of a line whose home is busy is fetched again (R153). The order of the rest
of a step is the model's (log 4). -/
def Obligations.StepRunsDecoded : Prop :=
  ∀ (s : State) (k en p lv va' : Nat) (g : Group) (f : Frag) (w : InstrWord) (i : Instr) (e : Event) (t : Task) (r : List Task),
    let ctx := s.ctxOf g.launch
    let base := s.imageOf g f
    let va := base + f.pc
    let off : State := { s with cur := none }
    let chosen := s.agenda = [] ∧ s.selected = some (k, en, g, f)
    let at_ := s.codeAt k g f
    let pas := at_.map (·.2)
    let code := (s.readCode ctx pas).1
    let failed := (s.readCode ctx pas).2
    let spent := code.spend k en
    let reads := chosen ∧ (∀ e, s.fetch k g f ≠ .event e) ∧ ∀ p, s.fetch k g f ≠ .filling p
    let free := ∀ pa ∈ pas, s.lineBusy (pa / 128) = false
    let kills := fun (n pa va : Nat) => step s = .next ((spent.noteAbort pa n (some ctx)).abortKill k (abortRecord n va (f.pc / 12)) f.mask)
    let words := [va, va + 4, va + 8]
    let tr := s.translate (coreOf k) ctx
    let first := fun (a : Nat) (q : Nat → Prop) => a ∈ words ∧ q a ∧ ∀ b ∈ words, b < a → ¬ q b
    let inside := s.inImage ctx base f.pc = true
    let sound := inside ∧ ∀ a ∈ words, tr a ≠ .fault
    let pooled := fun (a : Nat) => ∃ p lv e, tr a = .pool p lv e
    let fills := fun (a : Nat) => ∃ p lv, tr a = .filling p lv
    let barred := fun (a : Nat) => ∃ pa c w, tr a = .page pa c w false
    (reads → free → failed = none → code.fetch k g f = .word w → decodeWord w = .ok i → step s = exec i code) ∧
    (reads → free → failed = none → code.fetch k g f = .word w → (∀ i, decodeWord w ≠ .ok i) →
      step s = .next (spent.takeEvent k en (Event.plain 0x01 0 f.mask))) ∧
    (∀ n pa, reads → free → failed = none → code.fetch k g f = .abort n pa va' → kills n pa va') ∧
    (∀ n pa, reads → free → failed = some (n, pa) →
      kills n pa (((at_.find? fun q => q.2 / 128 == pa / 128).map fun q => q.1 / 128 * 128 + pa % 128).getD 0)) ∧
    (reads → ¬ free → step s = .next (((s.claim pas).unspent k en).modFrag k en fun f => { f with since := s.clk + 1 })) ∧
    (s.flaws = [] → (∀ pa ∈ pas, (s.entry (pa / 128)).st ≠ .P) → failed = none ∧ code.mem = s.mem ∧ code.groups = s.groups ∧
      code.launches = s.launches ∧ code.cores = s.cores ∧ code.ctxs = s.ctxs) ∧
    (chosen → s.fetch k g f = .event e → let t := (if e.kind = 0x12 then s.noteFault (coreOf k) ctx e.addr.toNat else s).spend k en
      (e.leaf = none → step s = .next (t.takeEvent k en e)) ∧
      ∀ l, e.leaf = some l → step s = .next ((t.fillLeaf l.1).takeEvent k en e)) ∧
    (chosen → s.fetch k g f = .filling p → step s = .next ((s.unspent k en).modFrag k en fun f => { f with wait := .leaf p })) ∧
    (¬ inside → s.fetch k g f = .event (Event.plain 0x05 0 f.mask)) ∧
    (inside → first va' (fun a => tr a = .fault) → s.fetch k g f = .event ⟨0x12, 0, BitVec.ofNat 64 va', f.mask, 0, none⟩) ∧
    (∀ e, sound → first va' pooled → tr va' = .pool p lv e →
      s.fetch k g f = .event ⟨0x1B, 0, BitVec.ofNat 64 va', f.mask, 0, some (p, levelSize lv)⟩) ∧
    (sound → (∀ a ∈ words, ¬ pooled a) → first va' fills → tr va' = .filling p lv → s.fetch k g f = .filling p) ∧
    (sound → (∀ a ∈ words, ¬ pooled a ∧ ¬ fills a) → first va' barred → s.fetch k g f = .event ⟨0x13, 0, BitVec.ofNat 64 va', f.mask, 0, none⟩) ∧
    (∀ a b c : Nat, inside → (∃ q w, tr va = .page a q w true) → (∃ q w, tr (va + 4) = .page b q w true) → (∃ q w, tr (va + 8) = .page c q w true) →
      (s.badNewest a = none → s.badNewest b = none → s.badNewest c = none → s.fetch k g f = .word (s.newest c ++ s.newest b ++ s.newest a)) ∧
      (∀ n, s.badNewest a = some n → s.fetch k g f = .abort n a va) ∧
      (∀ n, s.badNewest a = none → s.badNewest b = some n → s.fetch k g f = .abort n b (va + 4)) ∧
      ∀ n, s.badNewest a = none → s.badNewest b = none → s.badNewest c = some n → s.fetch k g f = .abort n c (va + 8)) ∧
    (s.agenda = t :: r → step s = t.run { s with agenda := r }) ∧
    (s.agenda = [] → s.cur ≠ none → s.selected = none → step s = .next off) ∧
    (s.agenda = [] → s.cur = none → ∀ u, s.due = some u → step s = .next u) ∧
    (s.agenda = [] → s.cur = none → s.due = none → ∀ p, s.nextPart = some p → step s = exec (.issueSelect p.1 p.2) s) ∧
    (s.agenda = [] → s.cur = none → s.due = none → s.nextPart = none → step s = .next s.tick)

/-- Words of the map decode to the instructions they encode (R217 to R245). -/
def Obligations.WordsDecode : Prop :=
  let p : Pre := ⟨false, 63, 0⟩
  let word := fieldWord
  decodeWord 0x50DF89040000020008240007 = .ok (.ffma p ⟨1, 1⟩ 2 2 (.v 130) (.s 7)) ∧
  decodeWord 0x801F8000400082E040A80040 = .ok (.ld p .b32 .none (.v 130) ⟨0, false, 0, true, 0, 10, true, 0, 1⟩) ∧
  decodeWord 0x022080000000000000000000 = .ok (.exit ⟨true, 1, 0⟩) ∧
  decodeWord (word 0x007 0 63 1 0 0 0 0 0 0x40009 0x8FFFF 0x8FFD0) = .ok (.loop p 9 0xFFFFFFD0) ∧
  decodeWord (word 0x040 1 5 1 0 0 0 0 2 0x40004 0x40006 0xBFFFF) = .ok (.sadd ⟨true, 5, 0⟩ .d64 4 6 (.i 0x3FFFF)) ∧
  decodeWord (word 0x081 0 63 0 0 0 0 0 6 0xC0003 0xC002F 0xC0001) = .ok (.plop p 6 3 47 1) ∧
  decodeWord (word 0x0CC 0 63 0 1 2 0 1 11 0x00082 0xA0001 0x40007) = .ok (.isel p ⟨1, 2⟩ 43 130 (.i 0x20001) (.s 7)) ∧
  decodeWord (word 0x108 0 63 0 1 2 0 0 1 0x82 2 0x80128) = .ok (.bfx p ⟨1, 2⟩ .u32 130 (.v 2) (.i 0x128)) ∧
  decodeWord (word 0x1C2 0 63 1 0 0 0 2 12 0x40003 4 0) = .ok (.vred p .xsum32 2 (.s 3) 4) ∧
  decodeWord (word 0x240 0 63 1 0 0 0 0 3 0x40005 0xE0489 0) = .ok (.lds p .s16 .none (.s 5) ⟨0, false, 0, true, 64, 9, false, 0, 0⟩) ∧
  decodeWord (word 0x1A0 0 63 0 0 0 0 7 14 0x00010 0x00020 0x80024) = .ok (.cvt p ⟨0, 0⟩ .f8 7 16 (.v 32) .bf16 true) ∧
  decodeWord (word 0x202 0 63 0 1 1 2 5 4 0x00010 0xE8794 0x8043E) =
    .ok (.ldx ⟨false, 63, 2⟩ ⟨1, 1⟩ .b32 .dev 16 ⟨1, false, 0, true, 0x1FE, 20, true, 0, 16⟩) ∧
  decodeWord (word 0x282 0 63 0 0 0 1 4 16 0x00008 0xFE800 0xFFFC0) =
    .ok (.atoms ⟨false, 63, 1⟩ .cas64 .gang (.v 8) ⟨3, true, 5, false, 0, 0, true, 3, 2047⟩) ∧
  decodeWord (word 0x2C8 0 63 1 0 0 0 0 0 0 0xD003F 0x80004) = .ok (.pexpect p 63 (.i 4)) ∧
  decodeWord (word 0x304 0 63 1 0 0 0 3 0 0 0x40078 0) = .ok (.cpyb p 3 120) ∧
  decodeWord (word 0x347 0 63 1 0 0 0 1 0x13 0xC4E61 0xE0403 0x0003F) =
    .ok (.mdrain p true .f16 1 33 true true 9 ⟨0, false, 0, true, 63, 3, false, 0, 0⟩) ∧
  decodeWord (word 0x345 0 63 0 3 7 0 6 1 0xC4521 0x00040 0xCBF86) = .ok (.mma p ⟨3, 7⟩ true 6 33 20 64 6 127) ∧
  decodeWord (word 0x388 0 63 0 0 0 0 0 0 0 0x00038 0x80240) = .ok (.spawn p 56 (.i 0x240)) ∧
  decodeWord (word 0x3C0 0 63 1 0 0 0 0 0 0x800FE 0x4007E 0x4007C) = .ok (.sealsave p 254 126 124) ∧
  decodeWord (word 0x193 0 63 0 0 0 0 0 0 0 0 0) = .error .unassigned ∧
  decodeWord (word 0x143 0 63 0 0 0 0 0 1 0 0 0) = .error .reservedBits

/-- Decoding and encoding agree on every instruction word (R216 to R245). -/
def Obligations.DecodeEncode : Prop :=
  (∀ (i : Instr) (w : InstrWord), i.wf = true → encode i = some w → decodeWord w = .ok i) ∧
    (∀ (i : Instr) (w : InstrWord), decodeWord w = .ok i → i.wf = true ∧ encode i = some w)

/-- Every step keeps the canonical form of memory; the form is the model's (log 5). -/
def Obligations.MemoryForm : Prop :=
  ∀ s t : State, s.mem.wf = true → step s = .next t → t.mem.wf = true
end

