-- ==== Sys2Proof/Laws/Table.lean ====
section
/-! SUPPORT. What the operations on tables and memories leave: reading after writing, and the canonical form. -/

namespace Sys2Proof.Machine

theorem Table.find_insert {α : Type} (t : Table α) (k j : Nat) (v : α) :
    Table.find (Table.insert t k v) j = if j = k then some v else Table.find t j := by
  induction t with
  | nil =>
    by_cases h : j = k
    · simp [Table.insert, Table.find, h]
    · have h' : k ≠ j := Ne.symm h
      simp [Table.insert, Table.find, h, h']
  | cons c r ih =>
    obtain ⟨i, w⟩ := c
    by_cases h1 : k < i
    · by_cases h : j = k
      · subst h; simp [Table.insert, Table.find, h1]
      · have h' : k ≠ j := Ne.symm h
        simp [Table.insert, Table.find, h1, h, h']
    · by_cases h2 : i = k
      · subst h2
        by_cases h : j = i
        · subst h; simp [Table.insert, Table.find]
        · have h' : i ≠ j := Ne.symm h
          simp [Table.insert, Table.find, h, h']
      · by_cases h : j = k
        · subst h; simp [Table.insert, Table.find, h1, h2, ih]
        · simp [Table.insert, Table.find, h1, h2, ih, h]

theorem Table.find_erase {α : Type} (t : Table α) (k j : Nat) :
    Table.find (Table.erase t k) j = if j = k then none else Table.find t j := by
  induction t with
  | nil => simp [Table.erase, Table.find]
  | cons c r ih =>
    obtain ⟨i, w⟩ := c
    by_cases h2 : i = k
    · subst h2
      by_cases h : j = i
      · subst h; simp [Table.erase, ih]
      · have h' : i ≠ j := Ne.symm h
        simp [Table.erase, Table.find, ih, h, h']
    · by_cases h : j = k
      · subst h; simp [Table.erase, Table.find, ih, h2]
      · simp [Table.erase, Table.find, ih, h2, h]

theorem Table.find_adjust {α : Type} (t : Table α) (k j : Nat) (f : α → α) :
    Table.find (Table.adjust t k f) j = if j = k then (Table.find t k).map f else Table.find t j := by
  unfold Table.adjust
  cases h : Table.find t k with
  | none => by_cases hj : j = k <;> simp [hj, h]
  | some v => by_cases hj : j = k <;> simp [hj, Table.find_insert]

theorem Table.get_put {α : Type} [DecidableEq α] (d : α) (t : Table α) (k j : Nat) (v : α) :
    Table.get d (Table.put d t k v) j = if j = k then v else Table.get d t j := by
  unfold Table.put Table.get
  by_cases hv : v = d
  · by_cases h : j = k <;> simp [hv, h, Table.find_erase]
  · by_cases h : j = k <;> simp [hv, h, Table.find_insert]

/-- Changing one entry by a function is changing it to the function's value. -/
theorem Table.adjust_const {α : Type} {t : Table α} {k : Nat} {v : α} (h : Table.find t k = some v) (f : α → α) :
    Table.adjust t k f = Table.adjust t k fun _ => f v := by
  simp [Table.adjust, h]

/-! ### The canonical form -/

theorem Table.rises_mono {α : Type} {lo hi : Nat} (h : lo ≤ hi) {t : Table α} (ht : Table.rises hi t = true) :
    Table.rises lo t = true := by
  cases t with
  | nil => rfl
  | cons c r =>
    obtain ⟨j, w⟩ := c
    simp only [Table.rises, Bool.and_eq_true, decide_eq_true_eq] at ht ⊢
    exact ⟨le_trans h ht.1, ht.2⟩

theorem Table.rises_insert {α : Type} {t : Table α} {lo k : Nat} (v : α) (hk : lo ≤ k) (ht : Table.rises lo t = true) :
    Table.rises lo (Table.insert t k v) = true := by
  induction t generalizing lo with
  | nil => simpa [Table.insert, Table.rises] using hk
  | cons c r ih =>
    obtain ⟨j, w⟩ := c
    simp only [Table.rises, Bool.and_eq_true, decide_eq_true_eq] at ht
    by_cases h1 : k < j
    · simp only [Table.insert, h1, if_true, Table.rises, Bool.and_eq_true, decide_eq_true_eq]
      exact ⟨hk, h1, ht.2⟩
    · by_cases h2 : j = k
      · subst h2; simpa [Table.insert, Table.rises] using ht
      · simp only [Table.insert, h1, h2, if_false, Table.rises, Bool.and_eq_true, decide_eq_true_eq]
        exact ⟨ht.1, ih (by omega) ht.2⟩

theorem Table.rises_erase {α : Type} {t : Table α} {lo : Nat} (k : Nat) (ht : Table.rises lo t = true) :
    Table.rises lo (Table.erase t k) = true := by
  induction t generalizing lo with
  | nil => rfl
  | cons c r ih =>
    obtain ⟨j, w⟩ := c
    simp only [Table.rises, Bool.and_eq_true, decide_eq_true_eq] at ht
    by_cases h2 : j = k
    · simp only [Table.erase, h2, if_true]
      exact ih (Table.rises_mono (by omega) ht.2)
    · simp only [Table.erase, h2, if_false, Table.rises, Bool.and_eq_true, decide_eq_true_eq]
      exact ⟨ht.1, ih ht.2⟩

theorem Table.lean_insert {α : Type} [DecidableEq α] {d v : α} {t : Table α} (k : Nat) (hv : v ≠ d)
    (ht : Table.lean d t = true) : Table.lean d (Table.insert t k v) = true := by
  induction t with
  | nil => simp [Table.insert, Table.lean, hv]
  | cons c r ih =>
    obtain ⟨j, w⟩ := c
    simp only [Table.lean, List.all_cons, Bool.and_eq_true, decide_eq_true_eq] at ht ih ⊢
    by_cases h1 : k < j
    · simpa [Table.insert, h1, hv] using ht
    · by_cases h2 : j = k
      · subst h2; simpa [Table.insert, hv] using ht.2
      · simp only [Table.insert, h1, h2, if_false, List.all_cons, Bool.and_eq_true, decide_eq_true_eq]
        exact ⟨ht.1, ih ht.2⟩

theorem Table.lean_erase {α : Type} [DecidableEq α] {d : α} {t : Table α} (k : Nat) (ht : Table.lean d t = true) :
    Table.lean d (Table.erase t k) = true := by
  induction t with
  | nil => rfl
  | cons c r ih =>
    obtain ⟨j, w⟩ := c
    simp only [Table.lean, List.all_cons, Bool.and_eq_true, decide_eq_true_eq] at ht ih ⊢
    by_cases h2 : j = k
    · simpa [Table.erase, h2] using ih ht.2
    · simp only [Table.erase, h2, if_false, List.all_cons, Bool.and_eq_true, decide_eq_true_eq]
      exact ⟨ht.1, ih ht.2⟩

theorem Table.wf_put {α : Type} [DecidableEq α] {d : α} {t : Table α} (k : Nat) (v : α) (ht : Table.wf d t = true) :
    Table.wf d (Table.put d t k v) = true := by
  simp only [Table.wf, Bool.and_eq_true] at ht ⊢
  unfold Table.put
  split
  · exact ⟨Table.rises_erase k ht.1, Table.lean_erase k ht.2⟩
  · exact ⟨Table.rises_insert v (Nat.zero_le k) ht.1, Table.lean_insert k ‹_› ht.2⟩

/-! ### Memory -/

/-- The read of one byte after the write of one. -/
theorem Memory.byte_setByte (m : Memory) (a c : Nat) (b : Byte) : (m.setByte a b).byte c = if c = a then b else m.byte c :=
  Table.get_put _ _ _ _ _

theorem Memory.wf_setByte {m : Memory} (a : Nat) (b : Byte) (h : m.wf = true) : (m.setByte a b).wf = true :=
  Table.wf_put a b h

theorem Memory.wf_setBytes {m : Memory} (a : Nat) (b : List Byte) (h : m.wf = true) : (m.setBytes a b).wf = true := by
  induction b generalizing m a with
  | nil => exact h
  | cons c r ih => exact ih (a + 1) (Memory.wf_setByte a c h)

theorem Memory.wf_setWord {m : Memory} (a : Nat) (x : Word) (h : m.wf = true) : (m.setWord a x).wf = true :=
  Memory.wf_setBytes a _ h

theorem Memory.wf_setDword {m : Memory} (a : Nat) (x : DWord) (h : m.wf = true) : (m.setDword a x).wf = true :=
  Memory.wf_setBytes a _ h

/-- The read of one byte after the write of several: within them, the byte written; elsewhere, as before. -/
theorem Memory.byte_setBytes (m : Memory) (a c : Nat) (b : List Byte) :
    (m.setBytes a b).byte c = if a ≤ c ∧ c < a + b.length then b.getD (c - a) 0 else m.byte c := by
  induction b generalizing m a with
  | nil => simp only [Memory.setBytes, List.length_nil]; rw [if_neg (by omega)]
  | cons x r ih =>
    simp only [Memory.setBytes, ih, Memory.byte_setByte, List.length_cons]
    by_cases h0 : c = a
    · subst h0; rw [if_neg (by omega), if_pos rfl, if_pos (by omega)]; simp
    · by_cases h1 : a + 1 ≤ c ∧ c < a + 1 + r.length
      · rw [if_pos h1, if_pos (by omega)]
        obtain ⟨n, hn⟩ : ∃ n, c - a = n + 1 := ⟨c - a - 1, by omega⟩
        rw [hn, List.getD_cons_succ, show c - (a + 1) = n by omega]
      · rw [if_neg h1, if_neg h0, if_neg (by omega)]

/-! ### Numbers and bytes -/

theorem leBytes_length (n x : Nat) : (leBytes n x).length = n := by
  induction n generalizing x with
  | zero => rfl
  | succ n ih => simp [leBytes, ih]

theorem leNat_leBytes (n x : Nat) : leNat (leBytes n x) = x % 256 ^ n := by
  induction n generalizing x with
  | zero => simp [leBytes, leNat, Nat.mod_one]
  | succ n ih =>
    simp only [leBytes, leNat, ih, BitVec.toNat_ofNat]
    rw [show 256 ^ (n + 1) = 256 * 256 ^ n from Nat.pow_succ', Nat.mod_mul]

/-- The bytes just written read back. -/
theorem Memory.bytes_setBytes (m : Memory) (a : Nat) (b : List Byte) : (m.setBytes a b).bytes a b.length = b := by
  apply List.ext_getElem
  · simp [Memory.bytes]
  · intro i h1 h2
    simp only [Memory.bytes, List.getElem_map, List.getElem_range, Memory.byte_setBytes]
    rw [if_pos ⟨by omega, by omega⟩, Nat.add_sub_cancel_left, List.getD_eq_getElem?_getD, List.getElem?_eq_getElem h2]
    rfl

/-- The word just written reads back. -/
theorem Memory.word_setWord (m : Memory) (a : Nat) (x : Word) : (m.setWord a x).word a = x := by
  have h := Memory.bytes_setBytes m a (leBytes 4 x.toNat)
  rw [leBytes_length] at h
  simp only [Memory.word, Memory.setWord, h, leNat_leBytes]
  rw [Nat.mod_eq_of_lt (by simpa using x.isLt), BitVec.ofNat_toNat, BitVec.setWidth_eq]

end Sys2Proof.Machine
end

