-- ==== Sys2Proof/Laws/Registers.lean ====
section
/-! SUPPORT. What the writes of registers leave (R3, R21, R30, R76). -/

namespace Sys2Proof.Machine

open Sys2Proof.Safety

/-! ### Lanes -/

theorem mem_lanesOf {m : Mask} {l : Nat} : l ∈ lanesOf m ↔ l < 128 ∧ m.getLsbD l = true := by
  simp [lanesOf]

theorem lanesOf_nodup (m : Mask) : (lanesOf m).Nodup := List.Nodup.filter _ List.nodup_range

theorem getLsbD_laneBit (k l : Nat) : (laneBit k).getLsbD l = decide (l < 128 ∧ l = k) := by
  simp only [laneBit, BitVec.getLsbD_twoPow]
  by_cases h : k = l
  · subst h; by_cases h2 : k < 128 <;> simp [h2]
  · have h' : l ≠ k := Ne.symm h
    by_cases h2 : k < 128 <;> simp [h, h', h2]

theorem getLsbD_maskOf (ls : List Nat) (l : Nat) (hl : l < 128) : (maskOf ls).getLsbD l = decide (l ∈ ls) := by
  unfold maskOf
  suffices h : ∀ m : Mask, (ls.foldl (fun m l => m ||| laneBit l) m).getLsbD l = (m.getLsbD l || decide (l ∈ ls)) by
    simpa using h 0
  intro m
  induction ls generalizing m with
  | nil => simp
  | cons k r ih =>
    simp only [List.foldl_cons, ih, BitVec.getLsbD_or, getLsbD_laneBit, List.mem_cons]
    by_cases h : l = k <;> simp [h, hl]
    subst h; simp [hl]

/-! ### Scalars -/

theorem Group.sget_sset (g : Group) (d n : Nat) (v : Word) : (g.sset d v).sget n = if n = d then v else g.sget n :=
  Table.get_put _ _ _ _ _

theorem Group.sset_set (g : Group) (d : Nat) (v : Word) : ScalarSet g (g.sset d v) d v :=
  ⟨fun n => g.sget_sset d n v, rfl⟩

theorem Group.sset2_set (g : Group) (d : Nat) (v : DWord) : PairSet g (g.sset2 d v) d v := by
  refine ⟨fun n => ?_, rfl⟩
  simp only [Group.sset2, Group.sget_sset]
  by_cases h : n = d + 1
  · simp [h]
  · simp [h]

/-! ### Vectors -/

theorem Group.vget_vset (g : Group) (d k r l : Nat) (v : Word) (hk : k < 128) (hl : l < 128) :
    (g.vset d k v).vget r l = if r = d ∧ l = k then v else g.vget r l := by
  simp only [Group.vget, Group.vset, Table.get_put]
  by_cases h : r = d ∧ l = k
  · simp [h]
  · rw [if_neg (by omega), if_neg h]

theorem Group.vset_rest (g : Group) (d k : Nat) (v : Word) (t : Table Word) : { g.vset d k v with vregs := t } = { g with vregs := t } := rfl

/-- One register written in the lanes of a list. -/
theorem Group.vget_vwriteFold (d : Nat) (f : Nat → Word) (ls : List Nat) (hls : ∀ l ∈ ls, l < 128) (g : Group) (r l : Nat) (hl : l < 128) :
    (ls.foldl (fun g l => g.vset d l (f l)) g).vget r l = if r = d ∧ l ∈ ls then f l else g.vget r l := by
  induction ls generalizing g with
  | nil => simp
  | cons k t ih =>
    simp only [List.foldl_cons]
    rw [ih (fun l h => hls l (List.mem_cons_of_mem _ h)), Group.vget_vset _ _ _ _ _ _ (hls k List.mem_cons_self) hl]
    by_cases h1 : r = d ∧ l ∈ t
    · simp [h1]
    · rw [if_neg h1]
      by_cases h2 : r = d ∧ l = k
      · rw [if_pos h2, if_pos ⟨h2.1, h2.2 ▸ List.mem_cons_self⟩, h2.2]
      · rw [if_neg h2, if_neg]
        rintro ⟨h3, h4⟩
        rcases List.mem_cons.1 h4 with h5 | h5
        · exact h2 ⟨h3, h5⟩
        · exact h1 ⟨h3, h5⟩

theorem Group.vget_vwrite (g : Group) (d : Nat) (m : Mask) (f : Nat → Word) (r l : Nat) (hl : l < 128) :
    (g.vwrite d m f).vget r l = if r = d ∧ m.getLsbD l = true then f l else g.vget r l := by
  rw [Group.vwrite, Group.vget_vwriteFold _ _ _ (fun l h => (mem_lanesOf.1 h).1) _ _ _ hl]
  simp only [mem_lanesOf, hl, true_and]

theorem Group.vsetFold_rest (d : Nat) (f : Nat → Word) (ls : List Nat) (g : Group) (t : Table Word) :
    { (ls.foldl (fun g l => g.vset d l (f l)) g) with vregs := t } = { g with vregs := t } := by
  induction ls generalizing g with
  | nil => rfl
  | cons k r ih => rw [List.foldl_cons, ih]; rfl

theorem Group.vwrite_rest (g : Group) (d : Nat) (m : Mask) (f : Nat → Word) (t : Table Word) :
    { g.vwrite d m f with vregs := t } = { g with vregs := t } := Group.vsetFold_rest _ _ _ _ _

/-- Several registers written in the lanes of a mask. -/
theorem Group.vget_block (d : Nat) (m : Mask) (f : Nat → Nat → Word) (os : List Nat) (g : Group) (r l : Nat) (hl : l < 128) :
    (os.foldl (fun g o => g.vwrite (d + o) m (f o)) g).vget r l =
      if m.getLsbD l = true then (if r < d then g.vget r l else if (r - d) ∈ os then f (r - d) l else g.vget r l) else g.vget r l := by
  induction os generalizing g with
  | nil => simp
  | cons o t ih =>
    simp only [List.foldl_cons, ih, Group.vget_vwrite _ _ _ _ _ _ hl]
    by_cases hm : m.getLsbD l = true
    · simp only [hm, if_true, and_true]
      by_cases h0 : r < d
      · rw [if_pos h0, if_pos h0, if_neg (by omega)]
      · rw [if_neg h0, if_neg h0]
        by_cases h1 : r - d ∈ t
        · rw [if_pos h1, if_pos (List.mem_cons_of_mem _ h1)]
        · rw [if_neg h1]
          by_cases h2 : r = d + o
          · have h3 : r - d = o := by omega
            rw [if_pos h2, h3, if_pos List.mem_cons_self]
          · rw [if_neg h2, if_neg]
            intro h4
            rcases List.mem_cons.1 h4 with h5 | h5
            · omega
            · exact h1 h5
    · simp [hm]

theorem Group.block_rest (d : Nat) (m : Mask) (f : Nat → Nat → Word) (os : List Nat) (g : Group) (t : Table Word) :
    { (os.foldl (fun g o => g.vwrite (d + o) m (f o)) g) with vregs := t } = { g with vregs := t } := by
  induction os generalizing g with
  | nil => rfl
  | cons o r ih => rw [List.foldl_cons, ih, Group.vwrite_rest]

theorem Group.block_set (g : Group) (d : Nat) (m : Mask) (f : Nat → Nat → Word) (os : List Nat) :
    LanesSet g (os.foldl (fun g o => g.vwrite (d + o) m (f o)) g) d os m f := by
  refine ⟨fun o ho l hl hm => ?_, fun r l hl h => ?_, ?_⟩
  · rw [Group.vget_block _ _ _ _ _ _ _ hl, if_pos hm, if_neg (by omega), Nat.add_sub_cancel_left, if_pos ho]
  · rw [Group.vget_block _ _ _ _ _ _ _ hl]
    rcases h with h | h
    · simp [h]
    · by_cases hm : m.getLsbD l = true
      · rw [if_pos hm]
        by_cases h0 : r < d
        · rw [if_pos h0]
        · rw [if_neg h0, if_neg]
          intro h1
          exact h _ h1 (by omega)
      · rw [if_neg hm]
  · rw [Group.block_rest]

theorem Group.vwrite_set (g : Group) (d : Nat) (m : Mask) (f : Nat → Word) : LanesSet g (g.vwrite d m f) d [0] m fun _ => f := by
  simpa using g.block_set d m (fun _ => f) [0]

/-! ### Predicates -/

theorem Group.pmask_pwrite (g : Group) (n k : Nat) (m v : Mask) :
    (g.pwrite n m v).pmask k = if k = n then (g.pmask n &&& ~~~m) ||| (v &&& m) else g.pmask k := Table.get_put _ _ _ _ _

theorem Group.pwrite_set (g : Group) (d : Nat) (m : Mask) (f : Nat → Bool) :
    PredSet g (g.pwrite d m (maskOf ((lanesOf m).filter f))) d m f := by
  refine ⟨fun l hl => ?_, fun n hn => ?_, rfl⟩
  · rw [Group.pmask_pwrite, if_pos rfl]
    simp only [BitVec.getLsbD_or, BitVec.getLsbD_and, BitVec.getLsbD_not, getLsbD_maskOf _ _ hl, hl, decide_true, Bool.true_and,
      List.mem_filter, mem_lanesOf, true_and]
    by_cases hm : m.getLsbD l = true <;> simp [hm]
  · rw [Group.pmask_pwrite, if_neg hn]

end Sys2Proof.Machine
end

