-- ==== Sys2Proof/Laws/Course.lean ====
section
/-! SUPPORT. The course of an instruction word once and for all: what an executing word answers, by how its effect leaves the
fragment (R246, R247), and the group at rest after it. -/

namespace Sys2Proof.Machine

open Sys2Proof.Safety

/-- The group under the chosen key is the chosen one. -/
theorem State.group?_of_selected {s : State} {k en : Nat} {g : Group} {f : Frag} (h : s.selected = some (k, en, g, f)) :
    s.group? k = some g ∧ g.frag en = some f := by
  unfold State.selected at h
  split at h
  · simp at h
  · split at h
    · simp at h
    · split at h
      · simp at h
      · simp only [Option.some.injEq, Prod.mk.injEq] at h
        obtain ⟨rfl, rfl, rfl, rfl⟩ := h
        exact ⟨‹_›, ‹_›⟩

theorem State.occupy_groups (s : State) (k : Nat) (f : Frag) (n : Need) (uni : Bool) (more : Nat) :
    (s.occupy k f n uni more).groups = s.groups := by
  unfold State.occupy; split <;> rfl

theorem State.issued_groups (s : State) (k en : Nat) (f : Frag) (n : Need) (uni : Bool) (more : Nat) :
    (s.issued k en f n uni more).groups = s.groups := State.occupy_groups ..

theorem State.readStore_groups (s : State) (x : Store) (ctx : Option Nat) : (s.readStore x ctx).1.groups = s.groups := by
  unfold State.readStore
  split <;> rfl

theorem State.readRegs_groups (s : State) (k : Nat) (n : Need) (ctx : Nat) (m : Mask) : (s.readRegs k n ctx m).1.groups = s.groups := by
  unfold State.readRegs
  suffices h : ∀ (l : List (Nat × Nat)) (a : State × Mask), a.1.groups = s.groups → (l.foldl (fun (acc : State × Mask) c =>
      if !(n.vs.drop n.dst.length).contains c.1 then (acc.1.mend (.vreg k c.1 c.2), acc.2)
      else
        let (s, bad) := acc.1.readStore (.vreg k c.1 c.2) (some ctx)
        (s, if bad then acc.2 ||| laneBit c.2 else acc.2)) a).1.groups = s.groups from h _ _ rfl
  intro l
  induction l with
  | nil => exact fun a h => h
  | cons c l ih =>
    intro a h
    refine ih _ ?_
    show (if _ then _ else _ : State × Mask).1.groups = _
    split
    · exact h
    · exact (State.readStore_groups ..).trans h

theorem begun_groups (i : Instr) (s : State) (x : X) : (begun i s x).groups = s.groups :=
  (State.readRegs_groups ..).trans (State.issued_groups ..)

/-- A move after which nothing follows for the group. -/
theorem State.move_of_settled {s : State} {k en pc : Nat} {w : Wait} {g : Group} (hg : s.group? k = some g)
    (h : Settled (moved g s.clk en pc w)) : s.move k en pc w = s.modGroup k fun _ => moved g s.clk en pc w := by
  obtain ⟨h1, h2, h3, h4⟩ := h
  have hm : ∀ m : Group → Group, m g = moved g s.clk en pc w → s.modGroup k m = s.modGroup k fun _ => moved g s.clk en pc w := by
    intro m hm
    simp only [State.modGroup, Table.adjust_const (show Table.find s.groups k = some g from hg), hm]
  have hq : (s.modGroup k fun _ => moved g s.clk en pc w).group? k = some (moved g s.clk en pc w) := by
    simp only [State.group?, State.modGroup, Table.find_adjust, if_pos, show Table.find s.groups k = some g from hg, Option.map_some]
  unfold State.move
  rw [hm _ (by cases hf : g.frag en <;> simp [moved, hf])]
  simp only [State.tidy, hq, h1, h2, h3, h4, Bool.false_eq_true, if_false, Option.isSome_none]

end Sys2Proof.Machine

namespace Sys2Proof.Safety

open Sys2Proof.Machine

theorem Executes.group {i : Instr} {s : State} {x : X} (h : Executes i s x) : (begun i s x).group? x.k = some x.g := by
  rw [State.group?, begun_groups]; exact (State.group?_of_selected h.chosen).1

theorem Executes.frag {i : Instr} {s : State} {x : X} (h : Executes i s x) : x.g.frag x.en = some x.f :=
  (State.group?_of_selected h.chosen).2

/-- What an executing word answers: its effect, and the way it leaves its fragment. -/
theorem run_of_executes {i : Instr} {s : State} {x : X} (h : Executes i s x) (body : State → X → State × Done)
    (hb : (body (begun i s x) x).2 ≠ .hold) : run i body s = .next ((body (begun i s x) x).1.finish x (body (begun i s x) x).2) := by
  obtain ⟨h1, h2, h3, h4, h5, h6⟩ := h
  have hx : (⟨x.k, x.en, x.g, x.f, x.lanes⟩ : X) = x := rfl
  simp only [run, issue, h1, h3, ← h4]
  simp only [h2, h5, h6, hx, Bool.false_eq_true, if_false, ne_eq, not_true_eq_false]
  cases hd : (body (begun i s x) x).2 <;> simp_all [begun]

/-- What a word answers that is found not to be ready (R195): it has not issued. -/
theorem run_of_executes_hold {i : Instr} {s : State} {x : X} (h : Executes i s x) (body : State → X → State × Done)
    (hb : (body (begun i s x) x).2 = .hold) : run i body s = .next ((body (s.unspent x.k x.en) x).1.finish x .hold) := by
  obtain ⟨h1, h2, h3, h4, h5, h6⟩ := h
  have hx : (⟨x.k, x.en, x.g, x.f, x.lanes⟩ : X) = x := rfl
  simp only [run, issue, h1, h3, ← h4]
  simp only [h2, h5, h6, hx, Bool.false_eq_true, if_false, ne_eq, not_true_eq_false]
  simp only [begun] at hb
  simp only [hb]

/-- Changing the executing group by a function is making it the function's value. -/
theorem Executes.modGroup {i : Instr} {s : State} {x : X} (h : Executes i s x) (f : Group → Group) :
    (begun i s x).modGroup x.k f = (begun i s x).modGroup x.k fun _ => f x.g := by
  have hg : Table.find (begun i s x).groups x.k = some x.g := h.group
  simp only [State.modGroup, Table.adjust_const hg f]

/-- A word whose effect is on its group alone. -/
theorem Executes.yields {i : Instr} {s : State} {x : X} (h : Executes i s x) {f : X → Group → Group} (hi : exec i s = run i (upd f) s) :
    Yields i s x (f x x.g) := by
  unfold Yields Completes
  rw [hi, run_of_executes h _ (fun e => nomatch (show Done.next = Done.hold from e))]
  simp only [upd, State.finish, h.modGroup (f x)]

/-- A word that writes one scalar. -/
theorem Executes.writesScalar {i : Instr} {s : State} {x : X} {d : SReg} {v : Word} {f : X → Word} (h : Executes i s x)
    (hi : exec i s = run i (writeS d f) s) (hv : f x = v) : WritesScalar i s x d.toNat v :=
  ⟨_, hv ▸ Group.sset_set x.g d.toNat (f x), h.yields hi⟩

/-- A word that writes a scalar pair. -/
theorem Executes.writesPair {i : Instr} {s : State} {x : X} {d : SReg} {v : DWord} {f : X → DWord} (h : Executes i s x)
    (hi : exec i s = run i (writeS2 d f) s) (hv : f x = v) : WritesPair i s x d.toNat v :=
  ⟨_, hv ▸ Group.sset2_set x.g d.toNat (f x), h.yields hi⟩

theorem LanesSet.congr {g h : Group} {d : Nat} {os : List Nat} {m : Mask} {f f' : Nat → Nat → Word} (hs : LanesSet g h d os m f)
    (hf : ∀ o l, f o l = f' o l) : LanesSet g h d os m f' :=
  ⟨fun o ho l hl hm => (hs.1 o ho l hl hm).trans (hf o l), hs.2.1, hs.2.2⟩

/-- A word that writes a vector block. -/
theorem Executes.writesBlock {i : Instr} {s : State} {x : X} {e : Ext} {d : VReg} {f : X → Nat → Nat → Word} {f' : Nat → Nat → Word}
    (h : Executes i s x) (hi : exec i s = run i (writeBlock e d f) s) (hf : ∀ o l, f x o l = f' o l) : WritesBlock i s x e d f' :=
  ⟨_, (Group.block_set x.g d.toNat x.lanes (f x) (blockOffs e)).congr hf,
    h.yields (f := fun x g => (blockOffs e).foldl (fun g o => g.vwrite (d.toNat + o) x.lanes (f x o)) g) hi⟩

/-- A word that writes one vector register. -/
theorem Executes.writesLanes {i : Instr} {s : State} {x : X} {d : VReg} {f : X → Nat → Word} {f' : Nat → Word}
    (h : Executes i s x) (hi : exec i s = run i (upd fun x g => g.vwrite d.toNat x.lanes (f x)) s) (hf : ∀ l, f x l = f' l) :
    WritesLanes i s x d f' :=
  ⟨_, (Group.vwrite_set x.g d.toNat x.lanes (f x)).congr fun _ => hf,
    h.yields (f := fun x g => g.vwrite d.toNat x.lanes (f x)) hi⟩

/-- A word that writes a predicate. -/
theorem Executes.writesPred {i : Instr} {s : State} {x : X} {d : PReg} {f : X → Nat → Bool} {f' : Nat → Bool}
    (h : Executes i s x) (hi : exec i s = run i (writeP d f) s) (hf : ∀ l, f x l = f' l) : WritesPred i s x d f' := by
  have hff : f x = f' := funext hf
  exact ⟨_, hff ▸ Group.pwrite_set x.g d.toNat x.lanes (f x), h.yields hi⟩

end Sys2Proof.Safety
end

