-- ==== Sys2Proof/Laws/Encoding.lean ====
section
/-! SUPPORT. The parts of a word read back what the encoder put into them (R217 to R224): every operand kind, every code set, the
prefix, and the fields of the word. -/

namespace Sys2Proof

/-- The fields of a packed word are the fields it was packed from. -/
theorem Fields.unpack_pack (f : Fields) : Fields.unpack f.pack = f := by
  cases f
  simp only [Fields.unpack, Fields.pack, Fields.mk.injEq]
  refine ⟨?_, ?_, ?_, ?_, ?_, ?_, ?_, ?_, ?_, ?_, ?_, ?_, ?_⟩ <;>
    (apply BitVec.eq_of_getLsbD_eq; intro i hi; simp only [BitVec.getLsbD_append, BitVec.getLsbD_extractLsb']; grind)

@[simp] theorem Fields.pre_mkF (p : Pre) (op : BitVec 10) (u : BitVec 1) (h w rf : BitVec 3) (ty : BitVec 5) (d a b : BitVec 20) :
    (mkF op p u h w rf ty d a b).pre = p := by
  cases p with | mk n g q => cases n <;> rfl

@[simp] theorem decBit_encBool1 (x : Bool) : decBit (encBool1 x) = x := by cases x <;> rfl
@[simp] theorem decBit_encBool5 (x : Bool) : decBit ((encBool5 x).extractLsb' 0 1) = x := by cases x <;> rfl
@[simp] theorem decBit_encPk (x : Bool) : decBit ((encPk x).extractLsb' 1 1) = x := by cases x <;> rfl
@[simp] theorem decBit_encBool18 (x : Bool) : decBit ((encImm (encBool18 x)).extractLsb' 0 1) = x := by cases x <;> rfl

/-! ### Code sets -/

@[simp] theorem IntTy.ofCode_code (t : IntTy) : IntTy.ofCode t.code = some t := by cases t <;> rfl
@[simp] theorem Cmp.ofCode_code (t : Cmp) : Cmp.ofCode t.code = some t := by cases t with | mk c u => cases c <;> cases u <;> rfl
@[simp] theorem Size.ofCode_code (t : Size) : Size.ofCode t.code = some t := by cases t <;> rfl
@[simp] theorem Fmt.ofCode_code (t : Fmt) : Fmt.ofCode t.code = some t := by cases t <;> rfl
@[simp] theorem MFmt.ofCode_code (t : MFmt) : MFmt.ofCode t.code = some t := by cases t <;> rfl
@[simp] theorem Op.ofCode_code (t : Op) : Op.ofCode t.code = some t := by cases t <;> rfl
@[simp] theorem FCond.ofCode_code (t : FCond) : FCond.ofCode t.code = some t := by cases t <;> rfl
@[simp] theorem Scope.ofCode_code (t : Scope) : Scope.ofCode t.code = some t := by cases t <;> rfl
@[simp] theorem Vote.ofCode_code (t : Vote) : Vote.ofCode t.code = some t := by cases t <;> rfl
@[simp] theorem ShflMode.ofCode_code (t : ShflMode) : ShflMode.ofCode t.code = some t := by cases t <;> rfl
@[simp] theorem FenceKind.ofCode_code (t : FenceKind) : FenceKind.ofCode t.code = some t := by cases t <;> rfl

/-! ### Operands -/

/-- The low bits of an immediate operand. -/
@[simp] theorem imm_low (w : Nat) (hw : w ≤ 18) (r : BitVec w) : (encImm (r.setWidth 18)).extractLsb' 0 w = r := by
  apply BitVec.eq_of_getLsbD_eq; intro i hi
  simp only [encImm, BitVec.getLsbD_append, BitVec.getLsbD_extractLsb', BitVec.getLsbD_setWidth]; grind
@[simp] theorem imm_all (r : BitVec 18) : (encImm r).extractLsb' 0 18 = r := by
  apply BitVec.eq_of_getLsbD_eq; intro i hi; simp only [encImm, BitVec.getLsbD_append, BitVec.getLsbD_extractLsb']; grind
/-- The low bits of an other operand. -/
@[simp] theorem other_low (k : BitVec 3) (w : Nat) (hw : w ≤ 14) (r : BitVec w) : (encO k (r.setWidth 14)).extractLsb' 0 w = r := by
  apply BitVec.eq_of_getLsbD_eq; intro i hi
  simp only [encO, BitVec.getLsbD_append, BitVec.getLsbD_extractLsb', BitVec.getLsbD_setWidth]; grind
@[simp] theorem type_low (w : Nat) (hw : w ≤ 5) (r : BitVec w) : (r.setWidth 5).extractLsb' 0 w = r := by
  apply BitVec.eq_of_getLsbD_eq; intro i hi
  have : i < 5 := by omega
  simp [hi, this]
@[simp] theorem encP_low (r : PReg) : (encP r).extractLsb' 0 6 = r := other_low 0 6 (by decide) r
@[simp] theorem encS_low (r : SReg) : (encS r).extractLsb' 0 7 = r := by
  apply BitVec.eq_of_getLsbD_eq; intro i hi; simp only [encS, BitVec.getLsbD_append, BitVec.getLsbD_extractLsb']; grind
@[simp] theorem encV_low (r : VReg) : (encV r).extractLsb' 0 11 = r := by
  apply BitVec.eq_of_getLsbD_eq; intro i hi; simp only [encV, BitVec.getLsbD_append, BitVec.getLsbD_extractLsb']; grind
@[simp] theorem kindOf_encS (r : SReg) : kindOf (encS r) = 1#2 := by
  apply BitVec.eq_of_getLsbD_eq; intro i hi
  have : i = 0 ∨ i = 1 := by omega
  rcases this with rfl | rfl <;> simp only [kindOf, encS, BitVec.getLsbD_append, BitVec.getLsbD_extractLsb'] <;> simp
@[simp] theorem kindOf_encV (r : VReg) : kindOf (encV r) = 0#2 := by
  apply BitVec.eq_of_getLsbD_eq; intro i hi
  have : i = 0 ∨ i = 1 := by omega
  rcases this with rfl | rfl <;> simp only [kindOf, encV, BitVec.getLsbD_append, BitVec.getLsbD_extractLsb'] <;> simp
@[simp] theorem kindOf_encImm (r : BitVec 18) : kindOf (encImm r) = 2#2 := by
  apply BitVec.eq_of_getLsbD_eq; intro i hi
  have : i = 0 ∨ i = 1 := by omega
  rcases this with rfl | rfl <;> simp only [kindOf, encImm, BitVec.getLsbD_append, BitVec.getLsbD_extractLsb'] <;> simp
/-- The two halves of a 32-bit immediate. -/
@[simp] theorem encJ_halves (v : Word) : ((encJHi v).extractLsb' 0 16 ++ (encJLo v).extractLsb' 0 16 : BitVec 32) = v := by
  apply BitVec.eq_of_getLsbD_eq; intro i hi
  simp only [encJHi, encJLo, BitVec.getLsbD_append, BitVec.getLsbD_extractLsb']
  grind
@[simp] theorem isel_pred (q : PReg) :
    (BitVec.extractLsb' 0 1 (BitVec.setWidth 3 (BitVec.extractLsb' 5 1 q)) ++ BitVec.extractLsb' 0 5 q : BitVec 6) = q := by
  apply BitVec.eq_of_getLsbD_eq; intro i hi
  simp only [BitVec.getLsbD_append, BitVec.getLsbD_extractLsb', BitVec.getLsbD_setWidth]
  grind

@[simp] theorem SI.dec_enc (x : SI) : SI.dec x.enc = some x := by cases x <;> simp [SI.enc, SI.dec]
@[simp] theorem VS.dec_enc (x : VS) : VS.dec x.enc = some x := by cases x <;> simp [VS.enc, VS.dec]
@[simp] theorem VSI.dec_enc (x : VSI) : VSI.dec x.enc = some x := by cases x <;> simp [VSI.enc, VSI.dec]

/-- A memory operand (R221). -/
@[simp] theorem MemOp.dec_enc (m : MemOp) : MemOp.dec m.encA m.encB = m := by
  cases m with
  | mk o r ps bd off bs ix sc id =>
    simp only [MemOp.dec, MemOp.encA, MemOp.encB, MemOp.mk.injEq]
    refine ⟨?_, ?_, ?_, ?_, ?_, ?_, ?_, ?_, ?_⟩
    · apply BitVec.eq_of_getLsbD_eq; intro i hi; simp only [BitVec.getLsbD_append, BitVec.getLsbD_extractLsb']; grind
    · refine (congrArg decBit ?_).trans (decBit_encBool1 r); apply BitVec.eq_of_getLsbD_eq; intro i hi; simp only [BitVec.getLsbD_append, BitVec.getLsbD_extractLsb']; grind
    · apply BitVec.eq_of_getLsbD_eq; intro i hi; simp only [BitVec.getLsbD_append, BitVec.getLsbD_extractLsb']; grind
    · refine (congrArg decBit ?_).trans (decBit_encBool1 bd); apply BitVec.eq_of_getLsbD_eq; intro i hi; simp only [BitVec.getLsbD_append, BitVec.getLsbD_extractLsb']; grind
    · apply BitVec.eq_of_getLsbD_eq; intro i hi
      simp only [BitVec.getLsbD_append, BitVec.getLsbD_extractLsb']
      grind
    · apply BitVec.eq_of_getLsbD_eq; intro i hi; simp only [BitVec.getLsbD_append, BitVec.getLsbD_extractLsb']; grind
    · refine (congrArg decBit ?_).trans (decBit_encBool1 ix); apply BitVec.eq_of_getLsbD_eq; intro i hi; simp only [BitVec.getLsbD_append, BitVec.getLsbD_extractLsb']; grind
    · apply BitVec.eq_of_getLsbD_eq; intro i hi; simp only [BitVec.getLsbD_append, BitVec.getLsbD_extractLsb']; grind
    · apply BitVec.eq_of_getLsbD_eq; intro i hi; simp only [BitVec.getLsbD_append, BitVec.getLsbD_extractLsb']; grind

end Sys2Proof
end

