-- ==== Sys2Proof/Laws/State.lean ====
section
/-! SUPPORT. Every field of a state after every update of `State` that changes one field, so that no proof unfolds an update;
and what the changed field reads as. -/

namespace Sys2Proof.Machine

/-! ### What an update reads back as -/

@[simp] theorem State.group?_setGroup (s : State) (k j : Nat) (g : Group) :
    (s.setGroup k g).group? j = if j = k then some g else s.group? j := Table.find_insert _ _ _ _
@[simp] theorem State.group?_modGroup (s : State) (k j : Nat) (f : Group → Group) :
    (s.modGroup k f).group? j = if j = k then (s.group? k).map f else s.group? j := Table.find_adjust _ _ _ _
@[simp] theorem State.core_setCore (s : State) (c d : Nat) (x : CoreSt) :
    (s.setCore c x).core d = if d = c then x else s.core d := Table.get_put _ _ _ _ _
@[simp] theorem State.core_modCore (s : State) (c d : Nat) (f : CoreSt → CoreSt) :
    (s.modCore c f).core d = if d = c then f (s.core c) else s.core d := Table.get_put _ _ _ _ _
@[simp] theorem State.stampsOf_setStamps (s : State) (a b : Nat) (x : Stamps) :
    (s.setStamps a x).stampsOf b = if b / 4 = a / 4 then x else s.stampsOf b := Table.get_put _ _ _ _ _
@[simp] theorem State.entry_setEntry (s : State) (l j : Nat) (d : Dir) :
    (s.setEntry l d).entry j = if j = l then d else s.entry j := Table.get_put _ _ _ _ _
@[simp] theorem State.fn_setFn (s : State) (f j : Nat) (x : Fn) :
    (s.setFn f x).fn j = if j = f then x else s.fn j := Table.get_put _ _ _ _ _
@[simp] theorem State.link_setLink (s : State) (l j : Nat) (x : Link) :
    (s.setLink l x).link j = if j = l then x else s.link j := Table.get_put _ _ _ _ _
@[simp] theorem State.peer_setPeer (s : State) (n j : Nat) (p : Peer) :
    (s.setPeer n p).peer j = if j = n then p else s.peer j := Table.get_put _ _ _ _ _

/-! ### `setGroup` -/

@[simp] theorem State.setGroup_clk (s : State) (k : Nat) (g : Group) : (s.setGroup k g).clk = s.clk := rfl
@[simp] theorem State.setGroup_tb (s : State) (k : Nat) (g : Group) : (s.setGroup k g).tb = s.tb := rfl
@[simp] theorem State.setGroup_tbFrac (s : State) (k : Nat) (g : Group) : (s.setGroup k g).tbFrac = s.tbFrac := rfl
@[simp] theorem State.setGroup_mhz (s : State) (k : Nat) (g : Group) : (s.setGroup k g).mhz = s.mhz := rfl
@[simp] theorem State.setGroup_power (s : State) (k : Nat) (g : Group) : (s.setGroup k g).power = s.power := rfl
@[simp] theorem State.setGroup_free (s : State) (k : Nat) (g : Group) : (s.setGroup k g).free = s.free := rfl
@[simp] theorem State.setGroup_serial (s : State) (k : Nat) (g : Group) : (s.setGroup k g).serial = s.serial := rfl
@[simp] theorem State.setGroup_agenda (s : State) (k : Nat) (g : Group) : (s.setGroup k g).agenda = s.agenda := rfl
@[simp] theorem State.setGroup_cur (s : State) (k : Nat) (g : Group) : (s.setGroup k g).cur = s.cur := rfl
@[simp] theorem State.setGroup_scan (s : State) (k : Nat) (g : Group) : (s.setGroup k g).scan = s.scan := rfl
@[simp] theorem State.setGroup_wgs (s : State) (k : Nat) (g : Group) : (s.setGroup k g).wgs = s.wgs := rfl
@[simp] theorem State.setGroup_gangs (s : State) (k : Nat) (g : Group) : (s.setGroup k g).gangs = s.gangs := rfl
@[simp] theorem State.setGroup_launches (s : State) (k : Nat) (g : Group) : (s.setGroup k g).launches = s.launches := rfl
@[simp] theorem State.setGroup_queues (s : State) (k : Nat) (g : Group) : (s.setGroup k g).queues = s.queues := rfl
@[simp] theorem State.setGroup_served (s : State) (k : Nat) (g : Group) : (s.setGroup k g).served = s.served := rfl
@[simp] theorem State.setGroup_generation (s : State) (k : Nat) (g : Group) : (s.setGroup k g).generation = s.generation := rfl
@[simp] theorem State.setGroup_hoists (s : State) (k : Nat) (g : Group) : (s.setGroup k g).hoists = s.hoists := rfl
@[simp] theorem State.setGroup_cores (s : State) (k : Nat) (g : Group) : (s.setGroup k g).cores = s.cores := rfl
@[simp] theorem State.setGroup_coreMap (s : State) (k : Nat) (g : Group) : (s.setGroup k g).coreMap = s.coreMap := rfl
@[simp] theorem State.setGroup_ctlb (s : State) (k : Nat) (g : Group) : (s.setGroup k g).ctlb = s.ctlb := rfl
@[simp] theorem State.setGroup_mats (s : State) (k : Nat) (g : Group) : (s.setGroup k g).mats = s.mats := rfl
@[simp] theorem State.setGroup_mem (s : State) (k : Nat) (g : Group) : (s.setGroup k g).mem = s.mem := rfl
@[simp] theorem State.setGroup_check (s : State) (k : Nat) (g : Group) : (s.setGroup k g).check = s.check := rfl
@[simp] theorem State.setGroup_devFail (s : State) (k : Nat) (g : Group) : (s.setGroup k g).devFail = s.devFail := rfl
@[simp] theorem State.setGroup_homes (s : State) (k : Nat) (g : Group) : (s.setGroup k g).homes = s.homes := rfl
@[simp] theorem State.setGroup_held (s : State) (k : Nat) (g : Group) : (s.setGroup k g).held = s.held := rfl
@[simp] theorem State.setGroup_wet (s : State) (k : Nat) (g : Group) : (s.setGroup k g).wet = s.wet := rfl
@[simp] theorem State.setGroup_dir (s : State) (k : Nat) (g : Group) : (s.setGroup k g).dir = s.dir := rfl
@[simp] theorem State.setGroup_seals (s : State) (k : Nat) (g : Group) : (s.setGroup k g).seals = s.seals := rfl
@[simp] theorem State.setGroup_monitors (s : State) (k : Nat) (g : Group) : (s.setGroup k g).monitors = s.monitors := rfl
@[simp] theorem State.setGroup_msgs (s : State) (k : Nat) (g : Group) : (s.setGroup k g).msgs = s.msgs := rfl
@[simp] theorem State.setGroup_prefetches (s : State) (k : Nat) (g : Group) : (s.setGroup k g).prefetches = s.prefetches := rfl
@[simp] theorem State.setGroup_bursts (s : State) (k : Nat) (g : Group) : (s.setGroup k g).bursts = s.bursts := rfl
@[simp] theorem State.setGroup_ops (s : State) (k : Nat) (g : Group) : (s.setGroup k g).ops = s.ops := rfl
@[simp] theorem State.setGroup_bloom (s : State) (k : Nat) (g : Group) : (s.setGroup k g).bloom = s.bloom := rfl
@[simp] theorem State.setGroup_repeats (s : State) (k : Nat) (g : Group) : (s.setGroup k g).repeats = s.repeats := rfl
@[simp] theorem State.setGroup_epoch (s : State) (k : Nat) (g : Group) : (s.setGroup k g).epoch = s.epoch := rfl
@[simp] theorem State.setGroup_log (s : State) (k : Nat) (g : Group) : (s.setGroup k g).log = s.log := rfl
@[simp] theorem State.setGroup_fatal (s : State) (k : Nat) (g : Group) : (s.setGroup k g).fatal = s.fatal := rfl
@[simp] theorem State.setGroup_ctxs (s : State) (k : Nat) (g : Group) : (s.setGroup k g).ctxs = s.ctxs := rfl
@[simp] theorem State.setGroup_fills (s : State) (k : Nat) (g : Group) : (s.setGroup k g).fills = s.fills := rfl
@[simp] theorem State.setGroup_tokens (s : State) (k : Nat) (g : Group) : (s.setGroup k g).tokens = s.tokens := rfl
@[simp] theorem State.setGroup_fns (s : State) (k : Nat) (g : Group) : (s.setGroup k g).fns = s.fns := rfl
@[simp] theorem State.setGroup_cmds (s : State) (k : Nat) (g : Group) : (s.setGroup k g).cmds = s.cmds := rfl
@[simp] theorem State.setGroup_node (s : State) (k : Nat) (g : Group) : (s.setGroup k g).node = s.node := rfl
@[simp] theorem State.setGroup_links (s : State) (k : Nat) (g : Group) : (s.setGroup k g).links = s.links := rfl
@[simp] theorem State.setGroup_peers (s : State) (k : Nat) (g : Group) : (s.setGroup k g).peers = s.peers := rfl
@[simp] theorem State.setGroup_parked (s : State) (k : Nat) (g : Group) : (s.setGroup k g).parked = s.parked := rfl
@[simp] theorem State.setGroup_scans (s : State) (k : Nat) (g : Group) : (s.setGroup k g).scans = s.scans := rfl
@[simp] theorem State.setGroup_health (s : State) (k : Nat) (g : Group) : (s.setGroup k g).health = s.health := rfl
@[simp] theorem State.setGroup_alerts (s : State) (k : Nat) (g : Group) : (s.setGroup k g).alerts = s.alerts := rfl
@[simp] theorem State.setGroup_sideband (s : State) (k : Nat) (g : Group) : (s.setGroup k g).sideband = s.sideband := rfl
@[simp] theorem State.setGroup_fw (s : State) (k : Nat) (g : Group) : (s.setGroup k g).fw = s.fw := rfl
@[simp] theorem State.setGroup_fwFree (s : State) (k : Nat) (g : Group) : (s.setGroup k g).fwFree = s.fwFree := rfl
@[simp] theorem State.setGroup_spoilt (s : State) (k : Nat) (g : Group) : (s.setGroup k g).spoilt = s.spoilt := rfl
@[simp] theorem State.setGroup_flaws (s : State) (k : Nat) (g : Group) : (s.setGroup k g).flaws = s.flaws := rfl
@[simp] theorem State.setGroup_leafRel (s : State) (k : Nat) (g : Group) : (s.setGroup k g).leafRel = s.leafRel := rfl

/-! ### `modGroup` -/

@[simp] theorem State.modGroup_clk (s : State) (k : Nat) (f : Group → Group) : (s.modGroup k f).clk = s.clk := rfl
@[simp] theorem State.modGroup_tb (s : State) (k : Nat) (f : Group → Group) : (s.modGroup k f).tb = s.tb := rfl
@[simp] theorem State.modGroup_tbFrac (s : State) (k : Nat) (f : Group → Group) : (s.modGroup k f).tbFrac = s.tbFrac := rfl
@[simp] theorem State.modGroup_mhz (s : State) (k : Nat) (f : Group → Group) : (s.modGroup k f).mhz = s.mhz := rfl
@[simp] theorem State.modGroup_power (s : State) (k : Nat) (f : Group → Group) : (s.modGroup k f).power = s.power := rfl
@[simp] theorem State.modGroup_free (s : State) (k : Nat) (f : Group → Group) : (s.modGroup k f).free = s.free := rfl
@[simp] theorem State.modGroup_serial (s : State) (k : Nat) (f : Group → Group) : (s.modGroup k f).serial = s.serial := rfl
@[simp] theorem State.modGroup_agenda (s : State) (k : Nat) (f : Group → Group) : (s.modGroup k f).agenda = s.agenda := rfl
@[simp] theorem State.modGroup_cur (s : State) (k : Nat) (f : Group → Group) : (s.modGroup k f).cur = s.cur := rfl
@[simp] theorem State.modGroup_scan (s : State) (k : Nat) (f : Group → Group) : (s.modGroup k f).scan = s.scan := rfl
@[simp] theorem State.modGroup_wgs (s : State) (k : Nat) (f : Group → Group) : (s.modGroup k f).wgs = s.wgs := rfl
@[simp] theorem State.modGroup_gangs (s : State) (k : Nat) (f : Group → Group) : (s.modGroup k f).gangs = s.gangs := rfl
@[simp] theorem State.modGroup_launches (s : State) (k : Nat) (f : Group → Group) : (s.modGroup k f).launches = s.launches := rfl
@[simp] theorem State.modGroup_queues (s : State) (k : Nat) (f : Group → Group) : (s.modGroup k f).queues = s.queues := rfl
@[simp] theorem State.modGroup_served (s : State) (k : Nat) (f : Group → Group) : (s.modGroup k f).served = s.served := rfl
@[simp] theorem State.modGroup_generation (s : State) (k : Nat) (f : Group → Group) : (s.modGroup k f).generation = s.generation := rfl
@[simp] theorem State.modGroup_hoists (s : State) (k : Nat) (f : Group → Group) : (s.modGroup k f).hoists = s.hoists := rfl
@[simp] theorem State.modGroup_cores (s : State) (k : Nat) (f : Group → Group) : (s.modGroup k f).cores = s.cores := rfl
@[simp] theorem State.modGroup_coreMap (s : State) (k : Nat) (f : Group → Group) : (s.modGroup k f).coreMap = s.coreMap := rfl
@[simp] theorem State.modGroup_ctlb (s : State) (k : Nat) (f : Group → Group) : (s.modGroup k f).ctlb = s.ctlb := rfl
@[simp] theorem State.modGroup_mats (s : State) (k : Nat) (f : Group → Group) : (s.modGroup k f).mats = s.mats := rfl
@[simp] theorem State.modGroup_mem (s : State) (k : Nat) (f : Group → Group) : (s.modGroup k f).mem = s.mem := rfl
@[simp] theorem State.modGroup_check (s : State) (k : Nat) (f : Group → Group) : (s.modGroup k f).check = s.check := rfl
@[simp] theorem State.modGroup_devFail (s : State) (k : Nat) (f : Group → Group) : (s.modGroup k f).devFail = s.devFail := rfl
@[simp] theorem State.modGroup_homes (s : State) (k : Nat) (f : Group → Group) : (s.modGroup k f).homes = s.homes := rfl
@[simp] theorem State.modGroup_held (s : State) (k : Nat) (f : Group → Group) : (s.modGroup k f).held = s.held := rfl
@[simp] theorem State.modGroup_wet (s : State) (k : Nat) (f : Group → Group) : (s.modGroup k f).wet = s.wet := rfl
@[simp] theorem State.modGroup_dir (s : State) (k : Nat) (f : Group → Group) : (s.modGroup k f).dir = s.dir := rfl
@[simp] theorem State.modGroup_seals (s : State) (k : Nat) (f : Group → Group) : (s.modGroup k f).seals = s.seals := rfl
@[simp] theorem State.modGroup_monitors (s : State) (k : Nat) (f : Group → Group) : (s.modGroup k f).monitors = s.monitors := rfl
@[simp] theorem State.modGroup_msgs (s : State) (k : Nat) (f : Group → Group) : (s.modGroup k f).msgs = s.msgs := rfl
@[simp] theorem State.modGroup_prefetches (s : State) (k : Nat) (f : Group → Group) : (s.modGroup k f).prefetches = s.prefetches := rfl
@[simp] theorem State.modGroup_bursts (s : State) (k : Nat) (f : Group → Group) : (s.modGroup k f).bursts = s.bursts := rfl
@[simp] theorem State.modGroup_ops (s : State) (k : Nat) (f : Group → Group) : (s.modGroup k f).ops = s.ops := rfl
@[simp] theorem State.modGroup_bloom (s : State) (k : Nat) (f : Group → Group) : (s.modGroup k f).bloom = s.bloom := rfl
@[simp] theorem State.modGroup_repeats (s : State) (k : Nat) (f : Group → Group) : (s.modGroup k f).repeats = s.repeats := rfl
@[simp] theorem State.modGroup_epoch (s : State) (k : Nat) (f : Group → Group) : (s.modGroup k f).epoch = s.epoch := rfl
@[simp] theorem State.modGroup_log (s : State) (k : Nat) (f : Group → Group) : (s.modGroup k f).log = s.log := rfl
@[simp] theorem State.modGroup_fatal (s : State) (k : Nat) (f : Group → Group) : (s.modGroup k f).fatal = s.fatal := rfl
@[simp] theorem State.modGroup_ctxs (s : State) (k : Nat) (f : Group → Group) : (s.modGroup k f).ctxs = s.ctxs := rfl
@[simp] theorem State.modGroup_fills (s : State) (k : Nat) (f : Group → Group) : (s.modGroup k f).fills = s.fills := rfl
@[simp] theorem State.modGroup_tokens (s : State) (k : Nat) (f : Group → Group) : (s.modGroup k f).tokens = s.tokens := rfl
@[simp] theorem State.modGroup_fns (s : State) (k : Nat) (f : Group → Group) : (s.modGroup k f).fns = s.fns := rfl
@[simp] theorem State.modGroup_cmds (s : State) (k : Nat) (f : Group → Group) : (s.modGroup k f).cmds = s.cmds := rfl
@[simp] theorem State.modGroup_node (s : State) (k : Nat) (f : Group → Group) : (s.modGroup k f).node = s.node := rfl
@[simp] theorem State.modGroup_links (s : State) (k : Nat) (f : Group → Group) : (s.modGroup k f).links = s.links := rfl
@[simp] theorem State.modGroup_peers (s : State) (k : Nat) (f : Group → Group) : (s.modGroup k f).peers = s.peers := rfl
@[simp] theorem State.modGroup_parked (s : State) (k : Nat) (f : Group → Group) : (s.modGroup k f).parked = s.parked := rfl
@[simp] theorem State.modGroup_scans (s : State) (k : Nat) (f : Group → Group) : (s.modGroup k f).scans = s.scans := rfl
@[simp] theorem State.modGroup_health (s : State) (k : Nat) (f : Group → Group) : (s.modGroup k f).health = s.health := rfl
@[simp] theorem State.modGroup_alerts (s : State) (k : Nat) (f : Group → Group) : (s.modGroup k f).alerts = s.alerts := rfl
@[simp] theorem State.modGroup_sideband (s : State) (k : Nat) (f : Group → Group) : (s.modGroup k f).sideband = s.sideband := rfl
@[simp] theorem State.modGroup_fw (s : State) (k : Nat) (f : Group → Group) : (s.modGroup k f).fw = s.fw := rfl
@[simp] theorem State.modGroup_fwFree (s : State) (k : Nat) (f : Group → Group) : (s.modGroup k f).fwFree = s.fwFree := rfl
@[simp] theorem State.modGroup_spoilt (s : State) (k : Nat) (f : Group → Group) : (s.modGroup k f).spoilt = s.spoilt := rfl
@[simp] theorem State.modGroup_flaws (s : State) (k : Nat) (f : Group → Group) : (s.modGroup k f).flaws = s.flaws := rfl
@[simp] theorem State.modGroup_leafRel (s : State) (k : Nat) (f : Group → Group) : (s.modGroup k f).leafRel = s.leafRel := rfl

/-! ### `modFrag` -/

@[simp] theorem State.modFrag_clk (s : State) (k en : Nat) (f : Frag → Frag) : (s.modFrag k en f).clk = s.clk := rfl
@[simp] theorem State.modFrag_tb (s : State) (k en : Nat) (f : Frag → Frag) : (s.modFrag k en f).tb = s.tb := rfl
@[simp] theorem State.modFrag_tbFrac (s : State) (k en : Nat) (f : Frag → Frag) : (s.modFrag k en f).tbFrac = s.tbFrac := rfl
@[simp] theorem State.modFrag_mhz (s : State) (k en : Nat) (f : Frag → Frag) : (s.modFrag k en f).mhz = s.mhz := rfl
@[simp] theorem State.modFrag_power (s : State) (k en : Nat) (f : Frag → Frag) : (s.modFrag k en f).power = s.power := rfl
@[simp] theorem State.modFrag_free (s : State) (k en : Nat) (f : Frag → Frag) : (s.modFrag k en f).free = s.free := rfl
@[simp] theorem State.modFrag_serial (s : State) (k en : Nat) (f : Frag → Frag) : (s.modFrag k en f).serial = s.serial := rfl
@[simp] theorem State.modFrag_agenda (s : State) (k en : Nat) (f : Frag → Frag) : (s.modFrag k en f).agenda = s.agenda := rfl
@[simp] theorem State.modFrag_cur (s : State) (k en : Nat) (f : Frag → Frag) : (s.modFrag k en f).cur = s.cur := rfl
@[simp] theorem State.modFrag_scan (s : State) (k en : Nat) (f : Frag → Frag) : (s.modFrag k en f).scan = s.scan := rfl
@[simp] theorem State.modFrag_wgs (s : State) (k en : Nat) (f : Frag → Frag) : (s.modFrag k en f).wgs = s.wgs := rfl
@[simp] theorem State.modFrag_gangs (s : State) (k en : Nat) (f : Frag → Frag) : (s.modFrag k en f).gangs = s.gangs := rfl
@[simp] theorem State.modFrag_launches (s : State) (k en : Nat) (f : Frag → Frag) : (s.modFrag k en f).launches = s.launches := rfl
@[simp] theorem State.modFrag_queues (s : State) (k en : Nat) (f : Frag → Frag) : (s.modFrag k en f).queues = s.queues := rfl
@[simp] theorem State.modFrag_served (s : State) (k en : Nat) (f : Frag → Frag) : (s.modFrag k en f).served = s.served := rfl
@[simp] theorem State.modFrag_generation (s : State) (k en : Nat) (f : Frag → Frag) : (s.modFrag k en f).generation = s.generation := rfl
@[simp] theorem State.modFrag_hoists (s : State) (k en : Nat) (f : Frag → Frag) : (s.modFrag k en f).hoists = s.hoists := rfl
@[simp] theorem State.modFrag_cores (s : State) (k en : Nat) (f : Frag → Frag) : (s.modFrag k en f).cores = s.cores := rfl
@[simp] theorem State.modFrag_coreMap (s : State) (k en : Nat) (f : Frag → Frag) : (s.modFrag k en f).coreMap = s.coreMap := rfl
@[simp] theorem State.modFrag_ctlb (s : State) (k en : Nat) (f : Frag → Frag) : (s.modFrag k en f).ctlb = s.ctlb := rfl
@[simp] theorem State.modFrag_mats (s : State) (k en : Nat) (f : Frag → Frag) : (s.modFrag k en f).mats = s.mats := rfl
@[simp] theorem State.modFrag_mem (s : State) (k en : Nat) (f : Frag → Frag) : (s.modFrag k en f).mem = s.mem := rfl
@[simp] theorem State.modFrag_check (s : State) (k en : Nat) (f : Frag → Frag) : (s.modFrag k en f).check = s.check := rfl
@[simp] theorem State.modFrag_devFail (s : State) (k en : Nat) (f : Frag → Frag) : (s.modFrag k en f).devFail = s.devFail := rfl
@[simp] theorem State.modFrag_homes (s : State) (k en : Nat) (f : Frag → Frag) : (s.modFrag k en f).homes = s.homes := rfl
@[simp] theorem State.modFrag_held (s : State) (k en : Nat) (f : Frag → Frag) : (s.modFrag k en f).held = s.held := rfl
@[simp] theorem State.modFrag_wet (s : State) (k en : Nat) (f : Frag → Frag) : (s.modFrag k en f).wet = s.wet := rfl
@[simp] theorem State.modFrag_dir (s : State) (k en : Nat) (f : Frag → Frag) : (s.modFrag k en f).dir = s.dir := rfl
@[simp] theorem State.modFrag_seals (s : State) (k en : Nat) (f : Frag → Frag) : (s.modFrag k en f).seals = s.seals := rfl
@[simp] theorem State.modFrag_monitors (s : State) (k en : Nat) (f : Frag → Frag) : (s.modFrag k en f).monitors = s.monitors := rfl
@[simp] theorem State.modFrag_msgs (s : State) (k en : Nat) (f : Frag → Frag) : (s.modFrag k en f).msgs = s.msgs := rfl
@[simp] theorem State.modFrag_prefetches (s : State) (k en : Nat) (f : Frag → Frag) : (s.modFrag k en f).prefetches = s.prefetches := rfl
@[simp] theorem State.modFrag_bursts (s : State) (k en : Nat) (f : Frag → Frag) : (s.modFrag k en f).bursts = s.bursts := rfl
@[simp] theorem State.modFrag_ops (s : State) (k en : Nat) (f : Frag → Frag) : (s.modFrag k en f).ops = s.ops := rfl
@[simp] theorem State.modFrag_bloom (s : State) (k en : Nat) (f : Frag → Frag) : (s.modFrag k en f).bloom = s.bloom := rfl
@[simp] theorem State.modFrag_repeats (s : State) (k en : Nat) (f : Frag → Frag) : (s.modFrag k en f).repeats = s.repeats := rfl
@[simp] theorem State.modFrag_epoch (s : State) (k en : Nat) (f : Frag → Frag) : (s.modFrag k en f).epoch = s.epoch := rfl
@[simp] theorem State.modFrag_log (s : State) (k en : Nat) (f : Frag → Frag) : (s.modFrag k en f).log = s.log := rfl
@[simp] theorem State.modFrag_fatal (s : State) (k en : Nat) (f : Frag → Frag) : (s.modFrag k en f).fatal = s.fatal := rfl
@[simp] theorem State.modFrag_ctxs (s : State) (k en : Nat) (f : Frag → Frag) : (s.modFrag k en f).ctxs = s.ctxs := rfl
@[simp] theorem State.modFrag_fills (s : State) (k en : Nat) (f : Frag → Frag) : (s.modFrag k en f).fills = s.fills := rfl
@[simp] theorem State.modFrag_tokens (s : State) (k en : Nat) (f : Frag → Frag) : (s.modFrag k en f).tokens = s.tokens := rfl
@[simp] theorem State.modFrag_fns (s : State) (k en : Nat) (f : Frag → Frag) : (s.modFrag k en f).fns = s.fns := rfl
@[simp] theorem State.modFrag_cmds (s : State) (k en : Nat) (f : Frag → Frag) : (s.modFrag k en f).cmds = s.cmds := rfl
@[simp] theorem State.modFrag_node (s : State) (k en : Nat) (f : Frag → Frag) : (s.modFrag k en f).node = s.node := rfl
@[simp] theorem State.modFrag_links (s : State) (k en : Nat) (f : Frag → Frag) : (s.modFrag k en f).links = s.links := rfl
@[simp] theorem State.modFrag_peers (s : State) (k en : Nat) (f : Frag → Frag) : (s.modFrag k en f).peers = s.peers := rfl
@[simp] theorem State.modFrag_parked (s : State) (k en : Nat) (f : Frag → Frag) : (s.modFrag k en f).parked = s.parked := rfl
@[simp] theorem State.modFrag_scans (s : State) (k en : Nat) (f : Frag → Frag) : (s.modFrag k en f).scans = s.scans := rfl
@[simp] theorem State.modFrag_health (s : State) (k en : Nat) (f : Frag → Frag) : (s.modFrag k en f).health = s.health := rfl
@[simp] theorem State.modFrag_alerts (s : State) (k en : Nat) (f : Frag → Frag) : (s.modFrag k en f).alerts = s.alerts := rfl
@[simp] theorem State.modFrag_sideband (s : State) (k en : Nat) (f : Frag → Frag) : (s.modFrag k en f).sideband = s.sideband := rfl
@[simp] theorem State.modFrag_fw (s : State) (k en : Nat) (f : Frag → Frag) : (s.modFrag k en f).fw = s.fw := rfl
@[simp] theorem State.modFrag_fwFree (s : State) (k en : Nat) (f : Frag → Frag) : (s.modFrag k en f).fwFree = s.fwFree := rfl
@[simp] theorem State.modFrag_spoilt (s : State) (k en : Nat) (f : Frag → Frag) : (s.modFrag k en f).spoilt = s.spoilt := rfl
@[simp] theorem State.modFrag_flaws (s : State) (k en : Nat) (f : Frag → Frag) : (s.modFrag k en f).flaws = s.flaws := rfl
@[simp] theorem State.modFrag_leafRel (s : State) (k en : Nat) (f : Frag → Frag) : (s.modFrag k en f).leafRel = s.leafRel := rfl

/-! ### `modWg` -/

@[simp] theorem State.modWg_clk (s : State) (w : Nat) (f : Workgroup → Workgroup) : (s.modWg w f).clk = s.clk := rfl
@[simp] theorem State.modWg_tb (s : State) (w : Nat) (f : Workgroup → Workgroup) : (s.modWg w f).tb = s.tb := rfl
@[simp] theorem State.modWg_tbFrac (s : State) (w : Nat) (f : Workgroup → Workgroup) : (s.modWg w f).tbFrac = s.tbFrac := rfl
@[simp] theorem State.modWg_mhz (s : State) (w : Nat) (f : Workgroup → Workgroup) : (s.modWg w f).mhz = s.mhz := rfl
@[simp] theorem State.modWg_power (s : State) (w : Nat) (f : Workgroup → Workgroup) : (s.modWg w f).power = s.power := rfl
@[simp] theorem State.modWg_free (s : State) (w : Nat) (f : Workgroup → Workgroup) : (s.modWg w f).free = s.free := rfl
@[simp] theorem State.modWg_serial (s : State) (w : Nat) (f : Workgroup → Workgroup) : (s.modWg w f).serial = s.serial := rfl
@[simp] theorem State.modWg_agenda (s : State) (w : Nat) (f : Workgroup → Workgroup) : (s.modWg w f).agenda = s.agenda := rfl
@[simp] theorem State.modWg_cur (s : State) (w : Nat) (f : Workgroup → Workgroup) : (s.modWg w f).cur = s.cur := rfl
@[simp] theorem State.modWg_scan (s : State) (w : Nat) (f : Workgroup → Workgroup) : (s.modWg w f).scan = s.scan := rfl
@[simp] theorem State.modWg_groups (s : State) (w : Nat) (f : Workgroup → Workgroup) : (s.modWg w f).groups = s.groups := rfl
@[simp] theorem State.modWg_gangs (s : State) (w : Nat) (f : Workgroup → Workgroup) : (s.modWg w f).gangs = s.gangs := rfl
@[simp] theorem State.modWg_launches (s : State) (w : Nat) (f : Workgroup → Workgroup) : (s.modWg w f).launches = s.launches := rfl
@[simp] theorem State.modWg_queues (s : State) (w : Nat) (f : Workgroup → Workgroup) : (s.modWg w f).queues = s.queues := rfl
@[simp] theorem State.modWg_served (s : State) (w : Nat) (f : Workgroup → Workgroup) : (s.modWg w f).served = s.served := rfl
@[simp] theorem State.modWg_generation (s : State) (w : Nat) (f : Workgroup → Workgroup) : (s.modWg w f).generation = s.generation := rfl
@[simp] theorem State.modWg_hoists (s : State) (w : Nat) (f : Workgroup → Workgroup) : (s.modWg w f).hoists = s.hoists := rfl
@[simp] theorem State.modWg_cores (s : State) (w : Nat) (f : Workgroup → Workgroup) : (s.modWg w f).cores = s.cores := rfl
@[simp] theorem State.modWg_coreMap (s : State) (w : Nat) (f : Workgroup → Workgroup) : (s.modWg w f).coreMap = s.coreMap := rfl
@[simp] theorem State.modWg_ctlb (s : State) (w : Nat) (f : Workgroup → Workgroup) : (s.modWg w f).ctlb = s.ctlb := rfl
@[simp] theorem State.modWg_mats (s : State) (w : Nat) (f : Workgroup → Workgroup) : (s.modWg w f).mats = s.mats := rfl
@[simp] theorem State.modWg_mem (s : State) (w : Nat) (f : Workgroup → Workgroup) : (s.modWg w f).mem = s.mem := rfl
@[simp] theorem State.modWg_check (s : State) (w : Nat) (f : Workgroup → Workgroup) : (s.modWg w f).check = s.check := rfl
@[simp] theorem State.modWg_devFail (s : State) (w : Nat) (f : Workgroup → Workgroup) : (s.modWg w f).devFail = s.devFail := rfl
@[simp] theorem State.modWg_homes (s : State) (w : Nat) (f : Workgroup → Workgroup) : (s.modWg w f).homes = s.homes := rfl
@[simp] theorem State.modWg_held (s : State) (w : Nat) (f : Workgroup → Workgroup) : (s.modWg w f).held = s.held := rfl
@[simp] theorem State.modWg_wet (s : State) (w : Nat) (f : Workgroup → Workgroup) : (s.modWg w f).wet = s.wet := rfl
@[simp] theorem State.modWg_dir (s : State) (w : Nat) (f : Workgroup → Workgroup) : (s.modWg w f).dir = s.dir := rfl
@[simp] theorem State.modWg_seals (s : State) (w : Nat) (f : Workgroup → Workgroup) : (s.modWg w f).seals = s.seals := rfl
@[simp] theorem State.modWg_monitors (s : State) (w : Nat) (f : Workgroup → Workgroup) : (s.modWg w f).monitors = s.monitors := rfl
@[simp] theorem State.modWg_msgs (s : State) (w : Nat) (f : Workgroup → Workgroup) : (s.modWg w f).msgs = s.msgs := rfl
@[simp] theorem State.modWg_prefetches (s : State) (w : Nat) (f : Workgroup → Workgroup) : (s.modWg w f).prefetches = s.prefetches := rfl
@[simp] theorem State.modWg_bursts (s : State) (w : Nat) (f : Workgroup → Workgroup) : (s.modWg w f).bursts = s.bursts := rfl
@[simp] theorem State.modWg_ops (s : State) (w : Nat) (f : Workgroup → Workgroup) : (s.modWg w f).ops = s.ops := rfl
@[simp] theorem State.modWg_bloom (s : State) (w : Nat) (f : Workgroup → Workgroup) : (s.modWg w f).bloom = s.bloom := rfl
@[simp] theorem State.modWg_repeats (s : State) (w : Nat) (f : Workgroup → Workgroup) : (s.modWg w f).repeats = s.repeats := rfl
@[simp] theorem State.modWg_epoch (s : State) (w : Nat) (f : Workgroup → Workgroup) : (s.modWg w f).epoch = s.epoch := rfl
@[simp] theorem State.modWg_log (s : State) (w : Nat) (f : Workgroup → Workgroup) : (s.modWg w f).log = s.log := rfl
@[simp] theorem State.modWg_fatal (s : State) (w : Nat) (f : Workgroup → Workgroup) : (s.modWg w f).fatal = s.fatal := rfl
@[simp] theorem State.modWg_ctxs (s : State) (w : Nat) (f : Workgroup → Workgroup) : (s.modWg w f).ctxs = s.ctxs := rfl
@[simp] theorem State.modWg_fills (s : State) (w : Nat) (f : Workgroup → Workgroup) : (s.modWg w f).fills = s.fills := rfl
@[simp] theorem State.modWg_tokens (s : State) (w : Nat) (f : Workgroup → Workgroup) : (s.modWg w f).tokens = s.tokens := rfl
@[simp] theorem State.modWg_fns (s : State) (w : Nat) (f : Workgroup → Workgroup) : (s.modWg w f).fns = s.fns := rfl
@[simp] theorem State.modWg_cmds (s : State) (w : Nat) (f : Workgroup → Workgroup) : (s.modWg w f).cmds = s.cmds := rfl
@[simp] theorem State.modWg_node (s : State) (w : Nat) (f : Workgroup → Workgroup) : (s.modWg w f).node = s.node := rfl
@[simp] theorem State.modWg_links (s : State) (w : Nat) (f : Workgroup → Workgroup) : (s.modWg w f).links = s.links := rfl
@[simp] theorem State.modWg_peers (s : State) (w : Nat) (f : Workgroup → Workgroup) : (s.modWg w f).peers = s.peers := rfl
@[simp] theorem State.modWg_parked (s : State) (w : Nat) (f : Workgroup → Workgroup) : (s.modWg w f).parked = s.parked := rfl
@[simp] theorem State.modWg_scans (s : State) (w : Nat) (f : Workgroup → Workgroup) : (s.modWg w f).scans = s.scans := rfl
@[simp] theorem State.modWg_health (s : State) (w : Nat) (f : Workgroup → Workgroup) : (s.modWg w f).health = s.health := rfl
@[simp] theorem State.modWg_alerts (s : State) (w : Nat) (f : Workgroup → Workgroup) : (s.modWg w f).alerts = s.alerts := rfl
@[simp] theorem State.modWg_sideband (s : State) (w : Nat) (f : Workgroup → Workgroup) : (s.modWg w f).sideband = s.sideband := rfl
@[simp] theorem State.modWg_fw (s : State) (w : Nat) (f : Workgroup → Workgroup) : (s.modWg w f).fw = s.fw := rfl
@[simp] theorem State.modWg_fwFree (s : State) (w : Nat) (f : Workgroup → Workgroup) : (s.modWg w f).fwFree = s.fwFree := rfl
@[simp] theorem State.modWg_spoilt (s : State) (w : Nat) (f : Workgroup → Workgroup) : (s.modWg w f).spoilt = s.spoilt := rfl
@[simp] theorem State.modWg_flaws (s : State) (w : Nat) (f : Workgroup → Workgroup) : (s.modWg w f).flaws = s.flaws := rfl
@[simp] theorem State.modWg_leafRel (s : State) (w : Nat) (f : Workgroup → Workgroup) : (s.modWg w f).leafRel = s.leafRel := rfl

/-! ### `modLaunch` -/

@[simp] theorem State.modLaunch_clk (s : State) (l : Nat) (f : Launch → Launch) : (s.modLaunch l f).clk = s.clk := rfl
@[simp] theorem State.modLaunch_tb (s : State) (l : Nat) (f : Launch → Launch) : (s.modLaunch l f).tb = s.tb := rfl
@[simp] theorem State.modLaunch_tbFrac (s : State) (l : Nat) (f : Launch → Launch) : (s.modLaunch l f).tbFrac = s.tbFrac := rfl
@[simp] theorem State.modLaunch_mhz (s : State) (l : Nat) (f : Launch → Launch) : (s.modLaunch l f).mhz = s.mhz := rfl
@[simp] theorem State.modLaunch_power (s : State) (l : Nat) (f : Launch → Launch) : (s.modLaunch l f).power = s.power := rfl
@[simp] theorem State.modLaunch_free (s : State) (l : Nat) (f : Launch → Launch) : (s.modLaunch l f).free = s.free := rfl
@[simp] theorem State.modLaunch_serial (s : State) (l : Nat) (f : Launch → Launch) : (s.modLaunch l f).serial = s.serial := rfl
@[simp] theorem State.modLaunch_agenda (s : State) (l : Nat) (f : Launch → Launch) : (s.modLaunch l f).agenda = s.agenda := rfl
@[simp] theorem State.modLaunch_cur (s : State) (l : Nat) (f : Launch → Launch) : (s.modLaunch l f).cur = s.cur := rfl
@[simp] theorem State.modLaunch_scan (s : State) (l : Nat) (f : Launch → Launch) : (s.modLaunch l f).scan = s.scan := rfl
@[simp] theorem State.modLaunch_groups (s : State) (l : Nat) (f : Launch → Launch) : (s.modLaunch l f).groups = s.groups := rfl
@[simp] theorem State.modLaunch_wgs (s : State) (l : Nat) (f : Launch → Launch) : (s.modLaunch l f).wgs = s.wgs := rfl
@[simp] theorem State.modLaunch_gangs (s : State) (l : Nat) (f : Launch → Launch) : (s.modLaunch l f).gangs = s.gangs := rfl
@[simp] theorem State.modLaunch_queues (s : State) (l : Nat) (f : Launch → Launch) : (s.modLaunch l f).queues = s.queues := rfl
@[simp] theorem State.modLaunch_served (s : State) (l : Nat) (f : Launch → Launch) : (s.modLaunch l f).served = s.served := rfl
@[simp] theorem State.modLaunch_generation (s : State) (l : Nat) (f : Launch → Launch) : (s.modLaunch l f).generation = s.generation := rfl
@[simp] theorem State.modLaunch_hoists (s : State) (l : Nat) (f : Launch → Launch) : (s.modLaunch l f).hoists = s.hoists := rfl
@[simp] theorem State.modLaunch_cores (s : State) (l : Nat) (f : Launch → Launch) : (s.modLaunch l f).cores = s.cores := rfl
@[simp] theorem State.modLaunch_coreMap (s : State) (l : Nat) (f : Launch → Launch) : (s.modLaunch l f).coreMap = s.coreMap := rfl
@[simp] theorem State.modLaunch_ctlb (s : State) (l : Nat) (f : Launch → Launch) : (s.modLaunch l f).ctlb = s.ctlb := rfl
@[simp] theorem State.modLaunch_mats (s : State) (l : Nat) (f : Launch → Launch) : (s.modLaunch l f).mats = s.mats := rfl
@[simp] theorem State.modLaunch_mem (s : State) (l : Nat) (f : Launch → Launch) : (s.modLaunch l f).mem = s.mem := rfl
@[simp] theorem State.modLaunch_check (s : State) (l : Nat) (f : Launch → Launch) : (s.modLaunch l f).check = s.check := rfl
@[simp] theorem State.modLaunch_devFail (s : State) (l : Nat) (f : Launch → Launch) : (s.modLaunch l f).devFail = s.devFail := rfl
@[simp] theorem State.modLaunch_homes (s : State) (l : Nat) (f : Launch → Launch) : (s.modLaunch l f).homes = s.homes := rfl
@[simp] theorem State.modLaunch_held (s : State) (l : Nat) (f : Launch → Launch) : (s.modLaunch l f).held = s.held := rfl
@[simp] theorem State.modLaunch_wet (s : State) (l : Nat) (f : Launch → Launch) : (s.modLaunch l f).wet = s.wet := rfl
@[simp] theorem State.modLaunch_dir (s : State) (l : Nat) (f : Launch → Launch) : (s.modLaunch l f).dir = s.dir := rfl
@[simp] theorem State.modLaunch_seals (s : State) (l : Nat) (f : Launch → Launch) : (s.modLaunch l f).seals = s.seals := rfl
@[simp] theorem State.modLaunch_monitors (s : State) (l : Nat) (f : Launch → Launch) : (s.modLaunch l f).monitors = s.monitors := rfl
@[simp] theorem State.modLaunch_msgs (s : State) (l : Nat) (f : Launch → Launch) : (s.modLaunch l f).msgs = s.msgs := rfl
@[simp] theorem State.modLaunch_prefetches (s : State) (l : Nat) (f : Launch → Launch) : (s.modLaunch l f).prefetches = s.prefetches := rfl
@[simp] theorem State.modLaunch_bursts (s : State) (l : Nat) (f : Launch → Launch) : (s.modLaunch l f).bursts = s.bursts := rfl
@[simp] theorem State.modLaunch_ops (s : State) (l : Nat) (f : Launch → Launch) : (s.modLaunch l f).ops = s.ops := rfl
@[simp] theorem State.modLaunch_bloom (s : State) (l : Nat) (f : Launch → Launch) : (s.modLaunch l f).bloom = s.bloom := rfl
@[simp] theorem State.modLaunch_repeats (s : State) (l : Nat) (f : Launch → Launch) : (s.modLaunch l f).repeats = s.repeats := rfl
@[simp] theorem State.modLaunch_epoch (s : State) (l : Nat) (f : Launch → Launch) : (s.modLaunch l f).epoch = s.epoch := rfl
@[simp] theorem State.modLaunch_log (s : State) (l : Nat) (f : Launch → Launch) : (s.modLaunch l f).log = s.log := rfl
@[simp] theorem State.modLaunch_fatal (s : State) (l : Nat) (f : Launch → Launch) : (s.modLaunch l f).fatal = s.fatal := rfl
@[simp] theorem State.modLaunch_ctxs (s : State) (l : Nat) (f : Launch → Launch) : (s.modLaunch l f).ctxs = s.ctxs := rfl
@[simp] theorem State.modLaunch_fills (s : State) (l : Nat) (f : Launch → Launch) : (s.modLaunch l f).fills = s.fills := rfl
@[simp] theorem State.modLaunch_tokens (s : State) (l : Nat) (f : Launch → Launch) : (s.modLaunch l f).tokens = s.tokens := rfl
@[simp] theorem State.modLaunch_fns (s : State) (l : Nat) (f : Launch → Launch) : (s.modLaunch l f).fns = s.fns := rfl
@[simp] theorem State.modLaunch_cmds (s : State) (l : Nat) (f : Launch → Launch) : (s.modLaunch l f).cmds = s.cmds := rfl
@[simp] theorem State.modLaunch_node (s : State) (l : Nat) (f : Launch → Launch) : (s.modLaunch l f).node = s.node := rfl
@[simp] theorem State.modLaunch_links (s : State) (l : Nat) (f : Launch → Launch) : (s.modLaunch l f).links = s.links := rfl
@[simp] theorem State.modLaunch_peers (s : State) (l : Nat) (f : Launch → Launch) : (s.modLaunch l f).peers = s.peers := rfl
@[simp] theorem State.modLaunch_parked (s : State) (l : Nat) (f : Launch → Launch) : (s.modLaunch l f).parked = s.parked := rfl
@[simp] theorem State.modLaunch_scans (s : State) (l : Nat) (f : Launch → Launch) : (s.modLaunch l f).scans = s.scans := rfl
@[simp] theorem State.modLaunch_health (s : State) (l : Nat) (f : Launch → Launch) : (s.modLaunch l f).health = s.health := rfl
@[simp] theorem State.modLaunch_alerts (s : State) (l : Nat) (f : Launch → Launch) : (s.modLaunch l f).alerts = s.alerts := rfl
@[simp] theorem State.modLaunch_sideband (s : State) (l : Nat) (f : Launch → Launch) : (s.modLaunch l f).sideband = s.sideband := rfl
@[simp] theorem State.modLaunch_fw (s : State) (l : Nat) (f : Launch → Launch) : (s.modLaunch l f).fw = s.fw := rfl
@[simp] theorem State.modLaunch_fwFree (s : State) (l : Nat) (f : Launch → Launch) : (s.modLaunch l f).fwFree = s.fwFree := rfl
@[simp] theorem State.modLaunch_spoilt (s : State) (l : Nat) (f : Launch → Launch) : (s.modLaunch l f).spoilt = s.spoilt := rfl
@[simp] theorem State.modLaunch_flaws (s : State) (l : Nat) (f : Launch → Launch) : (s.modLaunch l f).flaws = s.flaws := rfl
@[simp] theorem State.modLaunch_leafRel (s : State) (l : Nat) (f : Launch → Launch) : (s.modLaunch l f).leafRel = s.leafRel := rfl

/-! ### `modCtx` -/

@[simp] theorem State.modCtx_clk (s : State) (c : Nat) (f : Ctx → Ctx) : (s.modCtx c f).clk = s.clk := rfl
@[simp] theorem State.modCtx_tb (s : State) (c : Nat) (f : Ctx → Ctx) : (s.modCtx c f).tb = s.tb := rfl
@[simp] theorem State.modCtx_tbFrac (s : State) (c : Nat) (f : Ctx → Ctx) : (s.modCtx c f).tbFrac = s.tbFrac := rfl
@[simp] theorem State.modCtx_mhz (s : State) (c : Nat) (f : Ctx → Ctx) : (s.modCtx c f).mhz = s.mhz := rfl
@[simp] theorem State.modCtx_power (s : State) (c : Nat) (f : Ctx → Ctx) : (s.modCtx c f).power = s.power := rfl
@[simp] theorem State.modCtx_free (s : State) (c : Nat) (f : Ctx → Ctx) : (s.modCtx c f).free = s.free := rfl
@[simp] theorem State.modCtx_serial (s : State) (c : Nat) (f : Ctx → Ctx) : (s.modCtx c f).serial = s.serial := rfl
@[simp] theorem State.modCtx_agenda (s : State) (c : Nat) (f : Ctx → Ctx) : (s.modCtx c f).agenda = s.agenda := rfl
@[simp] theorem State.modCtx_cur (s : State) (c : Nat) (f : Ctx → Ctx) : (s.modCtx c f).cur = s.cur := rfl
@[simp] theorem State.modCtx_scan (s : State) (c : Nat) (f : Ctx → Ctx) : (s.modCtx c f).scan = s.scan := rfl
@[simp] theorem State.modCtx_groups (s : State) (c : Nat) (f : Ctx → Ctx) : (s.modCtx c f).groups = s.groups := rfl
@[simp] theorem State.modCtx_wgs (s : State) (c : Nat) (f : Ctx → Ctx) : (s.modCtx c f).wgs = s.wgs := rfl
@[simp] theorem State.modCtx_gangs (s : State) (c : Nat) (f : Ctx → Ctx) : (s.modCtx c f).gangs = s.gangs := rfl
@[simp] theorem State.modCtx_launches (s : State) (c : Nat) (f : Ctx → Ctx) : (s.modCtx c f).launches = s.launches := rfl
@[simp] theorem State.modCtx_queues (s : State) (c : Nat) (f : Ctx → Ctx) : (s.modCtx c f).queues = s.queues := rfl
@[simp] theorem State.modCtx_served (s : State) (c : Nat) (f : Ctx → Ctx) : (s.modCtx c f).served = s.served := rfl
@[simp] theorem State.modCtx_generation (s : State) (c : Nat) (f : Ctx → Ctx) : (s.modCtx c f).generation = s.generation := rfl
@[simp] theorem State.modCtx_hoists (s : State) (c : Nat) (f : Ctx → Ctx) : (s.modCtx c f).hoists = s.hoists := rfl
@[simp] theorem State.modCtx_cores (s : State) (c : Nat) (f : Ctx → Ctx) : (s.modCtx c f).cores = s.cores := rfl
@[simp] theorem State.modCtx_coreMap (s : State) (c : Nat) (f : Ctx → Ctx) : (s.modCtx c f).coreMap = s.coreMap := rfl
@[simp] theorem State.modCtx_ctlb (s : State) (c : Nat) (f : Ctx → Ctx) : (s.modCtx c f).ctlb = s.ctlb := rfl
@[simp] theorem State.modCtx_mats (s : State) (c : Nat) (f : Ctx → Ctx) : (s.modCtx c f).mats = s.mats := rfl
@[simp] theorem State.modCtx_mem (s : State) (c : Nat) (f : Ctx → Ctx) : (s.modCtx c f).mem = s.mem := rfl
@[simp] theorem State.modCtx_check (s : State) (c : Nat) (f : Ctx → Ctx) : (s.modCtx c f).check = s.check := rfl
@[simp] theorem State.modCtx_devFail (s : State) (c : Nat) (f : Ctx → Ctx) : (s.modCtx c f).devFail = s.devFail := rfl
@[simp] theorem State.modCtx_homes (s : State) (c : Nat) (f : Ctx → Ctx) : (s.modCtx c f).homes = s.homes := rfl
@[simp] theorem State.modCtx_held (s : State) (c : Nat) (f : Ctx → Ctx) : (s.modCtx c f).held = s.held := rfl
@[simp] theorem State.modCtx_wet (s : State) (c : Nat) (f : Ctx → Ctx) : (s.modCtx c f).wet = s.wet := rfl
@[simp] theorem State.modCtx_dir (s : State) (c : Nat) (f : Ctx → Ctx) : (s.modCtx c f).dir = s.dir := rfl
@[simp] theorem State.modCtx_seals (s : State) (c : Nat) (f : Ctx → Ctx) : (s.modCtx c f).seals = s.seals := rfl
@[simp] theorem State.modCtx_monitors (s : State) (c : Nat) (f : Ctx → Ctx) : (s.modCtx c f).monitors = s.monitors := rfl
@[simp] theorem State.modCtx_msgs (s : State) (c : Nat) (f : Ctx → Ctx) : (s.modCtx c f).msgs = s.msgs := rfl
@[simp] theorem State.modCtx_prefetches (s : State) (c : Nat) (f : Ctx → Ctx) : (s.modCtx c f).prefetches = s.prefetches := rfl
@[simp] theorem State.modCtx_bursts (s : State) (c : Nat) (f : Ctx → Ctx) : (s.modCtx c f).bursts = s.bursts := rfl
@[simp] theorem State.modCtx_ops (s : State) (c : Nat) (f : Ctx → Ctx) : (s.modCtx c f).ops = s.ops := rfl
@[simp] theorem State.modCtx_bloom (s : State) (c : Nat) (f : Ctx → Ctx) : (s.modCtx c f).bloom = s.bloom := rfl
@[simp] theorem State.modCtx_repeats (s : State) (c : Nat) (f : Ctx → Ctx) : (s.modCtx c f).repeats = s.repeats := rfl
@[simp] theorem State.modCtx_epoch (s : State) (c : Nat) (f : Ctx → Ctx) : (s.modCtx c f).epoch = s.epoch := rfl
@[simp] theorem State.modCtx_log (s : State) (c : Nat) (f : Ctx → Ctx) : (s.modCtx c f).log = s.log := rfl
@[simp] theorem State.modCtx_fatal (s : State) (c : Nat) (f : Ctx → Ctx) : (s.modCtx c f).fatal = s.fatal := rfl
@[simp] theorem State.modCtx_fills (s : State) (c : Nat) (f : Ctx → Ctx) : (s.modCtx c f).fills = s.fills := rfl
@[simp] theorem State.modCtx_tokens (s : State) (c : Nat) (f : Ctx → Ctx) : (s.modCtx c f).tokens = s.tokens := rfl
@[simp] theorem State.modCtx_fns (s : State) (c : Nat) (f : Ctx → Ctx) : (s.modCtx c f).fns = s.fns := rfl
@[simp] theorem State.modCtx_cmds (s : State) (c : Nat) (f : Ctx → Ctx) : (s.modCtx c f).cmds = s.cmds := rfl
@[simp] theorem State.modCtx_node (s : State) (c : Nat) (f : Ctx → Ctx) : (s.modCtx c f).node = s.node := rfl
@[simp] theorem State.modCtx_links (s : State) (c : Nat) (f : Ctx → Ctx) : (s.modCtx c f).links = s.links := rfl
@[simp] theorem State.modCtx_peers (s : State) (c : Nat) (f : Ctx → Ctx) : (s.modCtx c f).peers = s.peers := rfl
@[simp] theorem State.modCtx_parked (s : State) (c : Nat) (f : Ctx → Ctx) : (s.modCtx c f).parked = s.parked := rfl
@[simp] theorem State.modCtx_scans (s : State) (c : Nat) (f : Ctx → Ctx) : (s.modCtx c f).scans = s.scans := rfl
@[simp] theorem State.modCtx_health (s : State) (c : Nat) (f : Ctx → Ctx) : (s.modCtx c f).health = s.health := rfl
@[simp] theorem State.modCtx_alerts (s : State) (c : Nat) (f : Ctx → Ctx) : (s.modCtx c f).alerts = s.alerts := rfl
@[simp] theorem State.modCtx_sideband (s : State) (c : Nat) (f : Ctx → Ctx) : (s.modCtx c f).sideband = s.sideband := rfl
@[simp] theorem State.modCtx_fw (s : State) (c : Nat) (f : Ctx → Ctx) : (s.modCtx c f).fw = s.fw := rfl
@[simp] theorem State.modCtx_fwFree (s : State) (c : Nat) (f : Ctx → Ctx) : (s.modCtx c f).fwFree = s.fwFree := rfl
@[simp] theorem State.modCtx_spoilt (s : State) (c : Nat) (f : Ctx → Ctx) : (s.modCtx c f).spoilt = s.spoilt := rfl
@[simp] theorem State.modCtx_flaws (s : State) (c : Nat) (f : Ctx → Ctx) : (s.modCtx c f).flaws = s.flaws := rfl
@[simp] theorem State.modCtx_leafRel (s : State) (c : Nat) (f : Ctx → Ctx) : (s.modCtx c f).leafRel = s.leafRel := rfl

/-! ### `setCore` -/

@[simp] theorem State.setCore_clk (s : State) (c : Nat) (x : CoreSt) : (s.setCore c x).clk = s.clk := rfl
@[simp] theorem State.setCore_tb (s : State) (c : Nat) (x : CoreSt) : (s.setCore c x).tb = s.tb := rfl
@[simp] theorem State.setCore_tbFrac (s : State) (c : Nat) (x : CoreSt) : (s.setCore c x).tbFrac = s.tbFrac := rfl
@[simp] theorem State.setCore_mhz (s : State) (c : Nat) (x : CoreSt) : (s.setCore c x).mhz = s.mhz := rfl
@[simp] theorem State.setCore_power (s : State) (c : Nat) (x : CoreSt) : (s.setCore c x).power = s.power := rfl
@[simp] theorem State.setCore_free (s : State) (c : Nat) (x : CoreSt) : (s.setCore c x).free = s.free := rfl
@[simp] theorem State.setCore_serial (s : State) (c : Nat) (x : CoreSt) : (s.setCore c x).serial = s.serial := rfl
@[simp] theorem State.setCore_agenda (s : State) (c : Nat) (x : CoreSt) : (s.setCore c x).agenda = s.agenda := rfl
@[simp] theorem State.setCore_cur (s : State) (c : Nat) (x : CoreSt) : (s.setCore c x).cur = s.cur := rfl
@[simp] theorem State.setCore_scan (s : State) (c : Nat) (x : CoreSt) : (s.setCore c x).scan = s.scan := rfl
@[simp] theorem State.setCore_groups (s : State) (c : Nat) (x : CoreSt) : (s.setCore c x).groups = s.groups := rfl
@[simp] theorem State.setCore_wgs (s : State) (c : Nat) (x : CoreSt) : (s.setCore c x).wgs = s.wgs := rfl
@[simp] theorem State.setCore_gangs (s : State) (c : Nat) (x : CoreSt) : (s.setCore c x).gangs = s.gangs := rfl
@[simp] theorem State.setCore_launches (s : State) (c : Nat) (x : CoreSt) : (s.setCore c x).launches = s.launches := rfl
@[simp] theorem State.setCore_queues (s : State) (c : Nat) (x : CoreSt) : (s.setCore c x).queues = s.queues := rfl
@[simp] theorem State.setCore_served (s : State) (c : Nat) (x : CoreSt) : (s.setCore c x).served = s.served := rfl
@[simp] theorem State.setCore_generation (s : State) (c : Nat) (x : CoreSt) : (s.setCore c x).generation = s.generation := rfl
@[simp] theorem State.setCore_hoists (s : State) (c : Nat) (x : CoreSt) : (s.setCore c x).hoists = s.hoists := rfl
@[simp] theorem State.setCore_coreMap (s : State) (c : Nat) (x : CoreSt) : (s.setCore c x).coreMap = s.coreMap := rfl
@[simp] theorem State.setCore_ctlb (s : State) (c : Nat) (x : CoreSt) : (s.setCore c x).ctlb = s.ctlb := rfl
@[simp] theorem State.setCore_mats (s : State) (c : Nat) (x : CoreSt) : (s.setCore c x).mats = s.mats := rfl
@[simp] theorem State.setCore_mem (s : State) (c : Nat) (x : CoreSt) : (s.setCore c x).mem = s.mem := rfl
@[simp] theorem State.setCore_check (s : State) (c : Nat) (x : CoreSt) : (s.setCore c x).check = s.check := rfl
@[simp] theorem State.setCore_devFail (s : State) (c : Nat) (x : CoreSt) : (s.setCore c x).devFail = s.devFail := rfl
@[simp] theorem State.setCore_homes (s : State) (c : Nat) (x : CoreSt) : (s.setCore c x).homes = s.homes := rfl
@[simp] theorem State.setCore_held (s : State) (c : Nat) (x : CoreSt) : (s.setCore c x).held = s.held := rfl
@[simp] theorem State.setCore_wet (s : State) (c : Nat) (x : CoreSt) : (s.setCore c x).wet = s.wet := rfl
@[simp] theorem State.setCore_dir (s : State) (c : Nat) (x : CoreSt) : (s.setCore c x).dir = s.dir := rfl
@[simp] theorem State.setCore_seals (s : State) (c : Nat) (x : CoreSt) : (s.setCore c x).seals = s.seals := rfl
@[simp] theorem State.setCore_monitors (s : State) (c : Nat) (x : CoreSt) : (s.setCore c x).monitors = s.monitors := rfl
@[simp] theorem State.setCore_msgs (s : State) (c : Nat) (x : CoreSt) : (s.setCore c x).msgs = s.msgs := rfl
@[simp] theorem State.setCore_prefetches (s : State) (c : Nat) (x : CoreSt) : (s.setCore c x).prefetches = s.prefetches := rfl
@[simp] theorem State.setCore_bursts (s : State) (c : Nat) (x : CoreSt) : (s.setCore c x).bursts = s.bursts := rfl
@[simp] theorem State.setCore_ops (s : State) (c : Nat) (x : CoreSt) : (s.setCore c x).ops = s.ops := rfl
@[simp] theorem State.setCore_bloom (s : State) (c : Nat) (x : CoreSt) : (s.setCore c x).bloom = s.bloom := rfl
@[simp] theorem State.setCore_repeats (s : State) (c : Nat) (x : CoreSt) : (s.setCore c x).repeats = s.repeats := rfl
@[simp] theorem State.setCore_epoch (s : State) (c : Nat) (x : CoreSt) : (s.setCore c x).epoch = s.epoch := rfl
@[simp] theorem State.setCore_log (s : State) (c : Nat) (x : CoreSt) : (s.setCore c x).log = s.log := rfl
@[simp] theorem State.setCore_fatal (s : State) (c : Nat) (x : CoreSt) : (s.setCore c x).fatal = s.fatal := rfl
@[simp] theorem State.setCore_ctxs (s : State) (c : Nat) (x : CoreSt) : (s.setCore c x).ctxs = s.ctxs := rfl
@[simp] theorem State.setCore_fills (s : State) (c : Nat) (x : CoreSt) : (s.setCore c x).fills = s.fills := rfl
@[simp] theorem State.setCore_tokens (s : State) (c : Nat) (x : CoreSt) : (s.setCore c x).tokens = s.tokens := rfl
@[simp] theorem State.setCore_fns (s : State) (c : Nat) (x : CoreSt) : (s.setCore c x).fns = s.fns := rfl
@[simp] theorem State.setCore_cmds (s : State) (c : Nat) (x : CoreSt) : (s.setCore c x).cmds = s.cmds := rfl
@[simp] theorem State.setCore_node (s : State) (c : Nat) (x : CoreSt) : (s.setCore c x).node = s.node := rfl
@[simp] theorem State.setCore_links (s : State) (c : Nat) (x : CoreSt) : (s.setCore c x).links = s.links := rfl
@[simp] theorem State.setCore_peers (s : State) (c : Nat) (x : CoreSt) : (s.setCore c x).peers = s.peers := rfl
@[simp] theorem State.setCore_parked (s : State) (c : Nat) (x : CoreSt) : (s.setCore c x).parked = s.parked := rfl
@[simp] theorem State.setCore_scans (s : State) (c : Nat) (x : CoreSt) : (s.setCore c x).scans = s.scans := rfl
@[simp] theorem State.setCore_health (s : State) (c : Nat) (x : CoreSt) : (s.setCore c x).health = s.health := rfl
@[simp] theorem State.setCore_alerts (s : State) (c : Nat) (x : CoreSt) : (s.setCore c x).alerts = s.alerts := rfl
@[simp] theorem State.setCore_sideband (s : State) (c : Nat) (x : CoreSt) : (s.setCore c x).sideband = s.sideband := rfl
@[simp] theorem State.setCore_fw (s : State) (c : Nat) (x : CoreSt) : (s.setCore c x).fw = s.fw := rfl
@[simp] theorem State.setCore_fwFree (s : State) (c : Nat) (x : CoreSt) : (s.setCore c x).fwFree = s.fwFree := rfl
@[simp] theorem State.setCore_spoilt (s : State) (c : Nat) (x : CoreSt) : (s.setCore c x).spoilt = s.spoilt := rfl
@[simp] theorem State.setCore_flaws (s : State) (c : Nat) (x : CoreSt) : (s.setCore c x).flaws = s.flaws := rfl
@[simp] theorem State.setCore_leafRel (s : State) (c : Nat) (x : CoreSt) : (s.setCore c x).leafRel = s.leafRel := rfl

/-! ### `modCore` -/

@[simp] theorem State.modCore_clk (s : State) (c : Nat) (f : CoreSt → CoreSt) : (s.modCore c f).clk = s.clk := rfl
@[simp] theorem State.modCore_tb (s : State) (c : Nat) (f : CoreSt → CoreSt) : (s.modCore c f).tb = s.tb := rfl
@[simp] theorem State.modCore_tbFrac (s : State) (c : Nat) (f : CoreSt → CoreSt) : (s.modCore c f).tbFrac = s.tbFrac := rfl
@[simp] theorem State.modCore_mhz (s : State) (c : Nat) (f : CoreSt → CoreSt) : (s.modCore c f).mhz = s.mhz := rfl
@[simp] theorem State.modCore_power (s : State) (c : Nat) (f : CoreSt → CoreSt) : (s.modCore c f).power = s.power := rfl
@[simp] theorem State.modCore_free (s : State) (c : Nat) (f : CoreSt → CoreSt) : (s.modCore c f).free = s.free := rfl
@[simp] theorem State.modCore_serial (s : State) (c : Nat) (f : CoreSt → CoreSt) : (s.modCore c f).serial = s.serial := rfl
@[simp] theorem State.modCore_agenda (s : State) (c : Nat) (f : CoreSt → CoreSt) : (s.modCore c f).agenda = s.agenda := rfl
@[simp] theorem State.modCore_cur (s : State) (c : Nat) (f : CoreSt → CoreSt) : (s.modCore c f).cur = s.cur := rfl
@[simp] theorem State.modCore_scan (s : State) (c : Nat) (f : CoreSt → CoreSt) : (s.modCore c f).scan = s.scan := rfl
@[simp] theorem State.modCore_groups (s : State) (c : Nat) (f : CoreSt → CoreSt) : (s.modCore c f).groups = s.groups := rfl
@[simp] theorem State.modCore_wgs (s : State) (c : Nat) (f : CoreSt → CoreSt) : (s.modCore c f).wgs = s.wgs := rfl
@[simp] theorem State.modCore_gangs (s : State) (c : Nat) (f : CoreSt → CoreSt) : (s.modCore c f).gangs = s.gangs := rfl
@[simp] theorem State.modCore_launches (s : State) (c : Nat) (f : CoreSt → CoreSt) : (s.modCore c f).launches = s.launches := rfl
@[simp] theorem State.modCore_queues (s : State) (c : Nat) (f : CoreSt → CoreSt) : (s.modCore c f).queues = s.queues := rfl
@[simp] theorem State.modCore_served (s : State) (c : Nat) (f : CoreSt → CoreSt) : (s.modCore c f).served = s.served := rfl
@[simp] theorem State.modCore_generation (s : State) (c : Nat) (f : CoreSt → CoreSt) : (s.modCore c f).generation = s.generation := rfl
@[simp] theorem State.modCore_hoists (s : State) (c : Nat) (f : CoreSt → CoreSt) : (s.modCore c f).hoists = s.hoists := rfl
@[simp] theorem State.modCore_coreMap (s : State) (c : Nat) (f : CoreSt → CoreSt) : (s.modCore c f).coreMap = s.coreMap := rfl
@[simp] theorem State.modCore_ctlb (s : State) (c : Nat) (f : CoreSt → CoreSt) : (s.modCore c f).ctlb = s.ctlb := rfl
@[simp] theorem State.modCore_mats (s : State) (c : Nat) (f : CoreSt → CoreSt) : (s.modCore c f).mats = s.mats := rfl
@[simp] theorem State.modCore_mem (s : State) (c : Nat) (f : CoreSt → CoreSt) : (s.modCore c f).mem = s.mem := rfl
@[simp] theorem State.modCore_check (s : State) (c : Nat) (f : CoreSt → CoreSt) : (s.modCore c f).check = s.check := rfl
@[simp] theorem State.modCore_devFail (s : State) (c : Nat) (f : CoreSt → CoreSt) : (s.modCore c f).devFail = s.devFail := rfl
@[simp] theorem State.modCore_homes (s : State) (c : Nat) (f : CoreSt → CoreSt) : (s.modCore c f).homes = s.homes := rfl
@[simp] theorem State.modCore_held (s : State) (c : Nat) (f : CoreSt → CoreSt) : (s.modCore c f).held = s.held := rfl
@[simp] theorem State.modCore_wet (s : State) (c : Nat) (f : CoreSt → CoreSt) : (s.modCore c f).wet = s.wet := rfl
@[simp] theorem State.modCore_dir (s : State) (c : Nat) (f : CoreSt → CoreSt) : (s.modCore c f).dir = s.dir := rfl
@[simp] theorem State.modCore_seals (s : State) (c : Nat) (f : CoreSt → CoreSt) : (s.modCore c f).seals = s.seals := rfl
@[simp] theorem State.modCore_monitors (s : State) (c : Nat) (f : CoreSt → CoreSt) : (s.modCore c f).monitors = s.monitors := rfl
@[simp] theorem State.modCore_msgs (s : State) (c : Nat) (f : CoreSt → CoreSt) : (s.modCore c f).msgs = s.msgs := rfl
@[simp] theorem State.modCore_prefetches (s : State) (c : Nat) (f : CoreSt → CoreSt) : (s.modCore c f).prefetches = s.prefetches := rfl
@[simp] theorem State.modCore_bursts (s : State) (c : Nat) (f : CoreSt → CoreSt) : (s.modCore c f).bursts = s.bursts := rfl
@[simp] theorem State.modCore_ops (s : State) (c : Nat) (f : CoreSt → CoreSt) : (s.modCore c f).ops = s.ops := rfl
@[simp] theorem State.modCore_bloom (s : State) (c : Nat) (f : CoreSt → CoreSt) : (s.modCore c f).bloom = s.bloom := rfl
@[simp] theorem State.modCore_repeats (s : State) (c : Nat) (f : CoreSt → CoreSt) : (s.modCore c f).repeats = s.repeats := rfl
@[simp] theorem State.modCore_epoch (s : State) (c : Nat) (f : CoreSt → CoreSt) : (s.modCore c f).epoch = s.epoch := rfl
@[simp] theorem State.modCore_log (s : State) (c : Nat) (f : CoreSt → CoreSt) : (s.modCore c f).log = s.log := rfl
@[simp] theorem State.modCore_fatal (s : State) (c : Nat) (f : CoreSt → CoreSt) : (s.modCore c f).fatal = s.fatal := rfl
@[simp] theorem State.modCore_ctxs (s : State) (c : Nat) (f : CoreSt → CoreSt) : (s.modCore c f).ctxs = s.ctxs := rfl
@[simp] theorem State.modCore_fills (s : State) (c : Nat) (f : CoreSt → CoreSt) : (s.modCore c f).fills = s.fills := rfl
@[simp] theorem State.modCore_tokens (s : State) (c : Nat) (f : CoreSt → CoreSt) : (s.modCore c f).tokens = s.tokens := rfl
@[simp] theorem State.modCore_fns (s : State) (c : Nat) (f : CoreSt → CoreSt) : (s.modCore c f).fns = s.fns := rfl
@[simp] theorem State.modCore_cmds (s : State) (c : Nat) (f : CoreSt → CoreSt) : (s.modCore c f).cmds = s.cmds := rfl
@[simp] theorem State.modCore_node (s : State) (c : Nat) (f : CoreSt → CoreSt) : (s.modCore c f).node = s.node := rfl
@[simp] theorem State.modCore_links (s : State) (c : Nat) (f : CoreSt → CoreSt) : (s.modCore c f).links = s.links := rfl
@[simp] theorem State.modCore_peers (s : State) (c : Nat) (f : CoreSt → CoreSt) : (s.modCore c f).peers = s.peers := rfl
@[simp] theorem State.modCore_parked (s : State) (c : Nat) (f : CoreSt → CoreSt) : (s.modCore c f).parked = s.parked := rfl
@[simp] theorem State.modCore_scans (s : State) (c : Nat) (f : CoreSt → CoreSt) : (s.modCore c f).scans = s.scans := rfl
@[simp] theorem State.modCore_health (s : State) (c : Nat) (f : CoreSt → CoreSt) : (s.modCore c f).health = s.health := rfl
@[simp] theorem State.modCore_alerts (s : State) (c : Nat) (f : CoreSt → CoreSt) : (s.modCore c f).alerts = s.alerts := rfl
@[simp] theorem State.modCore_sideband (s : State) (c : Nat) (f : CoreSt → CoreSt) : (s.modCore c f).sideband = s.sideband := rfl
@[simp] theorem State.modCore_fw (s : State) (c : Nat) (f : CoreSt → CoreSt) : (s.modCore c f).fw = s.fw := rfl
@[simp] theorem State.modCore_fwFree (s : State) (c : Nat) (f : CoreSt → CoreSt) : (s.modCore c f).fwFree = s.fwFree := rfl
@[simp] theorem State.modCore_spoilt (s : State) (c : Nat) (f : CoreSt → CoreSt) : (s.modCore c f).spoilt = s.spoilt := rfl
@[simp] theorem State.modCore_flaws (s : State) (c : Nat) (f : CoreSt → CoreSt) : (s.modCore c f).flaws = s.flaws := rfl
@[simp] theorem State.modCore_leafRel (s : State) (c : Nat) (f : CoreSt → CoreSt) : (s.modCore c f).leafRel = s.leafRel := rfl

/-! ### `setMat` -/

@[simp] theorem State.setMat_clk (s : State) (c p : Nat) (m : Mat) : (s.setMat c p m).clk = s.clk := rfl
@[simp] theorem State.setMat_tb (s : State) (c p : Nat) (m : Mat) : (s.setMat c p m).tb = s.tb := rfl
@[simp] theorem State.setMat_tbFrac (s : State) (c p : Nat) (m : Mat) : (s.setMat c p m).tbFrac = s.tbFrac := rfl
@[simp] theorem State.setMat_mhz (s : State) (c p : Nat) (m : Mat) : (s.setMat c p m).mhz = s.mhz := rfl
@[simp] theorem State.setMat_power (s : State) (c p : Nat) (m : Mat) : (s.setMat c p m).power = s.power := rfl
@[simp] theorem State.setMat_free (s : State) (c p : Nat) (m : Mat) : (s.setMat c p m).free = s.free := rfl
@[simp] theorem State.setMat_serial (s : State) (c p : Nat) (m : Mat) : (s.setMat c p m).serial = s.serial := rfl
@[simp] theorem State.setMat_agenda (s : State) (c p : Nat) (m : Mat) : (s.setMat c p m).agenda = s.agenda := rfl
@[simp] theorem State.setMat_cur (s : State) (c p : Nat) (m : Mat) : (s.setMat c p m).cur = s.cur := rfl
@[simp] theorem State.setMat_scan (s : State) (c p : Nat) (m : Mat) : (s.setMat c p m).scan = s.scan := rfl
@[simp] theorem State.setMat_groups (s : State) (c p : Nat) (m : Mat) : (s.setMat c p m).groups = s.groups := rfl
@[simp] theorem State.setMat_wgs (s : State) (c p : Nat) (m : Mat) : (s.setMat c p m).wgs = s.wgs := rfl
@[simp] theorem State.setMat_gangs (s : State) (c p : Nat) (m : Mat) : (s.setMat c p m).gangs = s.gangs := rfl
@[simp] theorem State.setMat_launches (s : State) (c p : Nat) (m : Mat) : (s.setMat c p m).launches = s.launches := rfl
@[simp] theorem State.setMat_queues (s : State) (c p : Nat) (m : Mat) : (s.setMat c p m).queues = s.queues := rfl
@[simp] theorem State.setMat_served (s : State) (c p : Nat) (m : Mat) : (s.setMat c p m).served = s.served := rfl
@[simp] theorem State.setMat_generation (s : State) (c p : Nat) (m : Mat) : (s.setMat c p m).generation = s.generation := rfl
@[simp] theorem State.setMat_hoists (s : State) (c p : Nat) (m : Mat) : (s.setMat c p m).hoists = s.hoists := rfl
@[simp] theorem State.setMat_cores (s : State) (c p : Nat) (m : Mat) : (s.setMat c p m).cores = s.cores := rfl
@[simp] theorem State.setMat_coreMap (s : State) (c p : Nat) (m : Mat) : (s.setMat c p m).coreMap = s.coreMap := rfl
@[simp] theorem State.setMat_ctlb (s : State) (c p : Nat) (m : Mat) : (s.setMat c p m).ctlb = s.ctlb := rfl
@[simp] theorem State.setMat_mem (s : State) (c p : Nat) (m : Mat) : (s.setMat c p m).mem = s.mem := rfl
@[simp] theorem State.setMat_check (s : State) (c p : Nat) (m : Mat) : (s.setMat c p m).check = s.check := rfl
@[simp] theorem State.setMat_devFail (s : State) (c p : Nat) (m : Mat) : (s.setMat c p m).devFail = s.devFail := rfl
@[simp] theorem State.setMat_homes (s : State) (c p : Nat) (m : Mat) : (s.setMat c p m).homes = s.homes := rfl
@[simp] theorem State.setMat_held (s : State) (c p : Nat) (m : Mat) : (s.setMat c p m).held = s.held := rfl
@[simp] theorem State.setMat_wet (s : State) (c p : Nat) (m : Mat) : (s.setMat c p m).wet = s.wet := rfl
@[simp] theorem State.setMat_dir (s : State) (c p : Nat) (m : Mat) : (s.setMat c p m).dir = s.dir := rfl
@[simp] theorem State.setMat_seals (s : State) (c p : Nat) (m : Mat) : (s.setMat c p m).seals = s.seals := rfl
@[simp] theorem State.setMat_monitors (s : State) (c p : Nat) (m : Mat) : (s.setMat c p m).monitors = s.monitors := rfl
@[simp] theorem State.setMat_msgs (s : State) (c p : Nat) (m : Mat) : (s.setMat c p m).msgs = s.msgs := rfl
@[simp] theorem State.setMat_prefetches (s : State) (c p : Nat) (m : Mat) : (s.setMat c p m).prefetches = s.prefetches := rfl
@[simp] theorem State.setMat_bursts (s : State) (c p : Nat) (m : Mat) : (s.setMat c p m).bursts = s.bursts := rfl
@[simp] theorem State.setMat_ops (s : State) (c p : Nat) (m : Mat) : (s.setMat c p m).ops = s.ops := rfl
@[simp] theorem State.setMat_bloom (s : State) (c p : Nat) (m : Mat) : (s.setMat c p m).bloom = s.bloom := rfl
@[simp] theorem State.setMat_repeats (s : State) (c p : Nat) (m : Mat) : (s.setMat c p m).repeats = s.repeats := rfl
@[simp] theorem State.setMat_epoch (s : State) (c p : Nat) (m : Mat) : (s.setMat c p m).epoch = s.epoch := rfl
@[simp] theorem State.setMat_log (s : State) (c p : Nat) (m : Mat) : (s.setMat c p m).log = s.log := rfl
@[simp] theorem State.setMat_fatal (s : State) (c p : Nat) (m : Mat) : (s.setMat c p m).fatal = s.fatal := rfl
@[simp] theorem State.setMat_ctxs (s : State) (c p : Nat) (m : Mat) : (s.setMat c p m).ctxs = s.ctxs := rfl
@[simp] theorem State.setMat_fills (s : State) (c p : Nat) (m : Mat) : (s.setMat c p m).fills = s.fills := rfl
@[simp] theorem State.setMat_tokens (s : State) (c p : Nat) (m : Mat) : (s.setMat c p m).tokens = s.tokens := rfl
@[simp] theorem State.setMat_fns (s : State) (c p : Nat) (m : Mat) : (s.setMat c p m).fns = s.fns := rfl
@[simp] theorem State.setMat_cmds (s : State) (c p : Nat) (m : Mat) : (s.setMat c p m).cmds = s.cmds := rfl
@[simp] theorem State.setMat_node (s : State) (c p : Nat) (m : Mat) : (s.setMat c p m).node = s.node := rfl
@[simp] theorem State.setMat_links (s : State) (c p : Nat) (m : Mat) : (s.setMat c p m).links = s.links := rfl
@[simp] theorem State.setMat_peers (s : State) (c p : Nat) (m : Mat) : (s.setMat c p m).peers = s.peers := rfl
@[simp] theorem State.setMat_parked (s : State) (c p : Nat) (m : Mat) : (s.setMat c p m).parked = s.parked := rfl
@[simp] theorem State.setMat_scans (s : State) (c p : Nat) (m : Mat) : (s.setMat c p m).scans = s.scans := rfl
@[simp] theorem State.setMat_health (s : State) (c p : Nat) (m : Mat) : (s.setMat c p m).health = s.health := rfl
@[simp] theorem State.setMat_alerts (s : State) (c p : Nat) (m : Mat) : (s.setMat c p m).alerts = s.alerts := rfl
@[simp] theorem State.setMat_sideband (s : State) (c p : Nat) (m : Mat) : (s.setMat c p m).sideband = s.sideband := rfl
@[simp] theorem State.setMat_fw (s : State) (c p : Nat) (m : Mat) : (s.setMat c p m).fw = s.fw := rfl
@[simp] theorem State.setMat_fwFree (s : State) (c p : Nat) (m : Mat) : (s.setMat c p m).fwFree = s.fwFree := rfl
@[simp] theorem State.setMat_spoilt (s : State) (c p : Nat) (m : Mat) : (s.setMat c p m).spoilt = s.spoilt := rfl
@[simp] theorem State.setMat_flaws (s : State) (c p : Nat) (m : Mat) : (s.setMat c p m).flaws = s.flaws := rfl
@[simp] theorem State.setMat_leafRel (s : State) (c p : Nat) (m : Mat) : (s.setMat c p m).leafRel = s.leafRel := rfl

/-! ### `setStamps` -/

@[simp] theorem State.setStamps_clk (s : State) (a : Nat) (x : Stamps) : (s.setStamps a x).clk = s.clk := rfl
@[simp] theorem State.setStamps_tb (s : State) (a : Nat) (x : Stamps) : (s.setStamps a x).tb = s.tb := rfl
@[simp] theorem State.setStamps_tbFrac (s : State) (a : Nat) (x : Stamps) : (s.setStamps a x).tbFrac = s.tbFrac := rfl
@[simp] theorem State.setStamps_mhz (s : State) (a : Nat) (x : Stamps) : (s.setStamps a x).mhz = s.mhz := rfl
@[simp] theorem State.setStamps_power (s : State) (a : Nat) (x : Stamps) : (s.setStamps a x).power = s.power := rfl
@[simp] theorem State.setStamps_free (s : State) (a : Nat) (x : Stamps) : (s.setStamps a x).free = s.free := rfl
@[simp] theorem State.setStamps_serial (s : State) (a : Nat) (x : Stamps) : (s.setStamps a x).serial = s.serial := rfl
@[simp] theorem State.setStamps_agenda (s : State) (a : Nat) (x : Stamps) : (s.setStamps a x).agenda = s.agenda := rfl
@[simp] theorem State.setStamps_cur (s : State) (a : Nat) (x : Stamps) : (s.setStamps a x).cur = s.cur := rfl
@[simp] theorem State.setStamps_scan (s : State) (a : Nat) (x : Stamps) : (s.setStamps a x).scan = s.scan := rfl
@[simp] theorem State.setStamps_groups (s : State) (a : Nat) (x : Stamps) : (s.setStamps a x).groups = s.groups := rfl
@[simp] theorem State.setStamps_wgs (s : State) (a : Nat) (x : Stamps) : (s.setStamps a x).wgs = s.wgs := rfl
@[simp] theorem State.setStamps_gangs (s : State) (a : Nat) (x : Stamps) : (s.setStamps a x).gangs = s.gangs := rfl
@[simp] theorem State.setStamps_launches (s : State) (a : Nat) (x : Stamps) : (s.setStamps a x).launches = s.launches := rfl
@[simp] theorem State.setStamps_queues (s : State) (a : Nat) (x : Stamps) : (s.setStamps a x).queues = s.queues := rfl
@[simp] theorem State.setStamps_served (s : State) (a : Nat) (x : Stamps) : (s.setStamps a x).served = s.served := rfl
@[simp] theorem State.setStamps_generation (s : State) (a : Nat) (x : Stamps) : (s.setStamps a x).generation = s.generation := rfl
@[simp] theorem State.setStamps_hoists (s : State) (a : Nat) (x : Stamps) : (s.setStamps a x).hoists = s.hoists := rfl
@[simp] theorem State.setStamps_cores (s : State) (a : Nat) (x : Stamps) : (s.setStamps a x).cores = s.cores := rfl
@[simp] theorem State.setStamps_coreMap (s : State) (a : Nat) (x : Stamps) : (s.setStamps a x).coreMap = s.coreMap := rfl
@[simp] theorem State.setStamps_ctlb (s : State) (a : Nat) (x : Stamps) : (s.setStamps a x).ctlb = s.ctlb := rfl
@[simp] theorem State.setStamps_mats (s : State) (a : Nat) (x : Stamps) : (s.setStamps a x).mats = s.mats := rfl
@[simp] theorem State.setStamps_mem (s : State) (a : Nat) (x : Stamps) : (s.setStamps a x).mem = s.mem := rfl
@[simp] theorem State.setStamps_check (s : State) (a : Nat) (x : Stamps) : (s.setStamps a x).check = s.check := rfl
@[simp] theorem State.setStamps_devFail (s : State) (a : Nat) (x : Stamps) : (s.setStamps a x).devFail = s.devFail := rfl
@[simp] theorem State.setStamps_held (s : State) (a : Nat) (x : Stamps) : (s.setStamps a x).held = s.held := rfl
@[simp] theorem State.setStamps_wet (s : State) (a : Nat) (x : Stamps) : (s.setStamps a x).wet = s.wet := rfl
@[simp] theorem State.setStamps_dir (s : State) (a : Nat) (x : Stamps) : (s.setStamps a x).dir = s.dir := rfl
@[simp] theorem State.setStamps_seals (s : State) (a : Nat) (x : Stamps) : (s.setStamps a x).seals = s.seals := rfl
@[simp] theorem State.setStamps_monitors (s : State) (a : Nat) (x : Stamps) : (s.setStamps a x).monitors = s.monitors := rfl
@[simp] theorem State.setStamps_msgs (s : State) (a : Nat) (x : Stamps) : (s.setStamps a x).msgs = s.msgs := rfl
@[simp] theorem State.setStamps_prefetches (s : State) (a : Nat) (x : Stamps) : (s.setStamps a x).prefetches = s.prefetches := rfl
@[simp] theorem State.setStamps_bursts (s : State) (a : Nat) (x : Stamps) : (s.setStamps a x).bursts = s.bursts := rfl
@[simp] theorem State.setStamps_ops (s : State) (a : Nat) (x : Stamps) : (s.setStamps a x).ops = s.ops := rfl
@[simp] theorem State.setStamps_bloom (s : State) (a : Nat) (x : Stamps) : (s.setStamps a x).bloom = s.bloom := rfl
@[simp] theorem State.setStamps_repeats (s : State) (a : Nat) (x : Stamps) : (s.setStamps a x).repeats = s.repeats := rfl
@[simp] theorem State.setStamps_epoch (s : State) (a : Nat) (x : Stamps) : (s.setStamps a x).epoch = s.epoch := rfl
@[simp] theorem State.setStamps_log (s : State) (a : Nat) (x : Stamps) : (s.setStamps a x).log = s.log := rfl
@[simp] theorem State.setStamps_fatal (s : State) (a : Nat) (x : Stamps) : (s.setStamps a x).fatal = s.fatal := rfl
@[simp] theorem State.setStamps_ctxs (s : State) (a : Nat) (x : Stamps) : (s.setStamps a x).ctxs = s.ctxs := rfl
@[simp] theorem State.setStamps_fills (s : State) (a : Nat) (x : Stamps) : (s.setStamps a x).fills = s.fills := rfl
@[simp] theorem State.setStamps_tokens (s : State) (a : Nat) (x : Stamps) : (s.setStamps a x).tokens = s.tokens := rfl
@[simp] theorem State.setStamps_fns (s : State) (a : Nat) (x : Stamps) : (s.setStamps a x).fns = s.fns := rfl
@[simp] theorem State.setStamps_cmds (s : State) (a : Nat) (x : Stamps) : (s.setStamps a x).cmds = s.cmds := rfl
@[simp] theorem State.setStamps_node (s : State) (a : Nat) (x : Stamps) : (s.setStamps a x).node = s.node := rfl
@[simp] theorem State.setStamps_links (s : State) (a : Nat) (x : Stamps) : (s.setStamps a x).links = s.links := rfl
@[simp] theorem State.setStamps_peers (s : State) (a : Nat) (x : Stamps) : (s.setStamps a x).peers = s.peers := rfl
@[simp] theorem State.setStamps_parked (s : State) (a : Nat) (x : Stamps) : (s.setStamps a x).parked = s.parked := rfl
@[simp] theorem State.setStamps_scans (s : State) (a : Nat) (x : Stamps) : (s.setStamps a x).scans = s.scans := rfl
@[simp] theorem State.setStamps_health (s : State) (a : Nat) (x : Stamps) : (s.setStamps a x).health = s.health := rfl
@[simp] theorem State.setStamps_alerts (s : State) (a : Nat) (x : Stamps) : (s.setStamps a x).alerts = s.alerts := rfl
@[simp] theorem State.setStamps_sideband (s : State) (a : Nat) (x : Stamps) : (s.setStamps a x).sideband = s.sideband := rfl
@[simp] theorem State.setStamps_fw (s : State) (a : Nat) (x : Stamps) : (s.setStamps a x).fw = s.fw := rfl
@[simp] theorem State.setStamps_fwFree (s : State) (a : Nat) (x : Stamps) : (s.setStamps a x).fwFree = s.fwFree := rfl
@[simp] theorem State.setStamps_spoilt (s : State) (a : Nat) (x : Stamps) : (s.setStamps a x).spoilt = s.spoilt := rfl
@[simp] theorem State.setStamps_flaws (s : State) (a : Nat) (x : Stamps) : (s.setStamps a x).flaws = s.flaws := rfl
@[simp] theorem State.setStamps_leafRel (s : State) (a : Nat) (x : Stamps) : (s.setStamps a x).leafRel = s.leafRel := rfl

/-! ### `setEntry` -/

@[simp] theorem State.setEntry_clk (s : State) (l : Nat) (d : Dir) : (s.setEntry l d).clk = s.clk := rfl
@[simp] theorem State.setEntry_tb (s : State) (l : Nat) (d : Dir) : (s.setEntry l d).tb = s.tb := rfl
@[simp] theorem State.setEntry_tbFrac (s : State) (l : Nat) (d : Dir) : (s.setEntry l d).tbFrac = s.tbFrac := rfl
@[simp] theorem State.setEntry_mhz (s : State) (l : Nat) (d : Dir) : (s.setEntry l d).mhz = s.mhz := rfl
@[simp] theorem State.setEntry_power (s : State) (l : Nat) (d : Dir) : (s.setEntry l d).power = s.power := rfl
@[simp] theorem State.setEntry_free (s : State) (l : Nat) (d : Dir) : (s.setEntry l d).free = s.free := rfl
@[simp] theorem State.setEntry_serial (s : State) (l : Nat) (d : Dir) : (s.setEntry l d).serial = s.serial := rfl
@[simp] theorem State.setEntry_agenda (s : State) (l : Nat) (d : Dir) : (s.setEntry l d).agenda = s.agenda := rfl
@[simp] theorem State.setEntry_cur (s : State) (l : Nat) (d : Dir) : (s.setEntry l d).cur = s.cur := rfl
@[simp] theorem State.setEntry_scan (s : State) (l : Nat) (d : Dir) : (s.setEntry l d).scan = s.scan := rfl
@[simp] theorem State.setEntry_groups (s : State) (l : Nat) (d : Dir) : (s.setEntry l d).groups = s.groups := rfl
@[simp] theorem State.setEntry_wgs (s : State) (l : Nat) (d : Dir) : (s.setEntry l d).wgs = s.wgs := rfl
@[simp] theorem State.setEntry_gangs (s : State) (l : Nat) (d : Dir) : (s.setEntry l d).gangs = s.gangs := rfl
@[simp] theorem State.setEntry_launches (s : State) (l : Nat) (d : Dir) : (s.setEntry l d).launches = s.launches := rfl
@[simp] theorem State.setEntry_queues (s : State) (l : Nat) (d : Dir) : (s.setEntry l d).queues = s.queues := rfl
@[simp] theorem State.setEntry_served (s : State) (l : Nat) (d : Dir) : (s.setEntry l d).served = s.served := rfl
@[simp] theorem State.setEntry_generation (s : State) (l : Nat) (d : Dir) : (s.setEntry l d).generation = s.generation := rfl
@[simp] theorem State.setEntry_hoists (s : State) (l : Nat) (d : Dir) : (s.setEntry l d).hoists = s.hoists := rfl
@[simp] theorem State.setEntry_cores (s : State) (l : Nat) (d : Dir) : (s.setEntry l d).cores = s.cores := rfl
@[simp] theorem State.setEntry_coreMap (s : State) (l : Nat) (d : Dir) : (s.setEntry l d).coreMap = s.coreMap := rfl
@[simp] theorem State.setEntry_ctlb (s : State) (l : Nat) (d : Dir) : (s.setEntry l d).ctlb = s.ctlb := rfl
@[simp] theorem State.setEntry_mats (s : State) (l : Nat) (d : Dir) : (s.setEntry l d).mats = s.mats := rfl
@[simp] theorem State.setEntry_mem (s : State) (l : Nat) (d : Dir) : (s.setEntry l d).mem = s.mem := rfl
@[simp] theorem State.setEntry_check (s : State) (l : Nat) (d : Dir) : (s.setEntry l d).check = s.check := rfl
@[simp] theorem State.setEntry_devFail (s : State) (l : Nat) (d : Dir) : (s.setEntry l d).devFail = s.devFail := rfl
@[simp] theorem State.setEntry_homes (s : State) (l : Nat) (d : Dir) : (s.setEntry l d).homes = s.homes := rfl
@[simp] theorem State.setEntry_held (s : State) (l : Nat) (d : Dir) : (s.setEntry l d).held = s.held := rfl
@[simp] theorem State.setEntry_wet (s : State) (l : Nat) (d : Dir) : (s.setEntry l d).wet = s.wet := rfl
@[simp] theorem State.setEntry_seals (s : State) (l : Nat) (d : Dir) : (s.setEntry l d).seals = s.seals := rfl
@[simp] theorem State.setEntry_monitors (s : State) (l : Nat) (d : Dir) : (s.setEntry l d).monitors = s.monitors := rfl
@[simp] theorem State.setEntry_msgs (s : State) (l : Nat) (d : Dir) : (s.setEntry l d).msgs = s.msgs := rfl
@[simp] theorem State.setEntry_prefetches (s : State) (l : Nat) (d : Dir) : (s.setEntry l d).prefetches = s.prefetches := rfl
@[simp] theorem State.setEntry_bursts (s : State) (l : Nat) (d : Dir) : (s.setEntry l d).bursts = s.bursts := rfl
@[simp] theorem State.setEntry_ops (s : State) (l : Nat) (d : Dir) : (s.setEntry l d).ops = s.ops := rfl
@[simp] theorem State.setEntry_bloom (s : State) (l : Nat) (d : Dir) : (s.setEntry l d).bloom = s.bloom := rfl
@[simp] theorem State.setEntry_repeats (s : State) (l : Nat) (d : Dir) : (s.setEntry l d).repeats = s.repeats := rfl
@[simp] theorem State.setEntry_epoch (s : State) (l : Nat) (d : Dir) : (s.setEntry l d).epoch = s.epoch := rfl
@[simp] theorem State.setEntry_log (s : State) (l : Nat) (d : Dir) : (s.setEntry l d).log = s.log := rfl
@[simp] theorem State.setEntry_fatal (s : State) (l : Nat) (d : Dir) : (s.setEntry l d).fatal = s.fatal := rfl
@[simp] theorem State.setEntry_ctxs (s : State) (l : Nat) (d : Dir) : (s.setEntry l d).ctxs = s.ctxs := rfl
@[simp] theorem State.setEntry_fills (s : State) (l : Nat) (d : Dir) : (s.setEntry l d).fills = s.fills := rfl
@[simp] theorem State.setEntry_tokens (s : State) (l : Nat) (d : Dir) : (s.setEntry l d).tokens = s.tokens := rfl
@[simp] theorem State.setEntry_fns (s : State) (l : Nat) (d : Dir) : (s.setEntry l d).fns = s.fns := rfl
@[simp] theorem State.setEntry_cmds (s : State) (l : Nat) (d : Dir) : (s.setEntry l d).cmds = s.cmds := rfl
@[simp] theorem State.setEntry_node (s : State) (l : Nat) (d : Dir) : (s.setEntry l d).node = s.node := rfl
@[simp] theorem State.setEntry_links (s : State) (l : Nat) (d : Dir) : (s.setEntry l d).links = s.links := rfl
@[simp] theorem State.setEntry_peers (s : State) (l : Nat) (d : Dir) : (s.setEntry l d).peers = s.peers := rfl
@[simp] theorem State.setEntry_parked (s : State) (l : Nat) (d : Dir) : (s.setEntry l d).parked = s.parked := rfl
@[simp] theorem State.setEntry_scans (s : State) (l : Nat) (d : Dir) : (s.setEntry l d).scans = s.scans := rfl
@[simp] theorem State.setEntry_health (s : State) (l : Nat) (d : Dir) : (s.setEntry l d).health = s.health := rfl
@[simp] theorem State.setEntry_alerts (s : State) (l : Nat) (d : Dir) : (s.setEntry l d).alerts = s.alerts := rfl
@[simp] theorem State.setEntry_sideband (s : State) (l : Nat) (d : Dir) : (s.setEntry l d).sideband = s.sideband := rfl
@[simp] theorem State.setEntry_fw (s : State) (l : Nat) (d : Dir) : (s.setEntry l d).fw = s.fw := rfl
@[simp] theorem State.setEntry_fwFree (s : State) (l : Nat) (d : Dir) : (s.setEntry l d).fwFree = s.fwFree := rfl
@[simp] theorem State.setEntry_spoilt (s : State) (l : Nat) (d : Dir) : (s.setEntry l d).spoilt = s.spoilt := rfl
@[simp] theorem State.setEntry_flaws (s : State) (l : Nat) (d : Dir) : (s.setEntry l d).flaws = s.flaws := rfl
@[simp] theorem State.setEntry_leafRel (s : State) (l : Nat) (d : Dir) : (s.setEntry l d).leafRel = s.leafRel := rfl

/-! ### `setFn` -/

@[simp] theorem State.setFn_clk (s : State) (f : Nat) (x : Fn) : (s.setFn f x).clk = s.clk := rfl
@[simp] theorem State.setFn_tb (s : State) (f : Nat) (x : Fn) : (s.setFn f x).tb = s.tb := rfl
@[simp] theorem State.setFn_tbFrac (s : State) (f : Nat) (x : Fn) : (s.setFn f x).tbFrac = s.tbFrac := rfl
@[simp] theorem State.setFn_mhz (s : State) (f : Nat) (x : Fn) : (s.setFn f x).mhz = s.mhz := rfl
@[simp] theorem State.setFn_power (s : State) (f : Nat) (x : Fn) : (s.setFn f x).power = s.power := rfl
@[simp] theorem State.setFn_free (s : State) (f : Nat) (x : Fn) : (s.setFn f x).free = s.free := rfl
@[simp] theorem State.setFn_serial (s : State) (f : Nat) (x : Fn) : (s.setFn f x).serial = s.serial := rfl
@[simp] theorem State.setFn_agenda (s : State) (f : Nat) (x : Fn) : (s.setFn f x).agenda = s.agenda := rfl
@[simp] theorem State.setFn_cur (s : State) (f : Nat) (x : Fn) : (s.setFn f x).cur = s.cur := rfl
@[simp] theorem State.setFn_scan (s : State) (f : Nat) (x : Fn) : (s.setFn f x).scan = s.scan := rfl
@[simp] theorem State.setFn_groups (s : State) (f : Nat) (x : Fn) : (s.setFn f x).groups = s.groups := rfl
@[simp] theorem State.setFn_wgs (s : State) (f : Nat) (x : Fn) : (s.setFn f x).wgs = s.wgs := rfl
@[simp] theorem State.setFn_gangs (s : State) (f : Nat) (x : Fn) : (s.setFn f x).gangs = s.gangs := rfl
@[simp] theorem State.setFn_launches (s : State) (f : Nat) (x : Fn) : (s.setFn f x).launches = s.launches := rfl
@[simp] theorem State.setFn_queues (s : State) (f : Nat) (x : Fn) : (s.setFn f x).queues = s.queues := rfl
@[simp] theorem State.setFn_served (s : State) (f : Nat) (x : Fn) : (s.setFn f x).served = s.served := rfl
@[simp] theorem State.setFn_generation (s : State) (f : Nat) (x : Fn) : (s.setFn f x).generation = s.generation := rfl
@[simp] theorem State.setFn_hoists (s : State) (f : Nat) (x : Fn) : (s.setFn f x).hoists = s.hoists := rfl
@[simp] theorem State.setFn_cores (s : State) (f : Nat) (x : Fn) : (s.setFn f x).cores = s.cores := rfl
@[simp] theorem State.setFn_coreMap (s : State) (f : Nat) (x : Fn) : (s.setFn f x).coreMap = s.coreMap := rfl
@[simp] theorem State.setFn_ctlb (s : State) (f : Nat) (x : Fn) : (s.setFn f x).ctlb = s.ctlb := rfl
@[simp] theorem State.setFn_mats (s : State) (f : Nat) (x : Fn) : (s.setFn f x).mats = s.mats := rfl
@[simp] theorem State.setFn_mem (s : State) (f : Nat) (x : Fn) : (s.setFn f x).mem = s.mem := rfl
@[simp] theorem State.setFn_check (s : State) (f : Nat) (x : Fn) : (s.setFn f x).check = s.check := rfl
@[simp] theorem State.setFn_devFail (s : State) (f : Nat) (x : Fn) : (s.setFn f x).devFail = s.devFail := rfl
@[simp] theorem State.setFn_homes (s : State) (f : Nat) (x : Fn) : (s.setFn f x).homes = s.homes := rfl
@[simp] theorem State.setFn_held (s : State) (f : Nat) (x : Fn) : (s.setFn f x).held = s.held := rfl
@[simp] theorem State.setFn_wet (s : State) (f : Nat) (x : Fn) : (s.setFn f x).wet = s.wet := rfl
@[simp] theorem State.setFn_dir (s : State) (f : Nat) (x : Fn) : (s.setFn f x).dir = s.dir := rfl
@[simp] theorem State.setFn_seals (s : State) (f : Nat) (x : Fn) : (s.setFn f x).seals = s.seals := rfl
@[simp] theorem State.setFn_monitors (s : State) (f : Nat) (x : Fn) : (s.setFn f x).monitors = s.monitors := rfl
@[simp] theorem State.setFn_msgs (s : State) (f : Nat) (x : Fn) : (s.setFn f x).msgs = s.msgs := rfl
@[simp] theorem State.setFn_prefetches (s : State) (f : Nat) (x : Fn) : (s.setFn f x).prefetches = s.prefetches := rfl
@[simp] theorem State.setFn_bursts (s : State) (f : Nat) (x : Fn) : (s.setFn f x).bursts = s.bursts := rfl
@[simp] theorem State.setFn_ops (s : State) (f : Nat) (x : Fn) : (s.setFn f x).ops = s.ops := rfl
@[simp] theorem State.setFn_bloom (s : State) (f : Nat) (x : Fn) : (s.setFn f x).bloom = s.bloom := rfl
@[simp] theorem State.setFn_repeats (s : State) (f : Nat) (x : Fn) : (s.setFn f x).repeats = s.repeats := rfl
@[simp] theorem State.setFn_epoch (s : State) (f : Nat) (x : Fn) : (s.setFn f x).epoch = s.epoch := rfl
@[simp] theorem State.setFn_log (s : State) (f : Nat) (x : Fn) : (s.setFn f x).log = s.log := rfl
@[simp] theorem State.setFn_fatal (s : State) (f : Nat) (x : Fn) : (s.setFn f x).fatal = s.fatal := rfl
@[simp] theorem State.setFn_ctxs (s : State) (f : Nat) (x : Fn) : (s.setFn f x).ctxs = s.ctxs := rfl
@[simp] theorem State.setFn_fills (s : State) (f : Nat) (x : Fn) : (s.setFn f x).fills = s.fills := rfl
@[simp] theorem State.setFn_tokens (s : State) (f : Nat) (x : Fn) : (s.setFn f x).tokens = s.tokens := rfl
@[simp] theorem State.setFn_cmds (s : State) (f : Nat) (x : Fn) : (s.setFn f x).cmds = s.cmds := rfl
@[simp] theorem State.setFn_node (s : State) (f : Nat) (x : Fn) : (s.setFn f x).node = s.node := rfl
@[simp] theorem State.setFn_links (s : State) (f : Nat) (x : Fn) : (s.setFn f x).links = s.links := rfl
@[simp] theorem State.setFn_peers (s : State) (f : Nat) (x : Fn) : (s.setFn f x).peers = s.peers := rfl
@[simp] theorem State.setFn_parked (s : State) (f : Nat) (x : Fn) : (s.setFn f x).parked = s.parked := rfl
@[simp] theorem State.setFn_scans (s : State) (f : Nat) (x : Fn) : (s.setFn f x).scans = s.scans := rfl
@[simp] theorem State.setFn_health (s : State) (f : Nat) (x : Fn) : (s.setFn f x).health = s.health := rfl
@[simp] theorem State.setFn_alerts (s : State) (f : Nat) (x : Fn) : (s.setFn f x).alerts = s.alerts := rfl
@[simp] theorem State.setFn_sideband (s : State) (f : Nat) (x : Fn) : (s.setFn f x).sideband = s.sideband := rfl
@[simp] theorem State.setFn_fw (s : State) (f : Nat) (x : Fn) : (s.setFn f x).fw = s.fw := rfl
@[simp] theorem State.setFn_fwFree (s : State) (f : Nat) (x : Fn) : (s.setFn f x).fwFree = s.fwFree := rfl
@[simp] theorem State.setFn_spoilt (s : State) (f : Nat) (x : Fn) : (s.setFn f x).spoilt = s.spoilt := rfl
@[simp] theorem State.setFn_flaws (s : State) (f : Nat) (x : Fn) : (s.setFn f x).flaws = s.flaws := rfl
@[simp] theorem State.setFn_leafRel (s : State) (f : Nat) (x : Fn) : (s.setFn f x).leafRel = s.leafRel := rfl

/-! ### `setQueue` -/

@[simp] theorem State.setQueue_clk (s : State) (f q : Nat) (x : QRegs) : (s.setQueue f q x).clk = s.clk := rfl
@[simp] theorem State.setQueue_tb (s : State) (f q : Nat) (x : QRegs) : (s.setQueue f q x).tb = s.tb := rfl
@[simp] theorem State.setQueue_tbFrac (s : State) (f q : Nat) (x : QRegs) : (s.setQueue f q x).tbFrac = s.tbFrac := rfl
@[simp] theorem State.setQueue_mhz (s : State) (f q : Nat) (x : QRegs) : (s.setQueue f q x).mhz = s.mhz := rfl
@[simp] theorem State.setQueue_power (s : State) (f q : Nat) (x : QRegs) : (s.setQueue f q x).power = s.power := rfl
@[simp] theorem State.setQueue_free (s : State) (f q : Nat) (x : QRegs) : (s.setQueue f q x).free = s.free := rfl
@[simp] theorem State.setQueue_serial (s : State) (f q : Nat) (x : QRegs) : (s.setQueue f q x).serial = s.serial := rfl
@[simp] theorem State.setQueue_agenda (s : State) (f q : Nat) (x : QRegs) : (s.setQueue f q x).agenda = s.agenda := rfl
@[simp] theorem State.setQueue_cur (s : State) (f q : Nat) (x : QRegs) : (s.setQueue f q x).cur = s.cur := rfl
@[simp] theorem State.setQueue_scan (s : State) (f q : Nat) (x : QRegs) : (s.setQueue f q x).scan = s.scan := rfl
@[simp] theorem State.setQueue_groups (s : State) (f q : Nat) (x : QRegs) : (s.setQueue f q x).groups = s.groups := rfl
@[simp] theorem State.setQueue_wgs (s : State) (f q : Nat) (x : QRegs) : (s.setQueue f q x).wgs = s.wgs := rfl
@[simp] theorem State.setQueue_gangs (s : State) (f q : Nat) (x : QRegs) : (s.setQueue f q x).gangs = s.gangs := rfl
@[simp] theorem State.setQueue_launches (s : State) (f q : Nat) (x : QRegs) : (s.setQueue f q x).launches = s.launches := rfl
@[simp] theorem State.setQueue_queues (s : State) (f q : Nat) (x : QRegs) : (s.setQueue f q x).queues = s.queues := rfl
@[simp] theorem State.setQueue_served (s : State) (f q : Nat) (x : QRegs) : (s.setQueue f q x).served = s.served := rfl
@[simp] theorem State.setQueue_generation (s : State) (f q : Nat) (x : QRegs) : (s.setQueue f q x).generation = s.generation := rfl
@[simp] theorem State.setQueue_hoists (s : State) (f q : Nat) (x : QRegs) : (s.setQueue f q x).hoists = s.hoists := rfl
@[simp] theorem State.setQueue_cores (s : State) (f q : Nat) (x : QRegs) : (s.setQueue f q x).cores = s.cores := rfl
@[simp] theorem State.setQueue_coreMap (s : State) (f q : Nat) (x : QRegs) : (s.setQueue f q x).coreMap = s.coreMap := rfl
@[simp] theorem State.setQueue_ctlb (s : State) (f q : Nat) (x : QRegs) : (s.setQueue f q x).ctlb = s.ctlb := rfl
@[simp] theorem State.setQueue_mats (s : State) (f q : Nat) (x : QRegs) : (s.setQueue f q x).mats = s.mats := rfl
@[simp] theorem State.setQueue_mem (s : State) (f q : Nat) (x : QRegs) : (s.setQueue f q x).mem = s.mem := rfl
@[simp] theorem State.setQueue_check (s : State) (f q : Nat) (x : QRegs) : (s.setQueue f q x).check = s.check := rfl
@[simp] theorem State.setQueue_devFail (s : State) (f q : Nat) (x : QRegs) : (s.setQueue f q x).devFail = s.devFail := rfl
@[simp] theorem State.setQueue_homes (s : State) (f q : Nat) (x : QRegs) : (s.setQueue f q x).homes = s.homes := rfl
@[simp] theorem State.setQueue_held (s : State) (f q : Nat) (x : QRegs) : (s.setQueue f q x).held = s.held := rfl
@[simp] theorem State.setQueue_wet (s : State) (f q : Nat) (x : QRegs) : (s.setQueue f q x).wet = s.wet := rfl
@[simp] theorem State.setQueue_dir (s : State) (f q : Nat) (x : QRegs) : (s.setQueue f q x).dir = s.dir := rfl
@[simp] theorem State.setQueue_seals (s : State) (f q : Nat) (x : QRegs) : (s.setQueue f q x).seals = s.seals := rfl
@[simp] theorem State.setQueue_monitors (s : State) (f q : Nat) (x : QRegs) : (s.setQueue f q x).monitors = s.monitors := rfl
@[simp] theorem State.setQueue_msgs (s : State) (f q : Nat) (x : QRegs) : (s.setQueue f q x).msgs = s.msgs := rfl
@[simp] theorem State.setQueue_prefetches (s : State) (f q : Nat) (x : QRegs) : (s.setQueue f q x).prefetches = s.prefetches := rfl
@[simp] theorem State.setQueue_bursts (s : State) (f q : Nat) (x : QRegs) : (s.setQueue f q x).bursts = s.bursts := rfl
@[simp] theorem State.setQueue_ops (s : State) (f q : Nat) (x : QRegs) : (s.setQueue f q x).ops = s.ops := rfl
@[simp] theorem State.setQueue_bloom (s : State) (f q : Nat) (x : QRegs) : (s.setQueue f q x).bloom = s.bloom := rfl
@[simp] theorem State.setQueue_repeats (s : State) (f q : Nat) (x : QRegs) : (s.setQueue f q x).repeats = s.repeats := rfl
@[simp] theorem State.setQueue_epoch (s : State) (f q : Nat) (x : QRegs) : (s.setQueue f q x).epoch = s.epoch := rfl
@[simp] theorem State.setQueue_log (s : State) (f q : Nat) (x : QRegs) : (s.setQueue f q x).log = s.log := rfl
@[simp] theorem State.setQueue_fatal (s : State) (f q : Nat) (x : QRegs) : (s.setQueue f q x).fatal = s.fatal := rfl
@[simp] theorem State.setQueue_ctxs (s : State) (f q : Nat) (x : QRegs) : (s.setQueue f q x).ctxs = s.ctxs := rfl
@[simp] theorem State.setQueue_fills (s : State) (f q : Nat) (x : QRegs) : (s.setQueue f q x).fills = s.fills := rfl
@[simp] theorem State.setQueue_tokens (s : State) (f q : Nat) (x : QRegs) : (s.setQueue f q x).tokens = s.tokens := rfl
@[simp] theorem State.setQueue_cmds (s : State) (f q : Nat) (x : QRegs) : (s.setQueue f q x).cmds = s.cmds := rfl
@[simp] theorem State.setQueue_node (s : State) (f q : Nat) (x : QRegs) : (s.setQueue f q x).node = s.node := rfl
@[simp] theorem State.setQueue_links (s : State) (f q : Nat) (x : QRegs) : (s.setQueue f q x).links = s.links := rfl
@[simp] theorem State.setQueue_peers (s : State) (f q : Nat) (x : QRegs) : (s.setQueue f q x).peers = s.peers := rfl
@[simp] theorem State.setQueue_parked (s : State) (f q : Nat) (x : QRegs) : (s.setQueue f q x).parked = s.parked := rfl
@[simp] theorem State.setQueue_scans (s : State) (f q : Nat) (x : QRegs) : (s.setQueue f q x).scans = s.scans := rfl
@[simp] theorem State.setQueue_health (s : State) (f q : Nat) (x : QRegs) : (s.setQueue f q x).health = s.health := rfl
@[simp] theorem State.setQueue_alerts (s : State) (f q : Nat) (x : QRegs) : (s.setQueue f q x).alerts = s.alerts := rfl
@[simp] theorem State.setQueue_sideband (s : State) (f q : Nat) (x : QRegs) : (s.setQueue f q x).sideband = s.sideband := rfl
@[simp] theorem State.setQueue_fw (s : State) (f q : Nat) (x : QRegs) : (s.setQueue f q x).fw = s.fw := rfl
@[simp] theorem State.setQueue_fwFree (s : State) (f q : Nat) (x : QRegs) : (s.setQueue f q x).fwFree = s.fwFree := rfl
@[simp] theorem State.setQueue_spoilt (s : State) (f q : Nat) (x : QRegs) : (s.setQueue f q x).spoilt = s.spoilt := rfl
@[simp] theorem State.setQueue_flaws (s : State) (f q : Nat) (x : QRegs) : (s.setQueue f q x).flaws = s.flaws := rfl
@[simp] theorem State.setQueue_leafRel (s : State) (f q : Nat) (x : QRegs) : (s.setQueue f q x).leafRel = s.leafRel := rfl

/-! ### `setHost` -/

@[simp] theorem State.setHost_clk (s : State) (a : Nat) (b : List Byte) : (s.setHost a b).clk = s.clk := rfl
@[simp] theorem State.setHost_tb (s : State) (a : Nat) (b : List Byte) : (s.setHost a b).tb = s.tb := rfl
@[simp] theorem State.setHost_tbFrac (s : State) (a : Nat) (b : List Byte) : (s.setHost a b).tbFrac = s.tbFrac := rfl
@[simp] theorem State.setHost_mhz (s : State) (a : Nat) (b : List Byte) : (s.setHost a b).mhz = s.mhz := rfl
@[simp] theorem State.setHost_power (s : State) (a : Nat) (b : List Byte) : (s.setHost a b).power = s.power := rfl
@[simp] theorem State.setHost_free (s : State) (a : Nat) (b : List Byte) : (s.setHost a b).free = s.free := rfl
@[simp] theorem State.setHost_serial (s : State) (a : Nat) (b : List Byte) : (s.setHost a b).serial = s.serial := rfl
@[simp] theorem State.setHost_agenda (s : State) (a : Nat) (b : List Byte) : (s.setHost a b).agenda = s.agenda := rfl
@[simp] theorem State.setHost_cur (s : State) (a : Nat) (b : List Byte) : (s.setHost a b).cur = s.cur := rfl
@[simp] theorem State.setHost_scan (s : State) (a : Nat) (b : List Byte) : (s.setHost a b).scan = s.scan := rfl
@[simp] theorem State.setHost_groups (s : State) (a : Nat) (b : List Byte) : (s.setHost a b).groups = s.groups := rfl
@[simp] theorem State.setHost_wgs (s : State) (a : Nat) (b : List Byte) : (s.setHost a b).wgs = s.wgs := rfl
@[simp] theorem State.setHost_gangs (s : State) (a : Nat) (b : List Byte) : (s.setHost a b).gangs = s.gangs := rfl
@[simp] theorem State.setHost_launches (s : State) (a : Nat) (b : List Byte) : (s.setHost a b).launches = s.launches := rfl
@[simp] theorem State.setHost_queues (s : State) (a : Nat) (b : List Byte) : (s.setHost a b).queues = s.queues := rfl
@[simp] theorem State.setHost_served (s : State) (a : Nat) (b : List Byte) : (s.setHost a b).served = s.served := rfl
@[simp] theorem State.setHost_generation (s : State) (a : Nat) (b : List Byte) : (s.setHost a b).generation = s.generation := rfl
@[simp] theorem State.setHost_hoists (s : State) (a : Nat) (b : List Byte) : (s.setHost a b).hoists = s.hoists := rfl
@[simp] theorem State.setHost_cores (s : State) (a : Nat) (b : List Byte) : (s.setHost a b).cores = s.cores := rfl
@[simp] theorem State.setHost_coreMap (s : State) (a : Nat) (b : List Byte) : (s.setHost a b).coreMap = s.coreMap := rfl
@[simp] theorem State.setHost_ctlb (s : State) (a : Nat) (b : List Byte) : (s.setHost a b).ctlb = s.ctlb := rfl
@[simp] theorem State.setHost_mats (s : State) (a : Nat) (b : List Byte) : (s.setHost a b).mats = s.mats := rfl
@[simp] theorem State.setHost_check (s : State) (a : Nat) (b : List Byte) : (s.setHost a b).check = s.check := rfl
@[simp] theorem State.setHost_devFail (s : State) (a : Nat) (b : List Byte) : (s.setHost a b).devFail = s.devFail := rfl
@[simp] theorem State.setHost_homes (s : State) (a : Nat) (b : List Byte) : (s.setHost a b).homes = s.homes := rfl
@[simp] theorem State.setHost_held (s : State) (a : Nat) (b : List Byte) : (s.setHost a b).held = s.held := rfl
@[simp] theorem State.setHost_wet (s : State) (a : Nat) (b : List Byte) : (s.setHost a b).wet = s.wet := rfl
@[simp] theorem State.setHost_dir (s : State) (a : Nat) (b : List Byte) : (s.setHost a b).dir = s.dir := rfl
@[simp] theorem State.setHost_seals (s : State) (a : Nat) (b : List Byte) : (s.setHost a b).seals = s.seals := rfl
@[simp] theorem State.setHost_monitors (s : State) (a : Nat) (b : List Byte) : (s.setHost a b).monitors = s.monitors := rfl
@[simp] theorem State.setHost_msgs (s : State) (a : Nat) (b : List Byte) : (s.setHost a b).msgs = s.msgs := rfl
@[simp] theorem State.setHost_prefetches (s : State) (a : Nat) (b : List Byte) : (s.setHost a b).prefetches = s.prefetches := rfl
@[simp] theorem State.setHost_bursts (s : State) (a : Nat) (b : List Byte) : (s.setHost a b).bursts = s.bursts := rfl
@[simp] theorem State.setHost_ops (s : State) (a : Nat) (b : List Byte) : (s.setHost a b).ops = s.ops := rfl
@[simp] theorem State.setHost_bloom (s : State) (a : Nat) (b : List Byte) : (s.setHost a b).bloom = s.bloom := rfl
@[simp] theorem State.setHost_repeats (s : State) (a : Nat) (b : List Byte) : (s.setHost a b).repeats = s.repeats := rfl
@[simp] theorem State.setHost_epoch (s : State) (a : Nat) (b : List Byte) : (s.setHost a b).epoch = s.epoch := rfl
@[simp] theorem State.setHost_log (s : State) (a : Nat) (b : List Byte) : (s.setHost a b).log = s.log := rfl
@[simp] theorem State.setHost_fatal (s : State) (a : Nat) (b : List Byte) : (s.setHost a b).fatal = s.fatal := rfl
@[simp] theorem State.setHost_ctxs (s : State) (a : Nat) (b : List Byte) : (s.setHost a b).ctxs = s.ctxs := rfl
@[simp] theorem State.setHost_fills (s : State) (a : Nat) (b : List Byte) : (s.setHost a b).fills = s.fills := rfl
@[simp] theorem State.setHost_tokens (s : State) (a : Nat) (b : List Byte) : (s.setHost a b).tokens = s.tokens := rfl
@[simp] theorem State.setHost_fns (s : State) (a : Nat) (b : List Byte) : (s.setHost a b).fns = s.fns := rfl
@[simp] theorem State.setHost_cmds (s : State) (a : Nat) (b : List Byte) : (s.setHost a b).cmds = s.cmds := rfl
@[simp] theorem State.setHost_node (s : State) (a : Nat) (b : List Byte) : (s.setHost a b).node = s.node := rfl
@[simp] theorem State.setHost_links (s : State) (a : Nat) (b : List Byte) : (s.setHost a b).links = s.links := rfl
@[simp] theorem State.setHost_peers (s : State) (a : Nat) (b : List Byte) : (s.setHost a b).peers = s.peers := rfl
@[simp] theorem State.setHost_parked (s : State) (a : Nat) (b : List Byte) : (s.setHost a b).parked = s.parked := rfl
@[simp] theorem State.setHost_scans (s : State) (a : Nat) (b : List Byte) : (s.setHost a b).scans = s.scans := rfl
@[simp] theorem State.setHost_health (s : State) (a : Nat) (b : List Byte) : (s.setHost a b).health = s.health := rfl
@[simp] theorem State.setHost_alerts (s : State) (a : Nat) (b : List Byte) : (s.setHost a b).alerts = s.alerts := rfl
@[simp] theorem State.setHost_sideband (s : State) (a : Nat) (b : List Byte) : (s.setHost a b).sideband = s.sideband := rfl
@[simp] theorem State.setHost_fw (s : State) (a : Nat) (b : List Byte) : (s.setHost a b).fw = s.fw := rfl
@[simp] theorem State.setHost_fwFree (s : State) (a : Nat) (b : List Byte) : (s.setHost a b).fwFree = s.fwFree := rfl
@[simp] theorem State.setHost_spoilt (s : State) (a : Nat) (b : List Byte) : (s.setHost a b).spoilt = s.spoilt := rfl
@[simp] theorem State.setHost_flaws (s : State) (a : Nat) (b : List Byte) : (s.setHost a b).flaws = s.flaws := rfl
@[simp] theorem State.setHost_leafRel (s : State) (a : Nat) (b : List Byte) : (s.setHost a b).leafRel = s.leafRel := rfl

/-! ### `setLink` -/

@[simp] theorem State.setLink_clk (s : State) (l : Nat) (x : Link) : (s.setLink l x).clk = s.clk := rfl
@[simp] theorem State.setLink_tb (s : State) (l : Nat) (x : Link) : (s.setLink l x).tb = s.tb := rfl
@[simp] theorem State.setLink_tbFrac (s : State) (l : Nat) (x : Link) : (s.setLink l x).tbFrac = s.tbFrac := rfl
@[simp] theorem State.setLink_mhz (s : State) (l : Nat) (x : Link) : (s.setLink l x).mhz = s.mhz := rfl
@[simp] theorem State.setLink_power (s : State) (l : Nat) (x : Link) : (s.setLink l x).power = s.power := rfl
@[simp] theorem State.setLink_free (s : State) (l : Nat) (x : Link) : (s.setLink l x).free = s.free := rfl
@[simp] theorem State.setLink_serial (s : State) (l : Nat) (x : Link) : (s.setLink l x).serial = s.serial := rfl
@[simp] theorem State.setLink_agenda (s : State) (l : Nat) (x : Link) : (s.setLink l x).agenda = s.agenda := rfl
@[simp] theorem State.setLink_cur (s : State) (l : Nat) (x : Link) : (s.setLink l x).cur = s.cur := rfl
@[simp] theorem State.setLink_scan (s : State) (l : Nat) (x : Link) : (s.setLink l x).scan = s.scan := rfl
@[simp] theorem State.setLink_groups (s : State) (l : Nat) (x : Link) : (s.setLink l x).groups = s.groups := rfl
@[simp] theorem State.setLink_wgs (s : State) (l : Nat) (x : Link) : (s.setLink l x).wgs = s.wgs := rfl
@[simp] theorem State.setLink_gangs (s : State) (l : Nat) (x : Link) : (s.setLink l x).gangs = s.gangs := rfl
@[simp] theorem State.setLink_launches (s : State) (l : Nat) (x : Link) : (s.setLink l x).launches = s.launches := rfl
@[simp] theorem State.setLink_queues (s : State) (l : Nat) (x : Link) : (s.setLink l x).queues = s.queues := rfl
@[simp] theorem State.setLink_served (s : State) (l : Nat) (x : Link) : (s.setLink l x).served = s.served := rfl
@[simp] theorem State.setLink_generation (s : State) (l : Nat) (x : Link) : (s.setLink l x).generation = s.generation := rfl
@[simp] theorem State.setLink_hoists (s : State) (l : Nat) (x : Link) : (s.setLink l x).hoists = s.hoists := rfl
@[simp] theorem State.setLink_cores (s : State) (l : Nat) (x : Link) : (s.setLink l x).cores = s.cores := rfl
@[simp] theorem State.setLink_coreMap (s : State) (l : Nat) (x : Link) : (s.setLink l x).coreMap = s.coreMap := rfl
@[simp] theorem State.setLink_ctlb (s : State) (l : Nat) (x : Link) : (s.setLink l x).ctlb = s.ctlb := rfl
@[simp] theorem State.setLink_mats (s : State) (l : Nat) (x : Link) : (s.setLink l x).mats = s.mats := rfl
@[simp] theorem State.setLink_mem (s : State) (l : Nat) (x : Link) : (s.setLink l x).mem = s.mem := rfl
@[simp] theorem State.setLink_check (s : State) (l : Nat) (x : Link) : (s.setLink l x).check = s.check := rfl
@[simp] theorem State.setLink_devFail (s : State) (l : Nat) (x : Link) : (s.setLink l x).devFail = s.devFail := rfl
@[simp] theorem State.setLink_homes (s : State) (l : Nat) (x : Link) : (s.setLink l x).homes = s.homes := rfl
@[simp] theorem State.setLink_held (s : State) (l : Nat) (x : Link) : (s.setLink l x).held = s.held := rfl
@[simp] theorem State.setLink_wet (s : State) (l : Nat) (x : Link) : (s.setLink l x).wet = s.wet := rfl
@[simp] theorem State.setLink_dir (s : State) (l : Nat) (x : Link) : (s.setLink l x).dir = s.dir := rfl
@[simp] theorem State.setLink_seals (s : State) (l : Nat) (x : Link) : (s.setLink l x).seals = s.seals := rfl
@[simp] theorem State.setLink_monitors (s : State) (l : Nat) (x : Link) : (s.setLink l x).monitors = s.monitors := rfl
@[simp] theorem State.setLink_msgs (s : State) (l : Nat) (x : Link) : (s.setLink l x).msgs = s.msgs := rfl
@[simp] theorem State.setLink_prefetches (s : State) (l : Nat) (x : Link) : (s.setLink l x).prefetches = s.prefetches := rfl
@[simp] theorem State.setLink_bursts (s : State) (l : Nat) (x : Link) : (s.setLink l x).bursts = s.bursts := rfl
@[simp] theorem State.setLink_ops (s : State) (l : Nat) (x : Link) : (s.setLink l x).ops = s.ops := rfl
@[simp] theorem State.setLink_bloom (s : State) (l : Nat) (x : Link) : (s.setLink l x).bloom = s.bloom := rfl
@[simp] theorem State.setLink_repeats (s : State) (l : Nat) (x : Link) : (s.setLink l x).repeats = s.repeats := rfl
@[simp] theorem State.setLink_epoch (s : State) (l : Nat) (x : Link) : (s.setLink l x).epoch = s.epoch := rfl
@[simp] theorem State.setLink_log (s : State) (l : Nat) (x : Link) : (s.setLink l x).log = s.log := rfl
@[simp] theorem State.setLink_fatal (s : State) (l : Nat) (x : Link) : (s.setLink l x).fatal = s.fatal := rfl
@[simp] theorem State.setLink_ctxs (s : State) (l : Nat) (x : Link) : (s.setLink l x).ctxs = s.ctxs := rfl
@[simp] theorem State.setLink_fills (s : State) (l : Nat) (x : Link) : (s.setLink l x).fills = s.fills := rfl
@[simp] theorem State.setLink_tokens (s : State) (l : Nat) (x : Link) : (s.setLink l x).tokens = s.tokens := rfl
@[simp] theorem State.setLink_fns (s : State) (l : Nat) (x : Link) : (s.setLink l x).fns = s.fns := rfl
@[simp] theorem State.setLink_cmds (s : State) (l : Nat) (x : Link) : (s.setLink l x).cmds = s.cmds := rfl
@[simp] theorem State.setLink_node (s : State) (l : Nat) (x : Link) : (s.setLink l x).node = s.node := rfl
@[simp] theorem State.setLink_peers (s : State) (l : Nat) (x : Link) : (s.setLink l x).peers = s.peers := rfl
@[simp] theorem State.setLink_parked (s : State) (l : Nat) (x : Link) : (s.setLink l x).parked = s.parked := rfl
@[simp] theorem State.setLink_scans (s : State) (l : Nat) (x : Link) : (s.setLink l x).scans = s.scans := rfl
@[simp] theorem State.setLink_health (s : State) (l : Nat) (x : Link) : (s.setLink l x).health = s.health := rfl
@[simp] theorem State.setLink_alerts (s : State) (l : Nat) (x : Link) : (s.setLink l x).alerts = s.alerts := rfl
@[simp] theorem State.setLink_sideband (s : State) (l : Nat) (x : Link) : (s.setLink l x).sideband = s.sideband := rfl
@[simp] theorem State.setLink_fw (s : State) (l : Nat) (x : Link) : (s.setLink l x).fw = s.fw := rfl
@[simp] theorem State.setLink_fwFree (s : State) (l : Nat) (x : Link) : (s.setLink l x).fwFree = s.fwFree := rfl
@[simp] theorem State.setLink_spoilt (s : State) (l : Nat) (x : Link) : (s.setLink l x).spoilt = s.spoilt := rfl
@[simp] theorem State.setLink_flaws (s : State) (l : Nat) (x : Link) : (s.setLink l x).flaws = s.flaws := rfl
@[simp] theorem State.setLink_leafRel (s : State) (l : Nat) (x : Link) : (s.setLink l x).leafRel = s.leafRel := rfl

/-! ### `setPeer` -/

@[simp] theorem State.setPeer_clk (s : State) (n : Nat) (p : Peer) : (s.setPeer n p).clk = s.clk := rfl
@[simp] theorem State.setPeer_tb (s : State) (n : Nat) (p : Peer) : (s.setPeer n p).tb = s.tb := rfl
@[simp] theorem State.setPeer_tbFrac (s : State) (n : Nat) (p : Peer) : (s.setPeer n p).tbFrac = s.tbFrac := rfl
@[simp] theorem State.setPeer_mhz (s : State) (n : Nat) (p : Peer) : (s.setPeer n p).mhz = s.mhz := rfl
@[simp] theorem State.setPeer_power (s : State) (n : Nat) (p : Peer) : (s.setPeer n p).power = s.power := rfl
@[simp] theorem State.setPeer_free (s : State) (n : Nat) (p : Peer) : (s.setPeer n p).free = s.free := rfl
@[simp] theorem State.setPeer_serial (s : State) (n : Nat) (p : Peer) : (s.setPeer n p).serial = s.serial := rfl
@[simp] theorem State.setPeer_agenda (s : State) (n : Nat) (p : Peer) : (s.setPeer n p).agenda = s.agenda := rfl
@[simp] theorem State.setPeer_cur (s : State) (n : Nat) (p : Peer) : (s.setPeer n p).cur = s.cur := rfl
@[simp] theorem State.setPeer_scan (s : State) (n : Nat) (p : Peer) : (s.setPeer n p).scan = s.scan := rfl
@[simp] theorem State.setPeer_groups (s : State) (n : Nat) (p : Peer) : (s.setPeer n p).groups = s.groups := rfl
@[simp] theorem State.setPeer_wgs (s : State) (n : Nat) (p : Peer) : (s.setPeer n p).wgs = s.wgs := rfl
@[simp] theorem State.setPeer_gangs (s : State) (n : Nat) (p : Peer) : (s.setPeer n p).gangs = s.gangs := rfl
@[simp] theorem State.setPeer_launches (s : State) (n : Nat) (p : Peer) : (s.setPeer n p).launches = s.launches := rfl
@[simp] theorem State.setPeer_queues (s : State) (n : Nat) (p : Peer) : (s.setPeer n p).queues = s.queues := rfl
@[simp] theorem State.setPeer_served (s : State) (n : Nat) (p : Peer) : (s.setPeer n p).served = s.served := rfl
@[simp] theorem State.setPeer_generation (s : State) (n : Nat) (p : Peer) : (s.setPeer n p).generation = s.generation := rfl
@[simp] theorem State.setPeer_hoists (s : State) (n : Nat) (p : Peer) : (s.setPeer n p).hoists = s.hoists := rfl
@[simp] theorem State.setPeer_cores (s : State) (n : Nat) (p : Peer) : (s.setPeer n p).cores = s.cores := rfl
@[simp] theorem State.setPeer_coreMap (s : State) (n : Nat) (p : Peer) : (s.setPeer n p).coreMap = s.coreMap := rfl
@[simp] theorem State.setPeer_ctlb (s : State) (n : Nat) (p : Peer) : (s.setPeer n p).ctlb = s.ctlb := rfl
@[simp] theorem State.setPeer_mats (s : State) (n : Nat) (p : Peer) : (s.setPeer n p).mats = s.mats := rfl
@[simp] theorem State.setPeer_mem (s : State) (n : Nat) (p : Peer) : (s.setPeer n p).mem = s.mem := rfl
@[simp] theorem State.setPeer_check (s : State) (n : Nat) (p : Peer) : (s.setPeer n p).check = s.check := rfl
@[simp] theorem State.setPeer_devFail (s : State) (n : Nat) (p : Peer) : (s.setPeer n p).devFail = s.devFail := rfl
@[simp] theorem State.setPeer_homes (s : State) (n : Nat) (p : Peer) : (s.setPeer n p).homes = s.homes := rfl
@[simp] theorem State.setPeer_held (s : State) (n : Nat) (p : Peer) : (s.setPeer n p).held = s.held := rfl
@[simp] theorem State.setPeer_wet (s : State) (n : Nat) (p : Peer) : (s.setPeer n p).wet = s.wet := rfl
@[simp] theorem State.setPeer_dir (s : State) (n : Nat) (p : Peer) : (s.setPeer n p).dir = s.dir := rfl
@[simp] theorem State.setPeer_seals (s : State) (n : Nat) (p : Peer) : (s.setPeer n p).seals = s.seals := rfl
@[simp] theorem State.setPeer_monitors (s : State) (n : Nat) (p : Peer) : (s.setPeer n p).monitors = s.monitors := rfl
@[simp] theorem State.setPeer_msgs (s : State) (n : Nat) (p : Peer) : (s.setPeer n p).msgs = s.msgs := rfl
@[simp] theorem State.setPeer_prefetches (s : State) (n : Nat) (p : Peer) : (s.setPeer n p).prefetches = s.prefetches := rfl
@[simp] theorem State.setPeer_bursts (s : State) (n : Nat) (p : Peer) : (s.setPeer n p).bursts = s.bursts := rfl
@[simp] theorem State.setPeer_ops (s : State) (n : Nat) (p : Peer) : (s.setPeer n p).ops = s.ops := rfl
@[simp] theorem State.setPeer_bloom (s : State) (n : Nat) (p : Peer) : (s.setPeer n p).bloom = s.bloom := rfl
@[simp] theorem State.setPeer_repeats (s : State) (n : Nat) (p : Peer) : (s.setPeer n p).repeats = s.repeats := rfl
@[simp] theorem State.setPeer_epoch (s : State) (n : Nat) (p : Peer) : (s.setPeer n p).epoch = s.epoch := rfl
@[simp] theorem State.setPeer_log (s : State) (n : Nat) (p : Peer) : (s.setPeer n p).log = s.log := rfl
@[simp] theorem State.setPeer_fatal (s : State) (n : Nat) (p : Peer) : (s.setPeer n p).fatal = s.fatal := rfl
@[simp] theorem State.setPeer_ctxs (s : State) (n : Nat) (p : Peer) : (s.setPeer n p).ctxs = s.ctxs := rfl
@[simp] theorem State.setPeer_fills (s : State) (n : Nat) (p : Peer) : (s.setPeer n p).fills = s.fills := rfl
@[simp] theorem State.setPeer_tokens (s : State) (n : Nat) (p : Peer) : (s.setPeer n p).tokens = s.tokens := rfl
@[simp] theorem State.setPeer_fns (s : State) (n : Nat) (p : Peer) : (s.setPeer n p).fns = s.fns := rfl
@[simp] theorem State.setPeer_cmds (s : State) (n : Nat) (p : Peer) : (s.setPeer n p).cmds = s.cmds := rfl
@[simp] theorem State.setPeer_node (s : State) (n : Nat) (p : Peer) : (s.setPeer n p).node = s.node := rfl
@[simp] theorem State.setPeer_links (s : State) (n : Nat) (p : Peer) : (s.setPeer n p).links = s.links := rfl
@[simp] theorem State.setPeer_parked (s : State) (n : Nat) (p : Peer) : (s.setPeer n p).parked = s.parked := rfl
@[simp] theorem State.setPeer_scans (s : State) (n : Nat) (p : Peer) : (s.setPeer n p).scans = s.scans := rfl
@[simp] theorem State.setPeer_health (s : State) (n : Nat) (p : Peer) : (s.setPeer n p).health = s.health := rfl
@[simp] theorem State.setPeer_alerts (s : State) (n : Nat) (p : Peer) : (s.setPeer n p).alerts = s.alerts := rfl
@[simp] theorem State.setPeer_sideband (s : State) (n : Nat) (p : Peer) : (s.setPeer n p).sideband = s.sideband := rfl
@[simp] theorem State.setPeer_fw (s : State) (n : Nat) (p : Peer) : (s.setPeer n p).fw = s.fw := rfl
@[simp] theorem State.setPeer_fwFree (s : State) (n : Nat) (p : Peer) : (s.setPeer n p).fwFree = s.fwFree := rfl
@[simp] theorem State.setPeer_spoilt (s : State) (n : Nat) (p : Peer) : (s.setPeer n p).spoilt = s.spoilt := rfl
@[simp] theorem State.setPeer_flaws (s : State) (n : Nat) (p : Peer) : (s.setPeer n p).flaws = s.flaws := rfl
@[simp] theorem State.setPeer_leafRel (s : State) (n : Nat) (p : Peer) : (s.setPeer n p).leafRel = s.leafRel := rfl

end Sys2Proof.Machine
end

