-- ==== Sys2Proof/Laws/Events.lean ====
section
/-! SUPPORT. What the shared operations around an instruction word can do, once and for all: the start of a word, taking an
event, returning from a handler, and the course of a word by cases. -/

namespace Sys2Proof.Machine

open Sys2Proof.Safety

/-- The read of a store touches no more than the errors, the log with its counts, and the alerts (R456). -/
theorem State.readStore_eq (s : State) (x : Store) (ctx : Option Nat) : ∃ fl lg he al,
    (s.readStore x ctx).1 = { s with flaws := fl, log := lg, health := he, alerts := al } := by
  unfold State.readStore
  split
  · exact ⟨s.flaws, s.log, s.health, s.alerts, rfl⟩
  · exact ⟨_, _, _, _, rfl⟩
  · exact ⟨_, _, _, _, rfl⟩

/-- What the read of the registers that a word names touches (R456). -/
theorem State.readRegs_eq (s : State) (k : Nat) (n : Need) (ctx : Nat) (m : Mask) : ∃ fl lg he al,
    (s.readRegs k n ctx m).1 = { s with flaws := fl, log := lg, health := he, alerts := al } := by
  unfold State.readRegs
  generalize s.flawedRegs k n.vs m = l
  suffices h : ∀ a : State × Mask, (∃ fl lg he al, a.1 = { s with flaws := fl, log := lg, health := he, alerts := al }) →
      ∃ fl lg he al, (l.foldl (fun (acc : State × Mask) c =>
          if !(n.vs.drop n.dst.length).contains c.1 then (acc.1.mend (.vreg k c.1 c.2), acc.2)
          else
            let (s, bad) := acc.1.readStore (.vreg k c.1 c.2) (some ctx)
            (s, if bad then acc.2 ||| laneBit c.2 else acc.2)) a).1 =
        { s with flaws := fl, log := lg, health := he, alerts := al } from h (s, 0) ⟨s.flaws, s.log, s.health, s.alerts, rfl⟩
  induction l with
  | nil => exact fun a h => h
  | cons c l ih =>
    rintro a ⟨fl, lg, he, al, h⟩
    refine ih _ ?_
    dsimp only
    split
    · exact ⟨_, lg, he, al, congrArg (State.mend · (.vreg k c.1 c.2)) h⟩
    · obtain ⟨fl', lg', he', al', h'⟩ := a.1.readStore_eq (.vreg k c.1 c.2) (some ctx)
      exact ⟨fl', lg', he', al', h'.trans (congrArg (fun t : State => { t with flaws := fl', log := lg', health := he', alerts := al' }) h)⟩

/-- The start of a word spends the issue slot, takes the pipe and reads the registers that the word names, and does nothing
else (R195 to R197, R456). -/
theorem begun_eq (i : Instr) (s : State) (x : X) : ∃ co fl lg he al,
    begun i s x = { s with cur := none, cores := co, flaws := fl, log := lg, health := he, alerts := al } := by
  obtain ⟨fl, lg, he, al, h⟩ := (s.issued x.k x.en x.f (need i) (uniform i) (stall i s x)).readRegs_eq x.k (need i) (s.ctxOf x.g.launch)
    x.lanes
  have e : ∃ co, s.issued x.k x.en x.f (need i) (uniform i) (stall i s x) = { s with cur := none, cores := co } := by
    unfold State.issued State.occupy
    split <;> exact ⟨_, rfl⟩
  obtain ⟨co, e⟩ := e
  exact ⟨co, fl, lg, he, al, h.trans (congrArg (fun t : State => { t with flaws := fl, log := lg, health := he, alerts := al }) e)⟩

@[simp] theorem begun_clk (i : Instr) (s : State) (x : X) : (begun i s x).clk = s.clk := by
  obtain ⟨_, _, _, _, _, h⟩ := begun_eq i s x; rw [h]
@[simp] theorem begun_tb (i : Instr) (s : State) (x : X) : (begun i s x).tb = s.tb := by
  obtain ⟨_, _, _, _, _, h⟩ := begun_eq i s x; rw [h]
@[simp] theorem begun_mem (i : Instr) (s : State) (x : X) : (begun i s x).mem = s.mem := by
  obtain ⟨_, _, _, _, _, h⟩ := begun_eq i s x; rw [h]
@[simp] theorem begun_wgs (i : Instr) (s : State) (x : X) : (begun i s x).wgs = s.wgs := by
  obtain ⟨_, _, _, _, _, h⟩ := begun_eq i s x; rw [h]
@[simp] theorem begun_gangs (i : Instr) (s : State) (x : X) : (begun i s x).gangs = s.gangs := by
  obtain ⟨_, _, _, _, _, h⟩ := begun_eq i s x; rw [h]
@[simp] theorem begun_launches (i : Instr) (s : State) (x : X) : (begun i s x).launches = s.launches := by
  obtain ⟨_, _, _, _, _, h⟩ := begun_eq i s x; rw [h]
@[simp] theorem begun_ops (i : Instr) (s : State) (x : X) : (begun i s x).ops = s.ops := by
  obtain ⟨_, _, _, _, _, h⟩ := begun_eq i s x; rw [h]
@[simp] theorem begun_mats (i : Instr) (s : State) (x : X) : (begun i s x).mats = s.mats := by
  obtain ⟨_, _, _, _, _, h⟩ := begun_eq i s x; rw [h]
@[simp] theorem begun_dir (i : Instr) (s : State) (x : X) : (begun i s x).dir = s.dir := by
  obtain ⟨_, _, _, _, _, h⟩ := begun_eq i s x; rw [h]
@[simp] theorem begun_homes (i : Instr) (s : State) (x : X) : (begun i s x).homes = s.homes := by
  obtain ⟨_, _, _, _, _, h⟩ := begun_eq i s x; rw [h]
@[simp] theorem begun_seals (i : Instr) (s : State) (x : X) : (begun i s x).seals = s.seals := by
  obtain ⟨_, _, _, _, _, h⟩ := begun_eq i s x; rw [h]
@[simp] theorem begun_ctxs (i : Instr) (s : State) (x : X) : (begun i s x).ctxs = s.ctxs := by
  obtain ⟨_, _, _, _, _, h⟩ := begun_eq i s x; rw [h]
@[simp] theorem begun_cur (i : Instr) (s : State) (x : X) : (begun i s x).cur = none := by
  obtain ⟨_, _, _, _, _, h⟩ := begun_eq i s x; rw [h]

/-- An event that enters the handler (R421 to R426): at user level, of a kind that does not escalate, with an active lane, and
with a valid vector entry. -/
theorem State.takeEvent_enter {s : State} {k en image : Nat} {e : Event} {g : Group} {f : Frag} (hg : s.group? k = some g)
    (hf : g.frag en = some f) (hl : g.level ≠ .sup) (he : escalates e.kind = false) (hm : e.lanes &&& f.mask ≠ 0)
    {t : State} (ht : t = s.noteVector (coreOf k) (s.ctxOf g.launch) e.kind)
    (hi : t.handlerImage (coreOf k) (t.ctxOf g.launch) e.kind = some image) :
    s.takeEvent k en e = t.setGroup k { (g.enter t.clk en f e image) with record := e.record f.pc } := by
  subst ht
  have hn : ¬ (g.level = .sup ∨ escalates e.kind = true ∨ e.lanes &&& f.mask = 0) := by simp only [hl, he, hm]; decide
  simp only [State.takeEvent, hg, hf, if_neg hn, hi]

/-- An event that escalates without a look at the trap vector (R424, R427, R431), where no leaf is being filled. -/
theorem State.takeEvent_stop {s : State} {k en : Nat} {e : Event} {g : Group} {f : Frag} (hg : s.group? k = some g)
    (hf : g.frag en = some f) (hn : e.leaf = none) (h : g.level = .sup ∨ escalates e.kind = true ∨ e.lanes &&& f.mask = 0) :
    s.takeEvent k en e = s.escalate k (e.record f.pc) e.agent e.lanes := by
  simp only [State.takeEvent, hg, hf, hn, if_pos h]

/-- An event that escalates for want of a valid vector entry (R424), where no leaf is being filled. -/
theorem State.takeEvent_none {s : State} {k en : Nat} {e : Event} {g : Group} {f : Frag} (hg : s.group? k = some g)
    (hf : g.frag en = some f) (hn : e.leaf = none) (h : ¬ (g.level = .sup ∨ escalates e.kind = true ∨ e.lanes &&& f.mask = 0))
    {t : State} (ht : t = s.noteVector (coreOf k) (s.ctxOf g.launch) e.kind)
    (hi : t.handlerImage (coreOf k) (t.ctxOf g.launch) e.kind = none) :
    s.takeEvent k en e = t.escalate k (e.record f.pc) e.agent e.lanes := by
  subst ht
  simp only [State.takeEvent, hg, hf, hn, if_neg h, hi]

/-- The return from a handler reinstates the group that the handler recorded (R257, R428). -/
theorem State.endHandler_of {s : State} {k : Nat} {g : Group} {h : Handler} (hg : s.group? k = some g) (hh : g.handler = some h) :
    s.endHandler k = (s.revertOf g).setGroup k (g.leave s.clk s.now h) := by
  simp [State.endHandler, hg, hh]

/-- Everything that an instruction word can answer (R246, R247): the fault of a word asked for without a fragment; or a next
state: not ready, for a copy that is to land in a register it names or for what its effect waits for; a decode fault; a guard
that holds nowhere; an abort of a register that holds an error; or the effect. -/
theorem run_cases (i : Instr) (body : State → X → State × Done) (s : State) :
    (s.selected = none ∧ run i body s = .fault .noFragment) ∨ ∃ x : X, s.selected = some (x.k, x.en, x.g, x.f) ∧
      x.lanes = execLanes (pre i) (uniform i) x.g x.f ∧
      (run i body s = .next ((s.unspent x.k x.en).finish ⟨x.k, x.en, x.g, x.f, 0⟩ .hold) ∨
        (∃ kind, (need i).fault (pre i) x.g = some kind ∧ run i body s =
          .next ((s.issued x.k x.en x.f (need i) (uniform i) (stall i s x)).takeEvent x.k x.en (Event.plain kind 0 x.f.mask))) ∨
        (x.lanes = 0 ∧ run i body s = .next ((s.issued x.k x.en x.f (need i) (uniform i) (stall i s x)).finish x .next)) ∨
        (∃ m, run i body s = .next ((begun i s x).abortKill x.k (abortRecord 3 0 (x.f.pc / 12)) m)) ∨
        (Executes i s x ∧ (body (begun i s x) x).2 = .hold ∧
          run i body s = .next ((body (s.unspent x.k x.en) x).1.finish x .hold)) ∨
        (Executes i s x ∧ (body (begun i s x) x).2 ≠ .hold ∧
          run i body s = .next ((body (begun i s x) x).1.finish x (body (begun i s x) x).2))) := by
  cases hs : s.selected with
  | none => exact .inl ⟨rfl, by simp [run, issue, hs]⟩
  | some q =>
    obtain ⟨k, en, g, f⟩ := q
    refine .inr ⟨⟨k, en, g, f, execLanes (pre i) (uniform i) g f⟩, rfl, rfl, ?_⟩
    by_cases hv : (need i).vs.any (s.heldRegs k g.gid).contains = true
    · exact .inl (by simp only [run, issue, hs, hv, if_true])
    rw [Bool.not_eq_true] at hv
    cases hq : (need i).fault (pre i) g with
    | some kind => exact .inr (.inl ⟨kind, rfl, by simp only [run, issue, hs, hv, hq, Bool.false_eq_true, if_false]⟩)
    | none =>
      by_cases hz : execLanes (pre i) (uniform i) g f = 0
      · exact .inr (.inr (.inl ⟨hz, by simp only [run, issue, hs, hv, hq, Bool.false_eq_true, if_false, hz, if_true]⟩))
      let x : X := ⟨k, en, g, f, execLanes (pre i) (uniform i) g f⟩
      by_cases hr : ((s.issued k en f (need i) (uniform i) (stall i s x)).readRegs k (need i) (s.ctxOf g.launch) x.lanes).2 = 0
      · have hx : Executes i s x := ⟨hs, hv, hq, rfl, hz, hr⟩
        by_cases hb : (body (begun i s x) x).2 = .hold
        · exact .inr (.inr (.inr (.inr (.inl ⟨hx, hb, run_of_executes_hold hx body hb⟩))))
        · exact .inr (.inr (.inr (.inr (.inr ⟨hx, hb, run_of_executes hx body hb⟩))))
      · refine .inr (.inr (.inr (.inl
          ⟨((s.issued k en f (need i) (uniform i) (stall i s x)).readRegs k (need i) (s.ctxOf g.launch) x.lanes).2, ?_⟩)))
        simp only [run, issue, hs, hv, hq, Bool.false_eq_true, if_false, hz]
        rw [if_pos (show _ ≠ _ from hr)]
        rfl

end Sys2Proof.Machine
end

