-- ==== Sys2Proof/Laws/Memory.lean ====
section
/-! SUPPORT. Clearing a range of memory: what it leaves, and that it keeps the canonical form, as the other operations of
memory do (`Laws/Table.lean`). -/

namespace Sys2Proof.Machine

theorem Table.rises_filter {α : Type} (p : Nat × α → Bool) {lo : Nat} {t : Table α} (ht : Table.rises lo t = true) :
    Table.rises lo (t.filter p) = true := by
  induction t generalizing lo with
  | nil => rfl
  | cons c r ih =>
    simp only [Table.rises, Bool.and_eq_true, decide_eq_true_eq] at ht
    rw [List.filter_cons]
    split
    · simp only [Table.rises, Bool.and_eq_true, decide_eq_true_eq]; exact ⟨ht.1, ih ht.2⟩
    · exact Table.rises_mono (by omega) (ih ht.2)

theorem Memory.wf_zero {m : Memory} (a n : Nat) (h : m.wf = true) : (m.zero a n).wf = true := by
  simp only [Memory.wf, Table.wf, Bool.and_eq_true, Table.lean, List.all_eq_true] at h ⊢
  exact ⟨Table.rises_filter _ h.1, fun c hc => h.2 c (List.mem_of_mem_filter hc)⟩

theorem Memory.byte_zero (m : Memory) (a n b : Nat) : (m.zero a n).byte b = if a ≤ b ∧ b < a + n then 0 else m.byte b := by
  unfold Memory.byte Memory.zero Table.get
  induction m with
  | nil => simp [Table.find, Memory.unwritten]
  | cons c r ih =>
    rw [List.filter_cons]
    by_cases hb : c.1 = b
    · by_cases h : a ≤ b ∧ b < a + n
      · simp only [hb, h, decide_true, Bool.and_self, Bool.not_true, Bool.false_eq_true, if_false, if_true, and_self] at ih ⊢
        exact ih
      · have hk : (!(decide (a ≤ b) && decide (b < a + n))) = true := by simp; omega
        simp only [hb, hk, if_true, if_neg h, Table.find]
    · by_cases hk : (!(decide (a ≤ c.1) && decide (c.1 < a + n))) = true <;>
        simp only [hk, if_true, Bool.false_eq_true, if_false, Table.find, if_neg hb, ih]

end Sys2Proof.Machine
end

