-- ==== Sys2Proof/Laws/Words.lean ====
section
/-! SUPPORT. Every instruction word, which is what the encoder has a word for, runs the common course of `run`. -/

namespace Sys2Proof.Machine

/-- The meaning of an instruction word is the common course with its effect (R246, R247). -/
theorem exec_word (i : Instr) (h : (encode i).isSome = true) : ∃ body, ∀ s, exec i s = run i body s := by
  match i, h with
  | .nop p uni, h => exact ⟨_, fun s => Eq.refl (execNop p uni s)⟩
  | .br p t, h => exact ⟨_, fun s => Eq.refl (execBr p t s)⟩
  | .brc p z c t, h => exact ⟨_, fun s => Eq.refl (execBrc p z c t s)⟩
  | .brd p t r, h => exact ⟨_, fun s => Eq.refl (execBrd p t r s)⟩
  | .brx p a, h => exact ⟨_, fun s => Eq.refl (execBrx p a s)⟩
  | .call p d t, h => exact ⟨_, fun s => Eq.refl (execCall p d t s)⟩
  | .ret p a, h => exact ⟨_, fun s => Eq.refl (execRet p a s)⟩
  | .loop p c t, h => exact ⟨_, fun s => Eq.refl (execLoop p c t s)⟩
  | .exit p, h => exact ⟨_, fun s => Eq.refl (execExit p s)⟩
  | .sleep p n, h => exact ⟨_, fun s => Eq.refl (execSleep p n s)⟩
  | .trap p code, h => exact ⟨_, fun s => Eq.refl (execTrap p code s)⟩
  | .rtt p, h => exact ⟨_, fun s => Eq.refl (execRtt p s)⟩
  | .yielddSusp p, h => exact ⟨_, fun s => Eq.refl (execYielddSusp p s)⟩
  | .yielddRet p, h => exact ⟨_, fun s => Eq.refl (execYielddRet p s)⟩
  | .bkpt p code, h => exact ⟨_, fun s => Eq.refl (execBkpt p code s)⟩
  | .sadd p ty d a b, h => exact ⟨_, fun s => Eq.refl (execSadd p ty d a b s)⟩
  | .ssub p ty d a b, h => exact ⟨_, fun s => Eq.refl (execSsub p ty d a b s)⟩
  | .smul p d a b, h => exact ⟨_, fun s => Eq.refl (execSmul p d a b s)⟩
  | .smulh p ty d a b, h => exact ⟨_, fun s => Eq.refl (execSmulh p ty d a b s)⟩
  | .sdiv p ty d a b, h => exact ⟨_, fun s => Eq.refl (execSdiv p ty d a b s)⟩
  | .srem p ty d a b, h => exact ⟨_, fun s => Eq.refl (execSrem p ty d a b s)⟩
  | .sand p d a b, h => exact ⟨_, fun s => Eq.refl (execSand p d a b s)⟩
  | .sor p d a b, h => exact ⟨_, fun s => Eq.refl (execSor p d a b s)⟩
  | .sxor p d a b, h => exact ⟨_, fun s => Eq.refl (execSxor p d a b s)⟩
  | .sshl p ty d a b, h => exact ⟨_, fun s => Eq.refl (execSshl p ty d a b s)⟩
  | .sshr p ty d a b, h => exact ⟨_, fun s => Eq.refl (execSshr p ty d a b s)⟩
  | .ssar p ty d a b, h => exact ⟨_, fun s => Eq.refl (execSsar p ty d a b s)⟩
  | .smin p ty d a b, h => exact ⟨_, fun s => Eq.refl (execSmin p ty d a b s)⟩
  | .smax p ty d a b, h => exact ⟨_, fun s => Eq.refl (execSmax p ty d a b s)⟩
  | .scmp p cc d a b, h => exact ⟨_, fun s => Eq.refl (execScmp p cc d a b s)⟩
  | .smov p ty d a, h => exact ⟨_, fun s => Eq.refl (execSmov p ty d a s)⟩
  | .smovi p d v, h => exact ⟨_, fun s => Eq.refl (execSmovi p d v s)⟩
  | .slea p k d a b, h => exact ⟨_, fun s => Eq.refl (execSlea p k d a b s)⟩
  | .ssel p d a b, h => exact ⟨_, fun s => Eq.refl (execSsel p d a b s)⟩
  | .pset p d a, h => exact ⟨_, fun s => Eq.refl (execPset p d a s)⟩
  | .plop p tt d a b, h => exact ⟨_, fun s => Eq.refl (execPlop p tt d a b s)⟩
  | .pcnt p d a, h => exact ⟨_, fun s => Eq.refl (execPcnt p d a s)⟩
  | .pfirst p d a, h => exact ⟨_, fun s => Eq.refl (execPfirst p d a s)⟩
  | .pvote p m d a, h => exact ⟨_, fun s => Eq.refl (execPvote p m d a s)⟩
  | .rdsp p d sr, h => exact ⟨_, fun s => Eq.refl (execRdsp p d sr s)⟩
  | .wrsp p sr a, h => exact ⟨_, fun s => Eq.refl (execWrsp p sr a s)⟩
  | .setfmt p v, h => exact ⟨_, fun s => Eq.refl (execSetfmt p v s)⟩
  | .setrm p v, h => exact ⟨_, fun s => Eq.refl (execSetrm p v s)⟩
  | .rdff p d, h => exact ⟨_, fun s => Eq.refl (execRdff p d s)⟩
  | .clrff p m, h => exact ⟨_, fun s => Eq.refl (execClrff p m s)⟩
  | .iadd p e ty d a b, h => exact ⟨_, fun s => Eq.refl (execIadd p e ty d a b s)⟩
  | .isub p e ty d a b, h => exact ⟨_, fun s => Eq.refl (execIsub p e ty d a b s)⟩
  | .imul p e d a b, h => exact ⟨_, fun s => Eq.refl (execImul p e d a b s)⟩
  | .imulh p e ty d a b, h => exact ⟨_, fun s => Eq.refl (execImulh p e ty d a b s)⟩
  | .imad p e d a b, h => exact ⟨_, fun s => Eq.refl (execImad p e d a b s)⟩
  | .idiv p e ty d a b, h => exact ⟨_, fun s => Eq.refl (execIdiv p e ty d a b s)⟩
  | .irem p e ty d a b, h => exact ⟨_, fun s => Eq.refl (execIrem p e ty d a b s)⟩
  | .imin p e ty d a b, h => exact ⟨_, fun s => Eq.refl (execImin p e ty d a b s)⟩
  | .imax p e ty d a b, h => exact ⟨_, fun s => Eq.refl (execImax p e ty d a b s)⟩
  | .iabs p e d a, h => exact ⟨_, fun s => Eq.refl (execIabs p e d a s)⟩
  | .ineg p e d a, h => exact ⟨_, fun s => Eq.refl (execIneg p e d a s)⟩
  | .icmp p cc d a b, h => exact ⟨_, fun s => Eq.refl (execIcmp p cc d a b s)⟩
  | .isel p e q d a b, h => exact ⟨_, fun s => Eq.refl (execIsel p e q d a b s)⟩
  | .imov p e d a, h => exact ⟨_, fun s => Eq.refl (execImov p e d a s)⟩
  | .imovi p e d v, h => exact ⟨_, fun s => Eq.refl (execImovi p e d v s)⟩
  | .iand p e d a b, h => exact ⟨_, fun s => Eq.refl (execIand p e d a b s)⟩
  | .ior p e d a b, h => exact ⟨_, fun s => Eq.refl (execIor p e d a b s)⟩
  | .ixor p e d a b, h => exact ⟨_, fun s => Eq.refl (execIxor p e d a b s)⟩
  | .inot p e d a, h => exact ⟨_, fun s => Eq.refl (execInot p e d a s)⟩
  | .ishl p e d a b, h => exact ⟨_, fun s => Eq.refl (execIshl p e d a b s)⟩
  | .ishr p e d a b, h => exact ⟨_, fun s => Eq.refl (execIshr p e d a b s)⟩
  | .isar p e d a b, h => exact ⟨_, fun s => Eq.refl (execIsar p e d a b s)⟩
  | .irot p e d a b, h => exact ⟨_, fun s => Eq.refl (execIrot p e d a b s)⟩
  | .bfx p e ty d a b, h => exact ⟨_, fun s => Eq.refl (execBfx p e ty d a b s)⟩
  | .bfi p e d a b, h => exact ⟨_, fun s => Eq.refl (execBfi p e d a b s)⟩
  | .popc p e d a, h => exact ⟨_, fun s => Eq.refl (execPopc p e d a s)⟩
  | .clz p e d a, h => exact ⟨_, fun s => Eq.refl (execClz p e d a s)⟩
  | .fadd p e rnd d a b, h => exact ⟨_, fun s => Eq.refl (execFadd p e rnd d a b s)⟩
  | .fsub p e rnd d a b, h => exact ⟨_, fun s => Eq.refl (execFsub p e rnd d a b s)⟩
  | .fmul p e rnd d a b, h => exact ⟨_, fun s => Eq.refl (execFmul p e rnd d a b s)⟩
  | .ffma p e rnd d a b, h => exact ⟨_, fun s => Eq.refl (execFfma p e rnd d a b s)⟩
  | .fmin p e d a b, h => exact ⟨_, fun s => Eq.refl (execFmin p e d a b s)⟩
  | .fmax p e d a b, h => exact ⟨_, fun s => Eq.refl (execFmax p e d a b s)⟩
  | .fabs p e d a, h => exact ⟨_, fun s => Eq.refl (execFabs p e d a s)⟩
  | .fneg p e d a, h => exact ⟨_, fun s => Eq.refl (execFneg p e d a s)⟩
  | .fcmp p cc d a b, h => exact ⟨_, fun s => Eq.refl (execFcmp p cc d a b s)⟩
  | .fclass p e d a, h => exact ⟨_, fun s => Eq.refl (execFclass p e d a s)⟩
  | .fdiv p e rnd d a b, h => exact ⟨_, fun s => Eq.refl (execFdiv p e rnd d a b s)⟩
  | .fsqrt p e rnd d a, h => exact ⟨_, fun s => Eq.refl (execFsqrt p e rnd d a s)⟩
  | .frcp p e rnd d a, h => exact ⟨_, fun s => Eq.refl (execFrcp p e rnd d a s)⟩
  | .frsq p e rnd d a, h => exact ⟨_, fun s => Eq.refl (execFrsq p e rnd d a s)⟩
  | .fexp2 p e rnd d a, h => exact ⟨_, fun s => Eq.refl (execFexp2 p e rnd d a s)⟩
  | .flog2 p e rnd d a, h => exact ⟨_, fun s => Eq.refl (execFlog2 p e rnd d a s)⟩
  | .fsinpi p e rnd d a, h => exact ⟨_, fun s => Eq.refl (execFsinpi p e rnd d a s)⟩
  | .fcospi p e rnd d a, h => exact ⟨_, fun s => Eq.refl (execFcospi p e rnd d a s)⟩
  | .fround p e rnd d a, h => exact ⟨_, fun s => Eq.refl (execFround p e rnd d a s)⟩
  | .faddPacked p e bf rnd d a b, h => exact ⟨_, fun s => Eq.refl (execFaddPacked p e bf rnd d a b s)⟩
  | .fsubPacked p e bf rnd d a b, h => exact ⟨_, fun s => Eq.refl (execFsubPacked p e bf rnd d a b s)⟩
  | .fmulPacked p e bf rnd d a b, h => exact ⟨_, fun s => Eq.refl (execFmulPacked p e bf rnd d a b s)⟩
  | .ffmaPacked p e bf rnd d a b, h => exact ⟨_, fun s => Eq.refl (execFfmaPacked p e bf rnd d a b s)⟩
  | .fminPacked p e bf d a b, h => exact ⟨_, fun s => Eq.refl (execFminPacked p e bf d a b s)⟩
  | .fmaxPacked p e bf d a b, h => exact ⟨_, fun s => Eq.refl (execFmaxPacked p e bf d a b s)⟩
  | .fabsPacked p e bf d a, h => exact ⟨_, fun s => Eq.refl (execFabsPacked p e bf d a s)⟩
  | .fnegPacked p e bf d a, h => exact ⟨_, fun s => Eq.refl (execFnegPacked p e bf d a s)⟩
  | .fcmpPacked p bf cc d a b, h => exact ⟨_, fun s => Eq.refl (execFcmpPacked p bf cc d a b s)⟩
  | .fclassPacked p e bf d a, h => exact ⟨_, fun s => Eq.refl (execFclassPacked p e bf d a s)⟩
  | .fdivPacked p e bf rnd d a b, h => exact ⟨_, fun s => Eq.refl (execFdivPacked p e bf rnd d a b s)⟩
  | .fsqrtPacked p e bf rnd d a, h => exact ⟨_, fun s => Eq.refl (execFsqrtPacked p e bf rnd d a s)⟩
  | .frcpPacked p e bf rnd d a, h => exact ⟨_, fun s => Eq.refl (execFrcpPacked p e bf rnd d a s)⟩
  | .frsqPacked p e bf rnd d a, h => exact ⟨_, fun s => Eq.refl (execFrsqPacked p e bf rnd d a s)⟩
  | .fexp2Packed p e bf rnd d a, h => exact ⟨_, fun s => Eq.refl (execFexp2Packed p e bf rnd d a s)⟩
  | .flog2Packed p e bf rnd d a, h => exact ⟨_, fun s => Eq.refl (execFlog2Packed p e bf rnd d a s)⟩
  | .fsinpiPacked p e bf rnd d a, h => exact ⟨_, fun s => Eq.refl (execFsinpiPacked p e bf rnd d a s)⟩
  | .fcospiPacked p e bf rnd d a, h => exact ⟨_, fun s => Eq.refl (execFcospiPacked p e bf rnd d a s)⟩
  | .froundPacked p e bf rnd d a, h => exact ⟨_, fun s => Eq.refl (execFroundPacked p e bf rnd d a s)⟩
  | .cvt p e tgt rnd d a src nosat, h => exact ⟨_, fun s => Eq.refl (execCvt p e tgt rnd d a src nosat s)⟩
  | .qblk p tgt rnd d a b, h => exact ⟨_, fun s => Eq.refl (execQblk p tgt rnd d a b s)⟩
  | .dqblk p src d a b, h => exact ⟨_, fun s => Eq.refl (execDqblk p src d a b s)⟩
  | .shfl p m d a b, h => exact ⟨_, fun s => Eq.refl (execShfl p m d a b s)⟩
  | .bcast p d a b, h => exact ⟨_, fun s => Eq.refl (execBcast p d a b s)⟩
  | .vred p o rnd d a, h => exact ⟨_, fun s => Eq.refl (execVred p o rnd d a s)⟩
  | .vscan p o rnd d a ex, h => exact ⟨_, fun s => Eq.refl (execVscan p o rnd d a ex s)⟩
  | .vcompact p d a q, h => exact ⟨_, fun s => Eq.refl (execVcompact p d a q s)⟩
  | .cka p e fp d a, h => exact ⟨_, fun s => Eq.refl (execCka p e fp d a s)⟩
  | .chk p fp d a b, h => exact ⟨_, fun s => Eq.refl (execChk p fp d a b s)⟩
  | .ld p sz sc d m, h => exact ⟨_, fun s => Eq.refl (execLd p sz sc d m s)⟩
  | .st p sz sc d m, h => exact ⟨_, fun s => Eq.refl (execSt p sz sc d m s)⟩
  | .ldx p e sz sc d m, h => exact ⟨_, fun s => Eq.refl (execLdx p e sz sc d m s)⟩
  | .stx p e sz sc d m, h => exact ⟨_, fun s => Eq.refl (execStx p e sz sc d m s)⟩
  | .prf p m, h => exact ⟨_, fun s => Eq.refl (execPrf p m s)⟩
  | .invl p m, h => exact ⟨_, fun s => Eq.refl (execInvl p m s)⟩
  | .lds p sz sc d m, h => exact ⟨_, fun s => Eq.refl (execLds p sz sc d m s)⟩
  | .sts p sz sc d m, h => exact ⟨_, fun s => Eq.refl (execSts p sz sc d m s)⟩
  | .winmap p e a b, h => exact ⟨_, fun s => Eq.refl (execWinmap p e a b s)⟩
  | .winfl p e, h => exact ⟨_, fun s => Eq.refl (execWinfl p e s)⟩
  | .windrop p e, h => exact ⟨_, fun s => Eq.refl (execWindrop p e s)⟩
  | .atom p o sc d m, h => exact ⟨_, fun s => Eq.refl (execAtom p o sc d m s)⟩
  | .red p o sc d m, h => exact ⟨_, fun s => Eq.refl (execRed p o sc d m s)⟩
  | .atoms p o sc d m, h => exact ⟨_, fun s => Eq.refl (execAtoms p o sc d m s)⟩
  | .upd p o rnd d m, h => exact ⟨_, fun s => Eq.refl (execUpd p o rnd d m s)⟩
  | .fence p uni k sc, h => exact ⟨_, fun s => Eq.refl (execFence p uni k sc s)⟩
  | .seal p a b, h => exact ⟨_, fun s => Eq.refl (execSeal p a b s)⟩
  | .unseal p a, h => exact ⟨_, fun s => Eq.refl (execUnseal p a s)⟩
  | .waitcnt p cl n, h => exact ⟨_, fun s => Eq.refl (execWaitcnt p cl n s)⟩
  | .waitcmp p cc sc d m, h => exact ⟨_, fun s => Eq.refl (execWaitcmp p cc sc d m s)⟩
  | .waitw p sc m, h => exact ⟨_, fun s => Eq.refl (execWaitw p sc m s)⟩
  | .pjoin p n, h => exact ⟨_, fun s => Eq.refl (execPjoin p n s)⟩
  | .pleave p n, h => exact ⟨_, fun s => Eq.refl (execPleave p n s)⟩
  | .pexpect p n b, h => exact ⟨_, fun s => Eq.refl (execPexpect p n b s)⟩
  | .parrive p n, h => exact ⟨_, fun s => Eq.refl (execParrive p n s)⟩
  | .pwait p n, h => exact ⟨_, fun s => Eq.refl (execPwait p n s)⟩
  | .psync p n, h => exact ⟨_, fun s => Eq.refl (execPsync p n s)⟩
  | .racq p d ring, h => exact ⟨_, fun s => Eq.refl (execRacq p d ring s)⟩
  | .rpub p ring b, h => exact ⟨_, fun s => Eq.refl (execRpub p ring b s)⟩
  | .rtake p d ring, h => exact ⟨_, fun s => Eq.refl (execRtake p d ring s)⟩
  | .rfree p ring b, h => exact ⟨_, fun s => Eq.refl (execRfree p ring b s)⟩
  | .tsig p a b, h => exact ⟨_, fun s => Eq.refl (execTsig p a b s)⟩
  | .cpy p a, h => exact ⟨_, fun s => Eq.refl (execCpy p a s)⟩
  | .cpyg p a, h => exact ⟨_, fun s => Eq.refl (execCpyg p a s)⟩
  | .cpys p a, h => exact ⟨_, fun s => Eq.refl (execCpys p a s)⟩
  | .cpyr p a, h => exact ⟨_, fun s => Eq.refl (execCpyr p a s)⟩
  | .cpyb p rnd a, h => exact ⟨_, fun s => Eq.refl (execCpyb p rnd a s)⟩
  | .cpyf p a, h => exact ⟨_, fun s => Eq.refl (execCpyf p a s)⟩
  | .cpyq p a, h => exact ⟨_, fun s => Eq.refl (execCpyq p a s)⟩
  | .scbind p tid a, h => exact ⟨_, fun s => Eq.refl (execScbind p tid a s)⟩
  | .scdrop p tid, h => exact ⟨_, fun s => Eq.refl (execScdrop p tid s)⟩
  | .kset p fm k a b, h => exact ⟨_, fun s => Eq.refl (execKset p fm k a b s)⟩
  | .krel p k, h => exact ⟨_, fun s => Eq.refl (execKrel p k s)⟩
  | .mzero p acc, h => exact ⟨_, fun s => Eq.refl (execMzero p acc s)⟩
  | .mma p e sat rnd acc tid a k km1, h => exact ⟨_, fun s => Eq.refl (execMma p e sat rnd acc tid a k km1 s)⟩
  | .mmasp p e sat rnd acc tid a k km1, h => exact ⟨_, fun s => Eq.refl (execMmasp p e sat rnd acc tid a k km1 s)⟩
  | .mdrain p add fm rnd acc sp pub ring m, h => exact ⟨_, fun s => Eq.refl (execMdrain p add fm rnd acc sp pub ring m s)⟩
  | .mload p fm acc sp m, h => exact ⟨_, fun s => Eq.refl (execMload p fm acc sp m s)⟩
  | .itset p a, h => exact ⟨_, fun s => Eq.refl (execItset p a s)⟩
  | .itnext p d, h => exact ⟨_, fun s => Eq.refl (execItnext p d s)⟩
  | .itdone p a, h => exact ⟨_, fun s => Eq.refl (execItdone p a s)⟩
  | .itend p, h => exact ⟨_, fun s => Eq.refl (execItend p s)⟩
  | .resq p d m, h => exact ⟨_, fun s => Eq.refl (execResq p d m s)⟩
  | .spawn p a b, h => exact ⟨_, fun s => Eq.refl (execSpawn p a b s)⟩
  | .spq p, h => exact ⟨_, fun s => Eq.refl (execSpq p s)⟩
  | .sealsave p g a b, h => exact ⟨_, fun s => Eq.refl (execSealsave p g a b s)⟩
  | .sealload p g a b, h => exact ⟨_, fun s => Eq.refl (execSealload p g a b s)⟩
  | .ptew p a b, h => exact ⟨_, fun s => Eq.refl (execPtew p a b s)⟩
  | .poolget p d, h => exact ⟨_, fun s => Eq.refl (execPoolget p d s)⟩
  | .fltinfo p d, h => exact ⟨_, fun s => Eq.refl (execFltinfo p d s)⟩
  | .issueSelect _ _, h => exact absurd h (by simp [encode, Instr.fields])
  | .fragmentOverdue _ _, h => exact absurd h (by simp [encode, Instr.fields])
  | .sleepExpiry _ _, h => exact absurd h (by simp [encode, Instr.fields])
  | .pennantWaitRelease _ _, h => exact absurd h (by simp [encode, Instr.fields])
  | .brokenPennant _, h => exact absurd h (by simp [encode, Instr.fields])
  | .ringWaitResume _ _, h => exact absurd h (by simp [encode, Instr.fields])
  | .ringPublishDeferred _ _, h => exact absurd h (by simp [encode, Instr.fields])
  | .fullLineStallEnd _ _, h => exact absurd h (by simp [encode, Instr.fields])
  | .windowLineFill _ _, h => exact absurd h (by simp [encode, Instr.fields])
  | .waitcntReturn _ _, h => exact absurd h (by simp [encode, Instr.fields])
  | .monitorWake _ _, h => exact absurd h (by simp [encode, Instr.fields])
  | .monitorReread _ _, h => exact absurd h (by simp [encode, Instr.fields])
  | .spawnRoom _ _, h => exact absurd h (by simp [encode, Instr.fields])
  | .spqQueueEmpty _ _, h => exact absurd h (by simp [encode, Instr.fields])
  | .unsealCountZero _ _, h => exact absurd h (by simp [encode, Instr.fields])
  | .packingTimeout _ _ _, h => exact absurd h (by simp [encode, Instr.fields])
  | .packedGroupStart _ _ _, h => exact absurd h (by simp [encode, Instr.fields])
  | .copyRowLands _, h => exact absurd h (by simp [encode, Instr.fields])
  | .copyComplete _, h => exact absurd h (by simp [encode, Instr.fields])
  | .peerBagPooling _ _, h => exact absurd h (by simp [encode, Instr.fields])
  | .scaleCacheFill _ _, h => exact absurd h (by simp [encode, Instr.fields])
  | .octetPassComplete _, h => exact absurd h (by simp [encode, Instr.fields])
  | .ksetComplete _, h => exact absurd h (by simp [encode, Instr.fields])
  | .mdrainComplete _, h => exact absurd h (by simp [encode, Instr.fields])
  | .mloadComplete _, h => exact absurd h (by simp [encode, Instr.fields])
  | .walkerMapWriteDone _, h => exact absurd h (by simp [encode, Instr.fields])
  | .prefetchLands _, h => exact absurd h (by simp [encode, Instr.fields])
  | .tableWalk _ _ _, h => exact absurd h (by simp [encode, Instr.fields])
  | .firmwarePoolFill _ _, h => exact absurd h (by simp [encode, Instr.fields])
  | .read _ _ _, h => exact absurd h (by simp [encode, Instr.fields])
  | .own _ _ _, h => exact absurd h (by simp [encode, Instr.fields])
  | .update _ _ _, h => exact absurd h (by simp [encode, Instr.fields])
  | .writeback _ _, h => exact absurd h (by simp [encode, Instr.fields])
  | .flush _ _, h => exact absurd h (by simp [encode, Instr.fields])
  | .grant _ _, h => exact absurd h (by simp [encode, Instr.fields])
  | .probe _ _, h => exact absurd h (by simp [encode, Instr.fields])
  | .answer _ _, h => exact absurd h (by simp [encode, Instr.fields])
  | .gone _ _, h => exact absurd h (by simp [encode, Instr.fields])
  | .burstCommand _ _, h => exact absurd h (by simp [encode, Instr.fields])
  | .burstComplete _ _, h => exact absurd h (by simp [encode, Instr.fields])
  | .deviceBeatTimeout _ _, h => exact absurd h (by simp [encode, Instr.fields])
  | .abortCompletion _ _ _, h => exact absurd h (by simp [encode, Instr.fields])
  | .probeTimeout _ _, h => exact absurd h (by simp [encode, Instr.fields])
  | .coreLossBroadcast _ _, h => exact absurd h (by simp [encode, Instr.fields])
  | .dispatcherPass, h => exact absurd h (by simp [encode, Instr.fields])
  | .yieldTrap _, h => exact absurd h (by simp [encode, Instr.fields])
  | .gangStateSave _, h => exact absurd h (by simp [encode, Instr.fields])
  | .yieldBudgetExpiry _, h => exact absurd h (by simp [encode, Instr.fields])
  | .coreMapChange, h => exact absurd h (by simp [encode, Instr.fields])
  | .powerWindow _ _, h => exact absurd h (by simp [encode, Instr.fields])
  | .thermalTrip _, h => exact absurd h (by simp [encode, Instr.fields])
  | .thermalTripEnd _, h => exact absurd h (by simp [encode, Instr.fields])
  | .cqdoor _ _ _, h => exact absurd h (by simp [encode, Instr.fields])
  | .queueRegister _ _ _, h => exact absurd h (by simp [encode, Instr.fields])
  | .queueUnregister _ _ _, h => exact absurd h (by simp [encode, Instr.fields])
  | .queueErrorClear _ _, h => exact absurd h (by simp [encode, Instr.fields])
  | .cchead _ _ _, h => exact absurd h (by simp [encode, Instr.fields])
  | .fqhead _ _, h => exact absurd h (by simp [encode, Instr.fields])
  | .fqOverflowClear _, h => exact absurd h (by simp [encode, Instr.fields])
  | .registerWrite _ _ _, h => exact absurd h (by simp [encode, Instr.fields])
  | .commandStart _ _, h => exact absurd h (by simp [encode, Instr.fields])
  | .launch _ _, h => exact absurd h (by simp [encode, Instr.fields])
  | .hostCopy _ _, h => exact absurd h (by simp [encode, Instr.fields])
  | .map _ _, h => exact absurd h (by simp [encode, Instr.fields])
  | .unmap _ _, h => exact absurd h (by simp [encode, Instr.fields])
  | .poolGrant _ _, h => exact absurd h (by simp [encode, Instr.fields])
  | .tokenSignal _ _, h => exact absurd h (by simp [encode, Instr.fields])
  | .tokenWait _ _, h => exact absurd h (by simp [encode, Instr.fields])
  | .contextCreate _ _, h => exact absurd h (by simp [encode, Instr.fields])
  | .contextSave _ _, h => exact absurd h (by simp [encode, Instr.fields])
  | .contextRestore _ _, h => exact absurd h (by simp [encode, Instr.fields])
  | .launchAbort _ _, h => exact absurd h (by simp [encode, Instr.fields])
  | .loadImage _ _, h => exact absurd h (by simp [encode, Instr.fields])
  | .contextDestroy _ _, h => exact absurd h (by simp [encode, Instr.fields])
  | .healthQuery _ _, h => exact absurd h (by simp [encode, Instr.fields])
  | .scanTest _ _, h => exact absurd h (by simp [encode, Instr.fields])
  | .scanDrainDone _, h => exact absurd h (by simp [encode, Instr.fields])
  | .scanDrainTimeout _, h => exact absurd h (by simp [encode, Instr.fields])
  | .scanRunDone _ _, h => exact absurd h (by simp [encode, Instr.fields])
  | .scanTestAbort _, h => exact absurd h (by simp [encode, Instr.fields])
  | .deconfigure _ _, h => exact absurd h (by simp [encode, Instr.fields])
  | .attest _ _, h => exact absurd h (by simp [encode, Instr.fields])
  | .reclaim _ _, h => exact absurd h (by simp [encode, Instr.fields])
  | .nodeQuery _ _, h => exact absurd h (by simp [encode, Instr.fields])
  | .halyardFlitReceive _ _ _, h => exact absurd h (by simp [encode, Instr.fields])
  | .replayRequest _ _, h => exact absurd h (by simp [encode, Instr.fields])
  | .stopGo _ _, h => exact absurd h (by simp [encode, Instr.fields])
  | .linkRetrain _ _, h => exact absurd h (by simp [encode, Instr.fields])
  | .linkDown _, h => exact absurd h (by simp [encode, Instr.fields])
  | .halyardMessage _ _ _, h => exact absurd h (by simp [encode, Instr.fields])
  | .deviceDrop _, h => exact absurd h (by simp [encode, Instr.fields])
  | .launchAbortMessage _, h => exact absurd h (by simp [encode, Instr.fields])
  | .hoistReady _ _, h => exact absurd h (by simp [encode, Instr.fields])
  | .hoistGo _, h => exact absurd h (by simp [encode, Instr.fields])
  | .launchEndReport _ _ _, h => exact absurd h (by simp [encode, Instr.fields])
  | .healthRecordRead, h => exact absurd h (by simp [encode, Instr.fields])
  | .ageingMonitorRead, h => exact absurd h (by simp [encode, Instr.fields])
  | .errorLogRead, h => exact absurd h (by simp [encode, Instr.fields])
  | .warmReset, h => exact absurd h (by simp [encode, Instr.fields])
  | .coldReset, h => exact absurd h (by simp [encode, Instr.fields])
  | .ageingSample _ _ _, h => exact absurd h (by simp [encode, Instr.fields])
  | .errorFilterEpoch, h => exact absurd h (by simp [encode, Instr.fields])
  | .healthRebuild, h => exact absurd h (by simp [encode, Instr.fields])
  | .horizonReached _ _, h => exact absurd h (by simp [encode, Instr.fields])
  | .hostMemoryCompletion _ _ _, h => exact absurd h (by simp [encode, Instr.fields])
  | .atomicAtHome _, h => exact absurd h (by simp [encode, Instr.fields])
  | .powerOn _, h => exact absurd h (by simp [encode, Instr.fields])

end Sys2Proof.Machine
end

