-- ==== Sys2Proof/Tests/Slice0.lean ====
section
/-! SUPPORT. Tests: words of every class written out from the map and what they decode to; terms that each well-formedness check
refuses; single effects with values worked out by hand from the rules; and, for every statement, states and operands that meet
its hypotheses. -/

set_option maxRecDepth 100000
set_option Elab.async false

namespace Sys2Proof.Tests

open Sys2Proof Sys2Proof.Machine Sys2Proof.Safety

/-- A word and the instruction it is the word of. -/
def reads (c : InstrWord × Instr) : Bool := decide (decodeWord c.1 = .ok c.2) && decide (encode c.2 = some c.1)

/-- The prefix with no guard and no policy. -/
abbrev p : Pre := ⟨false, 63, 0⟩

/-! ### States that meet hypotheses -/

/-- The device with one group whose chosen fragment is to run `i` (log 8). -/
def placed (i : Instr) : State := State.reset.placeWord 96 ((encode i).getD 0).toNat

/-- The chosen fragment, where `i` executes for it. -/
def ready (i : Instr) (s : State) : Option X :=
  match s.selected with
  | none => none
  | some (k, en, g, f) =>
    let x : X := ⟨k, en, g, f, execLanes (pre i) (uniform i) g f⟩
    if (need i).vs.any (s.heldRegs k g.gid).contains = false ∧ (need i).fault (pre i) g = none ∧ x.lanes ≠ 0 ∧
        ((s.issued k en f (need i) (uniform i) (stall i s x)).readRegs k (need i) (s.ctxOf g.launch) x.lanes).2 = 0 then some x
    else none

theorem ready_executes {i : Instr} {s : State} {x : X} (h : ready i s = some x) : Executes i s x := by
  unfold ready at h
  split at h
  · cases h
  · rename_i hs
    simp only at h
    split at h
    · rename_i hc
      cases h
      exact ⟨hs, hc.1, hc.2.1, rfl, hc.2.2.1, hc.2.2.2⟩
    · cases h

/-- `i` executes in `s`, and what else a statement asks holds there. -/
def meets (i : Instr) (s : State) (h : X → Bool) : Bool :=
  match ready i s with
  | some x => h x
  | none => false

/-- What `meets` shows of the statements that begin with `Executes`. -/
theorem meets_spec {i : Instr} {s : State} {h : X → Bool} (hm : meets i s h = true) : ∃ x, Executes i s x ∧ h x = true := by
  unfold meets at hm
  split at hm
  · rename_i x hx; exact ⟨x, ready_executes hx, hm⟩
  · cases hm

/-- `i` executes where it has been placed. -/
def runs (i : Instr) : Bool := meets i (placed i) fun _ => true

/-- The placed state with its group changed. -/
def placedWith (i : Instr) (f : Group → Group) : State := (placed i).modGroup 0 f

/-- More pages for a placed program: 1 GiB each of NC at 2^30, XC at 2^31, DC without write permission at 3 * 2^30 and host memory
at 2^32, and the page of the trap vector, whose entries 0x05 and 0x0A name an image at 0x2000; core 0 has the first page in its TLB. -/
def mapped (s : State) : State :=
  let m := (((s.mem.setDword (placedRoot + 0x2008) 0xC300000040000000).setDword (placedRoot + 0x2010) 0xE300000080000000).setDword
    (placedRoot + 0x2018) 0xD1000000C0000000).setDword (placedRoot + 0x2020) (0xE300000000000000 + BitVec.ofNat 64 hostBase)
  let m := ((m.setDword (placedRoot + 0xFF8) (ptePointer (placedRoot + 0x1000))).setDword (placedRoot + 0x1FF8)
    (ptePointer (placedRoot + 0x2000))).setDword (placedRoot + 0x2FF8) 0xD300000000000000
  ({ s with mem := (m.setDword (0x3FFF0000 + 8 * 0x0A) 0x8000000000002000).setDword (0x3FFF0000 + 8 * 0x05) 0x8000000000002000 } : State).modCore 0 fun c => { c with tlb := [⟨1, 0, 30, 0xD300000000000000⟩] }

/-- What holds of the chosen group and fragment. -/
def chosen (s : State) (h : Group → Frag → Bool) : Bool :=
  match s.selected with
  | some (_, _, g, f) => h g f
  | none => false

/-- Words of class 0 written out from R229, one for each of its instructions. -/
theorem test_words_control : ([
    (fieldWord 0x000 0 63 1 0 0 0 0 0 0 0 0, .nop p true),
    (fieldWord 0x001 0 63 1 0 0 0 0 0 0 0x80001 0x82345, .br p 0x12345),
    (fieldWord 0x002 1 47 1 0 0 1 0 1 0x40003 0x80000 0x80005, .brc ⟨true, 47, 1⟩ true 3 5),
    (fieldWord 0x003 0 63 0 0 0 0 0 0 0 0x9FFFF 0x80040, .brd p 131071 64),
    (fieldWord 0x004 0 63 1 0 0 0 0 0 0 0x4007F 0, .brx p 127),
    (fieldWord 0x005 0 63 1 0 0 0 0 0 0x40009 0x80001 0x80000, .call p 9 0x10000),
    (fieldWord 0x006 0 63 1 0 0 0 0 0 0 0x40009 0, .ret p 9),
    (fieldWord 0x007 0 63 1 0 0 0 0 0 0x40004 0x80000 0x80006, .loop p 4 6),
    (fieldWord 0x008 0 63 0 0 0 0 0 0 0 0 0, .exit p),
    (fieldWord 0x009 0 63 1 0 0 0 0 0 0 0x9FFFF 0, .sleep p (.i 131071)),
    (fieldWord 0x00A 0 63 1 0 0 0 0 0 0 0x800FF 0, .trap p 255),
    (fieldWord 0x00B 0 63 1 0 0 0 0 0 0 0 0, .rtt p),
    (fieldWord 0x00C 0 63 1 0 0 0 0 0 0 0 0, .yielddSusp p),
    (fieldWord 0x00C 0 63 1 0 0 0 0 1 0 0 0, .yielddRet p),
    (fieldWord 0x00D 0 63 1 0 0 0 0 0 0 0x80007 0, .bkpt p 7)] : List (InstrWord × Instr)).all reads = true := by decide +kernel

/-- Words of class 1 written out from R230, one for each of its instructions. -/
theorem test_words_scalar : ([
    (fieldWord 0x040 0 63 1 0 0 0 0 2 0x40004 0x40006 0xBFFFF, .sadd p .d64 4 6 (.i 0x3FFFF)),
    (fieldWord 0x041 0 63 1 0 0 0 0 0 0x40001 0x40002 0x40003, .ssub p .s32 1 2 (.s 3)),
    (fieldWord 0x042 0 63 1 0 0 0 0 0 0x40005 0x40006 0x40007, .smul p 5 6 (.s 7)),
    (fieldWord 0x043 0 63 1 0 0 0 0 1 0x40005 0x40006 0x40007, .smulh p .u32 5 6 (.s 7)),
    (fieldWord 0x044 0 63 1 0 0 0 0 0 0x40005 0x40006 0x80003, .sdiv p .s32 5 6 (.i 3)),
    (fieldWord 0x045 0 63 1 0 0 0 0 1 0x40005 0x40006 0x80003, .srem p .u32 5 6 (.i 3)),
    (fieldWord 0x046 0 63 1 0 0 0 0 0 0x40005 0x40006 0x80003, .sand p 5 6 (.i 3)),
    (fieldWord 0x047 0 63 1 0 0 0 0 0 0x40005 0x40006 0x80003, .sor p 5 6 (.i 3)),
    (fieldWord 0x048 0 63 1 0 0 0 0 0 0x40005 0x40006 0x80003, .sxor p 5 6 (.i 3)),
    (fieldWord 0x049 0 63 1 0 0 0 0 2 0x40008 0x40006 0x8003F, .sshl p .d64 8 6 (.i 63)),
    (fieldWord 0x04A 0 63 1 0 0 0 0 0 0x40008 0x40006 0x40001, .sshr p .s32 8 6 (.s 1)),
    (fieldWord 0x04B 0 63 1 0 0 0 0 0 0x40008 0x40006 0x40001, .ssar p .s32 8 6 (.s 1)),
    (fieldWord 0x04C 0 63 1 0 0 0 0 1 0x40008 0x40006 0x40001, .smin p .u32 8 6 (.s 1)),
    (fieldWord 0x04D 0 63 1 0 0 0 0 0 0x40008 0x40006 0x40001, .smax p .s32 8 6 (.s 1)),
    (fieldWord 0x04E 0 63 1 0 0 0 0 9 0x40008 0x40006 0x40001, .scmp p ⟨.lt, true⟩ 8 6 (.s 1)),
    (fieldWord 0x04F 0 63 1 0 0 0 0 2 0x40008 0x40006 0, .smov p .d64 8 6),
    (fieldWord 0x050 0 63 1 0 0 0 0 0 0x40008 0x8DEAD 0x8BEEF, .smovi p 8 0xDEADBEEF),
    (fieldWord 0x051 0 63 1 0 0 0 0 3 0x40008 0x40006 0x40001, .slea p 3 8 6 (.s 1)),
    (fieldWord 0x052 0 63 1 0 0 0 0 0 0x40008 0x80001 0x40001, .ssel p 8 (.i 1) (.s 1))] : List (InstrWord × Instr)).all reads = true := by decide +kernel

/-- Words of class 2 written out from R231, one for each of its instructions. -/
theorem test_words_predicates : ([
    (fieldWord 0x080 0 63 0 0 0 0 0 0 0xC0003 0x40009 0, .pset p 3 (.s 9)),
    (fieldWord 0x081 0 63 0 0 0 0 0 6 0xC0003 0xC002F 0xC0001, .plop p 6 3 47 1),
    (fieldWord 0x082 0 63 1 0 0 0 0 0 0x40005 0xC002F 0, .pcnt p 5 47),
    (fieldWord 0x083 0 63 1 0 0 0 0 0 0x40005 0xC002F 0, .pfirst p 5 47),
    (fieldWord 0x084 0 63 0 0 0 0 0 2 0xC0005 0xC002F 0, .pvote p .eq 5 47),
    (fieldWord 0x085 0 63 1 0 0 0 0 0 0x40006 0xCC00C 0, .rdsp p (.s 6) 12),
    (fieldWord 0x086 0 63 1 0 0 0 0 0 0xCC009 0x80004 0, .wrsp p 9 (.i 4)),
    (fieldWord 0x087 0 63 1 0 0 0 0 0 0 0x80031 0, .setfmt p 0x31),
    (fieldWord 0x088 0 63 1 0 0 0 0 0 0 0x8000F 0, .setrm p 15),
    (fieldWord 0x089 0 63 0 0 0 0 0 0 6 0 0, .rdff p (.v 6)),
    (fieldWord 0x08A 0 63 0 0 0 0 0 0 0 0x8001F 0, .clrff p 31)] : List (InstrWord × Instr)).all reads = true := by decide +kernel

/-- Words of class 3 written out from R232, one for each of its instructions. -/
theorem test_words_vector_integer : ([
    (fieldWord 0x0C0 0 63 0 1 2 0 0 5 0x82 0x40001 0x80005, .iadd p ⟨1, 2⟩ .satu 130 (.s 1) (.i 5)),
    (fieldWord 0x0C1 0 63 0 0 0 0 0 4 0x82 1 5, .isub p ⟨0, 0⟩ .sats 130 (.v 1) (.v 5)),
    (fieldWord 0x0C2 0 63 0 1 2 0 0 0 0x82 2 0x40005, .imul p ⟨1, 2⟩ 130 (.v 2) (.s 5)),
    (fieldWord 0x0C3 0 63 0 1 2 0 0 1 0x82 2 0x40005, .imulh p ⟨1, 2⟩ .u32 130 (.v 2) (.s 5)),
    (fieldWord 0x0C4 0 63 0 1 2 0 0 0 0x82 2 0x40005, .imad p ⟨1, 2⟩ 130 (.v 2) (.s 5)),
    (fieldWord 0x0C5 0 63 0 1 2 0 0 0 0x82 2 0x40005, .idiv p ⟨1, 2⟩ .s32 130 (.v 2) (.s 5)),
    (fieldWord 0x0C6 0 63 0 1 2 0 0 1 0x82 2 0x40005, .irem p ⟨1, 2⟩ .u32 130 (.v 2) (.s 5)),
    (fieldWord 0x0C7 0 63 0 1 2 0 0 0 0x82 2 0x40005, .imin p ⟨1, 2⟩ .s32 130 (.v 2) (.s 5)),
    (fieldWord 0x0C8 0 63 0 1 2 0 0 1 0x82 2 0x40005, .imax p ⟨1, 2⟩ .u32 130 (.v 2) (.s 5)),
    (fieldWord 0x0C9 0 63 0 1 2 0 0 0 0x82 2 0, .iabs p ⟨1, 2⟩ 130 (.v 2)),
    (fieldWord 0x0CA 0 63 0 1 2 0 0 0 0x82 2 0, .ineg p ⟨1, 2⟩ 130 (.v 2)),
    (fieldWord 0x0CB 0 63 0 0 0 0 0 20 0xC0004 2 0x80001, .icmp p ⟨.ge, false⟩ 4 (.v 2) (.i 1)),
    (fieldWord 0x0CC 0 63 0 1 2 0 1 11 0x82 0xA0001 0x40007, .isel p ⟨1, 2⟩ 43 130 (.i 0x20001) (.s 7)),
    (fieldWord 0x0CD 0 63 0 1 2 0 0 0 0x82 0x80001 0, .imov p ⟨1, 2⟩ 130 (.i 1)),
    (fieldWord 0x0CE 0 63 0 1 2 0 0 0 0x82 0x83F80 0x80001, .imovi p ⟨1, 2⟩ 130 0x3F800001)] : List (InstrWord × Instr)).all reads = true := by decide +kernel

/-- Words of class 4 written out from R233, one for each of its instructions. -/
theorem test_words_vector_bits : ([
    (fieldWord 0x100 0 63 0 1 2 0 0 0 0x82 2 0x80128, .iand p ⟨1, 2⟩ 130 (.v 2) (.i 0x128)),
    (fieldWord 0x101 0 63 0 1 2 0 0 0 0x82 2 0x80128, .ior p ⟨1, 2⟩ 130 (.v 2) (.i 0x128)),
    (fieldWord 0x102 0 63 0 1 2 0 0 0 0x82 2 0x80128, .ixor p ⟨1, 2⟩ 130 (.v 2) (.i 0x128)),
    (fieldWord 0x103 0 63 0 1 2 0 0 0 0x82 2 0, .inot p ⟨1, 2⟩ 130 (.v 2)),
    (fieldWord 0x104 0 63 0 1 2 0 0 0 0x82 2 0x80128, .ishl p ⟨1, 2⟩ 130 (.v 2) (.i 0x128)),
    (fieldWord 0x105 0 63 0 1 2 0 0 0 0x82 2 0x80128, .ishr p ⟨1, 2⟩ 130 (.v 2) (.i 0x128)),
    (fieldWord 0x106 0 63 0 1 2 0 0 0 0x82 2 0x80128, .isar p ⟨1, 2⟩ 130 (.v 2) (.i 0x128)),
    (fieldWord 0x107 0 63 0 1 2 0 0 0 0x82 2 0x80128, .irot p ⟨1, 2⟩ 130 (.v 2) (.i 0x128)),
    (fieldWord 0x108 0 63 0 1 2 0 0 1 0x82 2 0x80128, .bfx p ⟨1, 2⟩ .u32 130 (.v 2) (.i 0x128)),
    (fieldWord 0x109 0 63 0 1 2 0 0 0 0x82 2 0x80128, .bfi p ⟨1, 2⟩ 130 (.v 2) (.i 0x128)),
    (fieldWord 0x10A 0 63 0 1 2 0 0 0 0x82 2 0, .popc p ⟨1, 2⟩ 130 (.v 2)),
    (fieldWord 0x10B 0 63 0 1 2 0 0 0 0x82 2 0, .clz p ⟨1, 2⟩ 130 (.v 2))] : List (InstrWord × Instr)).all reads = true := by decide +kernel

/-- Words of class 5 written out from R234, one for each of its instructions. -/
theorem test_words_float : ([
    (fieldWord 0x140 0 63 0 1 2 0 5 0 0x82 2 0x40007, .fadd p ⟨1, 2⟩ 5 130 (.v 2) (.s 7)),
    (fieldWord 0x141 0 63 0 1 2 0 5 0 0x82 2 0x40007, .fsub p ⟨1, 2⟩ 5 130 (.v 2) (.s 7)),
    (fieldWord 0x142 0 63 0 1 2 0 5 0 0x82 2 0x40007, .fmul p ⟨1, 2⟩ 5 130 (.v 2) (.s 7)),
    (fieldWord 0x143 0 63 0 1 2 0 5 0 0x82 2 0x40007, .ffma p ⟨1, 2⟩ 5 130 (.v 2) (.s 7)),
    (fieldWord 0x144 0 63 0 1 2 0 0 0 0x82 2 0x40007, .fmin p ⟨1, 2⟩ 130 (.v 2) (.s 7)),
    (fieldWord 0x145 0 63 0 1 2 0 0 0 0x82 2 0x40007, .fmax p ⟨1, 2⟩ 130 (.v 2) (.s 7)),
    (fieldWord 0x146 0 63 0 1 2 0 0 0 0x82 2 0, .fabs p ⟨1, 2⟩ 130 (.v 2)),
    (fieldWord 0x147 0 63 0 1 2 0 0 0 0x82 2 0, .fneg p ⟨1, 2⟩ 130 (.v 2)),
    (fieldWord 0x148 0 63 0 0 0 0 6 0 0xC0004 2 0x40007, .fcmp p .un 4 (.v 2) (.s 7)),
    (fieldWord 0x149 0 63 0 1 2 0 0 0 0x82 2 0, .fclass p ⟨1, 2⟩ 130 (.v 2)),
    (fieldWord 0x14A 0 63 0 1 2 0 5 0 0x82 2 0x40007, .fdiv p ⟨1, 2⟩ 5 130 (.v 2) (.s 7)),
    (fieldWord 0x14B 0 63 0 1 2 0 5 0 0x82 2 0, .fsqrt p ⟨1, 2⟩ 5 130 (.v 2)),
    (fieldWord 0x14C 0 63 0 1 2 0 5 0 0x82 2 0, .frcp p ⟨1, 2⟩ 5 130 (.v 2)),
    (fieldWord 0x14D 0 63 0 1 2 0 5 0 0x82 2 0, .frsq p ⟨1, 2⟩ 5 130 (.v 2)),
    (fieldWord 0x14E 0 63 0 1 2 0 5 0 0x82 2 0, .fexp2 p ⟨1, 2⟩ 5 130 (.v 2)),
    (fieldWord 0x14F 0 63 0 1 2 0 5 0 0x82 2 0, .flog2 p ⟨1, 2⟩ 5 130 (.v 2)),
    (fieldWord 0x150 0 63 0 1 2 0 5 0 0x82 2 0, .fsinpi p ⟨1, 2⟩ 5 130 (.v 2)),
    (fieldWord 0x151 0 63 0 1 2 0 5 0 0x82 2 0, .fcospi p ⟨1, 2⟩ 5 130 (.v 2)),
    (fieldWord 0x152 0 63 0 1 2 0 5 0 0x82 2 0, .fround p ⟨1, 2⟩ 5 130 (.v 2))] : List (InstrWord × Instr)).all reads = true := by decide +kernel

/-- Words of class 6 written out from R235, one for each of its instructions. -/
theorem test_words_packed_and_conversion : ([
    (fieldWord 0x180 0 63 0 1 2 0 5 1 0x82 2 0x40007, .faddPacked p ⟨1, 2⟩ false 5 130 (.v 2) (.s 7)),
    (fieldWord 0x181 0 63 0 1 2 0 5 2 0x82 2 0x40007, .fsubPacked p ⟨1, 2⟩ true 5 130 (.v 2) (.s 7)),
    (fieldWord 0x182 0 63 0 1 2 0 5 1 0x82 2 0x40007, .fmulPacked p ⟨1, 2⟩ false 5 130 (.v 2) (.s 7)),
    (fieldWord 0x183 0 63 0 1 2 0 5 2 0x82 2 0x40007, .ffmaPacked p ⟨1, 2⟩ true 5 130 (.v 2) (.s 7)),
    (fieldWord 0x184 0 63 0 1 2 0 0 1 0x82 2 0x40007, .fminPacked p ⟨1, 2⟩ false 130 (.v 2) (.s 7)),
    (fieldWord 0x185 0 63 0 1 2 0 0 2 0x82 2 0x40007, .fmaxPacked p ⟨1, 2⟩ true 130 (.v 2) (.s 7)),
    (fieldWord 0x186 0 63 0 1 2 0 0 1 0x82 2 0, .fabsPacked p ⟨1, 2⟩ false 130 (.v 2)),
    (fieldWord 0x187 0 63 0 1 2 0 0 2 0x82 2 0, .fnegPacked p ⟨1, 2⟩ true 130 (.v 2)),
    (fieldWord 0x188 0 63 0 0 0 0 6 1 0xC0004 2 0x40007, .fcmpPacked p false .un 4 (.v 2) (.s 7)),
    (fieldWord 0x189 0 63 0 1 2 0 0 2 0x82 2 0, .fclassPacked p ⟨1, 2⟩ true 130 (.v 2)),
    (fieldWord 0x18A 0 63 0 1 2 0 5 1 0x82 2 0x40007, .fdivPacked p ⟨1, 2⟩ false 5 130 (.v 2) (.s 7)),
    (fieldWord 0x18B 0 63 0 1 2 0 5 2 0x82 2 0, .fsqrtPacked p ⟨1, 2⟩ true 5 130 (.v 2)),
    (fieldWord 0x18C 0 63 0 1 2 0 5 1 0x82 2 0, .frcpPacked p ⟨1, 2⟩ false 5 130 (.v 2)),
    (fieldWord 0x18D 0 63 0 1 2 0 5 2 0x82 2 0, .frsqPacked p ⟨1, 2⟩ true 5 130 (.v 2)),
    (fieldWord 0x18E 0 63 0 1 2 0 5 1 0x82 2 0, .fexp2Packed p ⟨1, 2⟩ false 5 130 (.v 2)),
    (fieldWord 0x18F 0 63 0 1 2 0 5 2 0x82 2 0, .flog2Packed p ⟨1, 2⟩ true 5 130 (.v 2)),
    (fieldWord 0x190 0 63 0 1 2 0 5 1 0x82 2 0, .fsinpiPacked p ⟨1, 2⟩ false 5 130 (.v 2)),
    (fieldWord 0x191 0 63 0 1 2 0 5 2 0x82 2 0, .fcospiPacked p ⟨1, 2⟩ true 5 130 (.v 2)),
    (fieldWord 0x192 0 63 0 1 2 0 5 1 0x82 2 0, .froundPacked p ⟨1, 2⟩ false 5 130 (.v 2)),
    (fieldWord 0x1A0 0 63 0 0 0 0 7 14 0x10 0x20 0x80024, .cvt p ⟨0, 0⟩ .f8 7 16 (.v 32) .bf16 true),
    (fieldWord 0x1A1 0 63 0 0 7 0 3 6 0x10 0x40 0x1F, .qblk p .e4m3 3 16 64 31),
    (fieldWord 0x1A2 0 63 0 0 7 0 0 5 0x10 0x40 0x4001F, .dqblk p .tf8 16 64 (.s 31))] : List (InstrWord × Instr)).all reads = true := by decide +kernel

/-- Words of class 7 written out from R236, one for each of its instructions. -/
theorem test_words_lanes : ([
    (fieldWord 0x1C0 0 63 0 0 0 0 0 3 3 4 0x80005, .shfl p .xor 3 4 (.i 5)),
    (fieldWord 0x1C1 0 63 0 0 0 0 0 0 3 4 0x8007F, .bcast p 3 4 (.i 127)),
    (fieldWord 0x1C2 0 63 1 0 0 0 2 12 0x40003 4 0, .vred p .xsum32 2 (.s 3) 4),
    (fieldWord 0x1C3 0 63 0 0 0 0 2 9 0x10 0x20 0x80001, .vscan p .fadd32 2 16 32 true),
    (fieldWord 0x1C4 0 63 0 0 0 0 0 0 3 4 0xC0005, .vcompact p 3 4 5),
    (fieldWord 0x1D0 0 63 1 1 2 0 0 1 0x40003 0x82 0, .cka p ⟨1, 2⟩ true (.s 3) 130),
    (fieldWord 0x1D1 0 63 0 0 0 0 0 0 3 0x40004 0x80009, .chk p false (.v 3) (.s 4) (.i 9))] : List (InstrWord × Instr)).all reads = true := by decide +kernel

/-- Words of class 8 written out from R237, one for each of its instructions. -/
theorem test_words_global_memory : ([
    (fieldWord 0x200 0 63 0 0 0 0 0 4 0x82 0xE040A 0x80040, .ld p .b32 .none (.v 130) ⟨0, false, 0, true, 0, 10, true, 0, 1⟩),
    (fieldWord 0x201 0 63 1 0 0 3 6 5 0x40006 0xF078A 0x3D, .st ⟨false, 63, 3⟩ .b64 .sys (.s 6) ⟨2, false, 0, true, 509, 10, false, 0, 0⟩),
    (fieldWord 0x202 0 63 0 1 1 2 5 4 0x10 0xE8794 0x8043E, .ldx ⟨false, 63, 2⟩ ⟨1, 1⟩ .b32 .dev 16 ⟨1, false, 0, true, 510, 20, true, 0, 16⟩),
    (fieldWord 0x203 0 63 0 0 3 0 0 4 0x10 0xE0414 0x81E00, .stx p ⟨0, 3⟩ .b32 .none 16 ⟨0, false, 0, true, 0, 20, true, 0, 120⟩),
    (fieldWord 0x204 0 63 0 0 0 0 0 4 0 0xE0414 0xC01C0, .prf p ⟨0, false, 0, true, 0, 20, true, 2, 7⟩),
    (fieldWord 0x205 0 63 0 0 0 0 0 4 0 0xE0414 0xC01C0, .invl p ⟨0, false, 0, true, 0, 20, true, 2, 7⟩)] : List (InstrWord × Instr)).all reads = true := by decide +kernel

/-- Words of class 9 written out from R238, one for each of its instructions. -/
theorem test_words_scratchpad : ([
    (fieldWord 0x240 0 63 1 0 0 0 0 3 0x40005 0xE0489 0, .lds p .s16 .none (.s 5) ⟨0, false, 0, true, 64, 9, false, 0, 0⟩),
    (fieldWord 0x241 0 63 0 0 0 0 4 0 5 0xF7000 0xE00C0, .sts p .b8 .gang (.v 5) ⟨2, true, 6, false, 0, 0, true, 3, 3⟩),
    (fieldWord 0x242 0 63 1 0 0 0 0 0 0x80007 0x40004 0x40008, .winmap p 7 4 8),
    (fieldWord 0x243 0 63 1 0 0 0 0 0 0x80005 0 0, .winfl p 5),
    (fieldWord 0x244 0 63 1 0 0 0 0 0 0x80005 0 0, .windrop p 5)] : List (InstrWord × Instr)).all reads = true := by decide +kernel

/-- Words of class 10 written out from R239, one for each of its instructions. -/
theorem test_words_atomics : ([
    (fieldWord 0x280 0 63 0 0 0 0 5 15 0xA 0xF8404 0xC0140, .atom p .cas32 .dev (.v 10) ⟨3, false, 0, true, 0, 4, true, 2, 5⟩),
    (fieldWord 0x281 0 63 0 0 0 0 6 1 0xA 0xF0404 0xE0140, .red p .iadd64 .sys (.v 10) ⟨2, false, 0, true, 0, 4, true, 3, 5⟩),
    (fieldWord 0x282 0 63 0 0 0 1 4 16 8 0xFE800 0xFFFC0, .atoms ⟨false, 63, 1⟩ .cas64 .gang (.v 8) ⟨3, true, 5, false, 0, 0, true, 3, 2047⟩),
    (fieldWord 0x283 0 63 0 0 0 0 7 9 0xA 0xE0404 0xC0140, .upd p .fadd32 7 (.v 10) ⟨0, false, 0, true, 0, 4, true, 2, 5⟩)] : List (InstrWord × Instr)).all reads = true := by decide +kernel

/-- Words of class 11 written out from R240, one for each of its instructions. -/
theorem test_words_synchronisation : ([
    (fieldWord 0x2C0 0 63 0 0 0 0 4 3 0 0 0, .fence p false .acqrel .gang),
    (fieldWord 0x2C1 0 63 1 0 0 0 0 0 0 0x40004 0x40007, .seal p 4 7),
    (fieldWord 0x2C2 0 63 1 0 0 0 0 0 0 0x40004 0, .unseal p 4),
    (fieldWord 0x2C3 0 63 1 0 0 0 0 0 0 0xD8002 0x81000, .waitcnt p 2 4096),
    (fieldWord 0x2C4 0 63 0 0 0 0 5 21 3 0xE0404 3, .waitcmp p ⟨.ge, true⟩ .dev (.v 3) ⟨0, false, 0, true, 3, 4, false, 0, 0⟩),
    (fieldWord 0x2C5 0 63 0 0 0 0 6 0 0 0xE0404 3, .waitw p .sys ⟨0, false, 0, true, 3, 4, false, 0, 0⟩),
    (fieldWord 0x2C6 0 63 1 0 0 0 0 0 0 0xD0027 0, .pjoin p 39),
    (fieldWord 0x2C7 0 63 1 0 0 0 0 0 0 0xD0027 0, .pleave p 39),
    (fieldWord 0x2C9 0 63 1 0 0 0 0 0 0 0xD0027 0, .parrive p 39),
    (fieldWord 0x2CA 0 63 1 0 0 0 0 0 0 0xD0027 0, .pwait p 39),
    (fieldWord 0x2CB 0 63 1 0 0 0 0 0 0 0xD0027 0, .psync p 39),
    (fieldWord 0x2C8 0 63 1 0 0 0 0 0 0 0xD003F 0x80004, .pexpect p 63 (.i 4)),
    (fieldWord 0x2CC 0 63 1 0 0 0 0 0 0x40009 0xD400F 0, .racq p 9 15),
    (fieldWord 0x2CD 0 63 1 0 0 0 0 0 0 0xD400F 0x80003, .rpub p 15 (.i 3)),
    (fieldWord 0x2CE 0 63 1 0 0 0 0 0 0x40009 0xD400F 0, .rtake p 9 15),
    (fieldWord 0x2CF 0 63 1 0 0 0 0 0 0 0xD400F 0x40003, .rfree p 15 (.s 3)),
    (fieldWord 0x2D0 0 63 1 0 0 0 0 0 0 0x803FF 0x40003, .tsig p (.i 1023) (.s 3))] : List (InstrWord × Instr)).all reads = true := by decide +kernel

/-- Words of class 12 written out from R241, one for each of its instructions. -/
theorem test_words_copies : ([
    (fieldWord 0x300 0 63 1 0 0 0 0 0 0 0x40078 0, .cpy p 120),
    (fieldWord 0x301 0 63 1 0 0 0 0 0 0 0x40078 0, .cpyg p 120),
    (fieldWord 0x302 0 63 1 0 0 0 0 0 0 0x40078 0, .cpys p 120),
    (fieldWord 0x303 0 63 1 0 0 0 0 0 0 0x40078 0, .cpyr p 120),
    (fieldWord 0x304 0 63 1 0 0 0 3 0 0 0x40078 0, .cpyb p 3 120),
    (fieldWord 0x305 0 63 1 0 0 0 0 0 0 0x40078 0, .cpyf p 120),
    (fieldWord 0x306 0 63 1 0 0 0 0 0 0 0x40078 0, .cpyq p 120)] : List (InstrWord × Instr)).all reads = true := by decide +kernel

/-- Words of class 13 written out from R242, one for each of its instructions. -/
theorem test_words_matrix : ([
    (fieldWord 0x340 0 63 1 0 0 0 0 0 0xDC03F 0x40006 0, .scbind p 63 6),
    (fieldWord 0x341 0 63 1 0 0 0 0 0 0xDC03F 0 0, .scdrop p 63),
    (fieldWord 0x342 0 63 1 0 0 0 0 8 0xC8005 0x40007 0x40009, .kset p .i8 5 7 9),
    (fieldWord 0x343 0 63 1 0 0 0 0 0 0xC8005 0 0, .krel p 5),
    (fieldWord 0x344 0 63 1 0 0 0 0 0 0xC403F 0 0, .mzero p 63),
    (fieldWord 0x345 0 63 0 3 7 0 6 1 0xC4521 0x40 0xCBF86, .mma p ⟨3, 7⟩ true 6 33 20 64 6 127),
    (fieldWord 0x346 0 63 0 0 7 0 0 0 0xC4521 0x40 0xC8F86, .mmasp p ⟨0, 7⟩ false 0 33 20 64 6 31),
    (fieldWord 0x347 0 63 1 0 0 0 1 19 0xC4E61 0xE0403 0x3F, .mdrain p true .f16 1 33 true true 9 ⟨0, false, 0, true, 63, 3, false, 0, 0⟩),
    (fieldWord 0x348 0 63 1 0 0 0 0 12 0xC4021 0xE0404 1, .mload p .i32 33 false ⟨0, false, 0, true, 1, 4, false, 0, 0⟩)] : List (InstrWord × Instr)).all reads = true := by decide +kernel

/-- Words of class 14 written out from R243, one for each of its instructions. -/
theorem test_words_walker : ([
    (fieldWord 0x380 0 63 1 0 0 0 0 0 0 0x40078 0, .itset p 120),
    (fieldWord 0x381 0 63 0 0 0 0 0 0 5 0 0, .itnext p 5),
    (fieldWord 0x382 0 63 0 0 0 0 0 0 0 5 0, .itdone p 5),
    (fieldWord 0x383 0 63 1 0 0 0 0 0 0 0 0, .itend p),
    (fieldWord 0x384 0 63 0 0 0 0 0 4 0xC0028 0xE0404 0xA0181, .resq p 40 ⟨0, false, 0, true, 1, 4, true, 1, 6⟩),
    (fieldWord 0x388 0 63 0 0 0 0 0 0 0 0x38 0x80240, .spawn p 56 (.i 0x240)),
    (fieldWord 0x389 0 63 1 0 0 0 0 0 0 0 0, .spq p)] : List (InstrWord × Instr)).all reads = true := by decide +kernel

/-- Words of class 15 written out from R244, one for each of its instructions. -/
theorem test_words_system : ([
    (fieldWord 0x3C0 0 63 1 0 0 0 0 0 0x800FE 0x4007E 0x4007C, .sealsave p 254 126 124),
    (fieldWord 0x3C1 0 63 1 0 0 0 0 0 0x80001 0x40002 0x40004, .sealload p 1 2 4),
    (fieldWord 0x3C2 0 63 1 0 0 0 0 0 0 0x40002 0x40004, .ptew p 2 4),
    (fieldWord 0x3C3 0 63 1 0 0 0 0 0 0x40006 0 0, .poolget p 6),
    (fieldWord 0x3C4 0 63 1 0 0 0 0 0 0x4007C 0 0, .fltinfo p 124)] : List (InstrWord × Instr)).all reads = true := by decide +kernel

/-! ### Well-formedness -/

/-- A memory operand with a base pair. -/
abbrev m4 : MemOp := ⟨0, false, 0, true, 0, 4, false, 0, 0⟩

/-- Each check refuses a term at the first value past its range and accepts the last value in it. -/
theorem test_wf_guards_and_ranges : ([(.exit ⟨false, 48, 0⟩, .exit ⟨false, 47, 0⟩), (.exit ⟨false, 62, 0⟩, .exit ⟨true, 63, 3⟩),
    (.sleep p (.i 0), .sleep p (.i 1)), (.sleep p (.i 131072), .sleep p (.i 131071)), (.bcast p 0 0 (.i 128), .bcast p 0 0 (.i 127)),
    (.pset p 48 (.i 1), .pset p 47 (.i 1)), (.plop p 0 0 48 0, .plop p 0 0 47 0), (.pcnt p 0 48, .pcnt p 0 47), (.resq p 48 m4, .resq p 47 m4),
    (.rdsp p (.v 0) 15, .rdsp p (.v 0) 14), (.rdsp p (.v 0) 20, .rdsp p (.v 0) 19), (.wrsp p 12 (.i 0), .wrsp p 11 (.i 0)),
    (.wrsp p 7 (.i 0), .wrsp p 8 (.i 0)), (.waitcnt p 0 4097, .waitcnt p 0 4096), (.pexpect p 0 (.i 65536), .pexpect p 0 (.i 65535)),
    (.pexpect p 0 (.i 0), .pexpect p 0 (.i 1)), (.pjoin p 40, .pjoin p 39), (.pwait p 62, .pwait p 63), (.rpub p 0 (.i 16), .rpub p 0 (.i 15)),
    (.spawn p 0 (.i 131072), .spawn p 0 (.i 131071)), (.sealsave p 255 2 4, .sealsave p 254 2 4)] : List (Instr × Instr)).all
      (fun c => !c.1.wf && c.2.wf) = true := by decide +kernel

theorem test_wf_registers : ([(.sadd p .d64 3 4 (.s 6), .sadd p .d64 4 4 (.s 6)), (.sadd p .d64 4 4 (.s 5), .sadd p .s32 4 4 (.s 5)),
    (.slea p 0 3 4 (.s 5), .slea p 0 2 4 (.s 5)), (.rdsp p (.s 3) 12, .rdsp p (.s 2) 12), (.rdsp p (.v 63) 12, .rdsp p (.v 62) 12),
    (.imovi p ⟨0, 1⟩ 63 0, .imovi p ⟨0, 1⟩ 62 0), (.imovi p ⟨1, 0⟩ 1984 0, .imovi p ⟨1, 0⟩ 1983 0), (.imov p ⟨0, 7⟩ 0 (.v 57), .imov p ⟨0, 7⟩ 0 (.v 56)),
    (.fcmpPacked p false .eq 3 (.v 0) (.v 0), .fcmpPacked p false .eq 2 (.v 0) (.v 0)), (.qblk p .tf8 0 57 0 0, .qblk p .tf8 0 56 0 0),
    (.qblk p .tf8 0 0 33 0, .qblk p .tf8 0 0 32 0), (.dqblk p .tf8 33 0 (.s 0), .dqblk p .tf8 32 0 (.s 0)),
    (.spawn p 57 (.i 1), .spawn p 56 (.i 1)), (.cpy p 12, .cpy p 16), (.sealsave p 0 2 6, .sealsave p 0 2 8), (.ptew p 3 4, .ptew p 2 4),
    (.seal p 5 1, .seal p 4 1), (.fltinfo p 2, .fltinfo p 4), (.ld p .b64 .none (.s 3) m4, .ld p .b64 .none (.s 2) m4),
    (.ld p .b64 .none (.v 63) m4, .ld p .b64 .none (.v 62) m4), (.atom p .cas64 .none (.v 61) m4, .atom p .cas64 .none (.v 60) m4),
    (.atom p .cas64 .none (.s 6) m4, .atom p .cas64 .none (.s 4) m4)] : List (Instr × Instr)).all
      (fun c => !c.1.wf && c.2.wf) = true := by decide +kernel

theorem test_wf_modifiers : ([(.smulh p .d64 0 0 (.s 0), .smulh p .u32 0 0 (.s 0)), (.sadd p .u32 0 0 (.s 0), .sadd p .s32 0 0 (.s 0)),
    (.iadd p ⟨0, 0⟩ .u32 0 (.v 0) (.v 0), .iadd p ⟨0, 0⟩ .sats 0 (.v 0) (.v 0)), (.scmp p ⟨.eq, true⟩ 0 0 (.s 0), .scmp p ⟨.lt, true⟩ 0 0 (.s 0)),
    (.vred p .iadd64 0 (.v 0) 0, .vred p .imin 0 (.v 0) 0), (.vred p .imin 1 (.v 0) 0, .vred p .fadd32 1 (.v 0) 0), (.vscan p .xsum32 0 0 0 false, .vscan p .xor 0 0 0 false),
    (.qblk p .i8 0 0 0 0, .qblk p .f8 0 0 0 0), (.cvt p ⟨0, 0⟩ .f16x2 0 0 (.v 0) .f32 false, .cvt p ⟨0, 0⟩ .f16x2 0 0 (.v 0) .bf16x2 false),
    (.kset p .u8 0 0 0, .kset p .i8 0 0 0), (.mma p ⟨0, 0⟩ false 7 0 0 0 0 0, .mma p ⟨0, 0⟩ false 6 0 0 0 0 0),
    (.atom p .xsum32 .none (.v 0) m4, .atom p .exch32 .none (.v 0) m4), (.red p .exch32 .none (.v 0) m4, .red p .fmax32 .none (.v 0) m4),
    (.upd p .cas32 0 (.v 0) m4, .upd p .xsum32 0 (.v 0) m4), (.upd p .imin 1 (.v 0) m4, .upd p .fadd32 1 (.v 0) m4),
    (.st p .s8 .none (.v 0) m4, .st p .b8 .none (.v 0) m4), (.ldx p ⟨0, 0⟩ .b16 .none 0 { m4 with indexed := true }, .ldx p ⟨0, 0⟩ .b64 .none 0 { m4 with indexed := true }),
    (.ld p .b32 .none (.v 0) { m4 with ord := 1 }, .ld p .b32 .dev (.v 0) { m4 with ord := 1 }), (.ld p .b32 .dev (.v 0) { m4 with ord := 2 }, .st p .b32 .dev (.v 0) { m4 with ord := 2 }),
    (.ld p .b32 .dev (.v 0) m4, .ld p .b32 .none (.v 0) m4), (.lds p .b32 .dev (.v 0) { m4 with ord := 1 }, .lds p .b32 .gang (.v 0) { m4 with ord := 1 }),
    (.fence p false .acq .none, .fence p false .acq .sys), (.waitw p .none m4, .waitw p .thread m4), (.prf p { m4 with ord := 1 }, .prf p m4)] : List (Instr × Instr)).all
      (fun c => !c.1.wf && c.2.wf) = true := by decide +kernel

theorem test_wf_memory_operands : ([(.ld p .b32 .none (.v 0) { m4 with base := 5 }, .ld p .b32 .none (.v 0) m4),
    (.ld p .b32 .none (.v 0) { m4 with based := false, base := 0 }, .lds p .b32 .none (.v 0) { m4 with based := false, base := 0 }),
    (.ld p .b32 .none (.v 0) { m4 with remote := true }, .lds p .b32 .none (.v 0) { m4 with remote := true, pos := 7 }),
    (.lds p .b32 .none (.v 0) { m4 with pos := 1 }, .lds p .b32 .none (.v 0) m4), (.lds p .b32 .none (.v 0) { m4 with based := false }, .lds p .b32 .none (.v 0) m4),
    (.lds p .b32 .none (.v 0) { m4 with scale := 1 }, .lds p .b32 .none (.v 0) { m4 with indexed := true, scale := 1 }),
    (.ldx p ⟨0, 0⟩ .b32 .none 0 { m4 with indexed := true, index := 4 }, .ldx p ⟨0, 0⟩ .b32 .none 0 { m4 with indexed := true, index := 8 }),
    (.ldx p ⟨0, 0⟩ .b32 .none 0 { m4 with indexed := true, index := 128 }, .ldx p ⟨0, 0⟩ .b32 .none 0 { m4 with indexed := true, index := 120 }),
    (.ldx p ⟨0, 0⟩ .b32 .none 0 { m4 with indexed := true, scale := 1 }, .ldx p ⟨0, 0⟩ .b32 .none 0 { m4 with indexed := true }),
    (.mload p .f32 0 false { m4 with base := 5 }, .mload p .f32 0 true { m4 with base := 5 })] : List (Instr × Instr)).all
      (fun c => !c.1.wf && c.2.wf) = true := by decide +kernel

/-- Words that R245 calls illegal: an unassigned opcode, a guard of 48, bits 69:68, a uniform marker and an extent against R226, a
reserved operand kind and a nonzero unused operand. -/
theorem test_illegal_words : ([fieldWord 0x193 0 63 0 0 0 0 0 0 0 0 0, fieldWord 0x008 0 48 0 0 0 0 0 0 0 0 0,
    fieldWord 0x008 0 63 0 0 0 0 0 0 0 0 0 ||| (1#96 <<< 68), fieldWord 0x008 0 63 1 0 0 0 0 0 0 0 0, fieldWord 0x001 0 63 0 0 0 0 0 0 0 0x80000 0x80000,
    fieldWord 0x008 0 63 0 0 1 0 0 0 0 0 0, fieldWord 0x143 0 63 0 0 0 0 0 0 2 3 0x80001, fieldWord 0x008 0 63 0 0 0 0 0 0 0 0 1,
    fieldWord 0x200 0 63 0 0 0 0 7 4 2 0xE0404 0] : List InstrWord).all (fun w => match decodeWord w with
      | .ok _ => false
      | .error _ => true) = true := by decide +kernel

/-! ### Hypotheses that can be met: scalar, predicate and vector forms -/

theorem witness_ScalarArithmetic : ([.sadd p .s32 1 2 (.i 5), .sadd p .d64 2 4 (.i 5), .ssub p .s32 1 2 (.s 3), .ssub p .d64 2 4 (.s 6), .smul p 1 2 (.s 3),
    .smulh p .u32 1 2 (.s 3), .sand p 1 2 (.s 3), .sor p 1 2 (.s 3), .sxor p 1 2 (.s 3), .smin p .s32 1 2 (.s 3), .smax p .u32 1 2 (.s 3), .sdiv p .s32 1 2 (.i 0),
    .srem p .s32 1 2 (.i 0), .sshl p .s32 1 2 (.i 31), .sshl p .d64 2 4 (.i 63), .sshr p .s32 1 2 (.i 32), .sshr p .d64 2 4 (.i 64), .ssar p .s32 1 2 (.i 31),
    .ssar p .d64 2 4 (.i 63)] : List Instr).all runs = true := by decide +kernel

theorem witness_ScalarMoves : meets (.scmp p ⟨.le, true⟩ 1 2 (.i 0)) (placed (.scmp p ⟨.le, true⟩ 1 2 (.i 0)))
      (fun x => decide ((x.g.sget 2).toNat ≤ (SIval x.g (.i 0)).toNat)) = true ∧
    meets (.scmp p ⟨.lt, false⟩ 1 2 (.i 0)) (placed (.scmp p ⟨.lt, false⟩ 1 2 (.i 0)))
      (fun x => decide (¬ (x.g.sget 2).toInt < (SIval x.g (.i 0)).toInt)) = true ∧
    ([.smov p .s32 1 2, .smov p .d64 2 4, .smovi p 1 0xFFFFFFFF, .slea p 3 2 4 (.s 1), .ssel p 1 (.i 2) (.s 3)] : List Instr).all runs = true := by decide +kernel

theorem witness_PredicateResults : ([.pset p 0 (.i 1), .plop p 6 0 1 2, .pcnt p 1 0, .pfirst p 1 0, .pvote p .any 0 1, .pvote p .all 0 1, .pvote p .eq 0 1,
    .icmp p ⟨.ge, true⟩ 0 (.v 1) (.i 5)] : List Instr).all runs = true := by decide +kernel

theorem witness_SpecialRegisters : ([.rdsp p (.s 1) 0, .rdsp p (.v 1) 19, .rdsp p (.s 2) 12, .rdsp p (.v 62) 13, .wrsp p 8 (.i 0x35), .wrsp p 8 (.i 0x36), .wrsp p 8 (.i 0x45),
    .wrsp p 9 (.i 8), .wrsp p 9 (.i 15), .wrsp p 11 (.i 0), .setfmt p 0x35, .setfmt p 0x06, .setfmt p 0x40, .setrm p 8, .setrm p 1] : List Instr).all runs = true ∧
    ([.rdsp p (.s 1) 10, .rdsp p (.v 1) 10, .wrsp p 10 (.i 31), .rdff p (.v 1), .rdff p (.s 1), .clrff p 31] : List Instr).all
      (fun i => meets i (placed i) fun x => !(begun i (placed i) x).flagsBusy x.g) = true := by decide +kernel

theorem witness_VectorArithmetic : ([.iadd p ⟨0, 1⟩ .s32 0 (.v 2) (.i 1), .iadd p ⟨0, 0⟩ .sats 0 (.v 1) (.v 2), .iadd p ⟨0, 0⟩ .satu 0 (.v 1) (.s 2), .isub p ⟨0, 0⟩ .satu 0 (.v 1) (.v 2),
    .imul p ⟨0, 0⟩ 0 (.v 1) (.v 2), .imulh p ⟨0, 0⟩ .u32 0 (.v 1) (.v 2), .imad p ⟨0, 0⟩ 0 (.v 1) (.v 2), .idiv p ⟨0, 0⟩ .s32 0 (.v 1) (.i 0), .irem p ⟨0, 0⟩ .s32 0 (.v 1) (.i 0),
    .imin p ⟨0, 0⟩ .u32 0 (.v 1) (.v 2), .imax p ⟨0, 0⟩ .s32 0 (.v 1) (.v 2), .iabs p ⟨0, 0⟩ 0 (.v 1), .ineg p ⟨0, 0⟩ 0 (.v 1)] : List Instr).all runs = true := by decide +kernel

theorem witness_VectorBits : ([.iand p ⟨0, 0⟩ 0 (.v 1) (.v 2), .ior p ⟨0, 0⟩ 0 (.v 1) (.v 2), .ixor p ⟨0, 0⟩ 0 (.v 1) (.v 2), .inot p ⟨0, 0⟩ 0 (.v 1), .ishl p ⟨0, 0⟩ 0 (.v 1) (.i 31),
    .ishr p ⟨0, 0⟩ 0 (.v 1) (.i 32), .isar p ⟨0, 0⟩ 0 (.v 1) (.i 31), .irot p ⟨0, 0⟩ 0 (.v 1) (.i 31), .bfx p ⟨0, 0⟩ .s32 0 (.v 1) (.i 0x2000), .bfx p ⟨0, 0⟩ .u32 0 (.v 1) (.i 0x011F),
    .bfi p ⟨0, 0⟩ 0 (.v 1) (.i 0x011F), .popc p ⟨0, 0⟩ 0 (.v 1), .clz p ⟨0, 0⟩ 0 (.v 1), .isel p ⟨0, 0⟩ 1 0 (.v 1) (.i 2), .imov p ⟨0, 0⟩ 0 (.i 1), .imovi p ⟨0, 0⟩ 0 7] : List Instr).all
      runs = true := by decide +kernel

theorem witness_FloatArithmetic : ([.fadd p ⟨0, 0⟩ 0 0 (.v 1) (.v 2), .fsub p ⟨0, 0⟩ 7 0 (.v 1) (.v 2), .fmul p ⟨0, 0⟩ 1 0 (.v 1) (.v 2), .ffma p ⟨0, 0⟩ 2 0 (.v 1) (.s 2), .fdiv p ⟨0, 0⟩ 3 0 (.v 1) (.v 2),
    .fsqrt p ⟨0, 0⟩ 4 0 (.v 1), .frcp p ⟨0, 0⟩ 5 0 (.v 1), .frsq p ⟨0, 0⟩ 6 0 (.v 1), .fexp2 p ⟨0, 0⟩ 0 0 (.v 1), .flog2 p ⟨0, 0⟩ 0 0 (.v 1), .fsinpi p ⟨0, 0⟩ 0 0 (.v 1), .fcospi p ⟨0, 0⟩ 0 0 (.v 1),
    .fround p ⟨0, 0⟩ 0 0 (.v 1), .faddPacked p ⟨0, 0⟩ true 0 0 (.v 1) (.v 2), .fsubPacked p ⟨0, 0⟩ false 7 0 (.v 1) (.v 2), .fmulPacked p ⟨0, 0⟩ true 1 0 (.v 1) (.v 2),
    .ffmaPacked p ⟨0, 0⟩ true 2 0 (.v 1) (.v 2), .fdivPacked p ⟨0, 0⟩ true 3 0 (.v 1) (.v 2), .fsqrtPacked p ⟨0, 0⟩ true 4 0 (.v 1), .frcpPacked p ⟨0, 0⟩ true 5 0 (.v 1),
    .frsqPacked p ⟨0, 0⟩ true 6 0 (.v 1), .fexp2Packed p ⟨0, 0⟩ false 0 0 (.v 1), .flog2Packed p ⟨0, 0⟩ true 0 0 (.v 1), .fsinpiPacked p ⟨0, 0⟩ true 0 0 (.v 1),
    .fcospiPacked p ⟨0, 0⟩ true 0 0 (.v 1), .froundPacked p ⟨0, 0⟩ true 0 0 (.v 1)] : List Instr).all runs = true := by decide +kernel

theorem witness_FloatCodes : ([.fmin p ⟨0, 0⟩ 0 (.v 1) (.v 2), .fmax p ⟨0, 0⟩ 0 (.v 1) (.v 2), .fabs p ⟨0, 0⟩ 0 (.v 1), .fneg p ⟨0, 0⟩ 0 (.v 1), .fclass p ⟨0, 0⟩ 0 (.v 1),
    .fminPacked p ⟨0, 0⟩ true 0 (.v 1) (.v 2), .fmaxPacked p ⟨0, 0⟩ false 0 (.v 1) (.v 2), .fabsPacked p ⟨0, 0⟩ true 0 (.v 1), .fnegPacked p ⟨0, 0⟩ true 0 (.v 1),
    .fclassPacked p ⟨0, 0⟩ true 0 (.v 1)] : List Instr).all runs = true := by decide +kernel

theorem witness_FloatComparison : ([.fcmp p .un 0 (.v 1) (.v 2), .fcmp p .eq 0 (.v 1) (.s 2), .fcmpPacked p true .ge 2 (.v 1) (.v 2)] : List Instr).all runs = true := by decide +kernel

theorem witness_Conversions : ([.cvt p ⟨0, 0⟩ .f8 0 0 (.v 1) .f32 true, .qblk p .f8 0 0 64 8, .dqblk p .e4m3 0 64 (.s 1)] : List Instr).all runs = true ∧
    meets (.qblk p .f8 0 0 64 8) ((placed (.qblk p .f8 0 0 64 8)).modFrag 0 0 fun f => { f with fmt := 0x30 }) (fun x => cvt8Of x.f.fmt == .i8) = true ∧
    meets (.dqblk p .f8 0 64 (.s 1)) ((placed (.dqblk p .f8 0 64 (.s 1))).modFrag 0 0 fun f => { f with fmt := 0x30 }) (fun x => cvt8Of x.f.fmt == .i8) = true := by decide +kernel

theorem witness_LaneForms : ([.shfl p .idx 0 1 (.v 2), .shfl p .up 0 1 (.i 127), .shfl p .down 0 1 (.i 128), .shfl p .xor 0 1 (.i 127), .bcast p 0 1 (.i 127), .vcompact p 0 1 2, .vred p .iadd32 0 (.v 0) 1,
    .vred p .fadd32 7 (.s 0) 1, .vscan p .iadd32 0 0 1 true, .cka p ⟨0, 1⟩ true (.v 0) 2, .cka p ⟨0, 0⟩ false (.s 0) 2] : List Instr).all runs = true ∧
    meets (.chk p false (.v 0) (.v 1) (.i 0x3FFFF)) (placed (.chk p false (.v 0) (.v 1) (.i 0x3FFFF))) (fun x => (SIval x.g (.i 0x3FFFF)).msb) = true ∧
    meets (.chk p false (.s 0) (.v 1) (.i 0)) (placed (.chk p false (.s 0) (.v 1) (.i 0)))
      (fun x => decide (((VSval x.g 0 0 (.s 0)).toInt - (VSval x.g 0 0 (.v 1)).toInt).natAbs ≤ 0)) = true ∧
    meets (.chk p false (.s 0) (.v 1) (.i 0)) (placedWith (.chk p false (.s 0) (.v 1) (.i 0)) fun g => g.sset 0 1)
      (fun x => decide (¬ ((VSval x.g 0 0 (.s 0)).toInt - (VSval x.g 0 0 (.v 1)).toInt).natAbs ≤ 0)) = true := by decide +kernel

/-- A block whose elements are finite, one not zero, and one with an infinity; codes of each sort, and integers on each side of the
largest. -/
theorem witness_ConversionValues : (let i : Instr := .qblk p .e4m3 0 0 64 8
     ([0x3F800000, 0x7F800000] : List Word).map (fun w => meets i (placedWith i fun g => g.vset 64 0 w) fun x =>
       match BinFmt.f32.read false (x.g.vget 64 0).toNat with
       | .fin v => v.m != 0
       | _ => false) = [true, false]) ∧
    (readFmt .e5m2 false 0x7C = .inf false ∧ readFmt .e4m3 false 0x7F = .nan false ∧ readFmt .e5m2 false 0x7B = .fin ⟨false, 7, 13, false⟩ ∧
      readFmt .e5m2 false 1 = .fin ⟨false, 1, -16, false⟩ ∧ readFmt .tf8 false 0 = tf8Read 0) ∧ ((200 : Int) ≤ 127 - -128 ∧ (127 : Int) < 200 ∧ (100 : Int) ≤ 127) := by
  decide +kernel

/-- A restored element past the largest finite value, one below the normal ones, and one between. -/
theorem witness_RestoredSizes : (2 : ℚ) ^ (128 : Int) ≤ magOf ⟨false, 7, 13, false⟩ * (2 : ℚ) ^ ((254 : Int) - 127) ∧
    magOf ⟨false, 1, -16, false⟩ * (2 : ℚ) ^ ((0 : Int) - 127) < (2 : ℚ) ^ (-126 : Int) ∧ 0 < magOf ⟨false, 1, -16, false⟩ * (2 : ℚ) ^ ((0 : Int) - 127) ∧
    (2 : ℚ) ^ (-126 : Int) ≤ magOf ⟨false, 7, 13, false⟩ * (2 : ℚ) ^ ((127 : Int) - 127) := by norm_num [magOf]

/-! ### Hypotheses that can be met: control flow and exceptions -/

theorem witness_ControlFlow : ([.nop p true, .nop p false, .br p 0, .brc p true 1 5, .brc p false 1 5, .brx p 1, .ret p 1, .call p 1 0xFFFFFFFF, .loop p 1 5] : List Instr).all runs = true ∧
    meets (.sleep p (.s 1)) (placed (.sleep p (.s 1))) (fun x => decide (SIval x.g (.s 1) = 0)) = true ∧
    meets (.sleep p (.i 131071)) (placed (.sleep p (.i 131071))) (fun x => decide (SIval x.g (.i 131071) ≠ 0)) = true := by decide +kernel

/-- A fragment with some lanes in an entry of the split table. -/
def someFrag (chain : List Open) : Frag := ⟨2, 0, 0, 1, .none, chain, 0, none, false, false⟩

theorem witness_Divergence : meets (.brd p 5 9) (placed (.brd p 5 9)) (fun x => x.lanes == x.f.mask) = true ∧
    (let i : Instr := .brd ⟨false, 0, 0⟩ 5 9
     let one := fun (g : Group) => { g with pregs := Table.put 0 g.pregs 0 1 }
     let full := fun (chain : List Open) (g : Group) => { one g with frags := g.frags ++ (List.range 15).map fun n => (n + 1, someFrag (if n = 0 then chain else [])) }
     meets i (placedWith i one) (fun x => x.lanes != x.f.mask && (x.g.frag 1).isNone && (x.g.frag 0).isSome) = true ∧
     meets i (placedWith i (full [])) (fun x => x.lanes != x.f.mask && (List.range 16).all (fun n => (x.g.frag n).isSome) && decide (x.g.depth < 64)) = true ∧
     meets i (placedWith i (full (List.replicate 64 (.frame 2 0 12 24 0 1 false)))) (fun x => x.lanes != x.f.mask && (List.range 16).all (fun n => (x.g.frag n).isSome) &&
       decide (64 ≤ x.g.depth)) = true) := by decide +kernel

theorem witness_Retirement : meets (.exit p) (placed (.exit p)) (fun x => x.f.mask == x.lanes) = true ∧
    meets (.exit ⟨false, 0, 0⟩) (placedWith (.exit ⟨false, 0, 0⟩) fun g => { g with pregs := Table.put 0 g.pregs 0 1 }) (fun x => x.f.mask != x.lanes &&
      x.g.frags.all fun c => c.2.mask &&& ~~~x.lanes != 0) = true := by decide +kernel

theorem witness_Traps : ([.trap p 255, .bkpt p 0] : List Instr).all (fun i => meets i (placed i) (fun x => x.g.level == .user) &&
      meets i (placedWith i fun g => { g with level := .sup }) fun x => x.g.level == .sup) = true ∧
    meets (.rtt p) (placed (.rtt p)) (fun x => match x.g.handler with
      | some h => decide (x.g.acting.length = 1 ∧ x.f.mask &&& ~~~h.mask = 0 ∧ h.mask &&& ~~~x.g.retired &&& ~~~x.f.mask = 0)
      | none => false) = true ∧
    meets (.rtt p) (placedWith (.rtt p) fun g => { g with handler := g.handler.map fun h => { h with mask := 1 } }) (fun x => match x.g.handler with
      | some h => decide (x.f.mask &&& ~~~h.mask ≠ 0)
      | none => false) = true := by decide +kernel

/-- A drain of the group's launch is under way, which is to raise its flags. -/
def drains (s : State) : State := { s with ops := [(77, ⟨0, 0, 0, some 2, some 1, 0, 0, 0, 0, false, 0, 0, 0, .drain ⟨5, .f16, false, none, 0x3000, 1, 0, none, 0⟩⟩)] }

/-- With matrix work under way the forms on `%fflags` are issued again; the values of the special registers of a gang. -/
theorem witness_FlagsBusy : ([.rdsp p (.s 1) 10, .rdsp p (.v 1) 10, .wrsp p 10 (.i 31), .rdff p (.v 1), .rdff p (.s 1), .clrff p 31] : List Instr).all
      (fun i => meets i (drains (placed i)) fun x => (begun i (drains (placed i)) x).flagsBusy x.g && (Table.find (placed i).launches x.g.launch).isSome &&
        (x.g.gang.bind (Table.find (placed i).gangs)).isSome && !x.g.packed) = true ∧
    meets (.rdsp p (.s 1) 3) (placedWith (.rdsp p (.s 1) 3) fun g => { g with packed := true }) (fun x => x.g.packed) = true := by decide +kernel

theorem witness_YieldReturns : meets (.yielddSusp p) (placedWith (.yielddSusp p) fun g => { g with yield := .running 9 })
      (fun x => decide (x.g.handler = none ∧ x.g.yield = .running 9 ∧ x.g.frags = [(x.en, x.f)] ∧ x.g.done = false ∧ x.f.mask ≠ 0)) = true ∧
    meets (.yielddSusp p) (placedWith (.yielddSusp p) fun g => { g with yield := .overrun }) (fun x => decide (x.g.handler = none ∧ x.g.yield = .overrun)) = true ∧
    meets (.yielddSusp p) (placed (.yielddSusp p)) (fun x => decide (x.g.yield = .none)) = true ∧
    ([.resumed, .overrun] : List Yield).all (fun y => meets (.yielddRet p) (placedWith (.yielddRet p) fun g =>
      { g with yield := y, saved := some ⟨[(0, someFrag [])], [], [], 7⟩ }) fun x => decide (x.g.handler = none ∧ x.g.saved ≠ none)) = true ∧
    (let s := drains (placedWith (.yielddRet p) fun g => { g with yield := .resumed, saved := some ⟨[(0, someFrag [])], [], [], 7⟩ })
     meets (.yielddRet p) s fun x => (begun (.yielddRet p) s x).flagsBusy x.g) = true ∧
    meets (.yielddRet p) (placed (.yielddRet p)) (fun x => decide (x.g.saved = none)) = true := by decide +kernel

/-- `i` is to run for the chosen fragment, and names no register that a copy is to land in. -/
def checkedAt (i : Instr) (s : State) (h : Group → Frag → Bool) : Bool :=
  (encode i).isSome && chosen s fun g f => !(need i).vs.any (s.heldRegs 0 g.gid).contains && h g f

theorem witness_DecodeChecks : [
    (let i : Instr := .cpy p 0; checkedAt i (placedWith i fun g => { g with role := .V }) fun g _ => (need i).cls == 12 && g.role != .C),
    (let i : Instr := .mzero p 0; checkedAt i (placedWith i fun g => { g with role := .V }) fun g _ => (need i).cls == 13 && g.role != .M),
    (let i : Instr := .iadd p ⟨0, 0⟩ .s32 0 (.v 0) (.i 0); checkedAt i (placedWith i fun g => { g with role := .C }) fun g _ => (need i).cls == 3 && g.role != .V),
    (let i : Instr := .ptew p 2 4; checkedAt i (placedWith i fun g => { g with level := .user }) fun g _ => (need i).sup && g.level == .user && roleOk (need i).cls g.role),
    (let i : Instr := .imovi p ⟨0, 1⟩ 1 0; checkedAt i (placedWith i fun g => { g with regs := 2 }) fun g _ => (need i).vs.any fun r => decide (g.regs ≤ r)),
    (let i : Instr := .pset p 5 (.i 1); checkedAt i (placedWith i fun g => { g with npreds := 5 }) fun g _ => (need i).ps.any fun q => decide (g.npreds ≤ q)),
    (let i : Instr := .exit ⟨false, 5, 0⟩; checkedAt i (placedWith i fun g => { g with npreds := 5 }) fun g _ => decide (g.npreds ≤ 5)),
    (let i : Instr := .exit ⟨false, 0, 0⟩; checkedAt i (placed i) fun g f => (need i).fault (pre i) g == none && execLanes (pre i) (uniform i) g f == 0)].all id = true := by decide +kernel

/-- The state of an event of kind 0x0A or 0x05 at user level whose vector entry is valid. -/
theorem witness_ExceptionEntry : let s := mapped (placed (.trap p 1))
    ([(Event.plain 0x0A 1 1, true), (Event.plain 0x05 0 allLanes, true), (Event.plain 0x09 0 allLanes, false)] : List (Event × Bool)).all (fun e => chosen s fun g f =>
      g.level == .user && e.1.kind != 0x07 && e.1.kind != 0x0C && e.1.kind != 0x0D && e.1.lanes &&& f.mask != 0 &&
        (let t := s.noteVector (coreOf 0) (s.ctxOf g.launch) e.1.kind
         (t.handlerImage (coreOf 0) (t.ctxOf g.launch) e.1.kind == some 0x2000) == e.2)) = true := by decide +kernel

/-- Each ground of an escalation: the level, a kind that always escalates, no active lane, no vector entry. -/
theorem witness_Escalation : let s := mapped (placed (.trap p 1))
    chosen (s.modGroup 0 fun g => { g with level := .sup }) (fun g _ => g.level == .sup && g.gang.isSome) = true ∧ escalates 0x07 = true ∧ escalates 0x0C = true ∧ escalates 0x0D = true ∧
    chosen s (fun g f => (Event.plain 0x0A 0 0).lanes &&& f.mask == 0 && g.gang.isSome) = true ∧
    chosen (s.modGroup 0 fun g => { g with level := .sup, gang := none, packed := true }) (fun g _ => g.level == .sup && g.gang.isNone) = true ∧
    chosen s (fun g _ => (let t := s.noteVector (coreOf 0) (s.ctxOf g.launch) 0x09; (t.handlerImage (coreOf 0) (t.ctxOf g.launch) 0x09).isNone) && g.gang.isSome) = true ∧
    /- Kills: of a gang alone, of a launch of one device and of two; a gang that may be started again and one that may not. -/
    (let launch := fun (cores : Bool) (devices : Nat) (tries : Nat) => ({ s with launches := s.launches.map fun l =>
        (l.1, { l.2 with tries := [(0, tries)], lrec := { l.2.lrec with cores := cores, devices := devices, again := true } }) } : State)
     ([(false, 1, 0), (true, 1, 0), (true, 2, 0), (true, 1, 3)] : List (Bool × Nat × Nat)).all (fun c =>
       let t := launch c.1 c.2.1 c.2.2
       (Table.find t.gangs 1).any fun y => y.launch == 0 && (Table.find t.launches 0).any fun x => x.lrec.cores == c.1 && x.lrec.devices == c.2.1 && (c.2.1 != 1 || x.lrec.gangs == 1) && y.no == 0 &&
         decide (Table.get 0 x.tries 0 < 3) == decide (c.2.2 < 3)) = true ∧
     (s.groups.all fun g => g.2.handler.isNone) = true) := by decide +kernel

theorem witness_ExceptionReturn : chosen (placed (.rtt p)) (fun g _ => match g.handler with
      | some h => decide (h.leaf = none ∧ h.resume ≠ .race ∧ (∀ c ∈ g.frags, c.2.sup = true) ∧ h.frag.sup = false ∧ h.frag.mask ≠ 0 ∧ h.frag.chain = [])
      | none => false) = true ∧
    ([0, 1] : List Mask).map (fun m => chosen ((placed (.rtt p)).modGroup 0 fun g => { g with retired := ~~~m, handler := g.handler.map fun h => { h with resume := .race, leaf := some 0x40 } })
      fun g _ => g.handler.any fun h => h.resume == .race && h.leaf.isSome && h.mask &&& ~~~g.retired == 0) = [true, false] := by decide +kernel

theorem witness_FloatSpecials : (Exact.mk false 0 0 false).m = 0 ∧ (Exact.mk false 0 0 false).sticky = false ∧
    ¬ ((Exact.mk true 1 0 false).m = 0 ∧ (Exact.mk true 1 0 false).sticky = false) ∧ (Exact.mk true 1 0 false).neg = true ∧
    (Exact.mk false 3 0 false).neg = false ∧ (Exact.mk false 3 0 false).m ≠ 0 ∧ (Exact.mk false 3 0 false).sticky = false := by decide +kernel

/-- The largest, the smallest and a zero code of each format read as finite values. -/
theorem witness_RoundingExact : ([(BinFmt.f32, 0x7F7FFFFF), (BinFmt.f32, 1), (BinFmt.f16, 0x7BFF), (BinFmt.bf16, 0x8000), (BinFmt.E4M3, 0x7E), (BinFmt.E5M2, 0x7B)] : List (BinFmt × Nat)).all
      (fun c => decide (c.2 < 2 ^ c.1.width) && match c.1.read false c.2 with
        | .fin _ => true
        | _ => false) = true ∧
    ([0, 1, 255] : List Nat).all (fun c => match tf8Read c with
        | .fin _ => true
        | _ => false) = true := by decide +kernel


/-- Values between two neighbours, below the smallest normal magnitude and above it, and one past the largest finite value. -/
theorem witness_RoundedValues : ([(BinFmt.f16, 1, Exact.mk false 3 (-25) false), (BinFmt.f32, 0x3F800000, Exact.mk false (2 ^ 25 + 1) (-25) false)] : List (BinFmt × Nat × Exact)).all
      (fun c => match c.1.read false c.2.1, c.1.read false (c.2.1 + 1) with
        | .fin L, .fin H => !L.neg && !H.neg && !c.2.2.neg && !c.2.2.sticky && decide (L = if c.1 = BinFmt.f16 then ⟨false, 1, -24, false⟩ else ⟨false, 2 ^ 23, -23, false⟩) &&
            decide (H = if c.1 = BinFmt.f16 then ⟨false, 2, -24, false⟩ else ⟨false, 2 ^ 23 + 1, -23, false⟩)
        | _, _ => false) = true := by decide +kernel

theorem witness_RoundedSizes : StandsFor ⟨false, 3, -25, false⟩ (3 * (2 : ℝ) ^ (-25 : Int)) ∧ StandsFor ⟨false, 1, 128, false⟩ ((2 : ℝ) ^ (128 : Int)) ∧
    (magOf ⟨false, 1, -24, false⟩ < magOf ⟨false, 3, -25, false⟩ ∧ magOf ⟨false, 3, -25, false⟩ < magOf ⟨false, 2, -24, false⟩ ∧
      magOf ⟨false, 3, -25, false⟩ < (2 : ℚ) ^ BinFmt.f16.emin) ∧
    (magOf ⟨false, 2 ^ 23, -23, false⟩ < magOf ⟨false, 2 ^ 25 + 1, -25, false⟩ ∧ magOf ⟨false, 2 ^ 25 + 1, -25, false⟩ < magOf ⟨false, 2 ^ 23 + 1, -23, false⟩ ∧
      (2 : ℚ) ^ BinFmt.f32.emin ≤ magOf ⟨false, 2 ^ 25 + 1, -25, false⟩) ∧
    ((BinFmt.f32.maxFin.1 + 1 : Nat) : ℝ) * (2 : ℝ) ^ BinFmt.f32.maxFin.2 ≤ (2 : ℝ) ^ (128 : Int) := by
  norm_num [StandsFor, magOf, BinFmt.emin, BinFmt.maxFin, BinFmt.f32, BinFmt.f16, BinFmt.bias]
/-! ### Hypotheses that can be met: memory -/

/-- A placed program with two active lanes, pages of every class, and a base pair `s4` and some scalars set. -/
def loaded (i : Instr) (base : Word) (f : Group → Group := id) : State :=
  ((mapped (placed i)).modFrag 0 0 fun f => { f with mask := 3 }).modGroup 0 fun g => f (g.sset 4 base)

/-- The end of the checks of some accesses. -/
inductive End where
  | raised (kind : Nat)
  | passed
  | waits (w : Wait)
  | other
  deriving DecidableEq, Repr

/-- How the checks of accesses end. -/
def checked (r : Resolved) : End :=
  match r with
  | .stop _ (.event e) => .raised e.kind
  | .stop _ (.wait w) => .waits w
  | .stop _ _ => .other
  | .ok _ => .passed

/-- Accesses that fail one check each and no earlier one: past 2^57, misaligned, unmapped, without permission, not legal in host
memory, outside a granule, sealed, lost; the first touch of a page and one while its leaf is filled; one of host memory, one to a busy home, one through a leaf just written; and those that pass. -/
theorem witness_MemoryChecks : let i : Instr := .ld p .b32 .none (.v 0) m4
    let s := loaded i 0
    let sealed := s.setEntry 0 { s.entry 0 with sealed := some 0 }
    let lost := s.setEntry 0 { s.entry 0 with lost := 1 }
    let busy := s.setEntry 0 { s.entry 0 with st := .M, holders := [1], pend := some ⟨2, .read, 1, [1], []⟩ }
    let written := { s with leafRel := [(placedRoot + 0x2000, 99)] }
    let pop := fun (n : Nat) => { s with mem := s.mem.setDword (placedRoot + 0x2028) (pteSetPop 0xC300000140000000 n) }
    ([(s, .read, ⟨1, 0, 2 ^ 57, 4, false⟩, .raised 0x10), (s, .read, ⟨1, 0, 2 ^ 57 - 2, 4, false⟩, .raised 0x11), (s, .read, ⟨0, 0, 5 * 2 ^ 30, 4, false⟩, .raised 0x12),
      (s, .write, ⟨127, 0, 3 * 2 ^ 30, 4, false⟩, .raised 0x13), (s, .read, ⟨0, 0, 3 * 2 ^ 30, 4, false⟩, .passed), (s, .atomic .imin, ⟨0, 0, 2 ^ 32, 4, false⟩, .raised 0x17),
      (s, .read, ⟨0, 0, 4, 4, true⟩, .raised 0x18), (sealed, .write, ⟨0, 0, 124, 4, false⟩, .raised 0x16), (sealed, .write, ⟨0, 0, 128, 4, false⟩, .passed),
      (lost, .write, ⟨0, 0, 0, 4, false⟩, .raised 0x39), (lost, .write, ⟨0, 0, 4, 4, false⟩, .passed), (s, .read, ⟨0, 0, 2 ^ 32, 4, false⟩, .waits .host),
      (busy, .write, ⟨0, 0, 4, 4, false⟩, .other), (written, .read, ⟨0, 0, 4, 4, false⟩, .other), (written, .read, ⟨0, 0, 2 ^ 30, 4, false⟩, .passed),
      (pop 1, .read, ⟨0, 0, 5 * 2 ^ 30, 4, false⟩, .raised 0x1B), (pop 2, .read, ⟨0, 0, 5 * 2 ^ 30, 4, false⟩, .waits (.leaf (placedRoot + 0x2028)))] : List (State × Mode × Ask × End)).all (fun c =>
        meets i c.1 fun x => checked (c.1.resolve x false c.2.1 false [c.2.2.1]) == c.2.2.2) = true := by decide +kernel

/-- What the accesses of a load come to: how many abort and how many conflict. -/
def loadsFrom (i : Instr) (uni : Bool) (sc : Scope) (l : X → List Ask) (s : State) : Option (Nat × Nat) :=
  match ready i s with
  | some x => match (begun i s x).resolve x uni .read false (l x) with
    | .ok rs =>
      let whole := wholeLine rs
      let q := sortOut ((((begun i s x).readFor x rs).fetchFor x.core rs).mergeAll rs) (fun t _ w => t.badAt (if whole then homeReader else x.core) w) rs
      let c := (q.s.prepAll (State.prepRead x.core 0 whole) (linesOf q.ok)).s
      some (q.bad.length, (q.ok.filterMap fun a => c.clashOf x.core (x.reader c uni sc a) (x.kind uni a.lane sc) false a).length)
    | _ => none
  | none => none

/-- The word at 0x1000 is lost; another agent has written it, or read it, and no order lies between. -/
def lostAt (s : State) : State := s.setEntry 0x20 { s.entry 0x20 with lost := 1 }
/-- A word that a missed beat has spoilt. -/
def spoiltAt (s : State) : State := { s with spoilt := [0x400] }
def writtenAt (s : State) : State := { s with homes := [(0x400, ⟨some ⟨0x10, [⟨9, .plain, 0xF⟩]⟩, none, []⟩)] }
def readAt (s : State) : State := { s with homes := [(0x400, ⟨none, some ⟨0x10, [⟨9, .plain, 0xF⟩], false⟩, []⟩)] }

/-- A pattern of two elements at stride 1 in `s8`. -/
abbrev mP : MemOp := ⟨0, false, 0, true, 0, 4, true, 0, 8⟩
def pattern (g : Group) : Group := g.sset 8 0x10004

theorem witness_Loads : ([0x1000, 0x40001000, 0x80001000] : List Word).all (fun b => loadsFrom (.ld p .b32 .none (.v 0) m4) false .none (fun x => asks x false m4 4) (loaded (.ld p .b32 .none (.v 0) m4) b) == some (0, 0)) = true ∧
    ([lostAt, writtenAt, readAt] : List (State → State)).map (fun f => loadsFrom (.ld p .b32 .none (.v 0) m4) false .none (fun x => asks x false m4 4)
      (f (loaded (.ld p .b32 .none (.v 0) m4) 0x1000))) = [some (2, 0), some (0, 2), some (0, 0)] ∧
    (let m : MemOp := { m4 with ord := 1 }
     loadsFrom (.ld p .b64 .dev (.s 2) m) true .dev (fun x => asks x true m 8) (loaded (.ld p .b64 .dev (.s 2) m) 0x1000) = some (0, 0)) ∧
    loadsFrom (.ldx p ⟨0, 0⟩ .b32 .none 0 mP) false .none (fun x => burstAsks x ⟨0, 0⟩ false mP) (loaded (.ldx p ⟨0, 0⟩ .b32 .none 0 mP) 0x1000 pattern) = some (0, 0) ∧
    (Instr.ldx p ⟨0, 0⟩ .b32 .none 0 mP).wf = true := by decide +kernel

/-- What the accesses of a store come to, where it may be made: how many abort and how many conflict. -/
def storesTo (i : Instr) (uni : Bool) (sc : Scope) (l : X → List Ask) (s : State) : Option (Nat × Nat) :=
  match ready i s with
  | some x => match (begun i s x).resolve x uni .write (sc == .sys) (l x) with
    | .ok rs =>
      let b := (begun i s x).readUnder x rs
      let whole := wholeLine rs
      let again := sc == .sys && whole && rs.any fun a => a.words.any fun w => (b.entry (w / 128)).lost != 0
      let hint : BitVec 2 := if again || (whole && rs.all fun a => a.cls == .dc) then 3 else 0
      let c := b.fetchFor x.core (rs.filter fun a => a.size < 4)
      let q := sortOut (if again then (c, [], []) else c.mergeAll rs) (fun t a w => t.storeBad x.core a w) rs
      let u := if again then (q.s.prepAll (fun t n _ _ => t.reclaimLine n) (linesOf q.ok)).s else (q.s.prepAll (State.prepWrite x.core hint) (linesOf q.ok)).s
      if (failed x uni (b.permitted .write (sc == .sys) rs) Res.at rs).isNone && !((begun i s x).owedTo x.g sc) then
        some (q.bad.length, (q.ok.filterMap fun a => u.clashOf x.core (x.who u uni a.lane sc) (x.kind uni a.lane sc) true a).length)
      else none
    | _ => none
  | none => none

/-- A memory operand indexed by `v9`, scaled by 4; lane l's element is l. -/
abbrev mI : MemOp := ⟨0, false, 0, true, 0, 4, true, 2, 9⟩
def indexed (g : Group) : Group := g.vset 9 1 1

theorem witness_Stores : storesTo (.st p .b32 .none (.v 0) mI) false .none (fun x => asks x false mI 4) (loaded (.st p .b32 .none (.v 0) mI) 0x1000 indexed) = some (0, 0) ∧
    ([writtenAt, readAt] : List (State → State)).all (fun f => storesTo (.st p .b32 .none (.v 0) mI) false .none (fun x => asks x false mI 4)
      (f (loaded (.st p .b32 .none (.v 0) mI) 0x1000 indexed)) == some (0, 1)) = true ∧
    (let i : Instr := .st p .b32 .none (.v 0) mI
     let far := fun (gone : Bool) => let s := loaded i 0x40000000 fun g => (indexed g).sset 5 1
       ({ s with mem := s.mem.setDword (placedRoot + 0x2028) (0xE300000000000000 + BitVec.ofNat 64 (peerBase + 5 * 2 ^ 43)) } : State).setPeer 5 { s.peer 5 with dropped := gone }
     ([true, false] : List Bool).map (fun c => storesTo i false .none (fun x => asks x false mI 4) (far c)) = [some (2, 0), some (0, 0)]) ∧
    storesTo (.st p .b8 .sys (.s 2) { m4 with ord := 2 }) true .sys (fun x => asks x true { m4 with ord := 2 } 1) (loaded (.st p .b8 .sys (.s 2) { m4 with ord := 2 }) 0x40001003) = some (0, 0) ∧
    storesTo (.stx p ⟨0, 0⟩ .b32 .none 0 mP) false .none (fun x => burstAsks x ⟨0, 0⟩ false mP) (loaded (.stx p ⟨0, 0⟩ .b32 .none 0 mP) 0x1000 pattern) = some (0, 0) ∧
    (Res.mk 0 0 1 3 3 .dc true false).pa % 1 = 0 ∧ (Res.mk 0 0 2 6 6 .dc true false).pa % 2 = 0 := by decide +kernel

/-- A core owns a line for the last clauses, and no core owns it for the first; a word of an NC page that the core's L1 has. -/
theorem witness_StoredWords : let s := loaded (.nop p true) 0
    let own := (s.setEntry 0x20 { s.entry 0x20 with st := .M, holders := [0] }).modCore 0 fun c => { c with l1 := [(0x20, ⟨.dc, 0, 1, 0, [(0, 7)], [], 0⟩)] }
    let nc := s.modCore 0 fun c => { c with l1 := [(0x20, ⟨.nc, 0, 1, 0, [(0, 7)], [], 0⟩)] }
    own.owns 0 0x1000 = true ∧ s.owns 0 0x1000 = false ∧ Table.find s.check (0x1000 / 4) = none ∧ nc.inL1 0 0x1000 = true := by decide +kernel

/-- A core with room for its prefetches and one with 4,095 requests outstanding, the placed fragment having two lanes. -/
theorem witness_PrefetchAndInvalidate : let i : Instr := .prf p m4
    let many := fun (s : State) => { s with prefetches := List.replicate 4095 ⟨9, 0, 0x1000, .dc, true, 0, 1⟩ }
    ([0x1000, 0x40001000] : List Word).all (fun b => meets i (loaded i b) fun x => let t := begun i (loaded i b) x
      decide (0 ≤ memAddr m4 x.g false 4 0 ∧ memAddr m4 x.g false 4 0 < 2 ^ 57 ∧ t.requests x.core + (lanesOf x.lanes).length ≤ requestMax)) = true ∧
    meets i (many (loaded i 0x1000)) (fun x => decide (requestMax < (begun i (many (loaded i 0x1000)) x).requests x.core + (lanesOf x.lanes).length)) = true ∧
    meets (.invl p m4) (loaded (.invl p m4) 0x40001000) (fun x =>
      checked ((begun (.invl p m4) (loaded (.invl p m4) 0x40001000) x).resolve x false .inval false (asks x false m4 4)) == .passed) = true := by decide +kernel

/-- How the checks of scratchpad accesses end: an event, a wait for a line, or passed. -/
def spadChecked (r : SResolved) : End :=
  match r with
  | .stop _ (.event e) => .raised e.kind
  | .stop _ (.wait w) => .waits w
  | .stop _ _ => .other
  | .ok _ => .passed

/-- A packed group, a member that does not exist, an access that ends past the workgroup's scratchpad, a misaligned one, one that
passes at the end of the scratchpad, one on a Pending line, and on an Unfilled line of a window one whose fill may start and one
whose page does not exist. -/
theorem witness_SpadChecks : let i : Instr := .lds p .b32 .none (.v 0) m4
    let s := loaded i 0
    let far := { m4 with remote := true, pos := 7 }
    let packed := s.modGroup 0 fun g => { g with wg := none }
    let pending := s.modWg 2 fun w => { w with lines := [(0, .pending [9])] }
    let unfilled := fun (va : Nat) => s.modWg 2 fun w => { w with wins := [(7, ⟨0, 128, va, [], []⟩)], lines := [(0, .unfilled)] }
    ([(packed, m4, ⟨0, 0, 4⟩, .raised 0x14), (s, far, ⟨0, 0, 4⟩, .raised 0x15), (s, m4, ⟨1, 786432, 4⟩, .raised 0x14), (s, m4, ⟨1, 2, 4⟩, .raised 0x11), (s, m4, ⟨1, 786428, 4⟩, .passed),
      (pending, m4, ⟨0, 124, 4⟩, .waits (.line 2 0)), (pending, m4, ⟨0, 128, 4⟩, .passed), (unfilled 0x1000, m4, ⟨0, 124, 4⟩, .waits (.fill 2 0)),
      (unfilled (5 * 2 ^ 30), m4, ⟨0, 0, 4⟩, .raised 0x12)] : List (State × MemOp × SAsk × End)).all (fun c =>
        meets i c.1 fun x => spadChecked (c.1.spadResolve x false c.2.1 [c.2.2.1]) == c.2.2.2) = true := by decide +kernel

/-- The checks of a scratchpad form pass, in the allocation of workgroup 2, with no word in error, and no reduction on its way. -/
def spadPasses (i : Instr) (whole : Bool) (l : X → List SAsk) (uni : Bool) : Bool :=
  meets i (loaded i 0x100) fun x => let b := begun i (loaded i 0x100) x
    spadChecked (b.spadResolve x uni m4 (l x)) == .passed && (Table.find (loaded i 0x100).wgs 2).isSome && (b.spadReads x 2 whole (l x)).2.isEmpty &&
      !(b.owedTo x.g .none) && match b.spadResolve x uni m4 (l x) with
        | .ok k => k == 2
        | _ => false

theorem witness_Scratchpad : spadPasses (.lds p .s16 .none (.v 0) m4) false (fun x => sAsks x false m4 2) false = true ∧
    spadPasses (.lds p .b64 .none (.s 2) m4) false (fun x => sAsks x true m4 8) true = true ∧
    spadPasses (.sts p .b32 .none (.v 0) m4) true (fun x => sAsks x false m4 4) false = true := by decide +kernel

/-- A window that can be mapped, one on a misaligned base, and flushing and dropping of an entry that is there, clean or with a dirty
word, and is not. -/
theorem witness_Windows : let i : Instr := .winmap p 7 2 6
    let set := fun (base len : Word) (g : Group) => ((g.sset 2 0x1000).sset 6 base).sset 7 len
    let win := fun (dirty : Table Word) => (⟨0, 128, 0x1000, dirty, []⟩ : Window)
    let with_ := fun (j : Instr) (dirty : Table Word) => (loaded j 0).modWg 2 fun w => { w with wins := [(7, win dirty)] }
    meets i (loaded i 0 (set 128 256)) (fun x => decide ((x.g.sget2 2).toNat % 128 = 0 ∧ (x.g.sget 6).toNat + (x.g.sget 7).toNat ≤ 786432) && x.g.wg == some 2) = true ∧
    meets i (loaded i 0 (set 64 256)) (fun x => decide ((x.g.sget 6).toNat % 128 ≠ 0)) = true ∧
    ([.winfl p 7, .windrop p 7] : List Instr).all (fun j => runs j && meets j (with_ j []) (fun x => x.g.wg == some 2) && meets j (with_ j [(0, 3)]) fun x =>
      match Table.find (with_ j [(0, 3)]).wgs 2 with
      | some w => let ws := w.dirtyWords (win [(0, 3)])
        let c := (begun j (with_ j [(0, 3)]) x).spadCheck 2 1 ((win [(0, 3)]).dirty.flatMap fun d => (wordsOf d.2).map fun i => 32 * d.1 + i)
        c.2.isEmpty && ws.length == 2 && match c.1.resolve x true .write false (ws.map fun q => ⟨x.low, 0, q.1, 4, false⟩) with
          | .ok rs => match (c.1.performStore x true 3 .none ((rs.zip ws).map fun q => (q.1, q.2.2.setWidth 64))).2 with
            | .next => true
            | _ => false
          | _ => false
      | none => false) = true ∧
    ([.winfl p 7, .windrop p 7] : List Instr).all (fun j => meets j ((loaded j 0).modWg 2 fun w => { w with wins := [(7, win [])], lines := [(0, .pending [9])] }) fun x => x.g.wg == some 2) = true := by decide +kernel

theorem witness_AtomicStep : let i : Instr := .atom p .iadd32 .none (.v 0) m4
    let s := loaded i 0x1000
    let r : Res := ⟨1, 0, 4, 0x1000, 0x1000, .dc, true, false⟩
    meets i s (fun x => (s.group? x.k).isSome && r.words.all (fun y => (Table.find s.check (y / 4)).isNone) &&
      (s.clashOf homeReader (x.who s false r.lane .none) (x.kind false r.lane (atomScope .none r.cls)) true r).isNone) = true ∧ r.size = opBytes .iadd32 ∧ r.pa % 4 = 0 := by decide +kernel

/-- What an atomic form on global memory comes to: how many of its accesses abort, and whether one conflicts. -/
def atomicsPass (i : Instr) (md : Mode) (o : Op) (addr : Word) (f : State → State := id) : Option (Nat × Bool) :=
  let s := f (loaded i addr)
  match ready i s with
  | some x => let b := begun i s x
    match b.resolve x false md false (asks x false m4 (opBytes o)) with
    | .ok rs => let near := rs.filter fun r => !farAway r
      let q := sortOut (((b.readFor x near).fetchFor x.core near).mergeAll near) (fun t _ w => t.badAt homeReader w) near
      let c := (q.s.gatherAll q.ok).s
      if !(b.owedTo x.g .none) && b.roomForReds x rs then
        some (q.bad.length, q.ok.any fun r => (c.clashOf homeReader (x.who c false r.lane .none) (x.kind false r.lane (atomScope .none r.cls)) true r).isSome)
      else none
    | _ => none
  | none => none

theorem witness_Atomics : let red : Instr := .red p .imax .none (.v 0) m4
    atomicsPass (.atom p .iadd32 .none (.v 0) m4) (.atomic .iadd32) .iadd32 0x1000 = some (0, false) ∧
    atomicsPass (.atom p .cas64 .none (.v 0) m4) (.atomic .cas64) .cas64 0x1000 = some (0, false) ∧
    ([id, spoiltAt, writtenAt] : List (State → State)).map (fun f => atomicsPass red (.red .imax) .imax 0x1000 f) = [some (0, false), some (2, false), some (0, true)] ∧
    spadPasses (.atoms p .iadd32 .none (.v 0) m4) false (fun x => sAsks x false m4 4) false = true := by decide +kernel

theorem witness_Updates : let i : Instr := .upd p .iadd32 0 (.v 0) m4
    let s := loaded i 0x1000
    let t := s.setEntry 0x20 { s.entry 0x20 with st := .P, tag := .iadd32, holders := [0] }
    meets i t (fun x => (t.entry 0x20).st == .P && (t.entry 0x20).holders.contains 0 && decide ((t.core 0).ubuf.length < 4096) && (t.flaw (.slot x.core 0x1000)).isNone) = true ∧
    meets i t (fun x => match (begun i t x).resolve x false (.upd .iadd32) false (asks x false m4 4) with
      | .ok rs => (begun i t x).roomForReds x rs && (rs.filter fun r => farAway r || r.cls != .dc).isEmpty &&
        let q := rs.foldl (fun (acc : State × List Abort × List Clash) r =>
          let (q, h) := (acc.1.readFor x [r]).updOne x false .iadd32 ⟨BinFmt.f32, false, 1, x.g.seed r.lane⟩ r ((opData x.g .iadd32 (.v 0) r.lane).2)
          (q.s, acc.2.1 ++ q.abort.toList.map fun b => ⟨r.lane, b.1, b.2, r.va⟩, acc.2.2 ++ h.toList)) (begun i t x, [], [])
        q.2.1.isEmpty && q.2.2.isEmpty
      | _ => false) = true := by decide +kernel
/-! ### Hypotheses that can be met: synchronisation, engines, walker -/

/-- Group 0 of the launch with a reduction on its way to a peer. -/
def owing (s : State) : State :=
  { s with ops := [(77, ⟨0, 0, 0, some 2, some 1, 0, 0, 3, 0, false, 0, 0, 0, .red 0x10000000000 .iadd32 1 1 0 false 0 0 0 []⟩)] }

/-- A seal of one line, one of a range that is not whole lines, one of a sealed line and one with no free entry; an unseal with and
without copies, with a grant on its way, and of nothing; and a fence with and without reductions on their way. -/
theorem witness_FencesAndSeals : let L : Instr := .seal p 4 6
    let U : Instr := .unseal p 4
    let F : Instr := .fence p true .acqrel .dev
    let held := fun (n : Nat) => { loaded U 0x1000 with seals := [(0, ⟨1, 0x1000, 128, n⟩)] }
    let s := loaded L 0x1000 fun g => g.sset 6 128
    let locked := s.setEntry 0x20 { s.entry 0x20 with sealed := some 7 }
    let coming := { (held 0).setEntry 0x20 { (held 0).entry 0x20 with sealed := some 0 } with msgs := [.grant 1 0x20 1 [] [] false] }
    meets L s (fun x => match (begun L s x).sealLines x.core ((begun L s x).ctxOf x.g.launch) 0x1000 1 with
      | some ls => decide ((x.g.sget 6).toNat = 128) && ls.all (fun l => ((begun L s x).entry l).sealed.isNone && !(begun L s x).lineBusy l) &&
          (Table.find s.seals 0).isNone && !((begun L s x).owedTo x.g .dev) && ((begun L s x).prepAll (fun s l _ _ => s.gather l) (ls.map fun l => (l, .dc, 0))).abort.isNone
      | none => false) = true ∧
    meets L (loaded L 0x1000) (fun x => decide ((x.g.sget 6).toNat % 128 = 0 ∧ (x.g.sget 6).toNat < 128)) = true ∧
    meets L locked (fun x => match (begun L locked x).sealLines x.core ((begun L locked x).ctxOf x.g.launch) 0x1000 1 with
      | some ls => ls.any fun l => ((begun L locked x).entry l).sealed.isSome
      | none => false) = true ∧
    (let full := { s with seals := (List.range 256).map fun j => (j, ⟨1, 128 * j, 128, 0⟩) }
     meets L full (fun _ => (List.range 256).all fun j => (Table.find full.seals j).isSome) = true) ∧
    meets U (loaded U 0x1000) (fun _ => (loaded U 0x1000).seals.isEmpty) = true ∧
    ([0, 1] : List Nat).all (fun n => meets U (held n) fun x => (held n).sealAt ((begun U (held n) x).ctxOf x.g.launch) (x.g.sget2 4).toNat == some (0, ⟨1, 0x1000, 128, n⟩)) = true ∧
    meets U coming (fun x => coming.sealAt 1 (x.g.sget2 4).toNat == some (0, ⟨1, 0x1000, 128, 0⟩) && coming.dir.any fun d => d.2.sealed == some 0 && (begun U coming x).homeBusy d.1) = true ∧
    meets F (loaded F 0) (fun x => !(begun F (loaded F 0) x).owedTo x.g .dev && (List.range 128).all fun l => decide (Table.get 0 x.g.seen (l * 8 + scopeNo .dev) < 2 ^ 64)) = true ∧
    meets F (owing (loaded F 0)) (fun x => (begun F (owing (loaded F 0)) x).owedTo x.g .dev) = true := by decide +kernel

/-- A count that has come down and one that has not, with and without an operation that failed, before its time and at it; a word
that satisfies the comparison (at its least lane, 0) and one that does not, and the same word spoilt; and a word of the host. -/
theorem witness_CountAndWordWaits :
    let C : Instr := .waitcnt p 0 0
    let s := loaded C 0
    let failed := fun (stamp : Nat) => s.modGroup 0 fun g => { g with failed := [⟨0, 7, 0x1000⟩], landed := [(0, stamp)] }
    let one := { s with ops := [(77, ⟨0, 0, 0, some 2, some 1, 0, 0, 0, 0, false, 0, 0, 0, .kset 0 .i8 0 0⟩)] }
    let asked := fun (i : Instr) (s : State) (md : Mode) (h : X → Res → Bool) => meets i s fun x =>
      match (begun i s x).resolve x false md false [⟨lowLane x.lanes, 0, memAddr m4 x.g false 4 (lowLane x.lanes), 4, false⟩] with
      | .ok [r] => h x r
      | _ => false
    let read := fun (i : Instr) (s : State) => asked i s .read fun x r =>
      let h := (begun i s x).homeRead (r.pa / 128) (wordBit (r.pa / 4 % 32)) r.cls (begun i s x).hostWho (fun _ => 0) (some ((begun i s x).ctxOf x.g.launch))
      h.abort.isNone && (h.s.clashOf homeReader (x.who h.s false r.lane .none) (x.kind false r.lane .dev) false r).isNone && h.s.homeWord r.pa == 0
    let gone := fun (i : Instr) (s : State) => asked i s .read fun x r =>
      ((begun i s x).homeRead (r.pa / 128) (wordBit (r.pa / 4 % 32)) r.cls (begun i s x).hostWho (fun _ => 0) (some ((begun i s x).ctxOf x.g.launch))).abort.isSome
    let W : Instr := .waitw p .dev m4
    let far := loaded W 0 fun g => g.sset 5 1
    meets C s (fun x => decide ((begun C s x).count x.g 0 ≤ 0) && x.g.failed.isEmpty) = true ∧
    ([(0, true), (99, false)] : List (Nat × Bool)).all (fun c => meets C (failed c.1) fun x => decide ((begun C (failed c.1) x).count x.g 0 ≤ 0) && x.g.failed.length == 1 &&
      decide (Table.get 0 x.g.landed 0 ≤ (failed c.1).now) == c.2) = true ∧
    meets C one (fun x => decide (0 < (begun C one x).count x.g 0)) = true ∧
    ([.waitcmp p ⟨.ge, false⟩ .dev (.v 3) m4, .waitcmp p ⟨.gt, false⟩ .dev (.v 3) m4] : List Instr).all (fun i => read i (loaded i 0x1000) && gone i { loaded i 0x1000 with spoilt := [0x400] }) = true ∧
    ([0, 1] : List Word).map (fun w => let s := loaded W 0x1000
      let s := s.setEntry 0x20 { s.entry 0x20 with lost := w }
      asked W s .inval fun x r => place r.pa == .local && ((begun W s x).badNewest r.pa).isNone) = [true, false] ∧ asked W far .inval (fun x r => place r.pa == .host && !x.f.hostOk) = true := by decide +kernel

/-- Each pennant instruction on pennant 0 with the group a member; a join and a leave that are pending; an expectation in range, zero
and too large; a group with no member in the pennant; the grid's pennant and one that the launch does not declare. -/
theorem witness_Pennants :
    let at_ := fun (i : Instr) (f : Pennant → Pennant) (h : X → Nat → Pennant → Bool) =>
      let s := (loaded i 0).modWg 2 fun w => { w with pens := w.pens.map fun e => (e.1, f e.2) }
      meets i s fun x => match (begun i s x).penRef x.g 0 with
        | .inl r => match s.pen? r with
          | some q => h x (s.member r x.g) q && !(begun i s x).owedTo x.g .wg
          | none => false
        | .inr _ => false
    let none_ := fun (q : Pennant) => { q with members := [] }
    at_ (.pjoin p 0) none_ (fun _ m q => !q.members.contains m && !q.joining.contains m) = true ∧
    at_ (.pjoin p 0) id (fun _ m q => q.members.contains m) = true ∧ at_ (.pleave p 0) none_ (fun _ m q => !q.members.contains m) = true ∧
    at_ (.pleave p 0) id (fun _ m q => q.members.contains m && !q.arrived.contains m && !q.leaving.contains m) = true ∧
    at_ (.pleave p 0) (fun q => { q with leaving := q.members }) (fun _ m q => q.leaving.contains m) = true ∧
    at_ (.pleave p 0) (fun q => { q with arrived := q.members }) (fun _ m q => q.members.contains m && q.arrived.contains m && !q.leaving.contains m) = true ∧
    ([65535, 65536, 0] : List (BitVec 18)).map (fun v => at_ (.pexpect p 0 (.i v)) id fun x _ q => decide ((SIval x.g (.i v)).toNat ≤ 65535 ∧ (SIval x.g (.i v)).toNat ≠ 0 ∧
      q.e + (SIval x.g (.i v)).toNat ≤ 2 ^ 20 - 1)) = [true, false, false] ∧
    ([.parrive p 0, .psync p 0, .pwait p 0] : List Instr).all (fun i => at_ i id (fun _ m q => q.members.contains m) && at_ i none_ fun _ m q => !q.members.contains m) = true ∧
    meets (.pwait p 63) (loaded (.pwait p 63) 0) (fun x => match (begun (.pwait p 63) (loaded (.pwait p 63) 0) x).penRef x.g 63 with
      | .inr kind => kind == 0x32 || kind == 0x30
      | .inl _ => true) = true ∧
    (let none := { loaded (.pwait p 40) 0 with launches := (loaded (.pwait p 40) 0).launches.map fun l => (l.1, { l.2 with lrec := { l.2.lrec with pens := 0 } }) }
     meets (.pwait p 40) none fun x => match (begun (.pwait p 40) none x).penRef x.g 0 with
      | .inr kind => kind == 0x30
      | .inl _ => false) = true ∧
    (let q := Pennant.start [0]
     q.half = [] ∧ q.arrived = [] ∧ q.later = [] ∧ q.expected ≤ q.a + 1 ∧ (q.expect 2).a + 1 < (q.expect 2).expected) := by decide +kernel

/-- A ring of two slots in each state that an instruction of rings asks for, and a slot that does not exist; a token of the context and
one of no context. -/
theorem witness_RingsAndTokens :
    let on := fun (i : Instr) (f : Ring → Ring) (h : Ring → Bool) =>
      let s := (loaded i 0).modWg 2 fun w => { w with rings := w.rings.map fun e => (e.1, f e.2) }
      meets i s fun x => x.g.wg == some 2 && !(begun i s x).owedTo x.g .wg && ((s.ring? 2 3).map h).getD false
    let slots := fun (a b : Slot) (r : Ring) => { r with slots := [a, b] }
    on (.racq p 5 3) id (fun r => r.slot r.prod == .free) = true ∧ on (.racq p 5 3) (slots .held .held) (fun r => r.slot r.prod != .free) = true ∧
    on (.rtake p 5 3) (slots .full .free) (fun r => r.slot r.cons == .full) = true ∧ on (.rtake p 5 3) id (fun r => r.slot r.cons != .full) = true ∧
    on (.rpub p 3 (.i 1)) (slots .free .held) (fun r => decide (1 < r.slots.length) && r.slot 1 == .held && !r.early.contains 1 && r.slot 0 != .held) = true ∧
    on (.rpub p 3 (.i 1)) (slots .held .held) (fun r => r.slot 1 == .held && !r.early.contains 1 && r.slot 0 == .held && r.prod != 1) = true ∧
    on (.rpub p 3 (.i 2)) id (fun r => decide (r.slots.length ≤ 2)) = true ∧
    on (.rfree p 3 (.i 0)) (slots .taken .free) (fun r => r.slot 0 == .taken) = true ∧ on (.rfree p 3 (.i 0)) id (fun r => r.slot 0 != .taken) = true ∧
    meets (.racq p 5 3) ((loaded (.racq p 5 3) 0).modWg 2 fun w => { w with rings := [] }) (fun x => x.g.wg == some 2) = true ∧
    (let T : Instr := .tsig p (.i 5) (.i 9)
     let s := loaded T 0
     let own := { s with ctxs := s.ctxs.map fun c => (c.1, { c.2 with tok := 4, ntok := 2 }) }
     meets T own (fun x => own.ownsToken (own.ctxOf x.g.launch) 5 && !(begun T own x).owedTo x.g .sys) = true ∧
     meets T s (fun x => !s.ownsToken (s.ctxOf x.g.launch) 5) = true) := by decide +kernel
/-- A record of a 4 by 4 table of 32-bit elements with tiles of 4 by 4, at 0x2000. -/
def recordAt (s : State) (bytes : List Byte) : State := { s with mem := s.mem.setBytes 0x2000 bytes }
def recordBytes : List Byte := leBytes 8 0x3000 ++ leBytes 8 512 ++ leBytes 4 4 ++ leBytes 4 4 ++ [0, 3] ++ leBytes 2 4 ++ leBytes 2 0 ++ [1, 0]

/-- A copy whose record is at 0x2000: valid, invalid, of a format the copy does not take, too large for the workgroup's scratchpad, lost,
at an address of no page and of a page to be filled; a multicast; a block with a misaligned record address; and 4,096 copies outstanding. -/
theorem witness_CopyIssue : let start := fun (i : Instr) (addr dest : Word) => loaded i 0 fun g => (((g.sset 8 addr).sset 11 dest).sset 4 0x3000)
    let cpy : Instr := .cpy p 8
    let at_ := fun (i : Instr) (k : CopyKind) (s : State) (h : State → X → TRec → Bool) => meets i s fun x =>
      (begun i s x).blockOk x.g k (x.g.octet 8) && decide ((begun i s x).count x.g 0 < 4096) &&
      match (begun i s x).engTranslate x.core ((begun i s x).ctxOf x.g.launch) (readBlock (x.g.octet 8)).recAddr false with
      | .ok t (pa, cls) =>
        let q := t.homeRead (pa / 128) (BitVec.allOnes 32) cls t.hostWho (fun _ => 0) (some ((begun i s x).ctxOf x.g.launch))
        !t.lineBusy (pa / 128) && q.abort.isNone &&
          ((readRecord ((List.range 128).map fun j => q.s.homeByte (pa + j))).map (h q.s x)).getD false
      | _ => false
    let good := recordAt (start cpy 0x2000 0) recordBytes
    at_ cpy .cpy good (fun t x r => recStatus .cpy (readBlock (x.g.octet 8)) r == 0 && t.destOf x.g .cpy (readBlock (x.g.octet 8)) r == some ([2], none, [])) = true ∧
    at_ cpy .cpy (recordAt (start cpy 0x2000 786400) recordBytes) (fun t x r => recStatus .cpy (readBlock (x.g.octet 8)) r == 0 && (t.destOf x.g .cpy (readBlock (x.g.octet 8)) r).isNone) = true ∧
    at_ (.cpyr p 8) .cpyr (recordAt (start (.cpyr p 8) 0x2000 0) (recordBytes.set 30 0)) (fun _ x r => recStatus .cpyr (readBlock (x.g.octet 8)) r == 1) = true ∧
    readRecord (List.replicate 128 0) = none ∧
    meets cpy (good.setEntry 0x40 { good.entry 0x40 with lost := 1 }) (fun x => match (begun cpy (good.setEntry 0x40 { good.entry 0x40 with lost := 1 }) x).engTranslate x.core 1 0x2000 false with
      | .ok t (pa, cls) => (t.homeRead (pa / 128) (BitVec.allOnes 32) cls t.hostWho (fun _ => 0) (some 1)).abort.isSome
      | _ => false) = true ∧
    meets cpy (loaded cpy 0 fun g => (g.sset 8 0x40000000).sset 9 1) (fun x => (begun cpy (loaded cpy 0 fun g => (g.sset 8 0x40000000).sset 9 1) x).blockOk x.g .cpy (x.g.octet 8) &&
      match (begun cpy (loaded cpy 0 fun g => (g.sset 8 0x40000000).sset 9 1) x).engTranslate x.core 1 0x140000000 false with
      | .bad _ _ => true
      | _ => false) = true ∧
    (let cast := recordAt (loaded cpy 0 fun g => ((((g.sset 8 0x2000).sset 10 0x80000000).sset 11 0x100000).sset 4 0x3000)) recordBytes
     at_ cpy .cpy cast fun t x r => (readBlock (x.g.octet 8)).dkind == 2 && !zeroTile .cpy (readBlock (x.g.octet 8)) r && recStatus .cpy (readBlock (x.g.octet 8)) r == 0 &&
       t.destOf x.g .cpy (readBlock (x.g.octet 8)) r == some ([2], none, [])) = true ∧
    (let empty := { loaded cpy 0 fun g => (g.sset 8 0x40000000).sset 9 1 with mem := (loaded cpy 0).mem.setDword (placedRoot + 0x2028) (pteSetPop 0xC300000000000000 1) }
     meets cpy empty fun x => (begun cpy empty x).blockOk x.g .cpy (x.g.octet 8) && match (begun cpy empty x).engTranslate x.core 1 0x140000000 false with
      | .wait _ _ => true
      | _ => false) = true ∧
    (let many := { start cpy 0x2000 0 with ops := (List.range 4096).map fun n => (n, ⟨0, 0, 0, some 2, some 1, 0, 0, 0, 0, false, 0, 0, 0, .mapbit 0 0 0⟩) }
     meets cpy many fun x => (begun cpy many x).blockOk x.g .cpy (x.g.octet 8) && decide (4096 ≤ (begun cpy many x).count x.g 0)) = true ∧
    meets cpy (loaded cpy 0 fun g => g.sset 8 4) (fun x => !(begun cpy (loaded cpy 0 fun g => g.sset 8 4) x).blockOk x.g .cpy (x.g.octet 8)) = true := by decide +kernel

/-- An operation that holds an accumulator, a slot or a tensor id. -/
def holding (s : State) (k : OpKind) : State := { s with ops := [(77, ⟨0, 0, 0, some 2, some 1, 0, 0, 5, 0, false, 0, 0, 0, k⟩)] }
def aPass (acc slot tid : Nat) : OpKind := .pass ⟨acc, 0, slot, 4, 0, [], [], tid, false, 1, false, 0⟩

theorem witness_MatrixState : ([(.mzero p 5, Use.of [5] [] []), (.krel p 2, Use.of [] [2] []), (.scdrop p 5, ⟨[], [], [], some 5⟩), (.scbind p 5 4, ⟨[], [], [], some 5⟩)] : List (Instr × Use)).all
      (fun c => meets c.1 (loaded c.1 0x1000) (fun x => !(begun c.1 (loaded c.1 0x1000) x).matBusy x c.2) &&
        meets c.1 (holding (loaded c.1 0x1000) (aPass 5 2 5)) fun x => (begun c.1 (holding (loaded c.1 0x1000) (aPass 5 2 5)) x).matBusy x c.2) = true ∧
    (let bind : Instr := .scbind p 5 4
     let far := loaded bind 0 fun g => g.sset 5 0x02000000
     let hole := loaded bind 0 fun g => g.sset 5 1
     meets bind far (fun x => decide (2 ^ 57 ≤ (x.g.sget2 4).toNat)) = true ∧
     meets bind hole (fun x => decide ((x.g.sget2 4).toNat < 2 ^ 57) && (begun bind (loaded bind 0) x).translate x.core 1 0x140000000 == .fault) = true) ∧
    ((loaded (.krel p 2) 0).mat 0 0).slotsAt 2 = [] := by decide +kernel

/-- A unit whose slot 2 holds eight-bit elements, and a fragment of the same A format. -/
def matrixReady (i : Instr) (f : Fmt) : State :=
  let s := (loaded i 0x1000).modFrag 0 0 fun r => { r with fmt := 3 }
  s.setMat 0 0 { s.mat 0 0 with kiln := [(2, ⟨f, [], [], 0, []⟩)] }

theorem witness_MatrixIssue : let kset := fun (n : BitVec 3) (f : Fmt) => Instr.kset p f n 8 9
    let set := fun (a b : Word) (g : Group) => (g.sset 8 a).sset 9 b
    ([(kset 2 .i8, (set 0 0), false, false, false), (kset 1 .f16, (set 0 0), true, false, false), (kset 2 .i8, (set 64 0), false, true, false), (kset 2 .tf8, (set 0 786432), false, false, true)] :
      List (Instr × (Group → Group) × Bool × Bool × Bool)).all (fun c => meets c.1 (loaded c.1 0 c.2.1) fun x => match c.1 with
        | .kset _ fm k a b => !(begun c.1 (loaded c.1 0 c.2.1) x).matBusy x (Use.of [] (slotKeys fm k.toNat) []) && (isHalf fm && k.toNat % 2 == 1) == c.2.2.1 &&
            decide ((x.g.sget a.toNat).toNat % 128 ≠ 0 ∨ 786432 < (x.g.sget a.toNat).toNat + ksetBytes fm) == c.2.2.2.1 &&
            decide ((x.g.sget b.toNat).toNat % 128 ≠ 0 ∨ scaled fm = true ∧ 786432 < (x.g.sget b.toNat).toNat + 512) == c.2.2.2.2 && decide ((begun c.1 (loaded c.1 0 c.2.1) x).count x.g 1 < 4096)
        | _ => false) = true ∧
    meets (kset 2 .i8) (holding (loaded (kset 2 .i8) 0) (aPass 5 2 5)) (fun x => (begun (kset 2 .i8) (holding (loaded (kset 2 .i8) 0) (aPass 5 2 5)) x).matBusy x (Use.of [] [2] [])) = true := by decide +kernel

theorem witness_MatrixIssue_products :
    let m : Instr := .mma p ⟨0, 0⟩ false 1 5 0 4 2 3
    let far : Instr := .mma p ⟨0, 0⟩ false 1 63 0 4 2 3
    let msp : Instr := .mmasp p ⟨2, 6⟩ false 1 5 0 4 2 3
    ([(m, .i8, true), (m, .f16, false), (far, .i8, true)] : List (Instr × Fmt × Bool)).all (fun c => meets c.1 ((matrixReady c.1 c.2.1).modFrag 0 0 fun f => { f with mask := 0x103 }) fun x =>
      !(begun c.1 (matrixReady c.1 c.2.1) x).matBusy x (mmaUse x 5 2) && x.lanes == 0x103 && (match Table.find ((begun c.1 (matrixReady c.1 c.2.1) x).mat x.core (partOf x.k)).kiln 2 with
        | some slot => aFmt (x.f.fmt.toNat % 8) == some .i8 && combines .i8 slot.fmt == c.2.2
        | none => false)) = true ∧ needPos false .i8 4 ≤ extSize ⟨0, 0⟩ ∧ (octets 3 = [0]) ∧
    ([0x44444444, 0x44444404] : List Word).map (fun w => meets msp ((matrixReady msp .i8).modGroup 0 fun g => [134, 135, 136, 137].foldl (fun g r => (g.vset r 0 w).vset r 1 w) g) fun x =>
      [0, 1].all fun l => metaOk .i8 ((blockRegs ⟨2, 6⟩ 4).map fun r => x.g.vget r l)) = [true, false] ∧
    (let late := (matrixReady m .i8).setMat 0 0 { (matrixReady m .i8).mat 0 0 with next := 5 }
     meets m late (fun x => decide (late.clk < ((begun m late x).mat x.core (partOf x.k)).next)) = true ∧
     meets m (matrixReady m .i8) (fun x => decide (((begun m (matrixReady m .i8) x).mat x.core (partOf x.k)).next ≤ (matrixReady m .i8).clk)) = true) := by decide +kernel

theorem witness_MatrixIssue_tiles :
    ([(0x1000, none), (0x1008, some 0x11)] : List (Word × Option Nat)).all (fun c => let i : Instr := .mload p .f32 5 false m4
      meets i (loaded i c.1) fun x => !(begun i (loaded i c.1) x).matBusy x (Use.of [5] [] []) && (((begun i (loaded i c.1) x).tileFault x false false
        (memAddr m4 x.g false 16 (lowLane x.f.mask)) 4096).map fun e => e.kind) == c.2) = true ∧
    (let d : Instr := .mdrain p false .f32 1 5 true false 0 m4
     let pub : Instr := .mdrain p false .f32 1 5 true true 3 m4
     meets d (loaded d 0x100) (fun x => !(begun d (loaded d 0x100) x).matBusy x (Use.of [5] [] []) && ((begun d (loaded d 0x100) x).tileFault x true true 0x100 4096).isNone &&
       decide ((begun d (loaded d 0x100) x).count x.g 1 < 4096)) = true ∧
     meets pub (loaded pub 0x300) (fun x => ((x.g.wg.bind fun w => (begun pub (loaded pub 0x300) x).ring? w 3).bind fun r => r.heldAt 0x300 4096).isNone) = true ∧
     meets pub ((loaded pub 0).modWg 2 fun w => { w with rings := [(3, ⟨0, 8192, 0, 0, [.held, .free], [false, false], [], [0, 0]⟩)] }) (fun x =>
       ((x.g.wg.bind fun w => (begun pub ((loaded pub 0).modWg 2 fun w => { w with rings := [(3, ⟨0, 8192, 0, 0, [.held, .free], [false, false], [], [0, 0]⟩)] }) x).ring? w 3).bind
         fun r => r.heldAt 0 4096).isSome) = true) := by decide +kernel
/-- A walk of four points whose list is at 0x1000 and whose map is at 0x3000. -/
def walk4 (map : Nat) : Walk := ⟨map, 0x4000, 2, 1, 1, 4, 0x1000, [], [0, 1], [], []⟩
def walking (i : Instr) (map : Nat) (f : Group → Group := id) : State := loaded i 0x1000 fun g => f { g with walk := some (walk4 map) }

theorem witness_Walker : let set : Instr := .itset p 8
    let good := fun (g : Group) => ((g.sset 10 1).sset 11 0x20101)
    meets set (loaded set 0 good) (fun x => x.g.walk.isNone && !walkBad (x.g.octet 8)) = true ∧ meets set (loaded set 0) (fun x => walkBad (x.g.octet 8)) = true ∧
    ([.itnext p 5, .itdone p 5, .itend p] : List Instr).all (fun i => meets i (loaded i 0) (fun x => x.g.walk.isNone) && meets i (walking i 0) fun x => x.g.walk.isSome) = true ∧
    runs (.resq p 5 m4) = true ∧
    meets (.itend p) (walking (.itend p) 0) (fun x => (begun (.itend p) (walking (.itend p) 0) x).count x.g 2 == 0) = true ∧
    meets (.itnext p 5) (walking (.itnext p 5) 0) (fun x =>
      let b := begun (.itnext p 5) (walking (.itnext p 5) 0) x
      let asks : List Ask := (walk4 0).window.map fun i => ⟨lowLane x.f.mask, i, 0x1000 + 4 * i, 4, false⟩
      asks.all (fun a => decide (a.addr < 2 ^ 57)) && match b.translateAll x false asks with
        | .ok rs => rs.all (fun r => !b.lineBusy (r.pa / 128)) && (b.prepAll (fun t l cl k => t.homeRead l k cl (x.walker b) (fun _ => 0xF) (some (b.ctxOf x.g.launch))) (linesOf rs)).abort.isNone
        | _ => false) = true ∧
    ([0, 4096] : List Nat).map (fun n => let s := { walking (.itnext p 5) 0 with prefetches := List.replicate n ⟨9, 0, 0x1000, .dc, true, 0, 1⟩ }
      meets (.itnext p 5) s fun x => let b := begun (.itnext p 5) s x
        let asks : List Ask := (walk4 0).window.map fun i => ⟨lowLane x.f.mask, i, 0x1000 + 4 * i, 4, false⟩
        match b.translateAll x false asks with
        | .ok rs => let c := (b.prepAll (fun t l cl k => t.homeRead l k cl (x.walker b) (fun _ => 0xF) (some (b.ctxOf x.g.launch))) (linesOf rs)).s
          let vals : Table Word := rs.map fun r => (r.pos, c.homeWord r.pa)
          (c.scanPrefetch x (walk4 0) vals (c.sights x (walk4 0) vals).2.2).2.2
        | _ => false) = [true, false] ∧
    ([(0, 1, true), (0, 7, false), (0x3000, 1, true)] : List (Nat × Word × Bool)).all (fun c => let f := fun (g : Group) => (g.vset 5 0 c.2.1).vset 5 1 0xFFFFFFFE
      meets (.itdone p 5) (walking (.itdone p 5) c.1 f) fun x =>
        let named := ((lanesOf x.lanes).map fun l => (l, (x.g.vget 5 l).toNat)).filter fun c => c.2 != 0xFFFFFFFE && c.2 != 0xFFFFFFFF
        (named.filter fun c => !(walk4 0).handed.contains c.2 || (walk4 0).done.contains c.2).isEmpty == c.2.2 && decide ((begun (.itdone p 5) (walking (.itdone p 5) c.1 f) x).count x.g 2 + 1 ≤ 4096) &&
        checked ((begun (.itdone p 5) (walking (.itdone p 5) c.1 f) x).resolve x false (.red .or) false (named.map fun c => ⟨c.1, c.2, 0x3000 + 4 * (c.2 / 32), 4, false⟩)) == .passed) = true := by decide +kernel

/-- A map write of a fragment of a group that has 4,096 outstanding. -/
theorem witness_Walker_full : let i : Instr := .itdone p 5
    let s := { walking i 0x3000 fun g => (g.vset 5 0 1).vset 5 1 0xFFFFFFFE with ops := (List.range 4096).map fun n => (n, ⟨0, 0, 0, some 2, some 1, 0, 0, 2, 0, false, 0, 0, 0, .mapbit 0x8000 0 0⟩) }
    meets i s (fun x => decide (4096 < (begun i s x).count x.g 2 + 1)) = true ∧
    meets (.itend p) { walking (.itend p) 0 with ops := s.ops } (fun x => (begun (.itend p) { walking (.itend p) 0 with ops := s.ops } x).count x.g 2 != 0) = true := by decide +kernel

/-- A queue with an item of the launch that is as old as the timeout, or not. -/
theorem witness_Spawning : let sp : Instr := .spawn p 8 (.i 3)
    let queue := fun (s : State) (n : Nat) (launch : Nat) => s.modCore 0 fun c => { c with items := List.replicate n ⟨launch, some 1, 36, [], 0, 0⟩ }
    let s := loaded sp 0
    meets sp (owing s) (fun x => (begun sp (owing s) x).owedTo x.g .dev) = true ∧
    meets sp s (fun x => !(begun sp s x).owedTo x.g .dev && decide (((begun sp s x).core x.core).items.length + 2 ≤ 1024) && ((Table.find s.launches x.g.launch).map fun l => l.lrec.spawn != 0).getD false) = true ∧
    meets sp { s with launches := s.launches.map fun l => (l.1, { l.2 with lrec := { l.2.lrec with spawn := 0 } }) } (fun x => x.g.launch == 0) = true ∧
    meets (.spq p) (queue (loaded (.spq p) 0) 1 9) (fun x => ((begun (.spq p) (queue (loaded (.spq p) 0) 1 9) x).core x.core).items.all fun i => i.launch != x.g.launch) = true ∧
    meets (.spq p) (queue (loaded (.spq p) 0) 1 0) (fun x => ((begun (.spq p) (queue (loaded (.spq p) 0) 1 0) x).core x.core).items.any fun i => i.launch == x.g.launch) = true ∧
    (let t := (queue s 1 9).modFrag 0 0 fun f => { f with wait := .room 8 3 3 }
     ((t.group? 0).bind fun g => g.frag 0).any (fun f => f.wait == .room 8 3 3) = true ∧ (t.core (coreOf 0)).items.length + (lanesOf 3).length ≤ 1024) ∧
    (let t := (queue s 1 9).modFrag 0 0 fun f => { f with wait := .spq }
     ((t.group? 0).bind fun g => g.frag 0).any (fun f => f.wait == .spq) = true ∧ (t.core (coreOf 0)).items.all (fun i => i.launch != 0) = true) ∧
    ([0, 2048] : List Nat).map (fun n => ((({ queue s 1 0 with clk := n } : State).core 0).items.filter fun i => i.launch == 0 && i.pc == 36).all fun i => decide (i.clk + 2048 ≤ n)) = [false, true] := by decide +kernel

theorem witness_Spawning_full : let sp : Instr := .spawn p 8 (.i 3)
    let s := (loaded sp 0).modCore 0 fun c => { c with items := List.replicate 1023 ⟨9, some 1, 36, [], 0, 0⟩ }
    meets sp s (fun x => decide (1024 < ((begun sp s x).core x.core).items.length + (lanesOf x.lanes).length) && !(begun sp s x).owedTo x.g .dev) = true := by decide +kernel

/-- A row of four 32-bit elements of a copy with one row left, in the given place. -/
def row4 (kind : CopyKind) (dkind row : Nat) (base : Nat) (tgt : Option (Nat × Nat)) (dests regs : List Nat) : OpKind :=
  .copy ⟨kind, ⟨0, 0, 0, dkind, 0, 15, false, 0, 0, false, 0, 1, 0x2000⟩, some ⟨base, 512, 4, 4, .f32, 4, 4, 16, false, false, 0, 0, 0⟩, 4, [], row, 0, 0, 1, 0, [], false, dests, tgt, regs, false, none⟩
/-- The placed program with a protected context and a descriptor of one scratchpad line in `s8` to `s11`. -/
def protecting (i : Instr) (base : Word) (f : Group → Group := id) : State :=
  let s := loaded i base fun g => f ((g.sset 8 1).sset 10 128)
  { s with ctxs := s.ctxs.map fun c => (c.1, { c.2 with prot := true }) }

theorem witness_SealedImages : let save : Instr := .sealsave p 3 4 8
    let load : Instr := .sealload p 3 4 8
    let last := fun (i : Instr) => { protecting i 0x1000 with ctxs := (protecting i 0x1000).ctxs.map fun c => (c.1, { c.2 with latest := [(3, 2 ^ 64 - 1)] }) }
    let landing := fun (i : Instr) => { protecting i 0x1000 fun g => (g.sset 8 0).sset 10 1 with ops := [(77, ⟨0, 0, 0, some 2, some 1, 0, 0, 0, 0, false, 0, 0, 0, row4 .cpy 1 0 0x3000 (some (0, 0)) [] [0]⟩)] }
    ([save, load] : List Instr).all (fun i =>
      meets i (protecting i 0x1000 fun g => g.sset 11 1) (fun x => ((begun i (protecting i 0x1000 fun g => g.sset 11 1) x).descOf x.g 8).isNone) &&
      meets i (protecting i 0x1004) (fun x => (begun i (protecting i 0x1004) x).descOf x.g 8 == some ⟨1, 0, 128⟩) &&
      meets i (loaded i 0x1000 fun g => g.sset 10 1) (fun x => (begun i (loaded i 0x1000 fun g => g.sset 10 1) x).descOf x.g 8 == some ⟨0, 0, 1⟩) &&
      meets i (landing i) fun x => (begun i (landing i) x).descOf x.g 8 == some ⟨0, 0, 1⟩ && (begun i (landing i) x).descHeld x ⟨0, 0, 1⟩) = true ∧
    ([save, load] : List Instr).all (fun i => meets i (last i) fun x => (begun i (last i) x).descOf x.g 8 == some ⟨1, 0, 128⟩) = true ∧
    meets save (protecting save 0x1000) (fun x => let b := begun save (protecting save 0x1000) x
      let d : Desc := ⟨1, 0, 128⟩
      !b.descHeld x d && spadChecked (b.spadResolve x true ownSpad (d.lines.map fun (n : Nat) => ⟨lowLane x.f.mask, 128 * n, 4⟩)) == .passed && match b.resolve x true .write false (imageAsks x 0x1000 192) with
      | .ok rs =>
        let c := (b.readDesc x d).1.readUnder x rs
        let q := sortOut ((c.fetchFor x.core (rs.filter fun r => r.size < 4)).mergeAll rs) (fun t a w => t.storeBad x.core a w) rs
        let u := (q.s.prepAll (State.prepWrite x.core (if wholeLine rs && rs.all fun a => a.cls == .dc then 3 else 0)) (linesOf q.ok)).s
        (b.readDesc x d).2.1 == 0 && (failed x true (c.permitted .write false rs) Res.at rs).isNone && q.bad.isEmpty &&
          rs.all fun r => (u.clashOf x.core (x.who u true r.lane .none) (x.kind true r.lane .none) true r).isNone
      | _ => false) = true ∧
    meets load (protecting load 0x1000) (fun x => let b := begun load (protecting load 0x1000) x
      match b.resolve x true .read false (imageAsks x 0x1000 192) with
      | .ok rs => let whole := wholeLine rs
        let q := sortOut (((b.readFor x rs).fetchFor x.core rs).mergeAll rs) (fun t _ w => t.badAt (if whole then homeReader else x.core) w) rs
        let v := (q.s.prepAll (State.prepRead x.core 0 whole) (linesOf q.ok)).s
        (b.pendingLine x.g (Desc.mk 1 0 128).lines).isNone && q.bad.isEmpty && rs.all fun r => (v.clashOf x.core (x.reader v true .none r) (x.kind true r.lane .none) false r).isNone
      | _ => false) = true := by decide +kernel

/-- A leaf that may be written and one that may not, at an address with and without tables; a pool with a frame and an empty one. -/
theorem witness_PagesAndPools : let ptew : Instr := .ptew p 4 6
    let pool : Instr := .poolget p 4
    let s := loaded ptew 0x40001000 fun g => g.sset 7 0xC3000000
    meets ptew s (fun x => match (begun ptew s x).walk ((begun ptew s x).ctxOf x.g.launch) (x.g.sget2 4).toNat with
      | .leaf _ lv _ => leafForm (x.g.sget2 6) lv && !leafForm 4 lv && !(begun ptew s x).owedTo x.g .dev
      | _ => false) = true ∧
    meets ptew (loaded ptew 0 fun g => g.sset 5 0x100000) (fun x => match (begun ptew (loaded ptew 0 fun g => g.sset 5 0x100000) x).walk 1 (x.g.sget2 4).toNat with
      | .bad => true
      | _ => false) = true ∧
    meets pool (loaded pool 0) (fun x => ((Table.find (begun pool (loaded pool 0) x).ctxs 1).map fun y => y.pool x.g.poolSize) == some []) = true ∧
    (let t := { loaded pool 0 with ctxs := (loaded pool 0).ctxs.map fun c => (c.1, c.2.setPool 0 [0x100000]) }
     meets pool t (fun x => ((Table.find (begun pool t x).ctxs 1).map fun y => y.pool x.g.poolSize) == some [0x100000]) = true) ∧ runs (.fltinfo p 4) = true := by decide +kernel

/-- A state whose health record has just been built, in all that its rebuilding looks at. -/
def quiet (s : State) : State := { s with health := { s.health with record := s.shown, tb := s.tb } }

theorem quiet_built (s : State) : (quiet s).rebuildDue = false := by
  simp [State.rebuildDue, quiet, State.shown, State.now, rebuildTime, State.core]

theorem changed_self (s : State) : s.changed (.next s) = none := by simp [State.changed]

/-- The placed program before its first issue, with no ring and nothing due; and the device with no group at all. -/
def unissued : State := quiet ({ placed (.nop p true) with cur := none }.modWg 2 fun w => { w with rings := [] })
def empty : State := quiet State.reset

/-- What is due where nothing is but what the health record could ask for. -/
theorem nothing_due {s : State} (hb : s.rebuildDue = false) (hm : execCoreMapChange s = .next s) (he : execErrorFilterEpoch s = .next s)
    (h : [s.yieldAny, s.msgs.findSome? s.deliverMsg, s.joinAny, s.wakeAny, s.brokenPen.bind fun r => s.changed (execBrokenPennant r s), s.sayStuck,
      s.wgs.findSome? fun w => w.2.rings.findSome? fun r => s.changed (execRingPublishDeferred w.1 r.1 s), s.ops.findSome? fun o => s.advance o.1 o.2,
      s.prefetches.findSome? fun p => s.changed (execPrefetchLands p.id s), s.bursts.findSome? fun b => s.changed (execBurstComplete b.id true s),
      s.spread, s.fills.findSome? fun f => s.try (s.fillPool f), s.packAny, s.cmds.findSome? s.work, s.startAny, s.takeBuffered, s.penAhead,
      s.parked.findSome? fun q => s.try (some (s.unparkRequest q)), s.pump, s.reportReady, s.dropAny, s.scanAny].all (·.isNone) = true) :
    s.due = none := by
  have hh : execHealthRebuild s = .next s := by simp [execHealthRebuild, hb]
  simp only [List.all_cons, List.all_nil, Bool.and_true, Bool.and_eq_true, Option.isNone_iff_eq_none] at h
  obtain ⟨h1, h2, h3, h4, h5, h6, h7, h8, h9, h10, h11, h12, h13, h14, h15, h16, h17, h18, h19, h20, h21, h22⟩ := h
  rw [State.due, List.findSome?_eq_none_iff]
  intro f hf
  simp only [List.mem_cons, List.not_mem_nil, or_false] at hf
  rcases hf with rfl | rfl | rfl | rfl | rfl | rfl | rfl | rfl | rfl | rfl | rfl | rfl | rfl | rfl | rfl | rfl | rfl | rfl | rfl | rfl | rfl | rfl | rfl | rfl | rfl
  exacts [h1, h2, h3, h4, h5, h6, h7, h8, h9, h10, h11, h12, h13, h14, h15, h16, h17, h18, h19, h20, h21, h22, by rw [hm]; exact changed_self s, by rw [he]; exact changed_self s, by rw [hh]; exact changed_self s]

theorem unissued_due : unissued.due = none := nothing_due (quiet_built _) rfl rfl (by decide +kernel)
theorem empty_due : empty.due = none := nothing_due (quiet_built _) rfl rfl (by decide +kernel)

/-- One ready fragment, overdue or not, chosen alone or before another, and with nothing else due; and nothing ready. -/
theorem witness_IssueAndTime : let s := { placed (.nop p true) with cur := none }
    let late := s.modCore 0 fun c => { c with overdue := [(0, 0)] }
    let passed := s.modCore 0 fun c => { c with passed := [(0, 64)] }
    let c : Cur := ⟨0, 0, [(0, 1)]⟩
    (s.fatal = false ∧ (s.readyOn 0 0).length = 1 ∧ (s.core 0).overdue = []) ∧
    ((late.core 0).overdue = [(0, 0)] ∧ (late.readyOn 0 0).any (fun c => (c.1, c.2.1) == (0, 0)) = true) ∧
    (let split := late.modGroup 0 fun g => { g with frags := g.frags.flatMap fun c => [(0, { c.2 with mask := 1, wait := .host }), (1, { c.2 with mask := 2 })] }
     ((split.core 0).overdue.filter fun o => partOf o.1 == 0 && ((split.group? o.1).bind fun g => g.frag o.2).isSome) = [(0, 0)] ∧
       (split.readyOn 0 0).map (fun c => (c.1, c.2.1)) = [(0, 1)]) ∧
    (c.en < 128 ∧ c.others.all (fun o => coreOf o.1 == coreOf c.g && decide (o.2 < 128)) = true ∧ c.others.Nodup ∧ (c.g, c.en) ∉ c.others) ∧
    (((s.group? 0).bind fun g => g.frag 0).isSome = true ∧ s.passes 0 0 < 64 ∧ 64 ≤ passed.passes 0 0 ∧ (0, 0) ∉ (passed.core 0).overdue) ∧
    (unissued.agenda = [] ∧ unissued.cur = none ∧ unissued.nextPart = some (0, 0)) ∧ (empty.agenda = [] ∧ empty.cur = none ∧ empty.nextPart = none ∧ 0 < empty.mhz) := by decide +kernel
/-! ### Hypotheses that can be met: device steps -/

/-- The placed program with its fragment in a wait. -/
def waiting (w : Wait) (f : Group → Group := id) : State :=
  ((mapped (placed (.nop p true))).modFrag 0 0 fun x => { x with wait := w }).modGroup 0 f
/-- Its fragment waits so, and it may act. -/
def waits (s : State) (w : Wait) (h : Group → Bool) : Bool := chosen s fun g f => g.eligible f && f.wait == w && h g

def any : Group → Bool := fun _ => true
def late (s : State) : State := { s with clk := 2000 }
/-- Monitor 5 of the fragment, on a word of the device or of the host. -/
def mon (addr : Nat) (sat : Option (List Release)) (s : State) : State := { s with monitors := [⟨5, none, 0, 0, 0, addr, some (⟨.eq, false⟩, 0), .dev, true, 0, sat, addr, 0⟩] }
/-- A re-read of monitor 5's word: whether its home is busy, whether the word aborts, and whether the condition holds. -/
def rereadEnd (s : State) : Option (Bool × Bool × Bool) := (s.monitorOf 5).map fun m =>
  let a := s.readStores none (some (s.ctxOf m.launch)) m.addr
  let r : Merged := if (a.entry (m.addr / 128)).st = .P then a.mergeLine (m.addr / 128) else ⟨a, [], none⟩
  (s.lineBusy (m.addr / 128), r.abort.isSome || (r.s.badNewest m.addr).isSome, m.cond.any fun c => cmpHolds c.1 ((r.s.noteNewest m.addr).newest m.addr) c.2)
def unfilled (va : Nat) : State := (waiting (.fill 2 0)).modWg 2 fun w => { w with wins := [(7, ⟨0, 128, va, [], []⟩)], lines := [(0, .unfilled)] }
/-- How a fill of that line ends: done, or waiting for the host. -/
def fillOf (s : State) : Option Bool :=
  match s.fillLine 2 0 (BitVec.allOnes 32) (coreOf 0) (s.ctxOf 0) ⟨engineAgent (s.logical (coreOf 0)) (slotOf 0) 0, 0, 255, s.now, 0, false, [], []⟩ false with
  | .ok _ => some true
  | .host => some false
  | _ => none
def count77 (cls : Nat) (k : OpKind) : Table EngOp := [(77, ⟨0, 0, 0, some 2, some 1, 0, 0, cls, 0, false, 0, 0, 0, k⟩)]

/-- Each wait, at the end that releases it and before. -/
theorem witness_WaitEnds : [
    waits (waiting (.sleep 5)) (.sleep 5) any && decide ((waiting (.sleep 5)).clk < 5 ∧ 5 ≤ (late (waiting (.sleep 5))).clk),
    ([0, 9] : List (BitVec 64)).map (fun h => waits (waiting .horizon fun g => { g with horizon := h }) .horizon fun g => decide (g.horizon.toNat ≤ (waiting .horizon).now)) == [true, false],
    waits (waiting .host) .host any,
    ([0, 1] : List Nat).map (fun n => waits (waiting (.pennant (.wg 2 0) n)) (.pennant (.wg 2 0) n) fun _ => ((waiting (.pennant (.wg 2 0) n)).pen? (.wg 2 0)).any fun q => decide (n ≤ q.count)) == [true, false],
    ([false, true] : List Bool).map (fun t => waits (waiting (.ring 3 t)) (.ring 3 t) fun g => g.wg == some 2 && ((waiting (.ring 3 t)).ring? 2 3).any fun r => if t then r.take.isSome else r.acquire.isSome) == [true, false],
    (Ring.due ⟨0, 128, 1, 0, [.full, .held], [false, false], [1], [0, 0]⟩).isSome, (Ring.due ⟨0, 128, 0, 0, [.free, .free], [false, false], [], [0, 0]⟩).isNone,
    ((waiting .none).ring? 2 3).isSome, (Table.find (waiting (.line 2 0)).wgs 2).any fun y => y.line 0 == .full,
    (let s := (waiting (.line 2 0)).modWg 2 fun w => { w with lines := [(0, .pending [9])] }; (Table.find s.wgs 2).any fun y => y.line 0 == .pending [9]),
    ((unfilled 0x1000).filler 2 0).isSome, (Table.find (unfilled 0x1000).wgs 2).any fun y => y.line 0 == .unfilled,
    ([0x1000, 2 ^ 32] : List Nat).map (fun va => fillOf (unfilled va)) == [some true, some false],
    ([([], 0), (count77 0 (.mapbit 0 0 0), 1)] : List (Table EngOp × Nat)).all (fun c => waits { waiting (.cnt 0 0) with ops := c.1 } (.cnt 0 0) fun g => ({ waiting (.cnt 0 0) with ops := c.1 } : State).count g 0 == c.2),
    ([0, 99] : List Nat).map (fun stamp => waits (waiting (.cnt 0 0) fun g => { g with failed := [⟨0, 7, 0x1000⟩], landed := [(0, stamp)] }) (.cnt 0 0) fun g =>
      g.failed.length == 1 && !(waiting (.cnt 0 0)).failedAhead g 0) == [true, false],
    ([none, some []] : List (Option (List Release))).all (fun t => waits (mon 0x1000 t (waiting (.monitor 5))) (.monitor 5) fun _ => ((mon 0x1000 t (waiting (.monitor 5))).monitorOf 5).any fun m => m.sat == t),
    (let s := late (mon 0x1000 none (waiting (.reread 5 0)))
     let held := s.setEntry 0x20 { s.entry 0x20 with st := .M, holders := [1], pend := some ⟨2, .read, 1, [1], []⟩ }
     waits s (.reread 5 0) (fun _ => (s.monitorOf 5).any fun m => !m.seen) &&
       [s, { s with spoilt := [0x400] }, { s with mem := s.mem.setWord 0x1000 7 }, held].map rereadEnd == [some (false, false, true), some (false, true, true), some (false, false, false), some (true, false, true)]),
    ((mon 0x1000 (some []) (waiting (.reread 5 0))).monitorOf 5).any Monitor.seen, (late (waiting .none)).clk == 2000,
    (let s := mon hostBase none (waiting (.reread 5 0))
     waits s (.reread 5 0) (fun _ => (s.monitorOf 5).any fun m => place m.addr == .host && !m.seen) &&
       [s, s.setHost 0 [1], s.setEntry (hostBase / 128) { s.entry (hostBase / 128) with lost := 1 }].map rereadEnd == [some (false, false, true), some (false, false, false), some (false, true, true)]),
    waits (waiting (.unseal 5)) (.unseal 5) (fun _ => (Table.find (waiting (.unseal 5)).seals 5).isNone),
    ((waiting .none).pen? (.wg 2 0)).any (fun q => !(waiting .none).penBroken (.wg 2 0) q),
    ((waiting (.pennant (.wg 2 0) 1)).pen? (.wg 2 0)).any (fun q => (waiting (.pennant (.wg 2 0) 1)).penBroken (.wg 2 0) q)].all id = true := by decide +kernel

/-- The placed program with an operation at work. -/
def working (k : OpKind) : State := { mapped (placed (.nop p true)) with ops := count77 0 k }
/-- The operation at work. -/
def theOp (s : State) : EngOp := (Table.find s.ops 77).getD ⟨0, 0, 0, none, none, 0, 0, 0, 0, false, 0, 0, 0, .mapbit 0 0 0⟩

/-- How an engine's accesses end. -/
def engEnd {α : Type} (e : Eng α) : End :=
  match e with
  | .ok _ _ => .passed
  | .bad _ f => .raised f.status
  | .wait _ _ => .other

/-- A copy that may land its row now, and how the row ends. -/
def rowEnd (s : State) : Option (Bool × End) :=
  match (theOp s).k with
  | .copy c => c.trec.map fun r =>
    (!s.readerWaits c && c.dests.all (fun w => ((Table.find s.wgs w).map fun y => (destRow c.kind c.blk r c.row).all fun n => y.first 77 n).getD true),
      if c.blk.dkind = 3 then engEnd (s.rowOut (theOp s) 77 c r c.row) else engEnd (s.copySource (theOp s) 77 c r c.row))
  | _ => none

theorem witness_CopySteps :
    rowEnd (working (row4 .cpy 0 3 0x3000 none [2] [])) = some (true, .passed) ∧ rowEnd (working (row4 .cpy 1 3 0x3000 (some (0, 0)) [] [4, 5, 6, 7])) = some (true, .passed) ∧
    rowEnd (working (row4 .cpy 3 3 0x3000 none [] [])) = some (true, .passed) ∧ rowEnd (working (row4 .cpy 0 3 0x140000000 none [2] [])) = some (true, .raised 2) ∧
    rowEnd (working (row4 .cpy 3 3 0xC0000000 none [] [])) = some (true, .raised 3) ∧
    ((rowEnd ((working (row4 .cpy 0 3 0x3000 none [2] [])).modWg 2 fun w => { w with lines := [(0, .pending [9, 77])] })).map (·.1)) = some false ∧
    ([0, 0x3000, 0xC0000000] : List Nat).map (fun done =>
      let k : OpKind := match row4 .cpy 0 4 0x3000 none [2] [] with
        | .copy c => .copy { c with blk := { c.blk with done := done } }
        | k => k
      let s := (working k).modWg 2 fun w => { w with lines := [(0, .pending [77])] }
      (engEnd (engEach (fun t (q : Nat × List Nat) => t.engTodo 0 1 ((theOp s).who s 0 3) q.1
        (q.2.filter fun n => ((Table.find t.wgs q.1).map fun w => w.line n == .pending [77]).getD false)) s (s.markedBy 77)),
        s.markedBy 77, engEnd (s.engWrite 0 1 ((theOp s).who s 0 3) [(done, 0xF, 0)]))) = [(.passed, [(2, [0])], .passed), (.passed, [(2, [0])], .passed), (.passed, [(2, [0])], .raised 3)] ∧
    ([[.zero, .skip], []] : List (List BagElem)).all (fun es => es.all fun e => e == .zero || e == .skip) = true := by decide +kernel

theorem witness_CopySteps_words :
    (let s := working (.mapbit 0x3000 3 0x3000)
     s.lineBusy 0x60 = false ∧ ([none, some 3] : List (Option Nat)).map (fun n => ((s.setEntry 0x60 { s.entry 0x60 with sealed := n }).entry 0x60).sealed) = [none, some 3] ∧
       [s, { s with spoilt := [0xC00] }].map (fun s => ((s.readStores none (some ((theOp s).ctx s)) 0x3000).badAt homeReader 0x3000).isSome) = [false, true] ∧
       (s.entry 0x60).st ≠ .P) ∧
    ((0x3000 : Nat) % opBytes .iadd64 = 0) ∧ (working (.red 0x3000 .iadd64 7 1 0 false 0 0x3000 0 [])).lineBusy 0x60 = false ∧
    (let s := working (.red 0x3000 .iadd32 7 1 0 true 0 0x3000 0 [])
     let t := s.setEntry 0x60 { s.entry 0x60 with st := .P, holders := [1], tag := .imax, unacked := true }
     [s, t].map (fun s => s.takesPart 0x3000 .iadd32) = [true, false] ∧ s.unreachable 0x3000 = false ∧
       [s, { s with spoilt := [0xC00] }].map (fun s => (s.badAt homeReader 0x3000).isSome) = [false, true]) ∧
    (let far := peerBase + 5 * 2 ^ 43
     let s := working (.red far .iadd32 7 1 0 true 0 0x3000 0 [])
     s.takesPart far .iadd32 = true ∧ (s.setPeer 5 { s.peer 5 with dropped := true }).unreachable far = true) ∧
    (let s := working (.mapbit 0x3000 3 0x3000)
     let held := s.setEntry 0x60 { s.entry 0x60 with st := .M, holders := [1], pend := some ⟨2, .read, 1, [1], []⟩ }
     bagLines [[.at 0x3000, .zero]] = [0x60] ∧ [s, held].map (fun s => s.lineBusy 0x60) = [false, true] ∧
       [s, { s with spoilt := [0xC00] }].map (fun s => (State.bagTable [[.at 0x3000, .zero]] s).2.2) = [false, true]) := by decide +kernel

/-- A tile of accumulator 5 in a 16-bit format, in global memory or in the workgroup's scratchpad. -/
def tileAt (add : Bool) (tgt : Option Nat) : Tile := ⟨5, .f16, add, tgt, 0x3000, 1, 0, none, 0⟩
def scaledPass : OpKind := .pass ⟨5, 0, 2, 4, 0, [[0], [0], [0], [0], [0], [0], [0], [0]], [true, true, true, true, true, true, true, true], 5, false, 1, false, 3⟩
def bound (k : OpKind) (cache : List (Nat × Byte)) : State :=
  let s := working k
  s.setMat 0 0 { s.mat 0 0 with binds := [(5, 0x3000)], kiln := [(2, ⟨.tf8, [], [], 0, []⟩)], cache := cache }
/-- An engine's accesses end well, where nothing else changes. -/
def engSame {α : Type} (e : Eng α) (s : State) : Bool :=
  match e with
  | .ok u _ => decide (u = s)
  | _ => false

theorem witness_MatrixSteps_products : [
    ((Table.find (bound scaledPass []).ops 77).any fun o => match o.k with
      | .pass p => !(p.missing ((bound scaledPass []).matOf o)).isEmpty && decide ((bound scaledPass []).clk < p.ready) && (p.missing ((bound scaledPass []).matOf o)).all fun key =>
          engEnd ((bound scaledPass []).engRead 0 1 (o.who (bound scaledPass []) 1 0) false (0x3000 + key % 512) 1) == .passed
      | _ => false),
    (let key := match (theOp (bound scaledPass [])).k with
      | .pass p => p.missing ((bound scaledPass []).matOf (theOp (bound scaledPass [])))
      | _ => []
     let s : State := { bound scaledPass (key.map fun k => (k, 0)) with clk := 3 }
     match (theOp s).k with
      | .pass p => (p.missing (s.matOf (theOp s))).isEmpty && decide (p.ready ≤ s.clk) && aFmt p.afmt == some .tf8 && (Table.find (s.matOf (theOp s)).kiln 2).isSome &&
          (s.issuer? (theOp s)).isSome && !(s.readUnit 1 (fun c => Store.ofAcc (theOp s).unit p.acc c || Store.ofSlots (theOp s).unit (OpKind.use (.pass p)).rd c)).2
      | _ => false)].all id = true := by decide +kernel

theorem witness_MatrixSteps_kset :
    (let s := working (.kset 2 .i8 0 0)
     engEnd (engEach (fun t l => t.ksetLine (theOp s) 2 l) s (rowLines 0 0 (ksetBytes .i8) 1)) == .passed) = true := by decide +kernel

theorem witness_MatrixSteps_drain_memory :
    (let s := working (.drain (tileAt false none))
     !(s.readUnit 1 (Store.ofAcc (theOp s).unit 5)).2 &&
       engEnd (s.engWrite 0 1 ((theOp s).who s 1 0) (wordsFrom 0x3000 ((drainTile (tileAt false none) ((s.matOf (theOp s)).tile 5) []).1.map some))) == .passed) = true := by decide +kernel

theorem witness_MatrixSteps_drain_add :
    (let s := working (.drain (tileAt true none))
     match s.engRead 0 1 ((theOp s).who s 1 0) true 0x3000 2048 with
      | .ok u old => !(s.readUnit 1 (Store.ofAcc (theOp s).unit 5)).2 &&
          engEnd (u.engWrite 0 1 ((theOp s).who s 1 0) (wordsFrom 0x3000 ((drainTile (tileAt true none) ((s.matOf (theOp s)).tile 5) old).1.map some))) == .passed
      | _ => false) = true := by decide +kernel

theorem witness_MatrixSteps_drain_spad :
    (let s := working (.drain (tileAt true (some 2)))
     let lines := rowLines 0x3000 0 2048 1
     let words := (List.range 512).map fun j => 0x3000 / 4 + j
     ((Table.find s.wgs 2).any fun y => lines.all fun l => y.first 77 l) && engSame (s.engTodo 0 1 ((theOp s).who s 1 0) 2 lines) s && (s.spadCheck 2 1 words).2.isEmpty &&
       ((Table.find s.wgs 2).any fun y => lines.all fun l => (y.land 0x3000 (List.replicate 2048 (some 0))).line l != .pending [77])) = true := by decide +kernel

theorem witness_MatrixSteps_load_memory :
    (let s := working (.load (tileAt false none))
     engEnd (s.engRead 0 1 ((theOp s).who s 1 0) true 0x3000 2048) == .passed) = true := by decide +kernel

theorem witness_MatrixSteps_load_spad :
    (let s := working (.load (tileAt false (some 2)))
     engSame (s.engLines 0 1 ((theOp s).who s 1 0) 2 (rowLines 0x3000 0 2048 1)) s && (s.spadCheck 2 1 ((List.range 512).map fun j => 0x3000 / 4 + j)).2.isEmpty) = true := by decide +kernel

/-- A line in each state with the holders that a clause asks for, messages between a core and a home slice, prefetches, a walk and a fill. -/
def lineWith (st : DState) (holders : List Nat) (f : Dir → Dir := id) : State :=
  let s := mapped (placed (.nop p true))
  s.setEntry 0x20 (f { s.entry 0x20 with st := st, holders := holders, tag := .iadd32 })
def line1 : L1Line := ⟨.dc, 3, 1, 1, [(0, 7)], [], 0⟩
def withLine (s : State) : State := s.modCore 0 fun c => { c with l1 := [(0x20, line1)] }
def slot1 : USlot := ⟨0x1000, .iadd32, ⟨1, false, false, false, false, false, false⟩, 0, 0⟩

theorem witness_CoherenceSteps : [
    !(lineWith .I []).lineBusy 0x20 && (lineWith .I []).wayClear 0 0x20 true, decide (128 * 0x20 < dramEnd), ((lineWith .I [] fun d => { d with sealed := some 3 }).entry 0x20).sealed.isSome,
    (lineWith .M [1] fun d => { d with pend := some ⟨2, .read, 1, [1], []⟩ }).homeBusy 0x20,
    (let s : State := { lineWith .I [] with msgs := [.writeback 0 0x20 3 1 ⟨[], [], [], none⟩] }; !s.wayClear 0 0x20 true),
    (let d := (lineWith .D [1, 2] fun d => { d with masks := [(1, 0xF)] }).entry 0x20; d.masks.any fun c => c.1 != 0 && c.2 &&& 1 != 0),
    (let d := (lineWith .D [1, 2, 3, 4, 5, 6, 7, 8] fun d => { d with masks := [(1, 0xF)] }).entry 0x20
     d.masks.all (fun c => c.1 == 0 || c.2 &&& 0x10 == 0) && decide (8 < (d.holders ++ [0]).length)),
    (let d := (lineWith .D [1] fun d => { d with masks := [(1, 0xF)] }).entry 0x20
     d.masks.all (fun c => c.1 == 0 || c.2 &&& 0x10 == 0) && decide ((d.holders ++ [0]).length ≤ 8)),
    (let d := (lineWith .P [1]).entry 0x20; d.tag != .imax && d.tag == .iadd32 && d.holders.filter (· != 0) != []),
    (let s := lineWith .P [1] fun d => { d with joinq := [(1, .iadd32)] }; let d := s.entry 0x20
     !s.homeBusy 0x20 && d.sealed.isNone && d.devs == [] && d.joinq.contains (1, .iadd32) && d.dparts == []),
    ([.M, .D] : List DState).all (fun st => let s := withLine (lineWith st [0])
      s.wayClear 0 0x20 true && !(s.core 0).lost && (s.entry 0x20).holders.contains 0 && (s.readCopy 0 0x20).l1? 0 0x20 == some line1),
    (let s := (lineWith .P [0]).modCore 0 fun c => { c with ubuf := [slot1] }; s.wayClear 0 0x20 true && ((s.core 0).ubuf.any fun u => u.addr / 128 == 0x20) && !(s.readSlots 0x20).2),
    (let s := (lineWith .P [0]).modCore 0 fun c => { c with ubuf := [slot1] }
     let m : State := { s with msgs := [.probe 0 0x20 3 .merge] }
     (s.entry 0x20).st == .P && !((({ m with msgs := [] } : State)).readSlots 0x20).2 && !(m.core 0).lost),
    (let d := (lineWith .P [0, 1]).entry 0x20; d.pend.isNone && d.holders.filter (· != 0) != []), (([slot1] : List USlot).map (·.addr)).Nodup,
    seqOlder 2 3 && !seqOlder 3 3 && !seqOlder 4 3, !((lineWith .I []).core 0).lost,
    (let s := withLine (lineWith .M [0]); s.l1? 0 0x20 == some line1 && (({ s with msgs := [] } : State).readCopy 0 0x20).l1? 0 0x20 == some line1 && ((lineWith .M [0]).readCopy 0 0x20).l1? 0 0x20 == none),
    (let s := lineWith .M [0] fun d => { d with pend := some ⟨1, .read, 1, [0], []⟩ }; (s.entry 0x20).pend.any fun q => q.left.contains 0 && !q.left.contains 5),
    ([.grant 0 0x20 3 [(0, 7)] [] true, .probe 0 0x20 3 .recall, .answer 0 0x20 3 ⟨[(0, 7)], [], [], none⟩, .gone 0 0x20 3, .writeback 0 0x20 3 1 ⟨[(0, 7)], [], [], none⟩,
        .flush 0 0x20 .iadd32 [slot1]] : List Msg).all (fun m =>
      (({ lineWith .M [0] with msgs := [.gone 9 9 0, m] } : State).msgs.find? fun q => q.core == m.core && q.toHome == m.toHome &&
        homeOf (128 * q.line) == homeOf (128 * m.line)) == some m),
    (let pre := fun (s : State) (l1 : Bool) => { s with prefetches := [⟨5, 0, 0x1000, .dc, l1, 0, 1⟩] }
     let v := fun (s : State) =>
       let u := ({ s with prefetches := [] } : State).readStores (some 0) (some 1) 0x1000
       if u.inL1 0 0x1000 || (u.dirtyAt 0x1000).isSome then u else u.fetchWords [0x1000]
     ([true, false].all fun l1 => !(pre (lineWith .I []) l1).lineBusy 0x20) && [lineWith .I [], { lineWith .I [] with spoilt := [0x400] }].map (fun s => ((v s).badAt 0 0x1000).isSome) == [false, true] &&
       ({ pre (lineWith .M [1]) true with msgs := [.grant 1 0x20 1 [] [] true] } : State).lineBusy 0x20 && (lineWith .I []).flaws == []),
    (let s := lineWith .I []
     (s.tlbHit 1 1 0x1000).isNone && ((s.noteWalk 1 0x140000000).walk 1 0x140000000 == .bad) && match (s.noteWalk 1 0x1000).walk 1 0x1000 with
      | .leaf _ lv e => leafOk e lv && ptePop e == 0
      | _ => false),
    (let s := lineWith .I []
     let t : State := { s with ctxs := s.ctxs.map fun c => (c.1, c.2.setPool 0 [0x100000]), mem := s.mem.setDword 0x5000 (pteSetPop 0xC300000000000000 2), fills := [⟨1, 0x40000000, 0x5000, 4, true⟩] }
     (t.pte 0x5000).any (fun e => pteValid e && ptePop e == 2) && (t.takeFrame 1 (levelSize 4)).isSome)].all id = true := by decide +kernel

def burst2 : Burst := ⟨0, 5, 1, 0, 0, 2, [3, 20], [0xF, 0xF]⟩
def flightOf (tries : Nat) (missed : List Nat) : State := { mapped (placed (.nop p true)) with bursts := [⟨9, 2, burst2, tries, missed⟩] }
def withCommand (out : Option (Nat × DWord)) : State := { mapped (placed (.nop p true)) with cmds := [⟨0, 0, 5, 1, 0, 0, [], none, out⟩] }

theorem witness_MemorySteps : [
    burstOk 2 burst2, !burstOk 256 burst2, !burstOk 2 { burst2 with count := 0 }, burstOk 2 ⟨0, 5, 0, 3, 68, 16, [], []⟩, !burstOk 2 ⟨0, 5, 0, 4, 68, 16, [], []⟩,
    ([0, 3] : List Nat).all (fun n => ((flightOf n []).bursts.find? fun f => f.id == 9) == some ⟨9, 2, burst2, n, []⟩), ((flightOf 0 []).bursts.find? fun f => f.id == 8).isNone,
    (burstOffs burst2).any (fun w => devOf w == devOf 3) && decide (devOf 3 < 16) && !(Table.get 0 (flightOf 0 []).devFail 2).getLsbD (devOf 3),
    (let s : State := { flightOf 0 [] with spoilt := [0x400] }; place 0x1000 == .local && !s.lostWord 0x1000 && !s.heldWord 0x1000),
    (let s : State := { flightOf 0 [] with spoilt := [0x400], held := [(0x20, 1)] }; s.heldWord 0x1000),
    ((flightOf 0 []).group? 0).isSome,
    (match (theOp (working (row4 .cpy 0 0 0x3000 none [2] []))).k with
      | .copy c => c.status == 0 && !(theOp (working (row4 .cpy 0 0 0x3000 none [2] []))).done
      | _ => false),
    ({ theOp (working scaledPass) with cls := 5 }.cls == 5), ((lineWith .P [0]).entry 0x20).st == .P,
    (({ lineWith .M [0] with msgs := [.probe 0 0x20 3 .recall] } : State).msgs.any fun m => m == .probe 0 0x20 3 .recall),
    ((withCommand none).cmd? 0 0).any (fun y => y.out.isNone),
    (let d := (lineWith .M [0]).entry 0x20; d.st == .M && d.holders == [0] && d.pend.isNone),
    ([some false, some true] : List (Option Bool)).all (fun b => ({ State.reset with flaws := b.toList.map fun b => (.home 0x1000, b) } : State).flaw (.home 0x1000) == b),
    (State.reset.flaw (.home 0x1000)).isNone].all id = true := by decide +kernel

theorem witness_MemorySteps_words : [
    /- A word read from DRAM: of a failed device; right, with a data bit or a check bit wrong, and uncorrectable. -/
    (let s : State := { flightOf 0 [] with devFail := [(chanOf 0x1000, BitVec.allOnes 16)] }; !s.heldWord 0x1000 && (Table.get 0 s.devFail (chanOf 0x1000)).getLsbD (devOf (wordOff 0x1000))),
    (let wrong := fun (y : Nat) => ({ flightOf 0 [] with check := [(0x400, BitVec.ofNat 8 y)] } : State)
     ([0, dataCols.getD 3 0, 4, 3] : List Nat).map (fun y => let s := wrong y
       (s.syndrome 0x1000 == y && (Table.find s.check (0x1000 / 4)).isSome && decide (y < 256) && (Table.get 0 s.devFail (chanOf 0x1000)).getLsbD (devOf (wordOff 0x1000)) == false, dataCols.contains y,
         (List.range 8).any fun j => y == 2 ^ j)) == [(true, false, false), (true, true, false), (true, false, true), (true, false, false)]),
    Table.get 0 (flightOf 0 []).bloom (chanOf 0x1000) == 0,
    (let full : List (Word × Nat) := (List.range 64).map fun n => (BitVec.ofNat 32 n, 2); full.all (fun e => e.1 != 99) && full.length == 64),
    (match (flightOf 0 []).translate 0 1 0x1000 with
      | .page pa _ _ _ => place pa == .local
      | _ => false),
    (({ flightOf 0 [] with prefetches := [⟨5, 0, 0x1000, .dc, true, 0, 1⟩] } : State).prefetches.find? fun p => p.id == 5).isSome].all id = true := by decide +kernel

/-- A row that has passed the filter for the first time, for the second and for the third; and a filter that holds every row. -/
theorem witness_Repeats (row : Word) : ([[], [(row, 2)], [(row, 3)]] : List (List (Word × Nat))).map (fun tb => (repeatAdd tb row).2) = [2, 3, 4] := by
  simp [repeatAdd]

theorem witness_Filter : ((List.range 4096).all fun h => (BitVec.allOnes 4096).getLsbD h) = true := by decide +kernel

/-- The placed launch as the dispatcher, the packer and a yield see it. -/
def laden : State :=
  let s := mapped (placed (.nop p true))
  { s with groups := [], wgs := [], gangs := [], mats := [], launches := s.launches.map fun l => (l.1, { l.2 with lrec := { l.2.lrec with regs := 64 } }) }
def queued (n : Nat) (clk : Nat) : State :=
  ((mapped (placed (.nop p true))).modCore 0 fun c => { c with items := List.replicate n ⟨0, some 1, 36, [], 0, 0⟩ }).modFrag 0 0 fun f => { f with wait := .spq, since := clk }
def yielding (y : Yield) (start : Option Nat) : State :=
  let s := (mapped (placed (.nop p true))).modGroup 0 fun g => { g with yield := y, handler := none }
  { s with gangs := s.gangs.map fun g => (g.1, { g.2 with yielding := start }) }

theorem witness_Scheduling : [
    !State.reset.fatal, ((Table.find laden.launches 0).any fun x => (laden.fitGang (List.replicate x.lrec.gang (some (x.lrec.ask 0)))).isSome &&
      ((List.replicate x.lrec.gang (some (x.lrec.ask 0))).headD none).any fun a => (laden.fit a 0).isSome),
    ((Table.find (queued 3 0).launches 0).any fun x => (queued 3 0).mayPack 0 0 36 x), ((Table.find (queued 3 0).launches 0).any fun x => !(queued 3 0).mayPack 0 0 24 x),
    (((yielding (.raised 7) (some 7)).group? 0).any fun g => g.yield == .raised 7 && g.handler.isNone && !(yielding (.raised 7) (some 7)).unfinished g), (((yielding .none none).group? 0).any fun g => g.yield == .none),
    (let s := yielding (.running 0) (some 0)
     let t : State := { s with tb := 2 ^ 40 }
     (t.groups.any fun g => g.2.gang == some 1 && g.2.overran t.now) && !(s.groups.any fun g => g.2.gang == some 1 && g.2.overran s.now)),
    (let s := yielding .suspended (some 0)
     (Table.find s.gangs 1).any fun y => s.quiesced 1 y && s.owed 1 == [] && !(s.saveReads 1 (s.saveOf 1 y)).2),
    (let bare := fun (held : Bool) => let s := yielding .suspended (some 0)
       let ctxs := s.ctxs.map fun c => (c.1, { c.2 with prot := true })
       ({ s with groups := [], wgs := [], mats := [], ctxs := if held then ctxs ++ ctxs.map fun c => (9, { c.2 with saved := [⟨9, 9, 0, [], [], [], [], [], [(0, saveBase, dramEnd - saveBase)]⟩] }) else ctxs } : State)
     let where_ := fun (s : State) => (Table.find s.gangs 1).map fun y =>
       let ctx := s.ctxOf y.launch
       let saved := ((Table.find s.ctxs ctx).map fun c => c.saved).getD []
       let taken := (s.ctxs.filter fun d => d.1 != ctx).flatMap fun d => d.2.saved.flatMap fun v => v.images.map fun i => (i.2.1, i.2.2 + 64)
       (s.quiesced 1 y && s.owed 1 == [] && !(s.saveReads 1 (s.saveOf 1 y)).2 && saved == [], taken)
     [false, true].map (fun h => where_ (bare h)) == [some (true, []), some (true, [(saveBase, dramEnd - saveBase + 64)])]),
    ((Table.find (yielding .none none).gangs 1).any fun y => y.yielding.isNone && !(yielding .none none).quiesced 1 y),
    (Table.find (yielding .suspended (some 0)).ctxs ((yielding .suspended (some 0)).ctxOf 0)).isSome].all id = true := by decide +kernel

/-- What the other contexts' images take there leaves no place, however long the images of the gang are. -/
theorem witness_Scheduling_full (n : Nat) : firstFit [(saveBase, dramEnd - saveBase + 64)] saveBase dramEnd 128 (64 + n) = none := by
  have h : saveBase < dramEnd := by decide +kernel
  have h2 : ¬ ((saveBase + (dramEnd - saveBase + 64) + 127) / 128 * 128 + (64 + n) ≤ dramEnd) := by omega
  have h3 : ¬ (saveBase + (64 + n) ≤ saveBase) ∧ ¬ (saveBase + (dramEnd - saveBase + 64) ≤ saveBase) := by omega
  simp [firstFit, least, h2, h3]
/-! ### Hypotheses that can be met: the host interface, the fabric, health -/

/-- A function with queue 3 of 16 entries, registered or not, its head before its doorbell. -/
def queueing (cfg : Word) (cmds : List Cmd) : State :=
  let s := mapped (placed (.nop p true))
  { (s.setQueue 0 3 { s.queue 0 3 with cqcfg := cfg, cqdoor := 2 }) with cmds := cmds }

theorem witness_QueueRegisters : [
    (let s := queueing 0x80000004 []
     s.mayStart 0 3 && !s.mayStart 0 4 && !(s.queue 0 3).full && (s.cmd? 0 3).isNone && !(s.queue 0 3).cqbad && !(s.queue 0 3).ccbad),
    (let s := queueing 0 []; (s.setQueue 0 3 { s.queue 0 3 with cqbad := true }).queue 0 3 |>.cqbad), ((queueing 0 []).queue 0 3).cqcfg == 0,
    (let s := queueing 0x80000004 [⟨0, 3, 5, 1, 0, 0, [], none, some (3, 9)⟩]; (s.cmd? 0 3).any fun c => c.out == some (3, 9)),
    (let s := queueing 0x80000004 []
     let t := s.setQueue 0 3 { s.queue 0 3 with cctail := 15 }
     (t.queue 0 3).full && !(t.queue 0 3).closing),
    (let f : Fn := { (queueing 0 []).fn 0 with fqcfg := 0x41, fqtail := 14 }
     f.fqcfg.getLsbD 0 && decide (4 ≤ f.fqcfg.toNat / 16 % 16 ∧ f.fqcfg.toNat / 16 % 16 ≤ 12 ∧ (14 + 1) % 2 ^ 4 ≠ f.fqhead.toNat % 2 ^ 4)),
    !((queueing 0 []).fn 3).on, (({ queueing 0 [] with fns := [(3, { (queueing 0 []).fn 3 with on := true })] } : State).fn 3).on,
    decide (((0x80000004 : Word).getLsbD 31 = true) ∧ ((0x00000004 : Word).getLsbD 31 = false) ∧ (0x80000003 : Word).toNat % 32 < 4),
    decide ((0x100 : Nat) ≠ 0x200 ∧ 0x100 < 0x1000 ∧ ¬ 0x1010 < 0x1000 ∧ 0x1010 % 0x40 = 0x10 ∧ (1 : Nat) ≠ 0)].all id = true ∧
    Config.vfControl ≠ 0x200 ∧ Config.vfControl ≠ 0x208 ∧ 0x1400 ≤ Config.vfControl ∧ 0x100 ≠ Config.vfControl :=
  ⟨by decide +kernel, by unfold Config.vfControl; omega⟩

/-- A current command of queue 0 of the physical function. -/
def commanding (code ctx : Nat) (ops : List Byte) : State := { mapped (placed (.nop p true)) with cmds := [⟨0, 0, code, 1, 7, ctx, ops, none, none⟩] }
/-- It has the given fields and its context. -/
def commands (s : State) (code : Nat) (h : Cmd → Ctx → Bool) : Bool :=
  match s.cmd? 0 0 with
  | some c => c.out.isNone && c.code == code && decide (c.flags < 2) && ((Table.find s.ctxs c.ctx).any fun x => x.fn == 0 && h c x)
  | none => false

/-- It has the given fields and names no context. -/
def plainly (s : State) (code : Nat) (h : Cmd → Bool) : Bool :=
  match s.cmd? 0 0 with
  | some c => c.out.isNone && c.code == code && decide (c.flags < 2) && c.ctx == 0 && h c
  | none => false

/-- A launch record of one workgroup of one group, 64 registers. -/
def recordImage : List Byte :=
  leBytes 8 0 ++ leBytes 4 0 ++ leBytes 4 0xFFFFFFFF ++ leBytes 4 1 ++ [1, 128, 1, 1] ++ leBytes 2 64 ++ List.replicate 998 0

theorem witness_Commands_memory : [
    (let s := (commanding 1 1 (leBytes 8 0x1000 ++ [1])).setHost 0x1000 (recordImage.take 26)
     commands s 1 (fun _ _ => true) && match s.getBytes 1 true 0x1000 1024 with
      | .ok _ b => b == recordImage
      | _ => false),
    (recordOf recordImage).any fun r => (commanding 1 1 []).recordStatus 0 r == 0,
    (let s := commanding 1 1 (leBytes 8 0x1000 ++ [1])
     match s.getBytes 1 true 0x1000 1024 with
      | .ok _ b => (recordOf b).isNone
      | _ => false),
    ([0, 1, 2, 3] : List Nat).all (fun f => let s := commanding 2 1 (leBytes 8 0x3000 ++ leBytes 8 0x4000 ++ leBytes 8 8 ++ [BitVec.ofNat 8 f])
     commands s 2 (fun _ _ => true) && engEnd (State.copyRun 1 (f % 2 == 1) (f / 2 == 1) true 8 s 0x3000 0x4000 8) == .passed && engEnd (s.checkPages 1 0x3000 8 false) == .passed &&
       engEnd (s.checkPages 1 0x4000 8 true) == .passed),
    (let s := commanding 3 1 (leBytes 8 0x180000000 ++ [4, 0, 0, 0] ++ leBytes 4 1 ++ leBytes 8 0xC300000000000000)
     commands s 3 fun _ x => leafForm 0xC300000000000000 4 && match State.mapSlots 1 4 x.root [0x180000000] s with
      | .inr _ => true
      | .inl _ => false),
    (let s := commanding 4 1 (leBytes 8 0x40000000 ++ [2, 0, 0, 0] ++ leBytes 4 1)
     commands s 4 fun _ _ => (s.leafAt 1 0x40000000 2).isSome && s.ops.isEmpty),
    (let s := commanding 5 1 (leBytes 8 0x1000 ++ leBytes 2 1 ++ [0])
     commands s 5 fun _ x => x.poolq == [] && s.fills.isEmpty && leNat (s.hostBytes 0x1000 8) == 0),
    (let s := commanding 0x0C 1 (leBytes 8 0x1000 ++ leBytes 4 128)
     commands s 0x0C fun _ _ => (imageHeader (s.hostBytes 0x1000 128)).isNone),
    (let s := (commanding 0x0C 1 (leBytes 8 0x1000 ++ leBytes 4 128)).setHost 0x1000 (leBytes 4 1)
     commands s 0x0C fun _ _ => (imageHeader (s.hostBytes 0x1000 128) == some (0, 0, false, 0, 0, 0)) && s.imageStatus 1 0 0 0 0 0 == 0),
    (let s := commanding 0x14 0 (leBytes 8 0x1000)
     plainly s 0x14 (fun _ => true) && (s.entry 0x20).lost == 0 && !s.lineBusy 0x20 && ((s.setEntry 0x20 { s.entry 0x20 with lost := 5 }).entry 0x20).lost != 0)].all id = true := by decide +kernel

/-- How an engine's accesses end where they fail. -/
def engFails {α : Type} (e : Eng α) : Bool :=
  match e with
  | .bad _ _ => true
  | _ => false

theorem witness_Commands_failing : [
    engFails ((commanding 1 1 []).getBytes 1 false 0x140000000 1024),
    (recordOf recordImage).any fun r => (commanding 1 1 []).recordStatus 0 { r with devices := 2, nodes := [5] } != 0,
    engFails ((commanding 2 1 []).checkPages 1 0x140000000 8 false), engFails ((commanding 2 1 []).checkPages 1 0xC0000000 8 true),
    (let s : State := { commanding 2 1 [] with spoilt := [0xC00] }; engFails (State.copyRun 1 false false true 8 s 0x3000 0x4000 8)),
    commands (commanding 2 1 (leBytes 8 0x3000 ++ leBytes 8 0x4000 ++ leBytes 8 0 ++ [0])) 2 fun c _ => leNat ((c.ops.drop 16).take 8) == 0,
    (let s := commanding 3 1 (leBytes 8 (2 ^ 57 - 2 ^ 16) ++ [4, 0, 0, 0] ++ leBytes 4 2 ++ leBytes 8 0xC300000000000000)
     commands s 3 fun _ _ => leafForm 0xC300000000000000 4 && leafForm (pteSetFrame 0xC300000000000000 (pteFrame 0xC300000000000000 + 2 ^ 16)) 4),
    /- An entry that cannot be read; a leaf where a table is asked for; a table where a leaf is; no entry, with and without room for a table. -/
    (let s := commanding 3 1 []
     let a := placedRoot + 0x2000
     let slot := fun (s : State) (level : Nat) => match State.mapSlots 1 level placedRoot [0x40000000] s with
       | .inl n => some n
       | .inr _ => none
     let bad : State := { s with spoilt := [(a + 8) / 4] }
     let full : State := { s with fwFree := [], fw := dramEnd }
     let roomless := match State.mapSlots 1 4 placedRoot [0x180000000] full with
       | .inl n => some n
       | .inr _ => none
     slot bad 2 == some 6 && slot s 3 == some 3 && roomless == some 4 && slot s 2 == none && (s.leafAt 1 0x180000000 4).isNone),
    (let o : EngOp := theOp (working (.mapbit 0x40000000 3 0x3000)); o.uses [0x40000000] 30 && !o.uses [0x80000000] 30),
    (let s := (commanding 5 1 (leBytes 8 0x1000 ++ leBytes 2 1 ++ [0])).setHost 0x1000 (leBytes 8 0x1001)
     commands s 5 fun _ _ => leNat (s.hostBytes 0x1000 8) % sizeBytes 0 != 0)].all id = true := by decide +kernel

theorem witness_Commands_contexts : [
    (let own (s : State) : State := { s with ctxs := s.ctxs.map fun c => (c.1, { c.2 with tok := 4, ntok := 2 }) }
     let s := own (commanding 6 0 (leBytes 2 5 ++ [0, 0] ++ leBytes 4 9))
     plainly s 6 (fun _ => true) && s.tokenStatus 0 5 == 0 && decide (9 > (s.token 5).toNat ∧ 0 ≤ (s.token 5).toNat) && plainly (own (commanding 7 0 (leBytes 2 5))) 7 fun _ => true),
    (let s := commanding 8 0 ([1, 0] ++ leBytes 2 3)
     plainly s 8 (fun _ => true) && s.freeTokens 3 == some 0 && (s.newTable s.freeCtx).isSome),
    (let s : State := { commanding 9 1 [] with gangs := [], launches := [] }
     commands s 9 fun _ x => !x.hold && (s.gangs.isEmpty && s.launches.isEmpty)),
    (let s : State := { commanding 9 1 [] with gangs := [], launches := [], ctxs := (commanding 9 1 []).ctxs.map fun c => (c.1, { c.2 with hold := true }) }
     commands s 9 fun _ x => x.hold),
    commands (commanding 0x0A 1 []) 0x0A (fun _ x => x.saved == []),
    ([(true, false, true), (true, true, false), (false, false, true)] : List (Bool × Bool × Bool)).all (fun c =>
      let s : State := { commanding 0x0A 1 [] with ctxs := (commanding 0x0A 1 []).ctxs.map fun x => (x.1, { x.2 with hold := c.1, prot := c.2.1, saved := [⟨1, 0, 0, [], [], [], [], [], []⟩] }) }
      commands s 0x0A fun _ x => x.hold == c.1 && x.saved.all fun v => s.imagesOk 1 v == c.2.2),
    ([(none, 0), (none, 1), (some 0, 0)] : List (Option Nat × Nat)).all (fun c =>
      let s := commanding 0x0B 1 (leBytes 4 1)
      let s : State := { s with cmds := s.cmds.map fun d => { d with launch := c.1 }, launches := s.launches.map fun l => (l.1, { l.2 with dev := c.2 }) }
      commands s 0x0B fun d x => d.launch == c.1 && decide (d.ctx = 1 ∧ 1 ≤ x.nextId) && (s.launches.find? fun l => l.2.ctx == 1 && l.2.id == 1).any fun l => l.2.dev == c.2),
    commands { commanding 0x0B 1 (leBytes 4 9) with launches := [] } 0x0B (fun _ _ => true),
    (let s : State := { commanding 0x0D 1 [] with launches := [], ctxs := (commanding 0x0D 1 []).ctxs.map fun c => (c.1, { c.2 with root := 0x10000 }) }
     commands s 0x0D fun _ x => (s.endContext 1 x).isSome),
    plainly (commanding 0x10 0 (leBytes 8 0x1000)) 0x10 (fun _ => true),
    (let s := commanding 0x11 0 (leBytes 4 5)
     plainly s 0x11 (fun _ => true) && s.coreMap[5]? == some 5 && (s.scanOn 5).isNone && s.scans.isEmpty && s.coreMap[500]?.isNone),
    commands (commanding 0x13 1 (leBytes 8 0x1000 ++ leBytes 8 0x2000)) 0x13 (fun _ _ => true), plainly (commanding 0x15 0 []) 0x15 (fun _ => true), ((commanding 0x15 1 []).cmd? 0 0).any fun c => c.ctx != 0,
    ((commanding 6 1 [0, 0, 1]).cmd? 0 0).any fun c => c.ops.getD 2 0 != 0, (Table.find (commanding 9 7 []).ctxs 7).isNone,
    ((Table.find ({ commanding 9 1 [] with ctxs := (commanding 9 1 []).ctxs.map fun c => (c.1, { c.2 with fn := 2 }) } : State).ctxs 1).any fun x => x.fn != 0)].all id = true := by decide +kernel

/-- The device with link 2 trained, in some condition, and the placed launch on two devices. -/
def linked (f : Link → Link) : State := let s := mapped (placed (.nop p true)); s.setLink 2 (f { s.link 2 with up := true })
def shared (f : Launch → Launch) : State :=
  let s := mapped (placed (.nop p true))
  { s with launches := s.launches.map fun l => (l.1, f { l.2 with gen := 3, go := false, lrec := { l.2.lrec with devices := 2, nodes := [0, 1] } }) }
/-- A message in a receive buffer, and a link with some of them. -/
def posted : Nat × BitVec 16 × HMsg := (1, 0, .go 0 3)
def buffering (n : Nat) (full : Bool) : Link := { Link.reset with up := true, buf := List.replicate n posted, full := full }

theorem witness_Fabric : [
    (let s := linked id; decide (2 < 24) && (s.link 2).up && (s.link 2).rx == 0 && (s.link 2).sent == [] && decide ((s.link 2).tries < 16 ∧ (s.link 2).asked < 16) && !((s.setLink 3 { s.link 3 with up := false }).link 3).up),
    ((linked fun k => { k with tries := 16 }).link 2).tries == 16, ((linked fun k => { k with since := 63 }).link 2).since == 63,
    (let k := (linked fun k => { k with sent := [⟨4, 1, 1, none, none⟩, ⟨5, 1, 2, none, some 3⟩], tx := 6 }).link 2
     decide (((5 : BitVec 12) - ((k.sent.head?).map (·.seq)).getD k.tx).toNat ≤ k.sent.length)),
    (let s := shared id
     ((s.peer 1).dropped == false) && (s.peer 1).rx == 0 && (s.launchGen 0 3).any (fun l => l.2.dev == s.leader l.2.lrec && !l.2.go && !l.2.closed && decide (1 < l.2.lrec.devices)) &&
      (s.launchGen 0 4).isNone && (s.launchGen 1 3).isNone && (Table.get [] s.hoists 0 == []) && decide (128 * (0x20 % 2 ^ 36) < dramEnd)),
    (let s := shared fun l => { l with go := true }; (s.launchGen 0 3).any fun l => l.2.go),
    ([false, true] : List Bool).all (fun c => let s := shared fun l => { l with dev := 1, closed := c }
      (s.launchGen 0 3).any fun l => l.2.dev != s.leader l.2.lrec && l.2.closed == c && s.leader l.2.lrec == 0 && decide (0 < l.2.lrec.devices)),
    (let s : State := { shared id with hoists := [(0, [0])] }; (s.launchGen 0 3).any fun l => (List.range l.2.lrec.devices).all fun d => (Table.get [] s.hoists l.1 ++ [1]).contains d),
    (let s := linked id
     !(s.peer 1).dropped && decide (1 < 128 ∧ 1 ≠ s.node.toNat) && (s.launches.all fun l => decide (l.2.lrec.devices ≤ 1)) && s.dir.all fun d => !d.2.devs.contains 1),
    (let s := (linked id).setEntry 0x20 { (linked id).entry 0x20 with devs := [1] }; place (128 * 0x20) != .peer && (s.entry 0x20).devs.contains 1),
    (let n := fun (q : BitVec 12) => (q + 1 - (4 : BitVec 12)).toNat
     [4, 5, 3, 6].map (fun q => decide (1 ≤ n q ∧ n q ≤ 2)) == [true, true, false, false]),
    (let s : State := { linked id with tb := 1000000 }
     let s := s.setLink 2 { s.link 2 with up := false, peer := some 1, down := some 0 }
     ((List.range 24).filter fun j => (s.link j).peer == some 1) == [2] && decide (0 + 1000000 ≤ s.now) && !(s.peer 1).dropped && !(s.peer 1).back),
    ((linked id).setPeer 1 { (linked id).peer 1 with back := true }).peer 1 |>.back,
    ([0, 1].all fun d => let s := shared fun l => { l with dev := d }
      (Table.find s.launches 0).any fun l => l.lrec.nodes.contains 1 && decide (1 < l.lrec.devices) && s.leader l.lrec == 0 && s.standing l.lrec d),
    ([fun (l : Launch) => { l with closed := true }, fun l => { l with status := 6 }, id] : List (Launch → Launch)).map (fun f => (Table.find (shared f).launches 0).any fun l => l.closed || l.status == 6) == [true, true, false],
    ((linked id).setPeer 1 { (linked id).peer 1 with dropped := true }).peer 1 |>.dropped].all id = true := by decide +kernel

/-- The receive buffer at and under its marks. -/
theorem witness_Fabric_buffer : (∀ k : Link, (linked fun _ => k).link 2 = k) ∧
    (Config.stopMark ≤ (buffering Config.stopMark false).buf.length + 1 ∧ (buffering Config.stopMark false).full = false) ∧
    ((buffering 0 true).full = true ∧ (buffering 0 true).buf.length - 1 ≤ Config.goMark) ∧
    Config.goMark < (buffering (Config.goMark + 2) true).buf.length - 1 := by
  refine ⟨fun k => ?_, ⟨?_, rfl⟩, ⟨rfl, ?_⟩, ?_⟩
  · simp [linked]
  all_goals simp [buffering]

/-- The device with a core under test or being taken out of service. -/
def testing (run scan : Bool) (tb : BitVec 64) : State := { State.reset with scans := [⟨5, 0, 0, run, scan, 0, []⟩], tb := tb }

theorem witness_Health : [
    !State.reset.tripped 0, ({ State.reset with power := { State.reset.power with trip0 := true } } : State).tripped 0, !State.reset.mapDue,
    (let s := State.reset.modCore 5 fun c => { c with fenced := true }; s.mapDue && s.launches.isEmpty),
    (let s := (mapped (placed (.nop p true))).modCore 5 fun c => { c with fenced := true }
     let t : State := { s with coreMap := s.inService }
     s.launches.all fun l => !t.hasPending l.1 || t.couldPlace l.1 l.2), (State.reset.scanOn 5).isNone,
    ([(true, true), (false, true), (false, false)] : List (Bool × Bool)).all (fun c => (testing c.1 c.2 0).scanOn 5 == some ⟨5, 0, 0, c.1, c.2, 0, []⟩ && (testing c.1 c.2 0).drained 5),
    decide ((testing false true 1000000000).now = 1000000000) && decide ((testing true true 200000).now = 200000),
    (let s : State := { testing true true 0 with launches := (placed (.nop p true)).launches.map fun l => (l.1, { l.2 with started := false, lrec := { l.2.lrec with prio := 7 } }), queues := [(0, [0])] }
     s.urgent == [0] && !([] : List Nat).contains 0), (testing true true 0).urgent == [],
    (let x : UnitHealth := { State.reset.unitAt 5 with last := some 0 }
     (State.reset.unitAt 5).last.isNone && ((State.reset.putUnit 5 x).unitAt 5).last == some 0 && decide (State.reset.now < 0 + 1000000000)),
    ([(11, 2, 0), (12, 2, 0), (12, 2, 1), (0, 0, 0)] : List (Nat × Nat × Nat)).all (fun c =>
      let x : UnitHealth := { State.reset.unitAt 5 with g := c.1, short := c.2.1, st := c.2.2 }; (State.reset.putUnit 5 x).unitAt 5 == x),
    ({ State.reset with tb := 60000000000 } : State).rebuildDue, ({ State.reset with health := State.reset.health.bump 5 } : State).rebuildDue].all id = true ∧ (quiet State.reset).rebuildDue = false :=
  ⟨by decide +kernel, quiet_built _⟩

/-- The placed instruction with the leaf of its page replaced, and how its fetch goes before and after its words are read. -/
def leafed (e : DWord) : State := let s := placed (.nop p true); { s with mem := s.mem.setDword (placedRoot + 0x2000) e }
def fetches (s : State) (h : Nat → Fetched → Bool) : Bool := chosen s fun g f => h (s.imageOf g f) (s.fetch 0 g f)
def codeIn (s : State) (h : Fetched → Option (Nat × Nat) → Bool) : Bool := chosen s fun g f =>
  let pas := (s.codeAt 0 g f).map (·.2)
  let c := s.readCode (s.ctxOf g.launch) pas
  s.agenda == [] && pas.all (fun pa => !s.lineBusy (pa / 128)) && h (c.1.fetch 0 g f) c.2 && match s.fetch 0 g f with
    | .event _ => false
    | .filling _ => false
    | _ => true

/-- A placed instruction, a word that decodes to none, code past its image, of no page, of a page from the pool, of one that is
filling, of one that instructions may not be fetched from, of a spoilt word, and of a line whose merge aborts or whose home is busy. -/
theorem witness_StepRunsDecoded : [
    (let s := placed (.nop p true)
     codeIn s (fun w failed => failed.isNone && decide (w = .word (((encode (.nop p true)).getD 0)))) && s.flaws == [] &&
      chosen s fun g f => ((s.codeAt 0 g f).map (·.2)).all (fun pa => (s.entry (pa / 128)).st != .P) && s.inImage (s.ctxOf 0) (s.imageOf g f) 0 &&
        [s.imageOf g f, s.imageOf g f + 4, s.imageOf g f + 8].all fun a => match s.translate 0 (s.ctxOf 0) a with
          | .page q _ _ x => x && (s.badNewest q).isNone
          | _ => false),
    codeIn (placed (.nop p true)) (fun w _ => match w with
      | .word w => decide (decodeWord w = .ok (.nop p true))
      | _ => false),
    codeIn (State.reset.placeWord 96 (fieldWord 0x193 0 63 0 0 0 0 0 0 0 0 0).toNat) (fun w _ => match w with
      | .word w => !(decodeWord w).isOk
      | _ => false),
    (let t := ((placed (.nop p true)).modCtx 1 fun c => { c with images := [(0x10000, 12)] }).modFrag 0 0 fun f => { f with pc := 12 }
     chosen t fun g f => !t.inImage 1 (t.imageOf g f) 12 && t.fetch 0 g f == .event (Event.plain 0x05 0 f.mask)),
    fetches (leafed 0) (fun b w => w == .event ⟨0x12, 0, BitVec.ofNat 64 b, BitVec.allOnes 128, 0, none⟩ && (leafed 0).translate 0 1 b == .fault),
    fetches (leafed (pteSetPop 0xD300000000000000 1)) (fun _ w => match w with
      | .event e => e.kind == 0x1B && e.leaf.isSome
      | _ => false),
    fetches (leafed (pteSetPop 0xD300000000000000 2)) (fun _ w => match w with
      | .filling p => p == placedRoot + 0x2000
      | _ => false),
    fetches (leafed 0xD200000000000000) (fun _ w => match w with
      | .event e => e.kind == 0x13
      | _ => false),
    ([0x4000, 0x4001, 0x4002] : List Nat).all (fun n => let t : State := { placed (.nop p true) with spoilt := [n] }
     codeIn t fun w failed => failed.isNone && ((t.badNewest (4 * n)).isSome && match w with
      | .abort _ a _ => a == 4 * n
      | _ => false)),
    (let t : State := { placed (.nop p true) with spoilt := [0x4008] }
     codeIn (t.setEntry 0x200 { t.entry 0x200 with st := .P, holders := [], tag := .iadd32, hpart := [(0x10020, Partial.ofTag .iadd32)] }) fun _ failed => failed == some (1, 0x10020)),
    (let t := (placed (.nop p true)).setEntry 0x200 { (placed (.nop p true)).entry 0x200 with st := .M, holders := [1], pend := some ⟨2, .read, 1, [1], []⟩ }
     t.lineBusy 0x200 && fetches t fun _ w => match w with
      | .word _ => true
      | _ => false),
    ({ placed (.nop p true) with cur := some ⟨9, 9, []⟩ } : State).selected.isNone, (placed (.nop p true)).cur.isSome].all id = true := by decide +kernel

theorem witness_DecodeEncode : (Instr.sadd ⟨true, 5, 0⟩ .d64 4 6 (.i 0x3FFFF)).wf = true ∧
    (encode (.sadd ⟨true, 5, 0⟩ .d64 4 6 (.i 0x3FFFF))).isSome = true ∧ decodeWord 0x022080000000000000000000 = .ok (.exit ⟨true, 1, 0⟩) := by decide +kernel

/-- A store that answers a next state. -/
theorem witness_MemoryForm : let s := loaded (.st p .b32 .none (.v 0) m4) 0x1000
    s.mem.wf = true ∧ (match step s with
      | .next t => t.mem.wf
      | _ => false) = true := by decide +kernel
/-! ### Single effects with values worked out by hand or in the spec's own examples -/

/-- What `i` leaves when it runs where it has been placed, its group changed by `f` first. -/
def leaves (i : Instr) (f : Group → Group) (h : State → Group → Bool) : Bool :=
  match exec i (placedWith i f) with
  | .next t => (t.group? 0).any (h t)
  | _ => false
/-- The first fragment of the placed group. -/
def pcOf (g : Group) : Nat := ((g.frag 0).map fun f => f.pc).getD 0

/-- R286: 32-bit sums wrap. -/
theorem test_iadd_wraps : leaves (.iadd p ⟨0, 0⟩ .s32 5 (.v 6) (.i 1)) (fun g => g.vset 6 9 0xFFFFFFFF) (fun _ g => g.vget 5 9 == 0 && g.vget 5 8 == 1 && pcOf g == 12) = true := by decide +kernel

/-- R261: a 64-bit sum carries into the second scalar. -/
theorem test_sadd_carries : leaves (.sadd p .d64 4 6 (.i 1)) (fun g => (g.sset 6 0xFFFFFFFF).sset 7 4) (fun _ g => g.sget 4 == 0 && g.sget 5 == 5) = true := by decide +kernel

/-- R247, R286: the lanes in which the guard does not hold keep their value. -/
theorem test_guard_keeps : leaves (.iadd ⟨false, 1, 0⟩ ⟨0, 0⟩ .s32 5 (.v 5) (.i 3)) (fun g => { g with pregs := Table.put 0 g.pregs 1 2 }) (fun _ g => g.vget 5 0 == 0 && g.vget 5 1 == 3) = true := by decide +kernel

/-- The conversions to TF8 of the table under *Conversions worked* (R91 to R97): value, rounding, saturation, code, flags. -/
theorem test_tf8_conversions : ([(0x407C0000, 1, false, 0x30, 0x10), (0xC07C0000, 1, false, 0xB0, 0x10), (0x3E700000, 1, false, 0x40, 0x10), (0x40900000, 1, false, 0x30, 0x10),
    (0x40900000, 7, false, 0x31, 0x10), (0x34800000, 1, false, 0x00, 0x18), (0xB4800000, 2, false, 0x00, 0x18), (0x4A371B00, 1, false, 0x01, 0x14), (0x4A371B00, 1, true, 0x80, 0x15)] :
      List (Word × BitVec 3 × Bool × Word × Word)).all (fun c => leaves (.cvt p ⟨0, 0⟩ .tf8 c.2.1 9 (.v 8) .f32 c.2.2.1)
        (fun g => { g.vset 8 6 c.1 with srseed := Table.insert g.srseed 6 1 }) fun _ g => g.vget 9 6 == c.2.2.2.1 && g.flags 6 &&& 0x1F == c.2.2.2.2 &&
          (g.seed 6 == if c.2.1 = 7 then 0x00042021 else 1)) = true := by decide +kernel

/-- A = 10, 11, ... 17 in lanes 0 to 7, the example of R309. -/
def eight (i : Instr) : State :=
  (placedWith i fun g => { (List.range 8).foldl (fun (g : Group) l => g.vset 4 l (BitVec.ofNat 32 (10 + l))) g with pregs := Table.put 0 g.pregs 1 0x52 }).modFrag 0 0 fun f => { f with mask := 0xFF }
def eightLeaves (i : Instr) (h : Group → Bool) : Bool :=
  match exec i (eight i) with
  | .next t => (t.group? 0).any h
  | _ => false

theorem test_lane_forms : eightLeaves (.vcompact p 5 4 1) (fun g => (List.range 8).map (g.vget 5) == [11, 14, 16, 0, 0, 0, 0, 0]) = true ∧
    eightLeaves (.vscan p .iadd32 0 5 4 true) (fun g => (List.range 8).map (g.vget 5) == [0, 10, 21, 33, 46, 60, 75, 91]) = true ∧
    eightLeaves (.vred p .iadd32 0 (.s 3) 4) (fun g => g.sget 3 == 108) = true := by decide +kernel

/-- The block product of *A block product worked* (R102 to R104): K = 40, TF8, one rounding for each block. -/
theorem test_block_product : (Pass.elem ⟨4, 0, 2, 40, 0, [], [], 7, false, 1, false, 0⟩ ⟨none, [], [], [], [(3584, 127), (3585, 126)], 0⟩ .tf8
      ⟨.tf8, [(0, 0x60), (128 * 33, 0x60)], [(0, 127), (128, 127)], 0, []⟩ ([0x60, 0, 0, 0, 0, 0, 0, 0, 0x6800, 0] ++ List.replicate 6 0x80808080) 0 0 0x4B800000)
    = (0x4B800000, 0x10) := by decide +kernel

/-- The first split of the example of R57: `BRD` at 0x0C0 with target 0x180 and reconvergence 0x240; lanes 0 to 63 take it. -/
theorem test_brd_splits : (let i : Instr := .brd ⟨false, 1, 0⟩ 0x20 0x30
    let s := (placedWith i fun g => { g with pregs := Table.put 0 g.pregs 1 0xFFFFFFFFFFFFFFFF }).modFrag 0 0 fun f => { f with pc := 0xC0 }
    match exec i s with
    | .next t => (t.group? 0).any fun g => ((g.frag 0).any fun f => f.pc == 0xCC && f.mask == 0xFFFFFFFFFFFFFFFF0000000000000000) && (g.frag 1).any fun f => f.pc == 0x180 && f.mask == 0xFFFFFFFFFFFFFFFF
    | _ => false) = true := by decide +kernel

/-- The pennant of the example of R66: with three members, one arrived and one leaving, the next arrival completes the phase. -/
theorem test_pennant_leave : (let q := ((Pennant.start [0, 1, 2]).arriveLanes 0 1 1 5).leave 2
    (q.expected, q.a, (q.arriveLanes 1 1 1 6).count, ((((Pennant.start [0, 1, 2]).arriveLanes 0 1 1 5).arriveLanes 2 1 1 6).leave 2).expected)) = (2, 1, 1, 3) := by decide +kernel

/-- R3: the bytes of a stored word, least significant first, at lane 1's address; lane 0's word beside it. -/
theorem test_store_bytes : (let i : Instr := .st p .b32 .none (.v 3) mI
    let s := loaded i 0x40001000 fun g => (indexed g).vset 3 1 0x11223344
    match exec i s with
    | .next t => [0x40001000, 0x40001004, 0x40001005, 0x40001006, 0x40001007].map (fun a => t.mem.byte a) == [0, 0x44, 0x33, 0x22, 0x11] && (t.group? 0).any fun g => pcOf g == 12
    | _ => false) = true := by decide +kernel

/-- The size set of R223: `.s8` sign-extends. -/
theorem test_load_extends : (let i : Instr := .ld p .s8 .none (.v 3) m4
    let s := loaded i 0x40001001
    match exec i { s with mem := s.mem.setBytes 0x40001001 [0x80] } with
    | .next t => (t.group? 0).any fun g => g.vget 3 1 == 0xFFFFFF80 && g.vget 3 2 == 0
    | _ => false) = true := by decide +kernel

/-- R331: two lanes add to one word, in lane order, each reading what the last left. -/
theorem test_atom_order : (let i : Instr := .atom p .iadd32 .none (.v 3) m4
    let s := loaded i 0x1000 fun g => (g.vset 3 0 5).vset 3 1 7
    match exec i s with
    | .next t => t.mem.word 0x1000 == 12 && (t.group? 0).any fun g => g.vget 3 0 == 0 && g.vget 3 1 == 5
    | _ => false) = true := by decide +kernel

/-- R427 to R430: a trap from user level runs its handler with the saved fragment behind it. -/
theorem test_trap_enters : (let i : Instr := .trap p 7
    match exec i (mapped (placed i)) with
    | .next t => (t.group? 0).any fun g => g.level == .sup && g.record.kind == 0x0A && g.record.code == 7 && g.record.valid && (g.frag 0).any fun f => f.pc == 0 && f.sup
    | _ => false) = true := by decide +kernel

end Sys2Proof.Tests
end

section
/-! What the device holds right after reset (R12, R142, R344, R404, R432). -/

namespace Sys2Proof.Glance

open Sys2Proof.Machine

/-- A core is in the map that the reset puts into force (log 2). -/
theorem mem_coreMap_reset {c : Nat} (hc : c < 144) : c ∈ State.reset.coreMap := List.mem_range.mpr hc

/-- Settles O56: every table of the state after reset is empty, so every look-up gives the default of its table. -/
theorem resetState : Obligations.ResetState :=
  ⟨rfl, rfl, rfl, rfl, rfl, rfl, rfl, rfl, rfl, fun _ => ⟨rfl, rfl, rfl, rfl⟩, fun _ _ => rfl, fun _ => rfl, fun _ => rfl,
    fun _ => ⟨rfl, rfl⟩, fun _ hc => mem_coreMap_reset hc, rfl, fun _ => rfl⟩

end Sys2Proof.Glance
end

section
/-! The tick of the core clock against what `Obligations.IssueAndTime` says of it (R12, R18, R197). -/

namespace Sys2Proof.Glance

open Sys2Proof.Machine

/-- With nothing to follow, no fragment chosen, nothing due and no partition that issues, a step is the tick (log 4). -/
theorem step_eq_tick {s : State} (ha : s.agenda = []) (hc : s.cur = none) (hd : s.due = none) (hp : s.nextPart = none) :
    step s = .next s.tick := by
  simp only [step, ha, hc, hd, hp]

/-- A fragment that waits is not ready (R195). -/
theorem ready_of_wait {s : State} {k en : Nat} {g : Group} {f : Frag} (h : f.wait ≠ .none) : s.ready k en g f = false := by
  simp [State.ready, h]

/-- A fragment that waits at its reconvergence address, the only one of the only group. -/
def waitingFrag : Frag := ⟨1, 0, 0, 0, .join, [], 0, none, false, false⟩
def waitingGroup : Group := { startGroup 0 (placedRecord .V) 0 0 0 0 0 0 with frags := [(0, waitingFrag)] }
def waitingState : State := { State.reset with groups := [(0, waitingGroup)] }

theorem waitingState_due : waitingState.due = none := by decide +kernel
theorem waitingState_nextPart : waitingState.nextPart = none := by decide +kernel

/-- The tick to clk 1 finds the fragment not ready in clk 1, and lets it count as ready from clk 2. -/
theorem waitingState_tick : waitingState.tick.group? 0 = some { waitingGroup with frags := [(0, { waitingFrag with since := 2 })] } := by
  decide +kernel

/-- Refutes O45, in its last clause: a fragment that is not ready in the new clk counts as ready from the clk after it
(`State.recount`), one later than the statement says. In `waitingState` the tick leaves `since` 2 where the statement has 1. -/
theorem not_issueAndTime : ¬ Obligations.IssueAndTime := by
  unfold Obligations.IssueAndTime
  intro h
  obtain ⟨-, -, -, -, hstep⟩ := h waitingState 0 0 0 0 waitingGroup waitingFrag
  obtain ⟨-, htick⟩ := hstep rfl rfl waitingState_due
  obtain ⟨u, t, ht, hclk, -, -, -, -, -, hfrag⟩ := htick waitingState_nextPart
  obtain rfl : waitingState.tick = t := by
    rw [step_eq_tick rfl rfl waitingState_due waitingState_nextPart] at ht
    exact Host.Outcome.next.inj ht
  obtain ⟨g, hg, -, hf, -⟩ := hfrag 0 waitingGroup 0 waitingFrag rfl rfl
  obtain rfl := Option.some.inj (waitingState_tick.symm.trans hg)
  rw [ready_of_wait (by decide), hclk] at hf
  exact absurd hf (by decide)

end Sys2Proof.Glance
end

section
/-! The warm reset against what `Obligations.Health` says of it (R419). -/

namespace Sys2Proof.Glance

open Sys2Proof.Machine

/-- A directory that lists line 0 twice: the entry that a look-up finds is that of a line with no entry, the one behind it has the
line in M. -/
def twiceListed : State := { State.reset with dir := [(0, Dir.reset), (0, { Dir.reset with st := .M })] }

/-- The warm reset drops the first of the two, and the look-up then finds the second. -/
theorem warmReset_twiceListed : ∃ t, exec .warmReset twiceListed = .next t ∧ (t.entry 0).st = .M :=
  ⟨_, rfl, rfl⟩

/-- Refutes O55, in its clause on the warm reset, which says of every state that no line's entry changes but for its seal: the
reset lists the directory anew without the entries of lines that have none, so where the directory is not in canonical form and
lists a line twice, another entry comes to light. -/
theorem not_health : ¬ Obligations.Health := by
  unfold Obligations.Health
  intro h
  obtain ⟨-, -, -, -, -, -, -, -, -, -, -, -, -, -, -, -, -, -, -, -, -, -, hwarm, -⟩ :=
    h twiceListed 0 0 0 0 false false false 0 0 ⟨0, 0, 0, false, false, 0, []⟩
  obtain ⟨t, ht, -, -, -, -, -, -, -, -, -, -, -, -, -, hkeeps, -⟩ := hwarm
  obtain ⟨-, -, -, -, -, hentry, -⟩ := hkeeps
  obtain ⟨t', ht', hst⟩ := warmReset_twiceListed
  obtain rfl := Host.Outcome.next.inj (ht'.symm.trans ht)
  rw [hentry 0] at hst
  exact absurd hst (by decide)

end Sys2Proof.Glance
end

section
/-! What the reads of words at their homes leave as it is: the clock, the launches, the prefetches on their way and the outstanding
operations (R128, R145, R164, R456). -/

namespace Sys2Proof.Glance

open Sys2Proof.Machine

/-- A fold whose every step keeps a part of the accumulator keeps it. -/
theorem foldl_keeps {α β γ : Type} (p : α → γ) {f : α → β → α} (h : ∀ a x, p (f a x) = p a) (l : List β) (a : α) :
    p (l.foldl f a) = p a := by
  induction l generalizing a with
  | nil => rfl
  | cons x l ih => exact (ih _).trans (h a x)

/-- What a read of words at their homes leaves as it is. -/
def steady (s : State) : Nat × Table Launch × List Prefetch × Table EngOp := (s.clk, s.launches, s.prefetches, s.ops)

theorem clk_of_steady {s t : State} (h : steady t = steady s) : t.clk = s.clk := congrArg Prod.fst h

theorem foldl_steady {β : Type} {f : State → β → State} (h : ∀ s x, steady (f s x) = steady s) (l : List β) (s : State) :
    steady (l.foldl f s) = steady s := foldl_keeps steady h l s

/-! ### Updates of other parts -/

@[simp] theorem setStamps_steady (s : State) (a : Nat) (x : Stamps) : steady (s.setStamps a x) = steady s := rfl
@[simp] theorem modEntry_steady (s : State) (l : Nat) (f : Dir → Dir) : steady (s.modEntry l f) = steady s := rfl
@[simp] theorem setL1_steady (s : State) (c l : Nat) (x : L1Line) : steady (s.setL1 c l x) = steady s := rfl
@[simp] theorem dropL1_steady (s : State) (c l : Nat) : steady (s.dropL1 c l) = steady s := rfl
@[simp] theorem clearParts_steady (s : State) (l : Nat) : steady (s.clearParts l) = steady s := rfl

/-! ### Reads at a home slice (R128, R453 to R460) -/

@[simp] theorem lose_steady (s : State) (l : Nat) (m : Word) : steady (s.lose l m) = steady s := by
  unfold State.lose
  dsimp only
  split
  · rfl
  · split <;> split <;> rfl

@[simp] theorem readStore_steady (s : State) (x : Store) (c : Option Nat) : steady (s.readStore x c).1 = steady s := by
  obtain ⟨_, _, _, _, h⟩ := s.readStore_eq x c
  rw [h]; rfl

@[simp] theorem readHome_steady (s : State) (c : Option Nat) (a : Nat) : steady (s.readHome c a) = steady s := by
  unfold State.readHome
  dsimp only
  split
  · rfl
  · split
    · exact readStore_steady ..
    · split
      · exact (lose_steady ..).trans (readStore_steady ..)
      · exact readStore_steady s (.home (a / 4 * 4)) c

theorem letGo_steady (s : State) (l : Nat) : steady (s.letGo l) = steady s := by
  unfold State.letGo
  dsimp only
  split
  · rfl
  · exact foldl_steady (fun s i => readHome_steady s none (128 * l + 4 * i)) (wordsOf (Table.get 0 s.wet l)) s

@[simp] theorem fetched_steady (s : State) (a : Nat) : steady (s.fetched a) = steady s := by
  unfold State.fetched
  dsimp only
  split
  · rfl
  · split
    · rfl
    · split
      · rfl
      · split
        · exact letGo_steady s _
        · rfl

theorem corrected_steady (s : State) (a y : Nat) : steady (s.corrected a y) = steady s := by
  unfold State.corrected
  dsimp only
  split
  · split <;> rfl
  · rfl

@[simp] theorem noteRead_steady (s : State) (a : Nat) : steady (s.noteRead a) = steady s := by
  unfold State.noteRead
  dsimp only
  split
  · rfl
  · split
    · split
      · exact (corrected_steady ..).trans (fetched_steady s a)
      · exact (corrected_steady ..).trans (fetched_steady s a)
      · exact fetched_steady s a
    · exact fetched_steady s a

@[simp] theorem noteAbort_steady (s : State) (a c : Nat) (x : Option Nat) : steady (s.noteAbort a c x) = steady s := by
  unfold State.noteAbort State.uncorrectable
  split
  · split <;> rfl
  · rfl

theorem noteWalk_steady (s : State) (c a : Nat) : steady (s.noteWalk c a) = steady s := by
  unfold State.noteWalk
  split
  · refine foldl_steady (fun s a => ?_) _ s
    dsimp only
    split
    · exact (noteAbort_steady ..).trans (readHome_steady ..)
    · exact (noteRead_steady ..).trans (readHome_steady ..)
  · rfl

@[simp] theorem noteFault_steady (s : State) (k c a : Nat) : steady (s.noteFault k c a) = steady s := by
  unfold State.noteFault
  split
  · exact noteWalk_steady s c a
  · rfl

theorem wetted_steady (s : State) (a : Nat) : steady (s.wetted a) = steady s := by
  unfold State.wetted
  split <;> rfl

@[simp] theorem putWord_steady (s : State) (a : Nat) (w : Word) : steady (s.putWord a w) = steady s := by
  unfold State.putWord
  rw [wetted_steady, fetched_steady]
  rfl

theorem fetchBurst_steady (s : State) (b : Nat × Burst) :
    steady ((burstOffs b.2).foldl (fun s w => s.noteRead (burstAddr b.1 b.2 w)) s) = steady s := by
  generalize burstOffs b.2 = l
  induction l generalizing s with
  | nil => rfl
  | cons w l ih => rw [List.foldl_cons, ih, noteRead_steady]

@[simp] theorem fetchWords_steady (s : State) (ws : List Nat) : steady (s.fetchWords ws) = steady s := by
  unfold State.fetchWords State.fetchBursts
  exact foldl_steady fetchBurst_steady _ s

@[simp] theorem readHomes_steady (s : State) (c : Option Nat) (ws : List Nat) : steady (s.readHomes c ws) = steady s := by
  unfold State.readHomes
  rw [fetchWords_steady]
  split
  · rfl
  · exact foldl_steady (fun s a => readHome_steady s c a) ws s

theorem wrote_steady (s : State) (a : Nat) (v : Word) (r : List Release) : steady (s.wrote a v r) = steady s := by
  unfold State.wrote
  dsimp only
  split
  · exact foldl_steady (fun s m => by split <;> rfl) _ s
  · rfl

/-! ### Copies of a line (R125, R143 to R149) -/

theorem dropWord_steady (s : State) (c l i : Nat) : steady (s.dropWord c l i) = steady s := by
  unfold State.dropWord
  split <;> rfl

@[simp] theorem dropWords_steady (s : State) (c l : Nat) (m : Word) : steady (s.dropWords c l m) = steady s := by
  unfold State.dropWords
  split
  · split <;> rfl
  · rfl

@[simp] theorem rehint_steady (s : State) (c l : Nat) (h : BitVec 2) : steady (s.rehint c l h) = steady s := by
  unfold State.rehint
  split <;> rfl

theorem readL1_steady (s : State) (c : Nat) (x : Option Nat) (a : Nat) : steady (s.readL1 c x a) = steady s := by
  simp only [State.readL1, apply_ite steady, lose_steady, dropWord_steady, readStore_steady, ite_self]

@[simp] theorem readCopy_steady (s : State) (c l : Nat) : steady (s.readCopy c l) = steady s := by
  unfold State.readCopy
  split
  · rfl
  · exact foldl_steady (fun s i => readL1_steady s c none (128 * l + 4 * i)) _ s

theorem readStores_steady (s : State) (c x : Option Nat) (a : Nat) : steady (s.readStores c x a) = steady s := by
  unfold State.readStores
  dsimp only
  split
  · rfl
  · rw [readHome_steady, foldl_steady fun s c => readL1_steady s c x a]
    split
    · rw [lose_steady, readStore_steady]
    · exact readStore_steady ..

@[simp] theorem readSlots_steady (s : State) (l : Nat) : steady (s.readSlots l).1 = steady s := by
  unfold State.readSlots
  split
  · rfl
  · refine foldl_keeps (fun a : State × Bool => steady a.1) (fun a c => ?_) _ (s, false)
    refine foldl_keeps (fun a : State × Bool => steady a.1) (fun a u => ?_) _ a
    exact readStore_steady a.1 (.slot c u.addr) none

@[simp] theorem returnWords_steady (s : State) (x : L1Line) (l : Nat) (m : Word) : steady (s.returnWords x l m) = steady s := by
  refine foldl_steady (fun s i => ?_) _ s
  dsimp only
  split
  · rw [setStamps_steady, putWord_steady]
  · rfl

theorem recall_steady (s : State) (l c : Nat) : steady (s.recall l c) = steady s := by
  unfold State.recall
  dsimp only
  split <;> simp

theorem forwardRead_steady (s : State) (l c : Nat) : steady (s.forwardRead l c) = steady s := by
  unfold State.forwardRead
  dsimp only
  split <;> simp

theorem evict_steady (s : State) (l c : Nat) : steady (s.evict l c) = steady s := by
  simp only [State.evict, State.giveUp, apply_ite steady, modEntry_steady, recall_steady, dropL1_steady, ite_self]

theorem makeRoom_steady (s : State) (c l : Nat) : steady (s.makeRoom c l) = steady s := by
  unfold State.makeRoom
  split
  · rfl
  · split
    · exact evict_steady ..
    · rfl

@[simp] theorem install_steady (s : State) (c l : Nat) (m : Word) (k : Cls) (h : BitVec 2) (o g : Bool) :
    steady (s.install c l m k h o g) = steady s := by
  simp only [State.install, apply_ite steady, setL1_steady, foldl_steady fun s _ => setStamps_steady s _ _, modEntry_steady,
    readHomes_steady, makeRoom_steady, ite_self]

@[simp] theorem undivide_steady (s : State) (l : Nat) : steady (s.undivide l) = steady s :=
  foldl_steady (fun s c => recall_steady s l c) _ s

/-! ### Merges (R164), and what a read needs before it (R145) -/

theorem returnParts_steady (s : State) (l : Nat) : steady (s.returnParts l) = steady s := by
  unfold State.returnParts
  dsimp only
  split <;> rfl

theorem putMerged_steady (s : State) (a : Nat) (w : Word) (u : Option WStamp) : steady (s.putMerged a w u) = steady s := by
  simp only [State.putMerged, wrote_steady, setStamps_steady, putWord_steady]

@[simp] theorem mergeLine_steady (s : State) (l : Nat) : steady (s.mergeLine l).s = steady s := by
  unfold State.mergeLine
  dsimp only
  split
  · simp only [lose_steady, clearParts_steady, readHomes_steady, readSlots_steady, returnParts_steady]
  · rw [clearParts_steady]
    refine (foldl_keeps (fun a : State × Table Fl => steady a.1) (fun a p => ?_) _ _).trans ?_
    · simp only [apply_ite steady, putMerged_steady, ite_self]
    · simp only [readHomes_steady, readSlots_steady, returnParts_steady]

/-- The holders of a line in M or S keep their copies, clean (R146). -/
theorem forwardAll_steady (s : State) (l : Nat) (cs : List Nat) : steady (cs.foldl (fun s y => s.forwardRead l y) s) = steady s :=
  foldl_steady (fun s y => forwardRead_steady s l y) cs s

theorem readLine_steady (s : State) (c l : Nat) (m : Word) (h : BitVec 2) (a : Bool) : steady (s.readLine c l m h a).s = steady s := by
  unfold State.readLine
  dsimp only
  split
  · rfl
  split
  · simp [apply_ite steady]
  split
  · simp [apply_ite steady]
  · simp [apply_ite steady]
  · split <;> simp [apply_ite steady, forwardAll_steady]
  · split <;> simp [apply_ite steady]
  · split <;> simp [apply_ite steady]

theorem bringHome_steady (s : State) (c l : Nat) : steady (s.bringHome c l) = steady s := by
  unfold State.bringHome
  dsimp only
  split
  · split
    · exact forwardRead_steady ..
    · rfl
  · exact undivide_steady ..
  · rfl

theorem prepRead_steady (c : Nat) (h : BitVec 2) (w : Bool) (s : State) (l : Nat) (k : Cls) (m : Word) :
    steady (s.prepRead c h w l k m).s = steady s := by
  unfold State.prepRead
  split
  · split <;> simp only [readLine_steady, bringHome_steady]
  · simp only [apply_ite Merged.s, apply_ite steady, rehint_steady, dropWords_steady, install_steady, ite_self]
  · split
    · exact mergeLine_steady ..
    · rfl

theorem mergeIf_steady (s : State) (l : Nat) : steady (if (s.entry l).st == .P then s.mergeLine l else ⟨s, [], none⟩ : Merged).s = steady s := by
  split
  · exact mergeLine_steady ..
  · rfl

theorem homeRead_steady (s : State) (l : Nat) (m : Word) (k : Cls) (a : Who) (b : Nat → BitVec 4) (c : Option Nat) :
    steady (s.homeRead l m k a b c).s = steady s := by
  have hf : ∀ ws : List Nat, steady (ws.foldl (fun s w => s.readStores none c w) s) = steady s := fun ws =>
    foldl_steady (fun s w => readStores_steady s none c w) ws s
  have hs : ∀ (ws : List Nat) (t : State), steady (ws.foldl (fun s w => if k == .dc && b (w / 4 % 32) != 0
      then s.setStamps w ((s.stampsOf w).read a .plain (b (w / 4 % 32))) else s) t) = steady t := fun ws =>
    foldl_steady (fun s w => by split <;> rfl) ws
  unfold State.homeRead
  dsimp only
  split
  · simp only [mergeIf_steady, fetchWords_steady, hf]
  · split
    · simp only [mergeIf_steady, fetchWords_steady, hf]
    · simp only [hs, prepRead_steady, mergeIf_steady, fetchWords_steady, hf]

end Sys2Proof.Glance
end

section
/-! The clock through a gang kill (R429, R461 to R466, R478). -/

namespace Sys2Proof.Glance

open Sys2Proof.Machine

/-- A fold whose every step keeps the clock. -/
theorem foldl_clk {β : Type} {f : State → β → State} (h : ∀ s x, (f s x).clk = s.clk) (l : List β) (s : State) :
    (l.foldl f s).clk = s.clk := foldl_keeps State.clk h l s

theorem putWord_clk (s : State) (a : Nat) (w : Word) : (s.putWord a w).clk = s.clk := clk_of_steady (putWord_steady s a w)
theorem noteAbort_clk (s : State) (a c : Nat) (x : Option Nat) : (s.noteAbort a c x).clk = s.clk := clk_of_steady (noteAbort_steady s a c x)
theorem send_clk (s : State) (n : Nat) (m : HMsg) : (s.send n m).clk = s.clk := rfl
theorem log1_clk (s : State) (t u : Nat) (r : Word) (a : Nat) (c d : Word) : (s.log1 t u r a c d).clk = s.clk := rfl
theorem mendAll_clk (s : State) (p : Store → Bool) : (s.mendAll p).clk = s.clk := rfl

/-! ### What a kill tells the outside -/

theorem releaseSeals_clk (s : State) (l : List Nat) : (s.releaseSeals l).clk = s.clk := rfl
theorem dropCur_clk (s : State) (k : Nat) : (s.dropCur k).clk = s.clk := rfl
theorem forgetPasses_clk (s : State) (k : Nat) : (s.forgetPasses k).clk = s.clk := rfl

theorem pushFault_clk (s : State) (f : Nat) (e : List Byte) : (s.pushFault f e).clk = s.clk := by
  simp only [State.pushFault, apply_ite State.clk, State.setFn_clk, State.setHost_clk, ite_self]

theorem reportFault_clk (s : State) (k : Nat) (g : Group) (r : Record) (fl a : Nat) (m : Mask) :
    (s.reportFault k g r fl a m).clk = s.clk := pushFault_clk ..

theorem retireCmd_clk (s : State) (c : Cmd) (n : Nat) (v : DWord) : (s.retireCmd c n v).clk = s.clk := by
  simp only [State.retireCmd, apply_ite State.clk, State.setQueue_clk, State.setHost_clk, ite_self]

theorem signal_clk (s : State) (n : Nat) (v : Word) : (s.signal n v).clk = s.clk := by
  unfold State.signal
  exact foldl_clk (fun s c => retireCmd_clk s c 0 0) _ _

/-! ### The ends of launches and gangs -/

theorem finishLaunch_clk (s : State) (l : Nat) (x : Launch) (n : Nat) : (s.finishLaunch l x n).clk = s.clk := by
  unfold State.finishLaunch
  refine (foldl_clk (fun s c => ?_) _ _).trans ?_
  · simp only [apply_ite State.clk, retireCmd_clk, ite_self]
  · split
    · simp only [apply_ite State.clk, signal_clk, ite_self]
    · rfl

theorem endEverywhereIf_clk (s : State) (l : Nat) : (s.endEverywhereIf l).clk = s.clk := by
  unfold State.endEverywhereIf
  split
  · rfl
  · split
    · rw [finishLaunch_clk]
      exact foldl_clk (fun s d => send_clk s _ _) _ s
    · rfl

theorem endLaunchIf_clk (s : State) (l : Nat) : (s.endLaunchIf l).clk = s.clk := by
  unfold State.endLaunchIf
  split
  · rfl
  · simp only [apply_ite State.clk, finishLaunch_clk, endEverywhereIf_clk, send_clk, State.modLaunch_clk, ite_self]

/-! ### What a kill takes away -/

theorem releaseMats_clk (s : State) (c w : Nat) : (s.releaseMats c w).clk = s.clk :=
  foldl_clk (fun s p => by split <;> rfl) _ s

theorem putPte_clk (s : State) (a : Nat) (e : DWord) : (s.putPte a e).clk = s.clk := by
  unfold State.putPte
  rw [putWord_clk, putWord_clk]

theorem fillLeaf_clk (s : State) (a : Nat) : (s.fillLeaf a).clk = s.clk := by
  unfold State.fillLeaf
  split
  · exact putPte_clk ..
  · rfl

theorem revertLeaf_clk (s : State) (a : Nat) : (s.revertLeaf a).clk = s.clk := by
  unfold State.revertLeaf
  split
  · split
    · exact putPte_clk ..
    · rfl
  · rfl

theorem revertOf_clk (s : State) (g : Group) : (s.revertOf g).clk = s.clk := by
  unfold State.revertOf
  split
  · split
    · exact revertLeaf_clk ..
    · rfl
  · rfl

theorem removeGroup_clk (s : State) (k : Nat) : (s.removeGroup k).clk = s.clk := by
  unfold State.removeGroup
  dsimp only
  rw [mendAll_clk, State.modCore_clk, forgetPasses_clk, dropCur_clk]

theorem dropWork_clk (s : State) (l : Nat) (g : List Nat) : (s.dropWork l g).clk = s.clk := by
  unfold State.dropWork
  dsimp only
  rw [releaseSeals_clk]

theorem dropSaved_clk (s : State) (l : Nat) : (s.dropSaved l).clk = s.clk := by
  unfold State.dropSaved
  dsimp only
  rw [dropWork_clk, releaseSeals_clk]

theorem clearGang_clk (s : State) (k : Nat) (x : Gang) : (s.clearGang k x).clk = s.clk := by
  unfold State.clearGang
  dsimp only
  rw [foldl_clk fun s (w : Nat × Workgroup) => releaseMats_clk s w.2.core w.1, dropWork_clk]
  exact foldl_clk (fun s g => (removeGroup_clk ..).trans (revertOf_clk ..)) _ s

/-! ### The kills -/

theorem killGang_clk (s : State) (k : Nat) (a : Bool) : (s.killGang k a).clk = s.clk := by
  unfold State.killGang
  split
  · rfl
  · rw [endLaunchIf_clk, State.modLaunch_clk, log1_clk, clearGang_clk]

theorem abortLaunch_clk (s : State) (l : Nat) : (s.abortLaunch l).clk = s.clk := by
  unfold State.abortLaunch
  split
  · rfl
  · split
    · rfl
    · dsimp only
      rw [endLaunchIf_clk, State.modLaunch_clk, foldl_clk fun s k => killGang_clk s k false, State.modLaunch_clk]
      exact dropSaved_clk s l

theorem abortEverywhere_clk (s : State) (l : Nat) : (s.abortEverywhere l).clk = s.clk := by
  unfold State.abortEverywhere
  split
  · rfl
  · rw [abortLaunch_clk]
    split
    · exact foldl_clk (fun s d => send_clk s _ _) _ _
    · rfl

theorem kill_clk (s : State) (k : Nat) (a : Bool) : (s.kill k a).clk = s.clk := by
  unfold State.kill
  split
  · rfl
  split
  · exact killGang_clk ..
  split
  · exact killGang_clk ..
  split
  · exact abortEverywhere_clk ..
  dsimp only
  split
  · rw [State.modLaunch_clk]
    refine (foldl_clk (fun s j => ?_) _ _).trans (dropSaved_clk ..)
    split
    · rw [log1_clk, clearGang_clk]
    · rfl
  · exact abortLaunch_clk ..

theorem killPacked_clk (s : State) (k : Nat) (g : Group) : (s.killPacked k g).clk = s.clk := by
  unfold State.killPacked
  rw [endLaunchIf_clk, State.modLaunch_clk, dropWork_clk, removeGroup_clk, revertOf_clk]

theorem killGroup_clk (s : State) (k : Nat) (a : Bool) : (s.killGroup k a).clk = s.clk := by
  unfold State.killGroup
  split
  · rfl
  split
  · exact kill_clk ..
  · exact killPacked_clk ..

theorem abortKill_clk (s : State) (k : Nat) (r : Record) (m : Mask) : (s.abortKill k r m).clk = s.clk := by
  unfold State.abortKill
  split
  · rfl
  · rw [killGroup_clk, reportFault_clk, State.setGroup_clk]

theorem abortThread_clk (s : State) (x : X) (u : Bool) (l : List Abort) : (s.abortThread x u l).1.clk = s.clk := by
  have hn : ∀ l' : List (Nat × Nat), (l'.foldl (fun s a => s.noteAbort a.1 a.2 (some (s.ctxOf x.g.launch))) s).clk = s.clk := fun l' =>
    foldl_clk (fun s a => noteAbort_clk s a.1 a.2 _) l' s
  unfold State.abortThread
  dsimp only
  split
  · rw [abortKill_clk, hn]
  · exact hn _

end Sys2Proof.Glance
end

section
/-! One scan of the iteration walker (R377, R378): what it reads, prefetches and hands out. -/

namespace Sys2Proof.Glance

open Sys2Proof.Machine Sys2Proof.Safety

/-! ### The clock through a scan -/

theorem askPeers_clk (s : State) (l : Nat) : (s.askPeers l).clk = s.clk := by
  unfold State.askPeers
  dsimp only
  split
  · rfl
  · exact foldl_clk (fun s n => send_clk s n _) _ s

theorem claim_clk (s : State) (ws : List Nat) : (s.claim ws).clk = s.clk := foldl_clk askPeers_clk _ s

theorem translateAll_clk {s t : State} {x : X} {u : Bool} {l : List Ask} {d : Done} (h : s.translateAll x u l = .stop t d) :
    t.clk = s.clk := by
  unfold State.translateAll at h
  dsimp only at h
  split at h
  · obtain ⟨rfl, -⟩ := Resolved.stop.inj h
    exact foldl_clk (fun s t => clk_of_steady (noteFault_steady s _ _ _)) _ s
  · split at h
    · obtain ⟨rfl, -⟩ := Resolved.stop.inj h
      exact fillLeaf_clk ..
    · split at h
      · obtain ⟨rfl, -⟩ := Resolved.stop.inj h
        rfl
      · exact nomatch h

/-! ### The list of a walk, read at its homes -/

theorem prepAll_steady {f : State → Nat → Cls → Word → Merged} (hf : ∀ s l c m, steady (f s l c m).s = steady s) (s : State)
    (l : List (Nat × Cls × Word)) : steady (s.prepAll f l).s = steady s := by
  refine foldl_keeps (fun r : Merged => steady r.s) (fun r n => ?_) l ⟨s, [], none⟩
  exact hf r.s n.1 n.2.1 n.2.2

/-- Two ways to prepare lines that agree on the states that follow prepare them alike. -/
theorem prepAll_congr {f f' : State → Nat → Cls → Word → Merged} {s : State} (hf : ∀ s l c m, steady (f s l c m).s = steady s)
    (h : ∀ t l c m, steady t = steady s → f' t l c m = f t l c m) (l : List (Nat × Cls × Word)) : s.prepAll f' l = s.prepAll f l := by
  unfold State.prepAll
  generalize hr : (⟨s, [], none⟩ : Merged) = r
  have hs : steady r.s = steady s := by rw [← hr]
  clear hr
  induction l generalizing r with
  | nil => rfl
  | cons n l ih =>
    simp only [List.foldl_cons, h r.s n.1 n.2.1 n.2.2 hs]
    exact ih _ ((hf ..).trans hs)

theorem ctxOf_of_steady {s t : State} (h : steady t = steady s) (l : Nat) : t.ctxOf l = s.ctxOf l := by
  obtain ⟨-, h⟩ := Prod.mk.inj h
  obtain ⟨h, -⟩ := Prod.mk.inj h
  simp only [State.ctxOf, h]

/-! ### Prefetches (R10, R325) -/

theorem requests_of_steady {s t : State} (h : steady t = steady s) (c : Nat) : t.requests c = s.requests c := by
  obtain ⟨-, h⟩ := Prod.mk.inj h
  obtain ⟨-, h⟩ := Prod.mk.inj h
  obtain ⟨hp, ho⟩ := Prod.mk.inj h
  simp only [State.requests, hp, ho]

theorem prefetch_clk (s : State) (c x : Nat) (a : Int) (h : BitVec 2) : (s.prefetch c x a h).clk = s.clk := by
  have hn := clk_of_steady (noteFault_steady s c x (a.toNat / 4 * 4))
  unfold State.prefetch
  split
  · rfl
  · dsimp only
    split
    · split <;> exact hn
    · exact hn

/-- A prefetch is at most one request. -/
theorem requests_prefetch_le (s : State) (c x k : Nat) (a : Int) (h : BitVec 2) : (s.prefetch c x a h).requests k ≤ s.requests k + 1 := by
  have hn := requests_of_steady (noteFault_steady s c x (a.toNat / 4 * 4)) k
  unfold State.prefetch
  split
  · omega
  · dsimp only
    split
    · split
      · omega
      · rw [← hn]
        simp only [State.requests, State.fresh, List.filter_append, List.length_append, List.filter_cons, List.filter_nil]
        split <;> (simp only [List.length_cons, List.length_nil]; omega)
    · omega

/-- The prefetches of a point's operand. -/
def prefetchAll (x : X) (s : State) (ws : List Nat) : State :=
  ws.foldl (fun (s : State) (a : Nat) => s.prefetch x.core (s.ctxOf x.g.launch) (a : Int) 0) s

theorem prefetchAll_clk (x : X) (s : State) (ws : List Nat) : (prefetchAll x s ws).clk = s.clk :=
  foldl_clk (fun s (a : Nat) => prefetch_clk s x.core (s.ctxOf x.g.launch) (a : Int) 0) ws s

theorem requests_prefetchAll_le (x : X) (s : State) (ws : List Nat) (k : Nat) : (prefetchAll x s ws).requests k ≤ s.requests k + ws.length := by
  unfold prefetchAll
  induction ws generalizing s with
  | nil => exact Nat.le_refl _
  | cons a ws ih =>
    have h1 := ih (s.prefetch x.core (s.ctxOf x.g.launch) (a : Int) 0)
    have h2 := requests_prefetch_le s x.core (s.ctxOf x.g.launch) k (a : Int) 0
    rw [List.foldl_cons, List.length_cons]
    omega

/-- What a scan does at one of its points: it prefetches the point's operand, where the core has room for all of it. -/
def scanPoint (x : X) (vals : Table Word) (acc : State × Walk × Bool) (i : Nat) : State × Walk × Bool :=
  let ws := acc.2.1.operand (Table.get 0 vals i)
  if !acc.2.2 || requestMax < acc.1.requests x.core + ws.length then (acc.1, acc.2.1, false)
  else (prefetchAll x acc.1 ws, { acc.2.1 with asked := acc.2.1.asked ++ [i] }, true)

theorem scanPrefetch_eq (s : State) (x : X) (w : Walk) (vals : Table Word) (l : List Nat) : s.scanPrefetch x w vals l =
    (l.filter fun i => Table.get 0 w.passes i = 0 && !w.asked.contains i).foldl (scanPoint x vals) (s, w, true) := rfl

theorem scanPoint_clk (x : X) (vals : Table Word) (acc : State × Walk × Bool) (i : Nat) : (scanPoint x vals acc i).1.clk = acc.1.clk := by
  unfold scanPoint
  dsimp only
  split
  · rfl
  · exact prefetchAll_clk ..

theorem scanPrefetch_clk (s : State) (x : X) (w : Walk) (vals : Table Word) (l : List Nat) : (s.scanPrefetch x w vals l).1.clk = s.clk :=
  foldl_keeps (fun a : State × Walk × Bool => a.1.clk) (scanPoint_clk x vals) _ (s, w, true)

theorem scanPoint_walk (x : X) (vals : Table Word) (acc : State × Walk × Bool) (i : Nat) :
    { (scanPoint x vals acc i).2.1 with asked := [] } = { acc.2.1 with asked := [] } := by
  unfold scanPoint
  dsimp only
  split <;> rfl

/-- The prefetches of a scan change of its walk only the points that it has asked for. -/
theorem scanPrefetch_walk (s : State) (x : X) (w : Walk) (vals : Table Word) (l : List Nat) :
    { (s.scanPrefetch x w vals l).2.1 with asked := [] } = { w with asked := [] } :=
  foldl_keeps (fun a : State × Walk × Bool => { a.2.1 with asked := [] }) (scanPoint_walk x vals) _ (s, w, true)

theorem requests_scanPoint_le (x : X) (vals : Table Word) (acc : State × Walk × Bool) (i : Nat) :
    (scanPoint x vals acc i).1.requests x.core ≤ max (acc.1.requests x.core) 4096 := by
  unfold scanPoint
  dsimp only
  split
  · exact Nat.le_max_left ..
  · rename_i h
    simp only [Bool.or_eq_true, not_or, decide_eq_true_eq] at h
    exact ((requests_prefetchAll_le x acc.1 _ x.core).trans (Nat.not_lt.1 h.2)).trans (Nat.le_max_right ..)

/-- A scan asks for no more than its core can have outstanding (R10). -/
theorem requests_scanPrefetch_le (s : State) (x : X) (w : Walk) (vals : Table Word) (l : List Nat) :
    (s.scanPrefetch x w vals l).1.requests x.core ≤ max (s.requests x.core) 4096 := by
  rw [scanPrefetch_eq]
  generalize List.filter _ l = l
  generalize ha : (s, w, true) = acc
  rw [show s = acc.1 from congrArg Prod.fst ha]
  clear ha
  induction l generalizing acc with
  | nil => exact Nat.le_max_left ..
  | cons i l ih =>
    have h := requests_scanPoint_le x vals acc i
    exact (ih _).trans (by omega)

/-! ### The points of a scan (R378) -/

theorem mem_window {w : Walk} {i : Nat} (h : i ∈ w.window) : i < w.n ∧ i ∉ w.handed := by
  have h := List.mem_of_mem_take h
  simpa using h

/-- What a scan hands out lies in the window, and has been passed over to the bound or is resident. -/
theorem mem_scanned {s : State} {x : X} {w w' : Walk} {vals : Table Word} {n i : Nat} (h : i ∈ (w'.scanned n (s.sights x w vals)).2) :
    i < w.n ∧ i ∉ w.handed ∧ (w.bound ≤ Table.get 0 w.passes i ∨
      ∀ o ∈ w.operand (Table.get 0 vals i), s.residentAt x.core (s.ctxOf x.g.launch) (o : Int) = true) := by
  have h : i ∈ (s.sights x w vals).1 ++ (s.sights x w vals).2.1 := List.mem_of_mem_take h
  rcases List.mem_append.1 h with h | h
  · obtain ⟨hw, hb⟩ := List.mem_filter.1 h
    exact ⟨(mem_window hw).1, (mem_window hw).2, .inl (of_decide_eq_true hb)⟩
  · obtain ⟨hw, hb⟩ := List.mem_filter.1 h
    obtain ⟨-, hr⟩ := (Bool.and_eq_true _ _).mp hb
    exact ⟨(mem_window hw).1, (mem_window hw).2, .inr (List.all_eq_true.1 hr)⟩

theorem length_scanned_le (w : Walk) (n : Nat) (q : List Nat × List Nat × List Nat) : (w.scanned n q).2.length ≤ n := List.length_take_le ..

/-! ### What the lanes take -/

/-- A group whose lanes take points of a list in order, and the others a word. -/
def handOut (d : Nat) (ls out : List Nat) (rest : Word) (g : Group) : Group :=
  (ls.zip (List.range ls.length)).foldl (fun (g : Group) l => g.vset d l.1 (((out[l.2]?).map fun i => BitVec.ofNat 32 i).getD rest)) g

/-- What a lane takes: the point whose place in the list is the lane's place among the lanes. -/
def takes (ls out : List Nat) (rest : Word) (l : Nat) : Word := ((out[ls.idxOf l]?).map fun i => BitVec.ofNat 32 i).getD rest

theorem handOut_eq {ls : List Nat} (hn : ls.Nodup) (d : Nat) (out : List Nat) (rest : Word) (g : Group) :
    handOut d ls out rest g = ls.foldl (fun g l => g.vset d l (takes ls out rest l)) g := by
  have hz : ls.zip (List.range ls.length) = ls.map fun l => (l, ls.idxOf l) := by
    refine List.ext_getElem (by simp) fun j h1 h2 => ?_
    simp only [List.getElem_zip, List.getElem_range, List.getElem_map, hn.idxOf_getElem]
  rw [handOut, hz, List.foldl_map]
  rfl

theorem handOut_rest (d : Nat) (ls out : List Nat) (rest : Word) (g : Group) (t : Table Word) :
    { handOut d ls out rest g with vregs := t } = { g with vregs := t } := by
  refine foldl_keeps (fun g : Group => { g with vregs := t }) (fun g l => ?_) _ g
  rfl

theorem vget_handOut_lane {m : Mask} {d j l : Nat} {out : List Nat} {rest : Word} {g : Group} (h : (lanesOf m)[j]? = some l) :
    (handOut d (lanesOf m) out rest g).vget d l = ((out[j]?).map fun i => BitVec.ofNat 32 i).getD rest := by
  have hm : l ∈ lanesOf m := List.mem_of_getElem? h
  obtain ⟨hj, rfl⟩ := List.getElem?_eq_some_iff.1 h
  rw [handOut_eq (lanesOf_nodup m), Group.vget_vwriteFold _ _ _ (fun l h => (mem_lanesOf.1 h).1) _ _ _ (mem_lanesOf.1 hm).1,
    if_pos ⟨rfl, hm⟩, takes, (lanesOf_nodup m).idxOf_getElem]

theorem vget_handOut_other {m : Mask} {d v l : Nat} {out : List Nat} {rest : Word} {g : Group} (hl : l < 128)
    (h : v ≠ d ∨ m.getLsbD l = false) : (handOut d (lanesOf m) out rest g).vget v l = g.vget v l := by
  rw [handOut_eq (lanesOf_nodup m), Group.vget_vwriteFold _ _ _ (fun l h => (mem_lanesOf.1 h).1) _ _ _ hl, if_neg]
  rintro ⟨rfl, hm⟩
  rcases h with h | h
  · exact h rfl
  · rw [(mem_lanesOf.1 hm).2] at h; exact nomatch h

end Sys2Proof.Glance
end

section
/-! The instructions of the iteration walker (R376 to R380). -/

namespace Sys2Proof.Glance

open Sys2Proof.Machine Sys2Proof.Safety

/-! ### Words in general -/

/-- A word whose effect is to take an event. -/
theorem takes_of_body {i : Instr} {s : State} {x : X} {e : Event} (h : Executes i s x) {body : State → X → State × Done}
    (hi : exec i s = run i body s) (hb : body (begun i s x) x = (begun i s x, .event e)) : Takes i s x e := by
  unfold Takes
  rw [hi, run_of_executes h _ (by rw [hb]; exact fun h => nomatch h), hb]
  rfl

/-- A word whose effect is on its group alone. -/
theorem yields_of_body {i : Instr} {s : State} {x : X} {f : Group → Group} (h : Executes i s x) {body : State → X → State × Done}
    (hi : exec i s = run i body s) (hb : body (begun i s x) x = ((begun i s x).modGroup x.k f, .next)) : Yields i s x (f x.g) := by
  unfold Yields Completes
  rw [hi, run_of_executes h _ (by rw [hb]; exact fun h => nomatch h), hb, ← h.modGroup f]
  rfl

/-- A word whose effect is to wait. -/
theorem waits_of_body {i : Instr} {s : State} {x : X} {w : Wait} (h : Executes i s x) {body : State → X → State × Done}
    (hi : exec i s = run i body s) (hb : body (begun i s x) x = (begun i s x, .wait w)) : Waits i s x w := by
  unfold Waits
  rw [hi, run_of_executes h _ (by rw [hb]; exact fun h => nomatch h), hb]
  rfl

/-- A word that completes with an effect. -/
theorem completes_of_body {i : Instr} {s t : State} {x : X} (h : Executes i s x) {body : State → X → State × Done}
    (hi : exec i s = run i body s) (hb : body (begun i s x) x = (t, .next)) : Completes i s x t (x.f.pc + 12) .none := by
  unfold Completes
  rw [hi, run_of_executes h _ (by rw [hb]; exact fun h => nomatch h), hb]
  rfl

/-! ### The meanings of the walker's words -/

theorem exec_itset (p : Pre) (a : SReg) (s : State) : exec (.itset p a) s = execItset p a s := rfl
theorem exec_resq (p : Pre) (q : PReg) (m : MemOp) (s : State) : exec (.resq p q m) s = execResq p q m s := rfl
theorem exec_itnext (p : Pre) (d : VReg) (s : State) : exec (.itnext p d) s = execItnext p d s := rfl
theorem exec_itdone (p : Pre) (d : VReg) (s : State) : exec (.itdone p d) s = execItdone p d s := rfl
theorem exec_itend (p : Pre) (s : State) : exec (.itend p) s = execItend p s := rfl

/-! ### `ITSET` and `ITEND` (R376, R380), `RESQ` (R377) -/

theorem itset_raises {p : Pre} {a : SReg} {s : State} {x : X} (h : Executes (.itset p a) s x)
    (hw : x.g.walk ≠ none ∨ walkBad (x.g.octet a.toNat) = true) : Raises (.itset p a) s x 0x25 0 :=
  takes_of_body h (exec_itset ..) (if_pos (by rwa [Bool.or_eq_true, Option.isSome_iff_ne_none]))

theorem itset_yields {p : Pre} {a : SReg} {s : State} {x : X} (h : Executes (.itset p a) s x) (hw : x.g.walk = none)
    (hb : walkBad (x.g.octet a.toNat) = false) : Yields (.itset p a) s x { x.g with walk := some (walkOf (x.g.octet a.toNat)) } :=
  yields_of_body (f := fun g => { g with walk := some (walkOf (x.g.octet a.toNat)) }) h (exec_itset ..) (if_neg (by simp [hw, hb]))

theorem resq_writes {p : Pre} {q : PReg} {m : MemOp} {s : State} {x : X} (h : Executes (.resq p q m) s x) :
    WritesPred (.resq p q m) s x q fun l => (begun (.resq p q m) s x).residentAt x.core ((begun (.resq p q m) s x).ctxOf x.g.launch)
      (memAddr m x.g false 4 l) :=
  ⟨_, Group.pwrite_set x.g q.toNat x.lanes _, yields_of_body (f := fun g => g.pwrite q.toNat x.lanes (maskOf ((lanesOf x.lanes).filter
    fun l => (begun (.resq p q m) s x).residentAt x.core ((begun (.resq p q m) s x).ctxOf x.g.launch) (memAddr m x.g false 4 l)))) h (exec_resq ..) rfl⟩

theorem itend_raises {p : Pre} {s : State} {x : X} (h : Executes (.itend p) s x) (hw : x.g.walk = none) : Raises (.itend p) s x 0x25 0 :=
  takes_of_body h (exec_itend ..) (if_pos (by simp [hw]))

theorem itend_yields {p : Pre} {s : State} {x : X} {w : Walk} (h : Executes (.itend p) s x) (hw : x.g.walk = some w)
    (hc : (begun (.itend p) s x).count x.g 2 = 0) : Yields (.itend p) s x { x.g with walk := none } :=
  yields_of_body (f := fun g => { g with walk := none }) h (exec_itend ..) ((if_neg (by simp [hw])).trans (if_pos hc))

theorem itend_waits {p : Pre} {s : State} {x : X} {w : Walk} (h : Executes (.itend p) s x) (hw : x.g.walk = some w)
    (hc : (begun (.itend p) s x).count x.g 2 ≠ 0) : Waits (.itend p) s x .itend :=
  waits_of_body h (exec_itend ..) ((if_neg (by simp [hw])).trans (if_neg hc))

/-! ### `ITNEXT` (R378) -/

/-- The accesses with which a scan reads its walk's list. -/
def scanAsks (x : X) (w : Walk) : List Ask := w.window.map fun i => ⟨x.low, i, w.list + 4 * i, 4, false⟩

/-- The lines of the list, read at their homes. -/
def scanRead (s : State) (x : X) (rs : List Res) : Merged :=
  s.prepAll (fun t l cl k => t.homeRead l k cl (x.walker s) (fun _ => 0xF) (some (s.ctxOf x.g.launch))) (linesOf rs)

/-- The words of the list by point, in the state that the read of the list leaves. -/
def scanVals (t : State) (rs : List Res) : Table Word := rs.map fun r => (r.pos, t.homeWord r.pa)
/-- The scan once its prefetches have been requested: the state, the walk, and whether the core could take them all. -/
def scanAsked (x : X) (w : Walk) (t : State) (rs : List Res) : State × Walk × Bool :=
  t.scanPrefetch x w (scanVals t rs) (t.sights x w (scanVals t rs)).2.2
/-- The walk after the scan, and the points that it hands out. -/
def scanOut (x : X) (w : Walk) (t : State) (rs : List Res) : Walk × List Nat :=
  (scanAsked x w t rs).2.1.scanned (lanesOf x.lanes).length (t.sights x w (scanVals t rs))
/-- The group after the scan. -/
def scanGroup (d : VReg) (x : X) (w : Walk) (t : State) (rs : List Res) (g : Group) : Group :=
  handOut d.toNat (lanesOf x.lanes) (scanOut x w t rs).2
    (if (scanOut x w t rs).1.handed.length = (scanOut x w t rs).1.n then 0xFFFFFFFF else 0xFFFFFFFE)
    { g with walk := some (scanOut x w t rs).1 }

/-- The end of a scan whose list has been read: it goes on where its prefetches find no room, and hands points out else. -/
def scanEnd (d : VReg) (x : X) (w : Walk) (t : State) (rs : List Res) : State × Done :=
  if !(scanAsked x w t rs).2.2 then ((scanAsked x w t rs).1.modGroup x.k fun g => { g with walk := some (scanAsked x w t rs).2.1 }, .hold)
  else ((scanAsked x w t rs).1.modGroup x.k (scanGroup d x w t rs), .next)

/-- A scan of a walk whose list can be read: every address is in range and mapped, no line's home is busy, and no word aborts. -/
structure Scans (s : State) (x : X) (w : Walk) (rs : List Res) : Prop where
  walk   : x.g.walk = some w
  inside : ∀ a ∈ scanAsks x w, a.addr < 2 ^ 57
  mapped : s.translateAll x false (scanAsks x w) = .ok rs
  free   : ∀ r ∈ rs, s.lineBusy (r.pa / 128) = false
  sound  : (scanRead s x rs).abort = none

theorem scanEnd_clk (d : VReg) (x : X) (w : Walk) (t : State) (rs : List Res) : (scanEnd d x w t rs).1.clk = t.clk := by
  unfold scanEnd
  split <;> exact scanPrefetch_clk ..

theorem scanRead_clk (s : State) (x : X) (rs : List Res) : (scanRead s x rs).s.clk = s.clk :=
  clk_of_steady (prepAll_steady (fun _ _ _ _ => homeRead_steady ..) s _)

/-- The walker reads its list for the context of its group, which no read changes. -/
theorem scanRead_eq (s : State) (x : X) (rs : List Res) : s.prepAll (fun t l c m => t.homeRead l m c (x.walker s) (fun _ => 0xF)
    (some (t.ctxOf x.g.launch))) (linesOf rs) = scanRead s x rs :=
  prepAll_congr (fun _ _ _ _ => homeRead_steady ..) (fun t l c m h => by rw [ctxOf_of_steady h]) _

/-- The effect of `ITNEXT`: it keeps the clock, whatever it comes to; it is an event where there is no walk; and it ends with a scan
where the list can be read. -/
theorem itnext_effect (p : Pre) (d : VReg) : ∃ body : State → X → State × Done,
    (∀ s, exec (.itnext p d) s = run (.itnext p d) body s) ∧ (∀ s x, (body s x).1.clk = s.clk) ∧
    (∀ s x, x.g.walk = none → body s x = (s, .event (Event.plain 0x25 0 x.lanes))) ∧
    ∀ (s : State) (x : X) (w : Walk) (rs : List Res), Scans s x w rs → body s x = scanEnd d x w (scanRead s x rs).s rs := by
  refine ⟨_, fun _ => exec_itnext .., fun s x => ?_, fun s x hw => ?_, fun s x w rs ⟨hw, ha, ht, hb, hn⟩ => ?_⟩
  · dsimp only
    split
    · rfl
    rename_i w _
    split
    · rfl
    split
    · exact translateAll_clk ‹_›
    · exact translateAll_clk ‹_›
    rename_i rs _
    split
    · exact claim_clk ..
    simp only [scanRead_eq]
    split
    · rw [abortThread_clk, scanRead_clk]
    rw [← scanRead_clk s x rs, ← scanEnd_clk d x w (scanRead s x rs).s rs]
    unfold scanEnd scanGroup scanOut scanAsked scanVals
    generalize State.scanPrefetch _ x w _ _ = acc
    obtain ⟨t, v, room⟩ := acc
    rfl
  · simp only [hw]
    rfl
  · have hf : (scanAsks x w).find? (fun a => decide ((2 ^ 57 : Int) ≤ a.addr)) = none := by
      simpa using ha
    have hl : (rs.any fun r => s.lineBusy (r.pa / 128)) = false := by
      simpa using hb
    unfold scanAsks at hf ht
    simp only [hw, hf, ht, hl, scanRead_eq, hn, Bool.false_eq_true, if_false]
    unfold scanEnd scanGroup scanOut scanAsked scanVals
    generalize State.scanPrefetch _ x w _ _ = acc
    obtain ⟨t, v, room⟩ := acc
    rfl

theorem itnext_takes {p : Pre} {d : VReg} {s : State} {x : X} (h : Executes (.itnext p d) s x) (hw : x.g.walk = none) :
    Takes (.itnext p d) s x (Event.plain 0x25 0 x.lanes) := by
  obtain ⟨body, he, -, hnone, -⟩ := itnext_effect p d
  exact takes_of_body h (he s) (hnone _ x hw)

/-- A scan that finds no room for its prefetches is issued again in the next clk (R10, R195). -/
theorem itnext_again {p : Pre} {d : VReg} {s : State} {x : X} {w : Walk} {rs : List Res} (h : Executes (.itnext p d) s x)
    (hs : Scans (begun (.itnext p d) s x) x w rs) (hr : (scanAsked x w (scanRead (begun (.itnext p d) s x) x rs).s rs).2.2 = false) :
    ∃ t : State, exec (.itnext p d) s = .next (t.modFrag x.k x.en fun f => { f with since := s.clk + 1 }) := by
  obtain ⟨body, he, hclk, -, hscan⟩ := itnext_effect p d
  have hold : (body (begun (.itnext p d) s x) x).2 = .hold := by
    rw [hscan _ x w rs hs, scanEnd, if_pos (by rw [hr]; rfl)]
  refine ⟨(body (s.unspent x.k x.en) x).1, ?_⟩
  rw [he, run_of_executes_hold h body hold, State.finish, hclk]
  rfl

/-- A scan with room for its prefetches completes. -/
theorem itnext_completes {p : Pre} {d : VReg} {s : State} {x : X} {w : Walk} {rs : List Res} (h : Executes (.itnext p d) s x)
    (hs : Scans (begun (.itnext p d) s x) x w rs) (hr : (scanAsked x w (scanRead (begun (.itnext p d) s x) x rs).s rs).2.2 = true) :
    Completes (.itnext p d) s x ((scanAsked x w (scanRead (begun (.itnext p d) s x) x rs).s rs).1.modGroup x.k
      (scanGroup d x w (scanRead (begun (.itnext p d) s x) x rs).s rs)) (x.f.pc + 12) .none := by
  obtain ⟨body, he, -, -, hscan⟩ := itnext_effect p d
  refine completes_of_body h (he s) ((hscan _ x w rs hs).trans ?_)
  rw [scanEnd, if_neg (by rw [hr]; decide)]

/-! ### What a scan leaves -/

theorem scanAsked_walk (x : X) (w : Walk) (t : State) (rs : List Res) :
    (scanAsked x w t rs).2.1.handed = w.handed ∧ (scanAsked x w t rs).2.1.n = w.n := by
  have h := scanPrefetch_walk t x w (scanVals t rs) (t.sights x w (scanVals t rs)).2.2
  exact ⟨(congrArg Walk.handed h :), (congrArg Walk.n h :)⟩

theorem scanOut_handed (x : X) (w : Walk) (t : State) (rs : List Res) :
    (scanOut x w t rs).1.handed = w.handed ++ (scanOut x w t rs).2 := by
  rw [← (scanAsked_walk x w t rs).1]
  rfl

theorem scanOut_n (x : X) (w : Walk) (t : State) (rs : List Res) : (scanOut x w t rs).1.n = w.n := (scanAsked_walk x w t rs).2

theorem scanGroup_walk (d : VReg) (x : X) (w : Walk) (t : State) (rs : List Res) (g : Group) :
    (scanGroup d x w t rs g).walk = some (scanOut x w t rs).1 :=
  congrArg Group.walk (handOut_rest d.toNat (lanesOf x.lanes) _ _ { g with walk := some (scanOut x w t rs).1 } [] :)

/-- A scan changes of its group the walk and vector registers only. -/
theorem scanGroup_rest (d : VReg) (x : X) (w : Walk) (t : State) (rs : List Res) (g : Group) :
    { scanGroup d x w t rs g with vregs := g.vregs, walk := g.walk } = g :=
  congrArg (fun h : Group => { h with walk := g.walk })
    (handOut_rest d.toNat (lanesOf x.lanes) _ _ { g with walk := some (scanOut x w t rs).1 } g.vregs :)

/-- What the lane at a place among the executing lanes takes. -/
theorem vget_scanGroup_lane {d : VReg} {x : X} {w : Walk} {t : State} {rs : List Res} {g : Group} {j l : Nat}
    (h : (lanesOf x.lanes)[j]? = some l) : (scanGroup d x w t rs g).vget d.toNat l = match (scanOut x w t rs).2[j]? with
      | some i => BitVec.ofNat 32 i
      | none => if (scanOut x w t rs).1.handed.length = w.n then 0xFFFFFFFF else 0xFFFFFFFE := by
  rw [scanGroup, vget_handOut_lane h, scanOut_n]
  cases (scanOut x w t rs).2[j]? <;> rfl

theorem vget_scanGroup_other {d : VReg} {x : X} {w : Walk} {t : State} {rs : List Res} {g : Group} {v l : Nat} (hl : l < 128)
    (h : v ≠ d.toNat ∨ x.lanes.getLsbD l = false) : (scanGroup d x w t rs g).vget v l = g.vget v l :=
  vget_handOut_other hl h

end Sys2Proof.Glance
end

section
/-! Accesses see the same in the state in which a word begins and in that in which it has not issued (R195, R422): what these differ
in, no translation and no check reads. -/

namespace Sys2Proof.Glance

open Sys2Proof.Machine Sys2Proof.Safety

/-- `t` differs from `s` in nothing that the checks of an access read: only in what the choice of a fragment and the reads of its
registers touch, and in what else the cores hold beside their TLBs and losses. -/
structure Alike (s t : State) : Prop where
  rest : ∃ cu sc co fl lg he al, t = { s with cur := cu, scan := sc, cores := co, flaws := fl, log := lg, health := he, alerts := al }
  tlb  : ∀ c, (t.core c).tlb = (s.core c).tlb
  lost : ∀ c, (t.core c).lost = (s.core c).lost

/-- Two states that differ from a third so differ from each other so. -/
theorem Alike.trans_left {s t u : State} (ht : Alike s t) (hu : Alike s u) : Alike t u := by
  refine ⟨?_, fun c => (hu.tlb c).trans (ht.tlb c).symm, fun c => (hu.lost c).trans (ht.lost c).symm⟩
  obtain ⟨_, _, _, _, _, _, _, rfl⟩ := ht.rest
  obtain ⟨_, _, _, _, _, _, _, rfl⟩ := hu.rest
  exact ⟨_, _, _, _, _, _, _, rfl⟩

theorem unspent_alike (s : State) (k en : Nat) : Alike s (s.unspent k en) := by
  refine ⟨⟨_, _, _, _, _, _, _, rfl⟩, fun c => ?_, fun c => ?_⟩ <;>
  · rw [State.unspent, State.core_modCore]
    split
    · subst c; rfl
    · rfl

theorem spend_core (s : State) (k en c : Nat) : ((s.spend k en).core c).tlb = (s.core c).tlb ∧ ((s.spend k en).core c).lost = (s.core c).lost := by
  rw [State.spend, State.core_modCore]
  split
  · subst c; exact ⟨rfl, rfl⟩
  · exact ⟨rfl, rfl⟩

theorem occupy_core (s : State) (k c : Nat) (f : Frag) (n : Need) (u : Bool) (m : Nat) :
    ((s.occupy k f n u m).core c).tlb = (s.core c).tlb ∧ ((s.occupy k f n u m).core c).lost = (s.core c).lost := by
  unfold State.occupy
  split
  · exact ⟨rfl, rfl⟩
  · rw [State.core_modCore]
    split
    · subst c; exact ⟨rfl, rfl⟩
    · exact ⟨rfl, rfl⟩

theorem begun_core (i : Instr) (s : State) (x : X) (c : Nat) : (begun i s x).core c =
    (s.issued x.k x.en x.f (need i) (uniform i) (stall i s x)).core c := by
  obtain ⟨_, _, _, _, h⟩ := (s.issued x.k x.en x.f (need i) (uniform i) (stall i s x)).readRegs_eq x.k (need i) (s.ctxOf x.g.launch) x.lanes
  rw [begun, h]
  rfl

theorem begun_alike (i : Instr) (s : State) (x : X) : Alike s (begun i s x) := by
  have hi := fun c => occupy_core (s.spend x.k x.en) x.k c x.f (need i) (uniform i) (stall i s x)
  have hs := spend_core s x.k x.en
  refine ⟨?_, fun c => ?_, fun c => ?_⟩
  · obtain ⟨co, fl, lg, he, al, h⟩ := begun_eq i s x
    exact ⟨none, s.scan, co, fl, lg, he, al, h⟩
  · rw [begun_core]
    exact (hi c).1.trans (hs c).1
  · rw [begun_core]
    exact (hi c).2.trans (hs c).2

section

variable {s t : State} (h : Alike s t)
include h

theorem Alike.pte (a : Nat) : t.pte a = s.pte a := by
  obtain ⟨_, _, _, _, _, _, _, rfl⟩ := h.rest
  rfl

theorem Alike.walkFrom (va base : Nat) (l : List (Nat × Nat)) : t.walkFrom va base l = s.walkFrom va base l := by
  induction l generalizing base with
  | nil => rfl
  | cons c l ih => simp only [State.walkFrom, h.pte, ih]

theorem Alike.walk (ctx va : Nat) : t.walk ctx va = s.walk ctx va := by
  have hc : t.ctxs = s.ctxs := by
    obtain ⟨_, _, _, _, _, _, _, rfl⟩ := h.rest
    rfl
  simp only [State.walk, hc, h.walkFrom]

theorem Alike.translate (c ctx va : Nat) : t.translate c ctx va = s.translate c ctx va := by
  have ht : t.tlbHit c ctx va = s.tlbHit c ctx va := by
    simp only [State.tlbHit, h.tlb]
    obtain ⟨_, _, _, _, _, _, _, rfl⟩ := h.rest
    rfl
  have hp : ∀ e b, t.pageOf e b va = s.pageOf e b va := fun e b => by
    obtain ⟨_, _, _, _, _, _, _, rfl⟩ := h.rest
    rfl
  simp only [State.translate, ht, hp, h.walk]

theorem Alike.ctxOf (l : Nat) : t.ctxOf l = s.ctxOf l := by
  obtain ⟨_, _, _, _, _, _, _, rfl⟩ := h.rest
  rfl

theorem Alike.count (g : Group) (n : Nat) : t.count g n = s.count g n := by
  obtain ⟨_, _, _, _, _, _, _, rfl⟩ := h.rest
  rfl

theorem Alike.leafStamp (ctx va : Nat) : t.leafStamp ctx va = s.leafStamp ctx va := by
  have hl : t.leafRel = s.leafRel := by
    obtain ⟨_, _, _, _, _, _, _, rfl⟩ := h.rest
    rfl
  simp only [State.leafStamp, hl, h.walk]

theorem Alike.permitted (md : Mode) (sys : Bool) (rs : List Res) : t.permitted md sys rs = s.permitted md sys rs := by
  obtain ⟨_, _, _, _, _, _, _, rfl⟩ := h.rest
  rfl

theorem Alike.homeBusy (l : Nat) : t.homeBusy l = s.homeBusy l := by
  simp only [State.homeBusy, h.lost]
  obtain ⟨_, _, _, _, _, _, _, rfl⟩ := h.rest
  rfl

theorem Alike.waitsFor (md : Mode) (c : Cls) : t.waitsFor md c = s.waitsFor md c := by
  funext a
  have he : ∀ l, t.entry l = s.entry l := fun l => by
    obtain ⟨_, _, _, _, _, _, _, rfl⟩ := h.rest
    rfl
  simp only [State.waitsFor, State.lineBusy, he, h.homeBusy]

theorem Alike.now : t.now = s.now := by
  obtain ⟨_, _, _, _, _, _, _, rfl⟩ := h.rest
  rfl

theorem Alike.translateAll {x : X} {u : Bool} {l : List Ask} {rs : List Res} (hs : s.translateAll x u l = .ok rs) :
    t.translateAll x u l = .ok rs := by
  unfold State.translateAll at hs ⊢
  simp only [h.translate, h.ctxOf]
  dsimp only at hs
  split at hs
  · exact nomatch hs
  · split at hs
    · exact nomatch hs
    · split at hs
      · exact nomatch hs
      · simp only [*]

/-- Accesses that pass every check of R422 and wait for nothing do so in either state. -/
theorem Alike.resolve {x : X} {u sys : Bool} {md : Mode} {l : List Ask} {rs : List Res} (hs : s.resolve x u md sys l = .ok rs) :
    t.resolve x u md sys l = .ok rs := by
  unfold State.resolve at hs ⊢
  split at hs
  · exact nomatch hs
  split at hs
  · exact nomatch hs
  rename_i ht
  dsimp only at hs
  split at hs
  · exact nomatch hs
  rename_i hp
  split at hs
  · exact nomatch hs
  rename_i ha
  split at hs
  · exact nomatch hs
  rename_i hw
  split at hs
  · exact nomatch hs
  rename_i hh
  obtain rfl := Resolved.ok.inj hs
  simp only [h.translateAll ht, h.permitted, h.leafStamp, h.ctxOf, h.waitsFor, h.now, hp, if_neg ha, if_neg hw, if_neg hh]

end

/-! ### `ITDONE` (R379) -/

/-- The points that the executing lanes name, but for what `ITNEXT` gives lanes that take none. -/
def namedPoints (d : VReg) (x : X) : List (Nat × Nat) :=
  ((lanesOf x.lanes).map fun l => (l, (x.g.vget d.toNat l).toNat)).filter fun q => q.2 != 0xFFFFFFFE && q.2 != 0xFFFFFFFF
/-- Those among them that the walk has not handed out, or that are marked already. -/
def badPoints (d : VReg) (x : X) (w : Walk) : List (Nat × Nat) :=
  (namedPoints d x).filter fun q => !w.handed.contains q.2 || w.done.contains q.2

/-- The points of the executing lanes, each once. -/
def donePoints (d : VReg) (x : X) : List Nat := ((namedPoints d x).map (·.2)).dedup
/-- The words of the walk's map that hold their bits. -/
def mapAsks (d : VReg) (x : X) (w : Walk) : List Ask := (namedPoints d x).map fun q => ⟨q.1, q.2, w.map + 4 * (q.2 / 32), 4, false⟩

/-- The map write of a point is issued. -/
def markPoint (x : X) (rs : List Res) (s : State) (i : Nat) : State :=
  match rs.find? fun r => r.pos == i with
  | some r => (s.newOp x 2 (.mapbit r.pa (i % 32) r.va)).2
  | none => s

/-- Map writes change nothing but the operations and their numbers. -/
theorem markPoints_rest (x : X) (rs : List Res) (l : List Nat) (s : State) (o : Table EngOp) (n : Nat) :
    ({ l.foldl (markPoint x rs) s with ops := o, serial := n } : State) = { s with ops := o, serial := n } :=
  foldl_keeps (fun s : State => { s with ops := o, serial := n }) (fun s i => by unfold markPoint; split <;> rfl) l s

/-- The operation that writes a point's bit. -/
def markOp (x : X) (r : Res) (i : Nat) : EngOp :=
  ⟨x.k, x.g.launch, x.g.gid, x.g.wg, x.g.gang, x.core, partOf x.k, 2, x.f.pc / 12, false, 0, 0, 0, .mapbit r.pa (i % 32) r.va⟩

/-- The map writes of points take new numbers, and each point has its own. -/
theorem find_markPoints (x : X) (rs : List Res) (l : List Nat) (s : State) :
    (∀ n < s.serial, Table.find (l.foldl (markPoint x rs) s).ops n = Table.find s.ops n) ∧
    ∀ i ∈ l, ∀ r, (rs.find? fun r => r.pos == i) = some r →
      ∃ n, s.serial ≤ n ∧ Table.find (l.foldl (markPoint x rs) s).ops n = some (markOp x r i) := by
  induction l generalizing s with
  | nil => exact ⟨fun _ _ => rfl, fun i hi => nomatch hi⟩
  | cons j l ih =>
    obtain ⟨hold, hnew⟩ := ih (markPoint x rs s j)
    rw [List.foldl_cons]
    cases hj : rs.find? fun r => r.pos == j with
    | none =>
      have hs : markPoint x rs s j = s := by simp only [markPoint, hj]
      rw [hs] at hold hnew ⊢
      refine ⟨hold, fun i hi r hr => ?_⟩
      rcases List.mem_cons.1 hi with rfl | hi
      · exact nomatch hj.symm.trans hr
      · exact hnew i hi r hr
    | some q =>
      have hs : (markPoint x rs s j).serial = s.serial + 1 := by simp only [markPoint, hj]; rfl
      have hf : ∀ n, Table.find (markPoint x rs s j).ops n = if n = s.serial then some (markOp x q j) else Table.find s.ops n := fun n => by
        simp only [markPoint, hj]
        exact Table.find_insert ..
      refine ⟨fun n hn => ?_, fun i hi r hr => ?_⟩
      · rw [hold n (by omega), hf, if_neg (by omega)]
      · rcases List.mem_cons.1 hi with rfl | hi
        · obtain rfl := Option.some.inj (hj.symm.trans hr)
          exact ⟨s.serial, Nat.le_refl _, by rw [hold _ (by omega), hf, if_pos rfl]⟩
        · obtain ⟨n, hn, ho⟩ := hnew i hi r hr
          exact ⟨n, by omega, ho⟩

/-- The effect of `ITDONE` by cases: no walk; a point that was not expected; a walk without a map; more map writes than can be
outstanding; and the map writes. -/
theorem itdone_effect (p : Pre) (d : VReg) : ∃ body : State → X → State × Done,
    (∀ s, exec (.itdone p d) s = run (.itdone p d) body s) ∧
    (∀ s x, x.g.walk = none → body s x = (s, .event (Event.plain 0x25 0 x.lanes))) ∧
    ∀ (s : State) (x : X) (w : Walk), x.g.walk = some w →
      (badPoints d x w ≠ [] → body s x = (s, .event (Event.plain 0x25 0 (maskOf ((badPoints d x w).map (·.1)))))) ∧
      (badPoints d x w = [] → w.map = 0 →
        body s x = (s.modGroup x.k fun g => { g with walk := some { w with done := w.done ++ donePoints d x } }, .next)) ∧
      ∀ rs, badPoints d x w = [] → w.map ≠ 0 → s.resolve x false (.red .or) false (mapAsks d x w) = .ok rs →
        (4096 < s.count x.g 2 + (donePoints d x).length → body s x = (s, .hold)) ∧
        (s.count x.g 2 + (donePoints d x).length ≤ 4096 → body s x = (((donePoints d x).foldl (markPoint x rs) s).modGroup x.k
          fun g => { g with walk := some { w with done := w.done ++ donePoints d x } }, .next)) := by
  refine ⟨_, fun _ => exec_itdone .., fun s x hw => ?_, fun s x w hw => ?_⟩
  · simp only [hw]
    rfl
  · have hbad : badPoints d x w ≠ [] → (!(badPoints d x w).isEmpty) = true := fun h => by simpa using h
    have hgood : badPoints d x w = [] → ¬ (!(badPoints d x w).isEmpty) = true := fun h => by simp [h]
    refine ⟨fun hb => ?_, fun hb hm => ?_, fun rs hb hm hr => ?_⟩
    · simp only [hw]
      exact if_pos (hbad hb)
    · simp only [hw]
      exact (if_neg (hgood hb)).trans (if_pos hm)
    · unfold mapAsks namedPoints at hr
      refine ⟨fun hc => ?_, fun hc => ?_⟩
      all_goals
        simp only [hw]
        refine (if_neg (hgood hb)).trans ((if_neg hm).trans ?_)
        rw [hr]
      · exact if_pos hc
      · exact if_neg (Nat.not_lt.2 hc)

end Sys2Proof.Glance
end

section
/-! The iteration walker as a whole (R376 to R380). -/

namespace Sys2Proof.Glance

open Sys2Proof.Machine Sys2Proof.Safety

/-- A word whose effect finds no room, both where it begins and where it has not issued, has not issued. -/
theorem again_of_body {i : Instr} {s : State} {x : X} (h : Executes i s x) {body : State → X → State × Done}
    (hi : exec i s = run i body s) (hb : body (begun i s x) x = (begun i s x, .hold))
    (hu : body (s.unspent x.k x.en) x = (s.unspent x.k x.en, .hold)) : Again i s x := by
  unfold Again
  rw [hi, run_of_executes_hold h body (by rw [hb]), hu]
  rfl

theorem itdone_takes {p : Pre} {d : VReg} {s : State} {x : X} (h : Executes (.itdone p d) s x) (hw : x.g.walk = none) :
    Takes (.itdone p d) s x (Event.plain 0x25 0 x.lanes) := by
  obtain ⟨body, he, hnone, -⟩ := itdone_effect p d
  exact takes_of_body h (he s) (hnone _ x hw)

section

variable {p : Pre} {d : VReg} {s : State} {x : X} {w : Walk} (h : Executes (.itdone p d) s x) (hw : x.g.walk = some w)
include h hw

/-- Points that were not expected raise kind 0x25 in their lanes. -/
theorem itdone_takes_of_bad (hb : badPoints d x w ≠ []) :
    Takes (.itdone p d) s x (Event.plain 0x25 0 (maskOf ((badPoints d x w).map (·.1)))) := by
  obtain ⟨body, he, -, hwalk⟩ := itdone_effect p d
  exact takes_of_body h (he s) ((hwalk _ x w hw).1 hb)

/-- A walk without a map writes nothing. -/
theorem itdone_yields (hb : badPoints d x w = []) (hm : w.map = 0) :
    Yields (.itdone p d) s x { x.g with walk := some { w with done := w.done ++ donePoints d x } } := by
  obtain ⟨body, he, -, hwalk⟩ := itdone_effect p d
  exact yields_of_body (f := fun g => { g with walk := some { w with done := w.done ++ donePoints d x } }) h (he s)
    ((hwalk _ x w hw).2.1 hb hm)

variable {rs : List Res} (hb : badPoints d x w = []) (hm : w.map ≠ 0)
  (hr : (begun (.itdone p d) s x).resolve x false (.red .or) false (mapAsks d x w) = .ok rs)
include hb hm hr

/-- `ITDONE` is issued again while the core's map writes leave no room for its own. -/
theorem itdone_again (hc : 4096 < (begun (.itdone p d) s x).count x.g 2 + (donePoints d x).length) : Again (.itdone p d) s x := by
  obtain ⟨body, he, -, hwalk⟩ := itdone_effect p d
  have hu : Alike (begun (.itdone p d) s x) (s.unspent x.k x.en) := (begun_alike ..).trans_left (unspent_alike ..)
  exact again_of_body h (he s) (((hwalk _ x w hw).2.2 rs hb hm hr).1 hc)
    (((hwalk _ x w hw).2.2 rs hb hm (hu.resolve hr)).1 (by rwa [hu.count]))

/-- With room, `ITDONE` issues its map writes and marks its points. -/
theorem itdone_completes (hc : (begun (.itdone p d) s x).count x.g 2 + (donePoints d x).length ≤ 4096) :
    Completes (.itdone p d) s x (((donePoints d x).foldl (markPoint x rs) (begun (.itdone p d) s x)).modGroup x.k
      fun g => { g with walk := some { w with done := w.done ++ donePoints d x } }) (x.f.pc + 12) .none := by
  obtain ⟨body, he, -, hwalk⟩ := itdone_effect p d
  exact completes_of_body h (he s) (((hwalk _ x w hw).2.2 rs hb hm hr).2 hc)

end

/-- A marked point whose word of the map was reached has an operation that writes its bit. -/
theorem exists_markOp {x : X} {rs : List Res} {l : List Nat} {s : State} {i : Nat} {r : Res} (hi : i ∈ l) (hr : r ∈ rs) (hp : r.pos = i) :
    ∃ r' ∈ rs, r'.pos = i ∧ ∃ n, s.serial ≤ n ∧ Table.find (l.foldl (markPoint x rs) s).ops n = some (markOp x r' i) := by
  obtain ⟨r', hf⟩ := Option.isSome_iff_exists.1 ((List.find?_isSome (p := fun r : Res => r.pos == i)).2 ⟨r, hr, beq_iff_eq.2 hp⟩)
  exact ⟨r', List.mem_of_find?_eq_some hf, beq_iff_eq.1 (List.find?_some (p := fun r : Res => r.pos == i) hf), (find_markPoints x rs l s).2 i hi r' hf⟩

/-- Settles O41: each word of the walker by the cases of its effect. A scan's points come from its window, and its prefetches
keep within the core's 4,096 requests; map writes take numbers of their own. -/
theorem walker : Obligations.Walker := by
  unfold Obligations.Walker
  intro p a d q m s x w
  refine ⟨fun h => ⟨itset_raises h, itset_yields h⟩, fun h => resq_writes h,
    fun hw => ⟨fun h => itnext_takes h hw, fun h => itdone_takes h hw, fun h => itend_raises h hw⟩,
    fun hw h => ⟨itend_yields h hw, itend_waits h hw⟩, ?_, ?_⟩
  case refine_1 =>
    intro hw h rs b asks hin hmap hfree c hsound vals sights asked r
    have hs : Scans b x w rs := ⟨hw, hin, hmap, hfree, hsound⟩
    refine ⟨itnext_again h hs, fun hroom => ⟨scanGroup d x w c.s rs, itnext_completes h hs hroom, fun y => ?_⟩,
      requests_scanPrefetch_le .., scanOut_handed x w c.s rs, length_scanned_le .., fun i hi => ?_⟩
    · exact ⟨scanGroup_walk .., scanGroup_rest .., fun j l hl => vget_scanGroup_lane hl, fun v l => vget_scanGroup_other⟩
    · exact mem_scanned hi
  case refine_2 =>
    intro hw h rs points b named bad hp
    obtain rfl : points = donePoints d x := hp
    refine ⟨itdone_takes_of_bad h hw, itdone_yields h hw, fun hb hm hr => ⟨itdone_again h hw hb hm hr, fun hc => ?_⟩⟩
    refine ⟨_, itdone_completes h hw hb hm hr hc, markPoints_rest x rs _ b b.ops b.serial, fun i hi r hrs hpos => ?_⟩
    obtain ⟨r', hr', hpos', n, hn, ho⟩ := exists_markOp (s := b) hi hrs hpos
    exact ⟨r', hr', hpos', n, _, ho, hn, rfl, rfl, rfl, rfl⟩

end Sys2Proof.Glance
end

section
/-! Branches that divide a fragment, and the end of lanes (R46, R53, R56, R251, R253, R438). -/

namespace Sys2Proof.Execution

open Sys2Proof.Machine Sys2Proof.Safety Sys2Proof.Glance

/-! ### Words in general -/

/-- What a word answers whose effect is known and is not that it is not ready. -/
theorem answers_of_body {i : Instr} {s t : State} {x : X} {d : Done} (h : Executes i s x) {body : State → X → State × Done}
    (hi : exec i s = run i body s) (hb : body (begun i s x) x = (t, d)) (hd : d ≠ .hold) : exec i s = .next (t.finish x d) := by
  rw [hi, run_of_executes h _ (by rw [hb]; exact hd), hb]

theorem exec_brd (p : Pre) (t r : BitVec 17) (s : State) : exec (.brd p t r) s = execBrd p t r s := rfl
theorem exec_exit (p : Pre) (s : State) : exec (.exit p) s = execExit p s := rfl

/-! ### `BRD` (R53, R56, R251, R438) -/

/-- The free entry that a `BRD` takes is the lowest one (R53). -/
theorem freeEntry_eq_some {g : Group} {e : Nat} (he : e < 16) (hf : g.frag e = none) (hl : ∀ n < e, g.frag n ≠ none) :
    g.freeEntry = some e := by
  rw [Group.freeEntry, List.find?_range_eq_some]
  exact ⟨by rw [hf]; rfl, List.mem_range.2 he, fun n hn => by simpa using Option.isSome_iff_ne_none.2 (hl n hn)⟩

theorem freeEntry_eq_none {g : Group} (hf : ∀ n < 16, g.frag n ≠ none) : g.freeEntry = none := by
  rw [Group.freeEntry, List.find?_range_eq_none]
  exact fun n hn => by simpa using Option.isSome_iff_ne_none.2 (hf n hn)

section
variable {p : Pre} {t r : BitVec 17} {s : State} {x : X} (h : Executes (.brd p t r) s x)
include h

theorem brd_branches (hl : x.lanes = x.f.mask) : Completes (.brd p t r) s x (begun (.brd p t r) s x) (12 * t.toNat) .none :=
  answers_of_body h (exec_brd ..) (if_pos hl) (by simp)

theorem brd_splits (hl : x.lanes ≠ x.f.mask) {e : Nat} (he : x.g.freeEntry = some e) :
    exec (.brd p t r) s = .next (((begun (.brd p t r) s x).modGroup x.k fun _ =>
      x.g.split s.clk x.en e x.f x.lanes (12 * t.toNat) (x.f.pc + 12) (12 * r.toNat)).tidy x.k) := by
  rw [answers_of_body (d := .gone) h (exec_brd ..) ((if_neg hl).trans (by rw [he])) (by simp), h.modGroup, begun_clk]
  rfl

theorem brd_serialises (hl : x.lanes ≠ x.f.mask) (he : x.g.freeEntry = none) (hd : x.g.depth < 64) :
    exec (.brd p t r) s = .next (((begun (.brd p t r) s x).modGroup x.k fun _ =>
      x.g.serialise s.clk x.en x.f x.lanes (12 * t.toNat) (x.f.pc + 12) (12 * r.toNat)).tidy x.k) := by
  rw [answers_of_body (d := .gone) h (exec_brd ..) ((if_neg hl).trans (by rw [he]; exact if_pos hd)) (by simp), h.modGroup, begun_clk]
  rfl

theorem brd_raises (hl : x.lanes ≠ x.f.mask) (he : x.g.freeEntry = none) (hd : 64 ≤ x.g.depth) : Raises (.brd p t r) s x 0x06 0 :=
  takes_of_body h (exec_brd ..) ((if_neg hl).trans (by rw [he]; exact if_neg (by omega)))

end

/-- The two fragments of a split (R53): the lanes that fall through, and the lanes that are taken. -/
def stayFrag (x : X) (clk e reconv : Nat) : Frag :=
  { (x.f.ready clk) with mask := x.f.mask &&& ~~~x.lanes, pc := x.f.pc + 12, chain := .join x.g.joins reconv e x.en x.f.fmt x.f.rmode :: x.f.chain }
def goFrag (x : X) (clk target reconv : Nat) : Frag :=
  { (x.f.ready clk) with mask := x.lanes, pc := target, chain := .join x.g.joins reconv x.en x.en x.f.fmt x.f.rmode :: x.f.chain.takeWhile Open.isJoin }
/-- The fragment that runs the taken lanes first (R56). -/
def firstFrag (x : X) (clk target reconv : Nat) : Frag :=
  { (x.f.ready clk) with
    mask := x.lanes
    pc := target
    chain := .frame x.lanes (x.f.mask &&& ~~~x.lanes) (x.f.pc + 12) reconv x.f.fmt x.f.rmode false :: x.f.chain }

theorem split_eq (x : X) (clk e target reconv : Nat) : x.g.split clk x.en e x.f x.lanes target (x.f.pc + 12) reconv =
    (({ (x.g.setFrag x.en (stayFrag x clk e reconv)).setFrag e (goFrag x clk target reconv) with joins := x.g.joins + 1 } : Group).rest clk
      x.en).rest clk e := by
  unfold Group.split stayFrag goFrag
  rfl

theorem serialise_eq (x : X) (clk target reconv : Nat) : x.g.serialise clk x.en x.f x.lanes target (x.f.pc + 12) reconv =
    (x.g.setFrag x.en (firstFrag x clk target reconv)).rest clk x.en := by
  unfold Group.serialise firstFrag
  rfl

/-- Settles O8, by the cases of the branch: whole, split, serialised, too deep. -/
theorem divergence : Obligations.Divergence := by
  unfold Obligations.Divergence
  intro p t r s x h
  refine ⟨brd_branches h, fun hl e he hf hlow => ?_, fun hl hf hd => ?_, fun hl hf hd => brd_raises h hl (freeEntry_eq_none hf) hd⟩
  · refine ⟨stayFrag x s.clk e (12 * r.toNat), goFrag x s.clk (12 * t.toNat) (12 * r.toNat), rfl, rfl, rfl, rfl, rfl, rfl,
      ⟨rfl, rfl, rfl, rfl, rfl, rfl⟩, ?_⟩
    rw [← split_eq]
    exact brd_splits h hl (freeEntry_eq_some he hf hlow)
  · refine ⟨firstFrag x s.clk (12 * t.toNat) (12 * r.toNat), rfl, rfl, rfl, rfl, ?_⟩
    rw [← serialise_eq]
    exact brd_serialises h hl (freeEntry_eq_none hf) hd

/-! ### How a group comes to rest (R54 to R56) -/

theorem mem_of_find {α : Type} {t : Table α} {k : Nat} {v : α} (h : Table.find t k = some v) : (k, v) ∈ t := by
  induction t with
  | nil => cases h
  | cons c r ih =>
    rw [Table.find] at h
    split at h
    · next hc => cases h; exact hc ▸ List.mem_cons_self
    · exact List.mem_cons_of_mem _ (ih h)

theorem mem_of_mem_insert {α : Type} {t : Table α} {k : Nat} {v : α} {c : Nat × α} (h : c ∈ Table.insert t k v) : c = (k, v) ∨ c ∈ t := by
  induction t with
  | nil => exact .inl (List.mem_singleton.1 h)
  | cons d r ih =>
    rw [Table.insert] at h
    split at h
    · exact List.mem_cons.1 h
    split at h
    · exact (List.mem_cons.1 h).imp_right (List.mem_cons_of_mem _)
    · obtain rfl | h := List.mem_cons.1 h
      · exact .inr List.mem_cons_self
      · exact (ih h).imp_right (List.mem_cons_of_mem _)

theorem mem_of_mem_erase {α : Type} {t : Table α} {k : Nat} {c : Nat × α} (h : c ∈ Table.erase t k) : c ∈ t := by
  induction t with
  | nil => exact h
  | cons d r ih =>
    rw [Table.erase] at h
    split at h
    · exact List.mem_cons_of_mem _ (ih h)
    · obtain rfl | h := List.mem_cons.1 h
      · exact List.mem_cons_self
      · exact List.mem_cons_of_mem _ (ih h)

/-- Lanes that have retired from a group and that no fragment of it holds (R46). -/
def Left (g : Group) (m : Mask) : Prop := m &&& ~~~g.retired = 0 ∧ ∀ c ∈ g.frags, c.2.mask &&& m = 0

/-- `h` is `g` but for its fragments, and none of these has taken up a retired lane. -/
structure Settles (g h : Group) : Prop where
  rest : ∃ fr, h = { g with frags := fr }
  left : ∀ m, Left g m → Left h m

theorem Settles.refl (g : Group) : Settles g g := ⟨⟨_, rfl⟩, fun _ h => h⟩

theorem Settles.trans {g h k : Group} (a : Settles g h) (b : Settles h k) : Settles g k := by
  refine ⟨?_, fun m hm => b.left m (a.left m hm)⟩
  obtain ⟨_, rfl⟩ := a.rest
  obtain ⟨fr, rfl⟩ := b.rest
  exact ⟨fr, rfl⟩

/-- Fragments are replaced by ones whose lanes were in fragments before. -/
theorem settles_of_frags {g : Group} {fr : Table Frag} (h : ∀ m, Left g m → ∀ c ∈ fr, c.2.mask &&& m = 0) :
    Settles g { g with frags := fr } := ⟨⟨fr, rfl⟩, fun m hm => ⟨hm.1, h m hm⟩⟩

theorem settles_erase (g : Group) (en : Nat) : Settles g { g with frags := Table.erase g.frags en } :=
  settles_of_frags fun _ hm c hc => hm.2 c (mem_of_mem_erase hc)

theorem settles_setFrag {g : Group} {en : Nat} {f : Frag} (h : ∀ m, Left g m → f.mask &&& m = 0) : Settles g (g.setFrag en f) := by
  refine settles_of_frags fun m hm c hc => ?_
  obtain rfl | hc := mem_of_mem_insert hc
  · exact h m hm
  · exact hm.2 c hc

/-- A fragment of a group holds no lane that has left it. -/
theorem Left.frag {g : Group} {m : Mask} {en : Nat} {f : Frag} (h : Left g m) (hf : g.frag en = some f) : f.mask &&& m = 0 :=
  h.2 _ (mem_of_find hf)

/-- The live lanes of a path are none that have left. -/
theorem Left.liveOf {g : Group} {m : Mask} (h : Left g m) (a : Mask) : liveOf g a &&& m = 0 := by
  have e : Machine.liveOf g a &&& m = a &&& (m &&& ~~~g.retired) := by
    rw [Machine.liveOf]; ac_rfl
  rw [e, h.1]
  exact BitVec.and_zero

theorem foldl_settles {β : Type} {f : Group → β → Group} (h : ∀ g x, Settles g (f g x)) (l : List β) (g : Group) :
    Settles g (l.foldl f g) := by
  induction l generalizing g with
  | nil => exact .refl g
  | cons x l ih => exact (h g x).trans (ih _)

/-- The union of masks that have no lane of `m` has none. -/
theorem union_and_eq_zero {l : List Frag} {a m : Mask} (ha : a &&& m = 0) (h : ∀ f ∈ l, f.mask &&& m = 0) :
    l.foldl (fun u f => u ||| f.mask) a &&& m = 0 := by
  induction l generalizing a with
  | nil => exact ha
  | cons f l ih =>
    refine ih ?_ fun f hf => h f (List.mem_cons_of_mem _ hf)
    rw [BitVec.and_or_distrib_right, ha, h f List.mem_cons_self]
    exact BitVec.or_zero

theorem merge_settles (g : Group) (clk id : Nat) : Settles g (g.merge clk id).1 := by
  unfold Group.merge
  dsimp only
  split
  swap
  · exact .refl g
  split
  swap
  · exact .refl g
  split
  swap
  · exact .refl g
  split
  swap
  · exact .refl g
  refine settles_of_frags fun m hm c hc => ?_
  obtain rfl | hc := mem_of_mem_insert hc
  · refine union_and_eq_zero (BitVec.zero_and ..) fun f hf => ?_
    obtain ⟨n, -, hn⟩ := List.mem_filterMap.1 hf
    exact hm.frag hn
  · exact hm.2 c (List.mem_of_mem_filter hc)

theorem settles_of_merge {g g' : Group} {clk id : Nat} {o : Option Nat} (h : g.merge clk id = (g', o)) : Settles g g' := by
  have hm := merge_settles g clk id
  rwa [h] at hm

theorem settle_settles (clk n : Nat) (g : Group) (en : Nat) : Settles g (Group.settle clk n g en) := by
  induction n generalizing g en with
  | zero => exact .refl g
  | succ n ih =>
    unfold Group.settle
    split
    · exact .refl g
    next f hf =>
    have hset {f' : Frag} {k : Group} (hk : Settles (g.setFrag en f') k) (hm : f'.mask = f.mask) : Settles g k :=
      (settles_setFrag fun m h => by rw [hm]; exact h.frag hf).trans hk
    split
    · split
      · exact settles_erase g en
      · exact .refl g
    · split
      · split
        · split
          · exact hset (ih _ en) rfl
          · split
            · next he => exact hset ((settles_of_merge he).trans (ih ..)) rfl
            · next he => exact hset (settles_of_merge he) rfl
        · refine (settles_erase g en).trans (foldl_settles (fun g id => ?_) _ _)
          split
          · next he => exact (settles_of_merge he).trans (ih ..)
          · next he => exact (settles_of_merge he).trans (foldl_settles ih _ _)
      · split
        · split
          · next he => exact hset ((settles_of_merge he).trans (ih ..)) rfl
          · next he => exact hset (settles_of_merge he) rfl
        · exact .refl g
    · split
      · exact .refl g
      split
      · exact (settles_setFrag fun m h => h.liveOf _).trans (ih _ en)
      · exact (settles_setFrag fun m h => h.liveOf _).trans (ih _ en)

theorem rest_settles (g : Group) (clk en : Nat) : Settles g (g.rest clk en) := settle_settles ..

/-! ### `EXIT` (R46, R64, R253) -/

/-- The group as its lanes retire, before what is left without a lane comes to rest. -/
def retiring (g : Group) (lanes : Mask) : Group :=
  { g with retired := g.retired ||| lanes,
           frags := g.frags.map fun (f : Nat × Frag) => (f.1, { f.2 with mask := f.2.mask &&& ~~~lanes }),
           handler := g.handler.map fun (h : Handler) => { h with frag := { h.frag with mask := h.frag.mask &&& ~~~lanes } } }

theorem retiring_left (g : Group) (lanes : Mask) : Left (retiring g lanes) lanes := by
  refine ⟨?_, fun c hc => ?_⟩
  · show lanes &&& ~~~(g.retired ||| lanes) = 0
    ext i
    simp +contextual
  · obtain ⟨d, -, rfl⟩ := List.mem_map.1 hc
    show d.2.mask &&& ~~~lanes &&& lanes = 0
    ext i
    simp

theorem retire_settles (g : Group) (clk : Nat) (lanes : Mask) : Settles (retiring g lanes) (g.retire clk lanes) :=
  foldl_settles (fun g en => rest_settles g clk en) _ _

/-- Where each fragment keeps a lane, none comes to rest. -/
theorem retire_of_kept {g : Group} {lanes : Mask} (clk : Nat) (h : ∀ c ∈ g.frags, c.2.mask &&& ~~~lanes ≠ 0) :
    g.retire clk lanes = retiring g lanes := by
  have e : ((retiring g lanes).frags.filter fun f => f.2.mask == 0 && (retiring g lanes).handler.isNone || f.2.mask == 0 && f.2.sup) = [] := by
    refine List.filter_eq_nil_iff.2 fun c hc => ?_
    obtain ⟨d, hd, rfl⟩ := List.mem_map.1 hc
    have hz : (d.2.mask &&& ~~~lanes == 0) = false := by simpa using h d hd
    simp only [hz, Bool.false_and, Bool.or_self, Bool.false_eq_true, not_false_eq_true]
  show List.foldl _ (retiring g lanes) (((retiring g lanes).frags.filter fun f =>
    f.2.mask == 0 && (retiring g lanes).handler.isNone || f.2.mask == 0 && f.2.sup).map (·.1)) = _
  rw [e]
  rfl

/-- A word executes in active lanes only (R21, R49). -/
theorem execLanes_and_mask (p : Pre) (u : Bool) (g : Group) (f : Frag) : execLanes p u g f &&& f.mask = execLanes p u g f := by
  have hg : guardLanes p g f &&& f.mask = guardLanes p g f := by
    unfold guardLanes
    split
    · exact BitVec.and_self
    split <;> rw [BitVec.and_comm, ← BitVec.and_assoc, BitVec.and_self]
  have hu : (if u then (if (guardLanes p g f).getLsbD (lowLane f.mask) then f.mask else 0) else guardLanes p g f) &&& f.mask =
      if u then (if (guardLanes p g f).getLsbD (lowLane f.mask) then f.mask else 0) else guardLanes p g f := by
    split
    · split
      · exact BitVec.and_self
      · exact BitVec.zero_and
    · exact hg
  unfold execLanes
  dsimp only
  split
  · rw [BitVec.and_assoc, BitVec.and_comm _ f.mask, ← BitVec.and_assoc, hu]
  · exact hu

/-- The executing lanes are all active ones exactly if no other is active. -/
theorem others_eq_zero_iff {f l : Mask} (h : l &&& f = l) : f &&& ~~~l = 0 ↔ f = l := by
  refine ⟨fun hz => ?_, fun he => he ▸ BitVec.and_not_self _⟩
  calc f = f &&& l ||| f &&& ~~~l := by ext i; cases hf : f[i] <;> simp [hf]
    _ = l := by rw [hz, BitVec.and_comm, h]; exact BitVec.or_zero

section
variable {p : Pre} {s : State} {x : X} (h : Executes (.exit p) s x)
include h

/-- The effect of `EXIT`: the lanes retire, and the arrivals that waited for them take effect. -/
theorem exit_effect : ∃ body, (∀ s, exec (.exit p) s = run (.exit p) body s) ∧ body (begun (.exit p) s x) x =
    (((begun (.exit p) s x).modGroup x.k fun _ => x.g.retire s.clk x.lanes).ripenAll (x.g.retire s.clk x.lanes),
      if x.f.mask &&& ~~~x.lanes = 0 then .gone else .next) := by
  refine ⟨_, fun _ => exec_exit .., ?_⟩
  dsimp only
  rw [h.modGroup, State.group?_modGroup, if_pos rfl, h.group, begun_clk]
  rfl

theorem exit_completes (hm : x.f.mask ≠ x.lanes) : Completes (.exit p) s x
    (((begun (.exit p) s x).modGroup x.k fun _ => x.g.retire s.clk x.lanes).ripenAll (x.g.retire s.clk x.lanes)) (x.f.pc + 12) .none := by
  obtain ⟨body, he, hb⟩ := exit_effect h
  rw [if_neg (fun hz => hm ((others_eq_zero_iff (h.guard ▸ execLanes_and_mask ..)).1 hz))] at hb
  exact completes_of_body h (he s) hb

theorem exit_ends (hm : x.f.mask = x.lanes) : exec (.exit p) s =
    .next ((((begun (.exit p) s x).modGroup x.k fun _ => x.g.retire s.clk x.lanes).ripenAll (x.g.retire s.clk x.lanes)).tidy x.k) := by
  obtain ⟨body, he, hb⟩ := exit_effect h
  rw [if_pos (hm ▸ BitVec.and_not_self _)] at hb
  exact answers_of_body h (he s) hb (by simp)

end

/-- Settles O9: coming to rest changes the fragments only and gives no retired lane back, and where each fragment keeps a lane it
changes nothing. -/
theorem retirement : Obligations.Retirement := by
  unfold Obligations.Retirement
  intro p s x h
  have hs := retire_settles x.g s.clk x.lanes
  refine ⟨?_, x.g.retire s.clk x.lanes, ?_, fun n f hf => (hs.left _ (retiring_left ..)).frag hf, fun hk => ?_, ?_,
    exit_completes h, exit_ends h⟩
  · by_cases hm : x.f.mask = x.lanes
    · exact ⟨_, exit_ends h hm⟩
    · exact ⟨_, exit_completes h hm⟩
  · obtain ⟨fr, e⟩ := hs.rest
    rw [e]
    rfl
  · rw [retire_of_kept _ hk]
    rfl
  · obtain ⟨fr, e⟩ := hs.rest
    rw [e]
    exact ⟨rfl, rfl, rfl, rfl, rfl, rfl, rfl⟩

end Sys2Proof.Execution
end

section
/-! The decode checks of an instruction word, whatever its guard (R58, R246, R247). -/

namespace Sys2Proof.Execution

open Sys2Proof.Machine Sys2Proof.Safety Sys2Proof.Glance

/-! ### The checks in their order -/

/-- The classes that a role does not permit (R58). -/
theorem roleOk_eq_false {c : Nat} {r : Role} :
    roleOk c r = false ↔ (c = 12 ∧ r ≠ .C) ∨ (c = 13 ∧ r ≠ .M) ∨ (((3 ≤ c ∧ c ≤ 10) ∨ c = 14) ∧ r ≠ .V) := by
  unfold roleOk
  split
  · next h => simp [eq_of_beq h]
  next h12 =>
  split
  · next h => simp [eq_of_beq h]
  next h13 =>
  split
  · next h =>
    have hc : (3 ≤ c ∧ c ≤ 10) ∨ c = 14 := by simpa using h
    simp_all
  · next h =>
    have hc : ¬ ((3 ≤ c ∧ c ≤ 10) ∨ c = 14) := by simpa using h
    simp_all

/-- The registers, predicates and guard of a word that its group does not have (R246). -/
theorem range_iff (n : Need) (p : Pre) (g : Group) :
    (n.vs.all (fun r => decide (r < g.regs)) && n.ps.all (fun q => decide (q < g.npreds)) &&
        (p.guard == 63#6 || decide (p.guard.toNat < g.npreds))) = true ↔
      ¬ ((∃ r ∈ n.vs, g.regs ≤ r) ∨ (∃ q ∈ n.ps, g.npreds ≤ q) ∨ (p.guard ≠ 63#6 ∧ g.npreds ≤ p.guard.toNat)) := by
  simp [not_or, and_assoc, imp_iff_not_or]

section
variable {n : Need} {p : Pre} {g : Group}

theorem fault_role (h : roleOk n.cls g.role = false) : n.fault p g = some 0x02 := by
  rw [Need.fault, h]
  rfl

theorem fault_privilege (hr : roleOk n.cls g.role = true) (h : n.sup = true ∧ g.level = .user) : n.fault p g = some 0x03 := by
  rw [Need.fault, hr, h.1, h.2]
  rfl

theorem fault_unprivileged (hr : roleOk n.cls g.role = true) (h : ¬ (n.sup = true ∧ g.level = .user)) : n.fault p g =
    if n.vs.all (fun r => r < g.regs) && n.ps.all (fun q => q < g.npreds) && (p.guard == 63#6 || p.guard.toNat < g.npreds)
      then none else some 0x04 := by
  have hp : (n.sup && g.level != .sup) = false := by
    cases hs : n.sup <;> cases hl : g.level <;> simp_all
  rw [Need.fault, hr, hp]
  rfl

end

/-! ### A word that fails a check, or whose guard holds nowhere -/

section
variable {i : Instr} {s : State} {k en : Nat} {g : Group} {f : Frag} (hs : s.selected = some (k, en, g, f))
  (hv : (need i).vs.any (s.heldRegs k g.gid).contains = false) (body : State → X → State × Done)
include hs hv

theorem run_of_fault {kind : Nat} (hf : (need i).fault (pre i) g = some kind) : run i body s = .next
    ((s.issued k en f (need i) (uniform i) (stall i s ⟨k, en, g, f, execLanes (pre i) (uniform i) g f⟩)).takeEvent k en
      (Event.plain kind 0 f.mask)) := by
  simp only [run, issue, hs, hv, hf, Bool.false_eq_true, if_false]

theorem run_of_idle (hf : (need i).fault (pre i) g = none) (hl : execLanes (pre i) (uniform i) g f = 0) : run i body s = .next
    ((s.issued k en f (need i) (uniform i) (stall i s ⟨k, en, g, f, execLanes (pre i) (uniform i) g f⟩)).move k en (f.pc + 12) .none) := by
  simp only [run, issue, hs, hv, hf, Bool.false_eq_true, if_false, hl, if_true, State.finish]

end

/-- Settles O12: the checks of `Need.fault` in their order, then the guard. -/
theorem decodeChecks : Obligations.DecodeChecks := by
  unfold Obligations.DecodeChecks
  intro i s k en g f hw hs hv n b raises roleBad privBad rangeBad
  obtain ⟨body, he⟩ := exec_word i hw
  have fails {kind : Nat} (hf : (need i).fault (pre i) g = some kind) : raises kind := (he s).trans (run_of_fault hs hv body hf)
  have permitted (hr : ¬ roleBad) : roleOk n.cls g.role = true := by
    rwa [← Bool.not_eq_false, roleOk_eq_false]
  refine ⟨fun hr => fails (fault_role (roleOk_eq_false.2 hr)), fun hr hp => fails (fault_privilege (permitted hr) hp),
    fun hr hp hg => fails ?_, fun hr hp hg hl => ?_⟩
  · rw [fault_unprivileged (permitted hr) hp, if_neg]
    exact fun h => (range_iff ..).1 h hg
  · refine (he s).trans (run_of_idle hs hv body ?_ hl)
    rw [fault_unprivileged (permitted hr) hp, if_pos]
    exact (range_iff ..).2 hg

end Sys2Proof.Execution
end

section
/-! The ends of a yield handler and of a resume (R205, R210, R259, R260, R440). -/

namespace Sys2Proof.Execution

open Sys2Proof.Machine Sys2Proof.Safety Sys2Proof.Glance

theorem exec_yielddSusp (p : Pre) (s : State) : exec (.yielddSusp p) s = execYielddSusp p s := rfl
theorem exec_yielddRet (p : Pre) (s : State) : exec (.yielddRet p) s = execYielddRet p s := rfl

/-! ### Tables -/

/-- Of two writes under one key the second stands. -/
theorem insert_insert {α : Type} (t : Table α) (k : Nat) (v w : α) : Table.insert (Table.insert t k v) k w = Table.insert t k w := by
  induction t with
  | nil => simp [Table.insert]
  | cons c r ih =>
    obtain ⟨j, u⟩ := c
    by_cases hk : k < j
    · simp [Table.insert, hk]
    by_cases hj : j = k
    · simp [Table.insert, hj]
    · simp [Table.insert, hk, hj, ih]

/-- A group that is changed and then replaced is replaced. -/
theorem setGroup_modGroup {s : State} {k : Nat} {g : Group} (h : s.group? k = some g) (f : Group → Group) (g' : Group) :
    (s.modGroup k f).setGroup k g' = s.modGroup k fun _ => g' := by
  have hf : Table.find s.groups k = some g := h
  simp only [State.setGroup, State.modGroup, Table.adjust, hf, insert_insert]

/-! ### The suspend of a yield handler (R205, R259) -/

/-- A fragment that has executed `YIELDD.susp`. -/
def suspending (f : Frag) (clk : Nat) : Frag := { f with wait := .susp, since := clk }

/-- A group whose yield handler has suspended with its last fragment suspends. -/
theorem tidy_of_lastSusp {s : State} {k : Nat} {g : Group} {f : Frag} (hg : s.group? k = some g) (hd : g.done = false)
    (hh : g.handler = none) (hl : g.deadlocked = false) (hs : g.lastSusp = some f) :
    s.tidy k = s.setGroup k { g with frags := [(0, wholeFrag g (f.pc + 12) s.clk .susp)], yield := .suspended } := by
  have hi : (g.handler.isSome && g.acting.isEmpty) = false := by rw [hh]; rfl
  simp only [State.tidy, hg, hd, hi, hl, hs, Group.suspend, Option.isSome_some, Bool.false_eq_true, if_false, if_true]

section
variable {g : Group} {en : Nat} {f : Frag} (hf : g.frags = [(en, f)]) (hh : g.handler = none) (hm : f.mask ≠ 0) (hw : f.wait = .susp)
include hf hh hm

theorem acting_of_only : g.acting = [(en, f)] := by
  have he : g.eligible f = true := by simpa [Group.eligible, hh] using hm
  simp only [Group.acting, hf, List.filter_cons, he, if_true, List.filter_nil]

include hw

theorem lastSusp_of_only {tb : Nat} (hy : g.yield = .running tb) : g.lastSusp = some f := by
  rw [Group.lastSusp, hy, hh, acting_of_only hf hh hm]
  simp [hw]

theorem deadlocked_of_only : g.deadlocked = false := by
  rw [Group.deadlocked, acting_of_only hf hh hm]
  simp [hw]

end

section
variable {p : Pre} {s : State} {x : X} (h : Executes (.yielddSusp p) s x)
include h

theorem susp_suspends {tb : Nat} (hh : x.g.handler = none) (hy : x.g.yield = .running tb) : exec (.yielddSusp p) s =
    .next (((begun (.yielddSusp p) s x).modGroup x.k fun g => g.setFrag x.en (suspending x.f (begun (.yielddSusp p) s x).clk)).tidy x.k) :=
  answers_of_body (d := .gone) h (exec_yielddSusp ..) (by rw [hh, hy]; rfl) (by simp)

/-- The suspend of the only fragment takes effect at once. -/
theorem susp_ends {tb : Nat} (hh : x.g.handler = none) (hy : x.g.yield = .running tb) (hf : x.g.frags = [(x.en, x.f)])
    (hd : x.g.done = false) (hm : x.f.mask ≠ 0) : exec (.yielddSusp p) s = .next ((begun (.yielddSusp p) s x).modGroup x.k fun _ =>
      { x.g with frags := [(0, wholeFrag x.g (x.f.pc + 12) (begun (.yielddSusp p) s x).clk .susp)], yield := .suspended }) := by
  rw [susp_suspends h hh hy, h.modGroup]
  generalize hq : x.g.setFrag x.en _ = q
  have hfrags : q.frags = [(x.en, suspending x.f (begun (.yielddSusp p) s x).clk)] := by
    rw [← hq, Group.setFrag, hf]
    simp [Table.insert]
  have hqh : q.handler = none := by rw [← hq]; exact hh
  rw [tidy_of_lastSusp (by rw [State.group?_modGroup, if_pos rfl, h.group]; rfl) (by rw [← hq]; exact hd) hqh
    (deadlocked_of_only hfrags hqh hm rfl) (lastSusp_of_only hfrags hqh hm rfl (by rw [← hq]; exact hy)), setGroup_modGroup h.group, ← hq]
  rfl

theorem susp_completes (hh : x.g.handler = none) (hy : x.g.yield = .overrun) :
    Completes (.yielddSusp p) s x (begun (.yielddSusp p) s x) (x.f.pc + 12) .none :=
  completes_of_body h (exec_yielddSusp ..) (by rw [hh, hy])

theorem susp_raises (hn : x.g.handler ≠ none ∨ (x.g.yield ≠ .overrun ∧ ∀ b, x.g.yield ≠ .running b)) : Raises (.yielddSusp p) s x 0x08 0 := by
  refine takes_of_body h (exec_yielddSusp ..) ?_
  dsimp only
  split
  · next hh hy => exact absurd hy (hn.resolve_left (not_not.2 hh) |>.2 _)
  · next hh hy => exact absurd hy (hn.resolve_left (not_not.2 hh) |>.1)
  · rfl

end

/-! ### The end of a resume (R210, R259) -/

/-- Matrix work that is to raise flags is seen the same before and after a word begins. -/
theorem flagsBusy_of_alike {s t : State} (h : Alike s t) (g : Group) : t.flagsBusy g = s.flagsBusy g := by
  obtain ⟨_, _, _, _, _, _, _, rfl⟩ := h.rest
  rfl

theorem begun_alike_unspent (i : Instr) (s : State) (x : X) : Alike (begun i s x) (s.unspent x.k x.en) :=
  (begun_alike ..).trans_left (unspent_alike ..)

/-- The effect of `YIELDD.ret` of a resumed group. -/
theorem ret_effect (p : Pre) {x : X} {v : Saved} (hh : x.g.handler = none) (hy : x.g.yield = .resumed ∨ x.g.yield = .overrun) (hv : x.g.saved = some v) :
    ∃ body, (∀ s, exec (.yielddRet p) s = run (.yielddRet p) body s) ∧ ∀ t, body t x =
      if t.flagsBusy x.g then (t, .hold) else (t.modGroup x.k fun g => g.reinstate t.clk t.now v, .gone) := by
  refine ⟨_, fun _ => exec_yielddRet .., fun t => ?_⟩
  obtain hy | hy := hy <;> · dsimp only; rw [hh, hy, hv]

section
variable {p : Pre} {s : State} {x : X} (h : Executes (.yielddRet p) s x)
include h

theorem ret_again {v : Saved} (hh : x.g.handler = none) (hy : x.g.yield = .resumed ∨ x.g.yield = .overrun) (hv : x.g.saved = some v)
    (hb : (begun (.yielddRet p) s x).flagsBusy x.g = true) : Again (.yielddRet p) s x := by
  obtain ⟨body, he, hbody⟩ := ret_effect p hh hy hv
  refine again_of_body h (he s) ((hbody _).trans (if_pos hb)) ((hbody _).trans (if_pos ?_))
  rwa [flagsBusy_of_alike (begun_alike_unspent ..)]

theorem ret_reinstates {v : Saved} (hh : x.g.handler = none) (hy : x.g.yield = .resumed ∨ x.g.yield = .overrun) (hv : x.g.saved = some v)
    (hb : (begun (.yielddRet p) s x).flagsBusy x.g = false) : exec (.yielddRet p) s =
    .next (((begun (.yielddRet p) s x).modGroup x.k fun _ => x.g.reinstate s.clk s.now v).tidy x.k) := by
  obtain ⟨body, he, hbody⟩ := ret_effect p hh hy hv
  rw [answers_of_body (d := .gone) h (he s) ((hbody _).trans (if_neg (by rw [hb]; simp))) (by simp), h.modGroup, begun_clk, State.now, begun_tb]
  rfl

theorem ret_raises (hn : x.g.handler ≠ none ∨ ¬ (x.g.yield = .resumed ∨ x.g.yield = .overrun) ∨ x.g.saved = none) :
    Raises (.yielddRet p) s x 0x08 0 := by
  refine takes_of_body h (exec_yielddRet ..) ?_
  dsimp only
  split
  · next v hh hb hs =>
    have hy : x.g.yield = .resumed ∨ x.g.yield = .overrun := by
      revert hb
      cases x.g.yield <;> simp
    simp [hh, hs, hy] at hn
  · rfl

end

/-- Settles O11, each of the two words by the cases of its effect. -/
theorem yieldReturns : Obligations.YieldReturns := by
  unfold Obligations.YieldReturns
  intro p tb v s x back
  exact ⟨fun h hh hy hf hd hm => ⟨_, rfl, rfl, rfl, rfl, susp_ends h hh hy hf hd hm⟩, fun h hh hy => susp_suspends h hh hy,
    fun h hh hy => susp_completes h hh hy, fun h hn => susp_raises h hn, fun h hh hy hv hb => ret_again h hh hy hv hb,
    fun h hh hy hv hb => ret_reinstates h hh hy hv hb, fun h hn => ret_raises h hn⟩

end Sys2Proof.Execution
end

section
/-! Spawned items: `SPAWN`, `SPQ` and the steps of the item queue (R68, R69, R381, R382). -/

namespace Sys2Proof.Execution

open Sys2Proof.Machine Sys2Proof.Safety Sys2Proof.Glance

theorem exec_spawn (p : Pre) (a : VReg) (c : SI) (s : State) : exec (.spawn p a c) s = execSpawn p a c s := rfl
theorem exec_spq (p : Pre) (s : State) : exec (.spq p) s = execSpq p s := rfl
theorem exec_spawnRoom (k en : Nat) (s : State) : exec (.spawnRoom k en) s = execSpawnRoom k en s := rfl
theorem exec_spqQueueEmpty (k en : Nat) (s : State) : exec (.spqQueueEmpty k en) s = execSpqQueueEmpty k en s := rfl
theorem exec_packingTimeout (core launch pc : Nat) (s : State) : exec (.packingTimeout core launch pc) s = execPackingTimeout core launch pc s := rfl

/-! ### The item queue (R68, R381) -/

/-- The items that the lanes of a `SPAWN` append. -/
def spawned (b : State) (g : Group) (v target : Nat) (lanes : Mask) : List Item :=
  (lanesOf lanes).map fun l => ⟨g.launch, g.gang, 12 * target, (List.range 8).map fun j => g.vget (v + j) l, b.clk, b.stampNow⟩

/-- `t` is `b` with the items of a `SPAWN` at the end of a core's queue, whose partial groups of that target no longer may start for
their age. -/
def Appends (b t : State) (co : Nat) (g : Group) (v target : Nat) (lanes : Mask) : Prop :=
  { t with cores := b.cores } = b ∧ (∀ n, n ≠ co → t.core n = b.core n) ∧
    (t.core co).start = (b.core co).start.filter (· != ⟨g.launch, 12 * target⟩) ∧
    { t.core co with items := (b.core co).items, start := (b.core co).start } = b.core co ∧
    (t.core co).items = (b.core co).items ++ spawned b g v target lanes

theorem spawnItems_appends {s : State} {k : Nat} {g : Group} (hg : s.group? k = some g) (v target : Nat) (lanes : Mask) :
    Appends s (s.spawnItems k v target lanes) (coreOf k) g v target lanes := by
  have he : s.spawnItems k v target lanes = s.modCore (coreOf k) fun c => { c with
      start := c.start.filter (· != ⟨g.launch, 12 * target⟩)
      items := c.items ++ spawned s g v target lanes } := by
    simp only [State.spawnItems, hg]
    rfl
  rw [he]
  refine ⟨rfl, fun n hn => ?_, ?_, ?_, ?_⟩
  · rw [State.core_modCore, if_neg hn]
  all_goals rw [State.core_modCore, if_pos rfl]

theorem hasRoom_iff {s : State} {c n : Nat} : s.hasRoom c n = true ↔ (s.core c).items.length + n ≤ 1024 := by
  rw [State.hasRoom, queueItems, decide_eq_true_iff]

theorem queueEmpty_iff {s : State} {c l : Nat} : s.queueEmpty c l = true ↔ ∀ i ∈ (s.core c).items, i.launch ≠ l := by
  simp [State.queueEmpty]

/-! ### `SPAWN` (R381) -/

/-- Whether a launch declares spawning. -/
def Declares (s : State) (launch : Nat) : Prop := ∃ l, Table.find s.launches launch = some l ∧ l.lrec.spawn ≠ 0

theorem declares_iff {s : State} {launch : Nat} :
    ((Table.find s.launches launch).map fun l => l.lrec.spawn).getD 0 = 0 ↔ ¬ Declares s launch := by
  unfold Declares
  cases Table.find s.launches launch <;> simp

/-- Reductions on their way are seen the same before and after a word begins. -/
theorem owedTo_of_alike {s t : State} (h : Alike s t) (g : Group) (sc : Scope) : t.owedTo g sc = s.owedTo g sc := by
  obtain ⟨_, _, _, _, _, _, _, rfl⟩ := h.rest
  rfl

theorem declares_of_alike {s t : State} (h : Alike s t) (l : Nat) : Declares t l ↔ Declares s l := by
  obtain ⟨_, _, _, _, _, _, _, rfl⟩ := h.rest
  rfl

/-- The effect of `SPAWN`. -/
theorem spawn_effect (p : Pre) (a : VReg) (c : SI) (x : X) : ∃ body, (∀ s, exec (.spawn p a c) s = run (.spawn p a c) body s) ∧
    ∀ t, (¬ Declares t x.g.launch → body t x = (t, .event (Event.plain 0x26 0 x.lanes))) ∧
      (Declares t x.g.launch → body t x = if t.owedTo x.g .dev then (t, .hold)
        else if t.hasRoom x.core (lanesOf x.lanes).length then (t.spawnItems x.k a.toNat (SIval x.g c).toNat x.lanes, .next)
        else (t, .wait (.room a (SIval x.g c).toNat x.lanes))) := by
  refine ⟨_, fun _ => exec_spawn .., fun t => ⟨fun h => if_pos (declares_iff.2 h), fun h => if_neg (fun hz => ?_)⟩⟩
  exact declares_iff.1 hz h

section
variable {p : Pre} {a : VReg} {c : SI} {s : State} {x : X} (h : Executes (.spawn p a c) s x)
include h

theorem spawn_takes (hm : ¬ Declares s x.g.launch) : Takes (.spawn p a c) s x (Event.plain 0x26 0 x.lanes) := by
  obtain ⟨body, he, hb⟩ := spawn_effect p a c x
  exact takes_of_body h (he s) ((hb _).1 (by rwa [declares_of_alike (begun_alike ..)]))

variable (hm : Declares s x.g.launch)
include hm

theorem spawn_again (ho : (begun (.spawn p a c) s x).owedTo x.g .dev = true) : Again (.spawn p a c) s x := by
  obtain ⟨body, he, hb⟩ := spawn_effect p a c x
  refine again_of_body h (he s) (((hb _).2 ?_).trans (if_pos ho)) (((hb _).2 ?_).trans (if_pos ?_))
  · rwa [declares_of_alike (begun_alike ..)]
  · rwa [declares_of_alike (unspent_alike ..)]
  · rwa [owedTo_of_alike (begun_alike_unspent ..)]

variable (ho : (begun (.spawn p a c) s x).owedTo x.g .dev = false)
include ho

theorem spawn_completes (hr : ((begun (.spawn p a c) s x).core x.core).items.length + (lanesOf x.lanes).length ≤ 1024) :
    Completes (.spawn p a c) s x ((begun (.spawn p a c) s x).spawnItems x.k a.toNat (SIval x.g c).toNat x.lanes) (x.f.pc + 12) .none := by
  obtain ⟨body, he, hb⟩ := spawn_effect p a c x
  refine completes_of_body h (he s) (((hb _).2 ?_).trans ?_)
  · rwa [declares_of_alike (begun_alike ..)]
  · rw [ho, hasRoom_iff.2 hr]
    rfl

theorem spawn_waits (hr : 1024 < ((begun (.spawn p a c) s x).core x.core).items.length + (lanesOf x.lanes).length) :
    Waits (.spawn p a c) s x (.room a (SIval x.g c).toNat x.lanes) := by
  obtain ⟨body, he, hb⟩ := spawn_effect p a c x
  refine waits_of_body h (he s) (((hb _).2 ?_).trans ?_)
  · rwa [declares_of_alike (begun_alike ..)]
  · rw [ho, if_neg (by simp), if_neg (fun hz => ?_)]
    exact absurd (hasRoom_iff.1 hz) (by omega)

end

/-- `SPAWN_ROOM` with room (R381). -/
theorem spawnRoom_appends {s : State} {k en target : Nat} {g : Group} {f : Frag} {v : VReg} {lanes : Mask} (hg : s.group? k = some g)
    (hf : g.frag en = some f) (he : g.eligible f = true) (hw : f.wait = .room v target lanes)
    (hr : (s.core (coreOf k)).items.length + (lanesOf lanes).length ≤ 1024) :
    exec (.spawnRoom k en) s = .next ((s.spawnItems k v.toNat target lanes).move k en (f.pc + 12) .none) := by
  simp [exec_spawnRoom, execSpawnRoom, hg, hf, hw, he, hasRoom_iff.2 hr]

/-! ### `SPQ` (R69, R382) -/

theorem spq_completes {p : Pre} {s : State} {x : X} (h : Executes (.spq p) s x)
    (hq : ∀ i ∈ ((begun (.spq p) s x).core x.core).items, i.launch ≠ x.g.launch) :
    Completes (.spq p) s x (begun (.spq p) s x) (x.f.pc + 12) .none :=
  completes_of_body h (exec_spq ..) (if_pos (queueEmpty_iff.2 hq))

theorem spq_waits {p : Pre} {s : State} {x : X} (h : Executes (.spq p) s x)
    (hq : ∃ i ∈ ((begun (.spq p) s x).core x.core).items, i.launch = x.g.launch) : Waits (.spq p) s x .spq := by
  obtain ⟨i, hi, hl⟩ := hq
  exact waits_of_body h (exec_spq ..) (if_neg fun he => queueEmpty_iff.1 he i hi hl)

theorem spqQueueEmpty_completes {s : State} {k en : Nat} {g : Group} {f : Frag} (hg : s.group? k = some g) (hf : g.frag en = some f)
    (he : g.eligible f = true) (hw : f.wait = .spq) (hq : ∀ i ∈ (s.core (coreOf k)).items, i.launch ≠ g.launch) :
    exec (.spqQueueEmpty k en) s = .next (s.move k en (f.pc + 12) .none) := by
  simp [exec_spqQueueEmpty, execSpqQueueEmpty, hg, hf, hw, he, queueEmpty_iff.2 hq]

/-! ### `PACKING_TIMEOUT` (R69) -/

/-- One clk after the last of some items came; 0 without items. -/
def afterLast (l : List Item) : Nat := l.foldl (fun m i => max m (i.clk + 1)) 0

theorem afterLast_le {l : List Item} {n : Nat} : afterLast l ≤ n ↔ ∀ i ∈ l, i.clk < n := by
  suffices h : ∀ a, l.foldl (fun m i => max m (i.clk + 1)) a ≤ n ↔ a ≤ n ∧ ∀ i ∈ l, i.clk < n by
    simpa [afterLast] using h 0
  induction l with
  | nil => simp
  | cons i l ih =>
    intro a
    rw [List.foldl_cons, ih, List.forall_mem_cons, Nat.max_le, and_assoc, Nat.succ_le_iff]

/-- The items of a partial group. -/
def partialOf (s : State) (core launch pc : Nat) : List Item := (s.core core).items.filter fun i => i.launch == launch && i.pc == pc

theorem packingTimeout_eq (s : State) (core launch pc : Nat) : exec (.packingTimeout core launch pc) s =
    if afterLast (partialOf s core launch pc) = 0 ∨ s.clk + 1 < afterLast (partialOf s core launch pc) + 2048 ∨
      (s.core core).start.contains ⟨launch, pc⟩ then .next s
    else .next (s.setCore core { s.core core with start := (s.core core).start ++ [⟨launch, pc⟩] }) := rfl

theorem packingTimeout_starts {s : State} {core launch pc : Nat} (hm : partialOf s core launch pc ≠ [])
    (ha : ∀ i ∈ partialOf s core launch pc, i.clk + 2048 ≤ s.clk) (hs : (s.core core).start.contains ⟨launch, pc⟩ = false) :
    exec (.packingTimeout core launch pc) s =
      .next (s.setCore core { s.core core with start := (s.core core).start ++ [⟨launch, pc⟩] }) := by
  have hpos : afterLast (partialOf s core launch pc) ≠ 0 := fun hz => by
    obtain ⟨i, hi⟩ := List.exists_mem_of_ne_nil _ hm
    exact absurd (afterLast_le.1 hz.le i hi) (by omega)
  have hage : afterLast (partialOf s core launch pc) ≤ s.clk - 2047 := afterLast_le.2 fun i hi => by
    have := ha i hi
    omega
  rw [packingTimeout_eq, if_neg]
  rw [hs]
  simp only [Bool.false_eq_true, or_false]
  omega

theorem packingTimeout_early {s : State} {core launch pc : Nat} (ha : ∃ i ∈ partialOf s core launch pc, s.clk < i.clk + 2048) :
    exec (.packingTimeout core launch pc) s = .next s := by
  obtain ⟨i, hi, hc⟩ := ha
  have hlast : i.clk < afterLast (partialOf s core launch pc) := afterLast_le.1 le_rfl i hi
  rw [packingTimeout_eq, if_pos]
  omega

/-- Settles O42, each word and step by the cases of its effect. -/
theorem spawning : Obligations.Spawning := by
  unfold Obligations.Spawning
  intro p a c s x k en core launch pc g f v target lanes sp spq tgt appends
  refine ⟨fun h => ⟨fun hm => spawn_takes h hm, fun hm ho => spawn_again h hm ho, fun hm ho hr => ?_, fun hm ho hr => ?_⟩,
    fun hg hf he hw hr => ?_, fun h => ⟨fun hq => spq_completes h hq, fun hq => spq_waits h hq⟩,
    fun hg hf he hw hq => spqQueueEmpty_completes hg hf he hw hq, fun hm ha hs => packingTimeout_starts hm ha hs,
    fun ha => packingTimeout_early ha⟩
  · exact ⟨_, spawn_completes h hm ho hr, spawnItems_appends h.group ..⟩
  · exact spawn_waits h hm ho hr
  · exact ⟨_, spawnRoom_appends hg hf he hw hr, spawnItems_appends hg ..⟩

end Sys2Proof.Execution
end

section
/-! `PARRIVE` at the pennant of a launch over two devices, against what `Obligations.Pennants` says of it (R64, R342). -/

namespace Sys2Proof.Execution

open Sys2Proof.Machine Sys2Proof.Safety

/-- `PARRIVE 63`: an arrival at the grid-wide pennant. -/
def gridArrive : Instr := .parrive ⟨false, 63, 0⟩ 63

/-- A co-resident launch on two devices, this one and node 1, whose one group here is the one member of the grid-wide pennant. -/
def pairRecord : LRec := { placedRecord .V with cores := true, devices := 2, nodes := [0, 1] }
def pairPennant : Pennant := Pennant.start [0]
def pairFrag : Frag := ⟨firstLanes 128, 0, 0, 1, .none, [], 0, none, false, false⟩
def pairGroup : Group := { startGroup 0 pairRecord 2 1 0 0 0 0 with frags := [(0, pairFrag)] }
def pairState : State :=
  { State.reset with
    launches := [(0, { launchOf 1 1 pairRecord 0 0 0 with grid := pairPennant })]
    gangs := [(1, ⟨0, 0, [0], [], 0, none, false⟩)]
    wgs := [(2, startWg 0 0 0 pairRecord 1 0)]
    groups := [(0, pairGroup)]
    cur := some ⟨0, 0, []⟩ }
def pairX : X := ⟨0, 0, pairGroup, pairFrag, firstLanes 128⟩

theorem pair_executes : Executes gridArrive pairState pairX := by
  constructor <;> decide +kernel

/-- The pennant after the arrival. -/
def pairArrived : Pennant := pairPennant.arriveLanes (pairState.member (.grid 0) pairGroup) pairFrag.mask (~~~pairGroup.retired) (pairState.now + 32)

/-- What an outcome has for other devices. -/
def peersOf : Host.Outcome State Fault Refusal → Table Peer
  | .next t => t.peers
  | _ => []

/-- Node 1 is told of the arrival, which the pennant alone does not show it. -/
theorem pair_tells : peersOf (exec gridArrive pairState) ≠
    (((begun gridArrive pairState pairX).setPen (.grid 0) pairArrived).move 0 0 12 .none).peers := by
  decide +kernel

/-- Refutes O36, in its clause on `PARRIVE`: it lets nothing but the pennant change wherever the pennant differs from the grid-wide one
of some launch, as every pennant does, the grid-wide ones among them. In `pairState` the other device is told of the arrival. -/
theorem not_pennants : ¬ Obligations.Pennants := by
  unfold Obligations.Pennants
  intro h
  obtain ⟨-, -, -, -, -, -, -, -, harrive, -⟩ := h ⟨false, 63, 0⟩ 63 (.i 0) pairState pairX (.grid 0) pairPennant
  obtain ⟨t, q', -, -, -, hset, rfl, he⟩ := harrive ⟨pair_executes, by decide +kernel, rfl⟩ (by decide +kernel) (by decide +kernel)
  obtain rfl := hset 1 (by decide)
  rw [if_pos rfl] at he
  exact pair_tells (by rw [gridArrive, he]; rfl)

end Sys2Proof.Execution
end

section
/-! The ends of the waits of fragments: the clock, pennants, rings, scratchpad lines, counters, seals, the host (R60, R61, R65, R118,
R121, R157, R180, R255, R320, R338, R341, R435, R436, R445). -/

namespace Sys2Proof.Execution

open Sys2Proof.Machine Sys2Proof.Safety Sys2Proof.Glance

/-! ### The events -/

theorem exec_sleepExpiry (k en : Nat) (s : State) : exec (.sleepExpiry k en) s = execSleepExpiry k en s := rfl
theorem exec_horizonReached (k en : Nat) (s : State) : exec (.horizonReached k en) s = execHorizonReached k en s := rfl
theorem exec_pennantWaitRelease (k en : Nat) (s : State) : exec (.pennantWaitRelease k en) s = execPennantWaitRelease k en s := rfl
theorem exec_ringWaitResume (k en : Nat) (s : State) : exec (.ringWaitResume k en) s = execRingWaitResume k en s := rfl
theorem exec_ringPublishDeferred (w n : Nat) (s : State) : exec (.ringPublishDeferred w n) s = execRingPublishDeferred w n s := rfl
theorem exec_fullLineStallEnd (w n : Nat) (s : State) : exec (.fullLineStallEnd w n) s = execFullLineStallEnd w n s := rfl
theorem exec_windowLineFill (w n : Nat) (s : State) : exec (.windowLineFill w n) s = execWindowLineFill w n s := rfl
theorem exec_waitcntReturn (k en : Nat) (s : State) : exec (.waitcntReturn k en) s = execWaitcntReturn k en s := rfl
theorem exec_monitorWake (k en : Nat) (s : State) : exec (.monitorWake k en) s = execMonitorWake k en s := rfl
theorem exec_monitorReread (k en : Nat) (s : State) : exec (.monitorReread k en) s = execMonitorReread k en s := rfl
theorem exec_unsealCountZero (k en : Nat) (s : State) : exec (.unsealCountZero k en) s = execUnsealCountZero k en s := rfl
theorem exec_hostMemoryCompletion (k en : Nat) (data : List (Nat × Byte)) (s : State) :
    exec (.hostMemoryCompletion k en data) s = execHostMemoryCompletion k en data s := rfl
theorem exec_brokenPennant (q : PenRef) (s : State) : exec (.brokenPennant q) s = execBrokenPennant q s := rfl

/-! ### Fragments that wait, and go on -/

/-- A fragment that may act and has a wait. -/
def Waits (s : State) (k en : Nat) (g : Group) (f : Frag) (w : Wait) : Prop :=
  s.group? k = some g ∧ g.frag en = some f ∧ g.eligible f = true ∧ f.wait = w

/-- The horizon of a group, raised to a stamp (R445). -/
def raisedTo (g : Group) (stamp : Nat) : DWord := if stamp ≤ g.horizon.toNat then g.horizon else BitVec.ofNat 64 stamp

/-- The state in which a fragment goes on past its instruction, or waits for its group's horizon first (R445). -/
def passes (t : State) (k en : Nat) (f : Frag) (g : Group) : State :=
  t.move k en (f.pc + 12) (if t.now < g.horizon.toNat then .horizon else .none)

theorem raise_eq (g : Group) (stamp : Nat) : g.raise stamp = { g with horizon := raisedTo g stamp } := by
  unfold Group.raise raisedTo
  split <;> rfl

theorem modGroup_const {s : State} {k : Nat} {g : Group} (hg : s.group? k = some g) (f : Group → Group) :
    s.modGroup k f = s.modGroup k fun _ => f g := by
  unfold State.modGroup
  rw [Table.adjust_const (v := g) hg f]

theorem goOn_eq {s : State} {k : Nat} {g : Group} (hg : s.group? k = some g) (en : Nat) (f : Frag) : s.goOn k en f = passes s k en f g := by
  unfold State.goOn passes
  rw [State.afterAcquire, hg]
  by_cases hn : s.now < g.horizon.toNat
  · simp only [if_pos hn]
  · simp only [if_neg hn]

section
variable {s : State} {k en : Nat} {g : Group} {f : Frag}

theorem onFrag_of_waits {w : Wait} (h : Waits s k en g f w) (body : Group → Frag → State) : s.onFrag k en body = body g f := by
  obtain ⟨hg, hf, he, -⟩ := h
  simp only [State.onFrag, hg, hf, he, if_true]

/-! ### The clock (R255, R445) -/

theorem sleepExpiry_of_waits {n : Nat} (h : Waits s k en g f (.sleep n)) :
    (n ≤ s.clk → exec (.sleepExpiry k en) s = .next (s.move k en f.pc .none)) ∧
      (s.clk < n → exec (.sleepExpiry k en) s = .next s) := by
  obtain ⟨-, -, -, hw⟩ := id h
  rw [exec_sleepExpiry, execSleepExpiry, onFrag_of_waits h, hw]
  exact ⟨fun hn => congrArg _ (if_pos hn), fun hn => congrArg _ (if_neg (by omega))⟩

theorem horizonReached_of_waits (h : Waits s k en g f .horizon) :
    (g.horizon.toNat ≤ s.now → exec (.horizonReached k en) s = .next (s.move k en f.pc .none)) ∧
      (s.now < g.horizon.toNat → exec (.horizonReached k en) s = .next s) := by
  obtain ⟨-, -, -, hw⟩ := id h
  rw [exec_horizonReached, execHorizonReached, onFrag_of_waits h, hw]
  exact ⟨fun hn => congrArg _ (if_pos (by simpa using hn)), fun hn => congrArg _ (if_neg (by simpa using hn))⟩

/-! ### Pennants (R65, R341) -/

theorem pennantWaitRelease_of_waits {q : PenRef} {n : Nat} {p : Pennant} (h : Waits s k en g f (.pennant q n)) (hp : s.pen? q = some p) :
    (n ≤ p.count → exec (.pennantWaitRelease k en) s = .next (passes (s.modGroup k fun _ => { g with horizon := raisedTo g (p.stampOf n) })
        k en f { g with horizon := raisedTo g (p.stampOf n) })) ∧
      (p.count < n → exec (.pennantWaitRelease k en) s = .next s) := by
  obtain ⟨hg, -, -, hw⟩ := id h
  rw [exec_pennantWaitRelease, execPennantWaitRelease, onFrag_of_waits h, hw]
  dsimp only
  rw [hp]
  refine ⟨fun hn => ?_, fun hn => congrArg _ (if_neg (by omega))⟩
  have hr : s.raiseTo k (p.stampOf n) = s.modGroup k fun _ => { g with horizon := raisedTo g (p.stampOf n) } := by
    rw [State.raiseTo, modGroup_const hg, raise_eq]
  rw [← goOn_eq (by simp [hg]), ← hr]
  exact congrArg _ (if_pos hn)

/-! ### Rings (R60, R61) -/

theorem ringWaitResume_of_waits {n wg : Nat} {take : Bool} {r : Ring} (h : Waits s k en g f (.ring n take)) (hw : g.wg = some wg)
    (hr : s.ring? wg n = some r) :
    ((if take then r.take.isSome else r.acquire.isSome) = true → exec (.ringWaitResume k en) s = .next (s.unpark k en)) ∧
      ((if take then r.take.isSome else r.acquire.isSome) = false → exec (.ringWaitResume k en) s = .next s) := by
  obtain ⟨-, -, -, hwait⟩ := id h
  rw [exec_ringWaitResume, execRingWaitResume, onFrag_of_waits h, hwait]
  dsimp only
  rw [hw, Option.bind_some, hr]
  exact ⟨fun hn => congrArg _ (if_pos hn), fun hn => congrArg _ (if_neg (by simp only [hn, Bool.false_eq_true, not_false_eq_true]))⟩

theorem ringPublishDeferred_of {n wg : Nat} {r : Ring} (hr : s.ring? wg n = some r) :
    (r.due ≠ none → exec (.ringPublishDeferred wg n) s = .next (s.setRing wg n r.ripen)) ∧
      (r.due = none → exec (.ringPublishDeferred wg n) s = .next s) := by
  rw [exec_ringPublishDeferred, execRingPublishDeferred, hr]
  exact ⟨fun hd => if_pos (Option.isSome_iff_ne_none.2 hd), fun hd => if_neg (by simp [hd])⟩

/-! ### Seals and the host (R157, R320, R338) -/

theorem unsealCountZero_of_waits {n : Nat} (h : Waits s k en g f (.unseal n)) (hc : ∀ e, Table.find s.seals n = some e → e.copies = 0) :
    exec (.unsealCountZero k en) s = .next (s.unpark k en) := by
  obtain ⟨-, -, -, hw⟩ := id h
  rw [exec_unsealCountZero, execUnsealCountZero, onFrag_of_waits h, hw]
  refine congrArg _ (if_pos ?_)
  cases he : Table.find s.seals n with
  | none => rfl
  | some e => exact hc e he

/-- The host's writes reach its memory before it answers (R320, R340). -/
def hostSays (s : State) (data : List (Nat × Byte)) : State := data.foldl (fun (t : State) d => t.setHost d.1 [d.2]) s

theorem hostMemoryCompletion_of_host (data : List (Nat × Byte)) (h : Waits s k en g f .host) :
    exec (.hostMemoryCompletion k en data) s =
      .next ((hostSays s data).modFrag k en fun f => { f with wait := .none, hostOk := true, since := s.clk }) := by
  obtain ⟨-, -, -, hw⟩ := id h
  rw [exec_hostMemoryCompletion, execHostMemoryCompletion]
  rw [onFrag_of_waits h, hw]
  rfl

end

/-! ### Scratchpad lines (R118, R121) -/

/-- Every fragment that had a wait executes its instruction again. -/
def Released (t : State) (w : Wait) (t' : State) : Prop :=
  { t' with groups := t.groups } = t ∧ ∀ k' (g : Group), t.group? k' = some g →
    ∃ g' : Group, t'.group? k' = some g' ∧ { g' with frags := g.frags } = g ∧ ∀ en' (f : Frag), g.frag en' = some f →
      g'.frag en' = some (if f.wait = w then { f with wait := .none, since := t.clk } else f)

/-- What an entry of a table holds after a function of every entry's value. -/
theorem find_map {α : Type} (t : Table α) (f : α → α) (k : Nat) : Table.find (t.map fun c => (c.1, f c.2)) k = (Table.find t k).map f := by
  induction t with
  | nil => rfl
  | cons c r ih =>
    obtain ⟨j, v⟩ := c
    by_cases h : j = k
    · simp [Table.find, h]
    · simpa [Table.find, h] using ih

/-- A fragment whose wait, if it is that one, has ended. -/
def freedFrag (w : Wait) (clk : Nat) (f : Frag) : Frag := if f.wait == w then { f with wait := .none, since := clk } else f
def freedGroup (w : Wait) (clk : Nat) (g : Group) : Group := { g with frags := g.frags.map fun f => (f.1, freedFrag w clk f.2) }

theorem unparkAll_eq (t : State) (w : Wait) : t.unparkAll w = { t with groups := t.groups.map fun g => (g.1, freedGroup w t.clk g.2) } := rfl

theorem freedFrag_eq (w : Wait) (clk : Nat) (f : Frag) :
    freedFrag w clk f = if f.wait = w then { f with wait := .none, since := clk } else f := by
  simp only [freedFrag, beq_iff_eq]

theorem freedGroup_frag {g : Group} {en : Nat} {f : Frag} (hf : g.frag en = some f) (w : Wait) (clk : Nat) :
    (freedGroup w clk g).frag en = some (freedFrag w clk f) := (find_map g.frags _ en).trans (congrArg _ hf)

theorem unparkAll_released (t : State) (w : Wait) : Released t w (t.unparkAll w) := by
  rw [unparkAll_eq]
  refine ⟨rfl, fun k g hg => ⟨freedGroup w t.clk g, (find_map t.groups _ k).trans (congrArg _ hg), rfl, fun en f hf => ?_⟩⟩
  rw [freedGroup_frag hf, freedFrag_eq]

theorem fullLineStallEnd_of {s : State} {wg n : Nat} {y : Workgroup} (hy : Table.find s.wgs wg = some y) :
    ((∀ l, y.line n ≠ .pending l) → ∃ t', exec (.fullLineStallEnd wg n) s = .next t' ∧ Released s (.line wg n) t') ∧
      ((∃ l, y.line n = .pending l) → exec (.fullLineStallEnd wg n) s = .next s) := by
  rw [exec_fullLineStallEnd, execFullLineStallEnd, hy]
  dsimp only
  refine ⟨fun hl => ⟨_, ?_, unparkAll_released ..⟩, fun ⟨l, hl⟩ => by rw [hl]⟩
  split
  · next l h => exact absurd h (hl l)
  · rfl

/-- The group's copy engine, which fills a line of a window (log 46). -/
def fillAgent (s : State) (k : Nat) (g : Group) : Who :=
  ⟨engineAgent (s.logical (coreOf k)) (slotOf k) 0, g.launch, g.gid * 256 + 255, s.now, 0, false, [], []⟩

theorem windowLineFill_of {s : State} {wg n k en : Nat} {g : Group} {f : Frag} {y : Workgroup} (hf : s.filler wg n = some (k, en, g, f))
    (hy : Table.find s.wgs wg = some y) (hu : y.line n = .unfilled) :
    (∀ t, s.fillLine wg n (BitVec.allOnes 32) (coreOf k) (s.ctxOf g.launch) (fillAgent s k g) f.hostOk = .ok t → ∃ t' : State,
        exec (.windowLineFill wg n) s = .next t' ∧ Released t (.fill wg n) t') ∧
      (s.fillLine wg n (BitVec.allOnes 32) (coreOf k) (s.ctxOf g.launch) (fillAgent s k g) f.hostOk = .host →
        exec (.windowLineFill wg n) s = .next (s.modFrag k en fun f => { f with wait := .host })) := by
  have he : exec (.windowLineFill wg n) s = .next (s.fillFor k en wg n g f) := by
    rw [exec_windowLineFill, execWindowLineFill, hf, hy]
    exact if_pos (by simp [hu])
  rw [he, State.fillFor]
  exact ⟨fun t ht => ⟨_, congrArg _ (by rw [← fillAgent, ht]), unparkAll_released ..⟩, fun ht => congrArg _ (by rw [← fillAgent, ht])⟩

/-! ### Counters (R180, R339, R435) -/

/-- The error that a `WAITCNT` raises: the first of the lowest status. -/
def worst (b : Failed) (r : List Failed) : Failed := r.foldl (fun m f => if f.status < m.status then f else m) b

theorem worst_of_least {e : Failed} (r : List Failed) {b : Failed} (he : e ∈ b :: r) (hl : ∀ e' ∈ b :: r, e.status < e'.status ∨ e' = e) :
    worst b r = e := by
  induction r generalizing b with
  | nil => exact (List.mem_singleton.1 he).symm
  | cons c r ih =>
    have hb := hl b List.mem_cons_self
    have hc := hl c (List.mem_cons_of_mem _ List.mem_cons_self)
    refine ih (b := if c.status < b.status then c else b) ?_ fun e' h' => ?_
    · obtain rfl | he := List.mem_cons.1 he
      · obtain hc | rfl := hc
        · rw [if_neg (by omega)]; exact List.mem_cons_self
        · rw [ite_self]; exact List.mem_cons_self
      obtain rfl | he := List.mem_cons.1 he
      · obtain hb | rfl := hb
        · rw [if_pos hb]; exact List.mem_cons_self
        · rw [ite_self]; exact List.mem_cons_self
      · exact List.mem_cons_of_mem _ he
    · obtain rfl | h' := List.mem_cons.1 h'
      · split
        · exact hc
        · exact hb
      · exact hl e' (List.mem_cons_of_mem _ (List.mem_cons_of_mem _ h'))

/-- A group that has acquired what its operations of a class have done, and holds no error of theirs any more (R180, R435). -/
def returned (g : Group) (cls : Nat) : Group :=
  { g with horizon := raisedTo g (Table.get 0 g.landed cls), failed := g.failed.filter fun f => f.cls != cls }

section
variable {s : State} {k cls : Nat} {g : Group} (hg : s.group? k = some g) (m : Mask)
include hg

theorem countReturn_clean (hb : (g.failed.filter fun f => f.cls == cls) = []) :
    s.countReturn k cls m = (s.setGroup k (returned g cls), none) := by
  rw [State.countReturn, hg]
  dsimp only
  rw [raise_eq, hb, returned]

theorem countReturn_fails {b : Failed} {r : List Failed} (hb : (g.failed.filter fun f => f.cls == cls) = b :: r) :
    s.countReturn k cls m = (s.setGroup k (returned g cls),
      some ⟨if (worst b r).status = 7 then 0x33 else 0x23, (worst b r).status, BitVec.ofNat 64 (worst b r).addr, m, 0, none⟩) := by
  rw [State.countReturn, hg]
  dsimp only
  rw [raise_eq, hb, returned]
  rfl

end

section
variable {s : State} {k en cls n : Nat} {g : Group} {f : Frag} (h : Waits s k en g f (.cnt cls n))
include h

theorem waitcntReturn_early (hc : n < s.count g cls ∨ s.failedAhead g cls = true) : exec (.waitcntReturn k en) s = .next s := by
  obtain ⟨-, -, -, hw⟩ := id h
  rw [exec_waitcntReturn, execWaitcntReturn, onFrag_of_waits h, hw]
  exact congrArg _ (if_pos (by simpa using hc))

theorem waitcntReturn_due (hc : s.count g cls ≤ n) (ha : s.failedAhead g cls = false) {t : State} {e : Option Event}
    (hr : s.countReturn k cls f.mask = (t, e)) : exec (.waitcntReturn k en) s =
      .next (e.elim (t.goOn k en f) fun e => (t.modFrag k en fun f => { f with wait := .none }).takeEvent k en e) := by
  obtain ⟨-, -, -, hw⟩ := id h
  rw [exec_waitcntReturn, execWaitcntReturn, onFrag_of_waits h, hw]
  dsimp only
  rw [if_neg (by simp [ha, hc]), hr]
  cases e <;> rfl

theorem waitcntReturn_clean (hc : s.count g cls ≤ n) (hb : (g.failed.filter fun f => f.cls == cls) = []) :
    exec (.waitcntReturn k en) s = .next (passes (s.setGroup k (returned g cls)) k en f (returned g cls)) := by
  have ha : s.failedAhead g cls = false := by
    rw [State.failedAhead, Bool.and_eq_false_iff]
    exact .inl (List.any_eq_false.2 fun x hx => List.filter_eq_nil_iff.1 hb x hx)
  rw [waitcntReturn_due h hc ha (countReturn_clean h.1 f.mask hb)]
  exact congrArg _ (goOn_eq (by simp) ..)

theorem waitcntReturn_fails (hc : s.count g cls ≤ n) (ha : s.failedAhead g cls = false) {e : Failed}
    (he : e ∈ g.failed.filter fun f => f.cls == cls) (hl : ∀ e' ∈ g.failed.filter fun f => f.cls == cls, e.status < e'.status ∨ e' = e) :
    exec (.waitcntReturn k en) s = .next (((s.setGroup k (returned g cls)).modFrag k en fun f => { f with wait := .none }).takeEvent k en
      ⟨if e.status = 7 then 0x33 else 0x23, e.status, BitVec.ofNat 64 e.addr, f.mask, 0, none⟩) := by
  cases hb : g.failed.filter fun f => f.cls == cls with
  | nil => rw [hb] at he; cases he
  | cons b r =>
    rw [hb] at he hl
    rw [waitcntReturn_due h hc ha (countReturn_fails h.1 f.mask hb), worst_of_least r he hl, Option.elim_some]

end

/-! ### Broken pennants (R436) -/

theorem brokenPennant_of {s : State} {q : PenRef} {p : Pennant} (hp : s.pen? q = some p) :
    (s.penBroken q p = false → exec (.brokenPennant q) s = .next s) ∧
      (s.penBroken q p = true → exec (.brokenPennant q) s =
        .next ((((s.groups.filter fun g => s.serves q g.2).map (·.1)).foldl (fun t j => t.breakGroup q p.count j)
          (s.setPen q p.abandon)).tellPen q p.no .broken)) := by
  rw [exec_brokenPennant, execBrokenPennant, hp]
  exact ⟨fun hb => if_pos (by simp [hb]), fun hb => if_neg (by simp [hb])⟩

end Sys2Proof.Execution
end

section
/-! The groups through the reads of a word at its home, and through a merge (R128, R164, R456). -/

namespace Sys2Proof.Execution

open Sys2Proof.Machine Sys2Proof.Safety Sys2Proof.Glance

theorem foldl_groups {β : Type} {f : State → β → State} (h : ∀ s x, (f s x).groups = s.groups) (l : List β) (s : State) :
    (l.foldl f s).groups = s.groups := foldl_keeps State.groups h l s

/-! ### Reads at a home slice (R128, R453 to R460) -/

theorem lose_groups (s : State) (l : Nat) (m : Word) : (s.lose l m).groups = s.groups := by
  unfold State.lose
  dsimp only
  split
  · rfl
  · split <;> split <;> rfl

theorem readHome_groups (s : State) (c : Option Nat) (a : Nat) : (s.readHome c a).groups = s.groups := by
  simp only [State.readHome, apply_ite State.groups, lose_groups, State.readStore_groups, ite_self]

theorem letGo_groups (s : State) (l : Nat) : (s.letGo l).groups = s.groups := by
  unfold State.letGo
  dsimp only
  split
  · rfl
  · exact foldl_groups (fun s i => readHome_groups s none (128 * l + 4 * i)) (wordsOf (Table.get 0 s.wet l)) s

theorem fetched_groups (s : State) (a : Nat) : (s.fetched a).groups = s.groups := by
  unfold State.fetched
  dsimp only
  split
  · rfl
  · split
    · rfl
    · split
      · rfl
      · split
        · exact letGo_groups s _
        · rfl

theorem log1_groups (s : State) (t u : Nat) (r : Word) (a : Nat) (c d : Word) : (s.log1 t u r a c d).groups = s.groups := rfl

theorem corrected_groups (s : State) (a y : Nat) : (s.corrected a y).groups = s.groups := by
  simp only [State.corrected, apply_ite State.groups, log1_groups, ite_self]

theorem noteRead_groups (s : State) (a : Nat) : (s.noteRead a).groups = s.groups := by
  unfold State.noteRead
  dsimp only
  split
  · rfl
  · split
    · split <;> simp only [corrected_groups, fetched_groups]
    · exact fetched_groups s a

theorem noteNewest_groups (s : State) (a : Nat) : (s.noteNewest a).groups = s.groups := by
  simp only [State.noteNewest, apply_ite State.groups, noteRead_groups, ite_self]

theorem wetted_groups (s : State) (a : Nat) : (s.wetted a).groups = s.groups := by
  unfold State.wetted
  split <;> rfl

theorem putWord_groups (s : State) (a : Nat) (w : Word) : (s.putWord a w).groups = s.groups := by
  unfold State.putWord
  rw [wetted_groups, fetched_groups]

theorem fetchBurst_groups (s : State) (b : Nat × Burst) :
    ((burstOffs b.2).foldl (fun s w => s.noteRead (burstAddr b.1 b.2 w)) s).groups = s.groups := by
  generalize burstOffs b.2 = l
  induction l generalizing s with
  | nil => rfl
  | cons w l ih => rw [List.foldl_cons, ih, noteRead_groups]

theorem fetchWords_groups (s : State) (ws : List Nat) : (s.fetchWords ws).groups = s.groups := by
  unfold State.fetchWords State.fetchBursts
  exact foldl_groups fetchBurst_groups _ s

theorem readHomes_groups (s : State) (c : Option Nat) (ws : List Nat) : (s.readHomes c ws).groups = s.groups := by
  simp only [State.readHomes, fetchWords_groups, apply_ite State.groups, foldl_groups fun s a => readHome_groups s c a, ite_self]

theorem wrote_groups (s : State) (a : Nat) (v : Word) (r : List Release) : (s.wrote a v r).groups = s.groups := by
  unfold State.wrote
  dsimp only
  split
  · exact foldl_groups (fun s m => by split <;> rfl) _ s
  · rfl

/-! ### Copies of a line (R125, R456) -/

theorem dropWord_groups (s : State) (c l i : Nat) : (s.dropWord c l i).groups = s.groups := by
  unfold State.dropWord
  split <;> rfl

theorem readL1_groups (s : State) (c : Nat) (x : Option Nat) (a : Nat) : (s.readL1 c x a).groups = s.groups := by
  simp only [State.readL1, apply_ite State.groups, lose_groups, dropWord_groups, State.readStore_groups, ite_self]

theorem readStores_groups (s : State) (c x : Option Nat) (a : Nat) : (s.readStores c x a).groups = s.groups := by
  simp only [State.readStores, apply_ite State.groups, readHome_groups, foldl_groups fun s c => readL1_groups s c x a, lose_groups,
    State.readStore_groups, ite_self]

theorem readSlots_groups (s : State) (l : Nat) : (s.readSlots l).1.groups = s.groups := by
  unfold State.readSlots
  split
  · rfl
  · refine foldl_keeps (fun a : State × Bool => a.1.groups) (fun a c => ?_) _ (s, false)
    refine foldl_keeps (fun a : State × Bool => a.1.groups) (fun a u => ?_) _ a
    exact State.readStore_groups a.1 (.slot c u.addr) none

/-! ### Merges (R164) -/

theorem returnParts_groups (s : State) (l : Nat) : (s.returnParts l).groups = s.groups := by
  unfold State.returnParts
  dsimp only
  split <;> rfl

theorem clearParts_groups (s : State) (l : Nat) : (s.clearParts l).groups = s.groups := rfl

theorem putMerged_groups (s : State) (a : Nat) (w : Word) (u : Option WStamp) : (s.putMerged a w u).groups = s.groups := by
  simp only [State.putMerged, wrote_groups, State.setStamps_groups, putWord_groups]

theorem mergeLine_groups (s : State) (l : Nat) : (s.mergeLine l).s.groups = s.groups := by
  unfold State.mergeLine
  dsimp only
  split
  · simp only [lose_groups, clearParts_groups, readHomes_groups, readSlots_groups, returnParts_groups]
  · rw [clearParts_groups]
    refine (foldl_keeps (fun a : State × Table Fl => a.1.groups) (fun a p => ?_) _ _).trans ?_
    · simp only [apply_ite State.groups, putMerged_groups, ite_self]
    · simp only [readHomes_groups, readSlots_groups, returnParts_groups]

/-! ### Conditions of monitors (R265, R340) -/

theorem ult_iff_num (a b : Word) : a.ult b = true ↔ num true a < num true b := by
  rw [BitVec.ult_iff_lt, BitVec.lt_def]
  exact Int.ofNat_lt.symm

theorem slt_iff_num (a b : Word) : a.slt b = true ↔ num false a < num false b := BitVec.slt_iff_toInt_lt

/-- The comparison below, unsigned or signed (R261). -/
theorem below_iff_num (u : Bool) (a b : Word) : (if u then a.ult b else a.slt b) = true ↔ num u a < num u b := by
  cases u
  · exact slt_iff_num a b
  · exact ult_iff_num a b

theorem notBelow_iff_num (u : Bool) (a b : Word) : (if u then !(a.ult b) else !(a.slt b)) = true ↔ num u b ≤ num u a := by
  rw [← not_lt, ← below_iff_num]
  cases u <;> simp

theorem cmpHolds_iff (c : Cmp) (a b : Word) : cmpHolds c a b = true ↔ Holds c a b := by
  unfold cmpHolds Holds
  cases c.cond with
  | eq => exact beq_iff_eq
  | ne => exact bne_iff_ne
  | lt => exact below_iff_num ..
  | le => exact notBelow_iff_num ..
  | gt => exact below_iff_num ..
  | ge => exact notBelow_iff_num ..

end Sys2Proof.Execution
end

section
/-! Monitors: a write that wakes, and the re-reads of a word (R186, R200, R201, R340, R445, R462). -/

namespace Sys2Proof.Execution

open Sys2Proof.Machine Sys2Proof.Safety Sys2Proof.Glance

/-! ### What a wait observes (R171, R175, R445) -/

/-- What a lane has seen for each scope, after it has observed a stamp for each (R175). -/
def noteSeen (h : Nat → Nat) (l : Nat) (cs : List Nat) (t : Table Nat) : Table Nat :=
  cs.foldl (fun t c => Table.put 0 t (l * 8 + c) (max (Table.get 0 t (l * 8 + c)) (h c))) t

theorem noteSeen_eq (h : Nat → Nat) (l : Nat) (cs : List Nat) (t : Table Nat) : cs.foldl (fun t c => [l].foldl (fun t l =>
    Table.put 0 t (l * 8 + c) (max (Table.get 0 t (l * 8 + c)) (h c))) t) t = noteSeen h l cs t := rfl

theorem noteSeen_other (h : Nat → Nat) (l i : Nat) (cs : List Nat) (t : Table Nat) (hi : ∀ c ∈ cs, i ≠ l * 8 + c) :
    Table.get 0 (noteSeen h l cs t) i = Table.get 0 t i := by
  induction cs generalizing t with
  | nil => rfl
  | cons c cs ih =>
    refine (ih _ fun d hd => hi d (List.mem_cons_of_mem _ hd)).trans ?_
    rw [Table.get_put, if_neg (hi c List.mem_cons_self)]

theorem noteSeen_mem (h : Nat → Nat) (l : Nat) {c : Nat} {cs : List Nat} (t : Table Nat) (hc : c ∈ cs) (hn : cs.Nodup) :
    Table.get 0 (noteSeen h l cs t) (l * 8 + c) = max (Table.get 0 t (l * 8 + c)) (h c) := by
  induction cs generalizing t with
  | nil => cases hc
  | cons d cs ih =>
    obtain ⟨hd, hn⟩ := List.nodup_cons.1 hn
    by_cases hcd : c = d
    · subst hcd
      refine (noteSeen_other h l _ cs _ fun e he hec => hd ?_).trans ?_
      · rwa [Nat.add_left_cancel hec]
      · rw [Table.get_put, if_pos rfl]
    · refine (ih _ ((List.mem_cons.1 hc).resolve_left hcd) hn).trans ?_
      rw [Table.get_put, if_neg (by omega)]

section
variable (y : Group) (t : State) (th l : Nat) (rels : List Release) (sc : Scope)

theorem observe_eq : y.observe t th [l] rels sc = { y with
    horizon := if sc = .none ∨ t.observed rels y.launch th (scopeNo sc) ≤ y.horizon.toNat then y.horizon
      else BitVec.ofNat 64 (t.observed rels y.launch th (scopeNo sc))
    seen := if rels = [] then y.seen else noteSeen (t.observed rels y.launch th) l [1, 2, 3, 4, 5, 6] y.seen } := by
  unfold Group.observe
  simp only [noteSeen_eq _ l, List.isEmpty_iff, Bool.or_eq_true, decide_eq_true_eq]
  by_cases ha : sc = .none ∨ t.observed rels y.launch th (scopeNo sc) ≤ y.horizon.toNat
  · simp only [if_pos ha]
    split <;> rfl
  · simp only [if_neg ha]
    split <;> rfl

theorem observe_rest : { y.observe t th [l] rels sc with horizon := y.horizon, seen := y.seen } = y := by rw [observe_eq]

theorem observe_seen {c : Nat} (hc : c < 7) (h0 : c ≠ 0) : Table.get 0 (y.observe t th [l] rels sc).seen (l * 8 + c) =
    if rels = [] then Table.get 0 y.seen (l * 8 + c) else max (Table.get 0 y.seen (l * 8 + c)) (t.observed rels y.launch th c) := by
  rw [observe_eq]
  dsimp only
  split
  · rfl
  · exact noteSeen_mem _ l _ (by simp; omega) (by decide)

end

/-! ### A wait that takes a value (R186) -/

/-- A fragment has taken the value that its monitor waited for, and goes on. -/
def Woken (k en : Nat) (f : Frag) (j : Nat) (m : Monitor) (t : State) (rels : List Release) (out : Host.Outcome State Fault Refusal) : Prop :=
  ∃ (t' : State) (g' : Group), out = .next (t'.move k en (f.pc + 12) (if t.now < g'.horizon.toNat then .horizon else .none)) ∧ t'.mem = t.mem ∧
    t'.monitors = (t.dropMonitor j).monitors ∧ t'.group? k = some g' ∧ ∀ y : Group, t.group? k = some y →
      { g' with horizon := y.horizon, seen := y.seen } = y ∧
      g'.horizon = (if m.scope = .none ∨ t.observed rels y.launch (m.gid * 256 + m.lane) (scopeNo m.scope) ≤ y.horizon.toNat then y.horizon
        else BitVec.ofNat 64 (t.observed rels y.launch (m.gid * 256 + m.lane) (scopeNo m.scope))) ∧
      ∀ c < 7, c ≠ 0 → Table.get 0 g'.seen (m.lane * 8 + c) = if rels = [] then Table.get 0 y.seen (m.lane * 8 + c)
        else max (Table.get 0 y.seen (m.lane * 8 + c)) (t.observed rels y.launch (m.gid * 256 + m.lane) c)

theorem forget_eq (s : State) (c a : Nat) : ∃ cores, s.forget c a = { s with cores := cores } := by
  unfold State.forget State.dropWords
  split
  · split
    · split
      · split
        · exact ⟨_, rfl⟩
        · exact ⟨_, rfl⟩
      · exact ⟨_, rfl⟩
    · exact ⟨_, rfl⟩
  · exact ⟨_, rfl⟩

theorem wakeRead_eq (s : State) (k : Nat) (m : Monitor) (rels : List Release) : ∃ cores, s.wakeRead k m rels =
    { (s.dropMonitor m.id) with
      cores := cores
      groups := Table.adjust s.groups k fun g => g.observe s (m.gid * 256 + m.lane) [m.lane] rels m.scope } := by
  obtain ⟨cores, h⟩ := forget_eq (s.dropMonitor m.id) (coreOf k) m.addr
  exact ⟨cores, by rw [State.wakeRead, h]; rfl⟩

theorem wakeRead_woken {t : State} {k j : Nat} {y : Group} {m : Monitor} (hy : t.group? k = some y) (hm : m.id = j) (en : Nat) (f : Frag)
    (rels : List Release) : Woken k en f j m t rels (.next ((t.wakeRead k m rels).goOn k en f)) := by
  obtain ⟨cores, h⟩ := wakeRead_eq t k m rels
  have hg : (t.wakeRead k m rels).group? k = some (y.observe t (m.gid * 256 + m.lane) [m.lane] rels m.scope) := by
    rw [h]
    simp only [State.group?, Table.find_adjust, if_true, show Table.find t.groups k = some y from hy, Option.map_some]
  have hn : (t.wakeRead k m rels).now = t.now := by rw [h]; rfl
  refine ⟨_, _, congrArg _ ((goOn_eq hg en f).trans (by rw [passes, hn])), by rw [h]; rfl, by rw [h, ← hm], hg, fun y' hy' => ?_⟩
  obtain rfl := Option.some.inj (hy.symm.trans hy')
  refine ⟨observe_rest .., ?_, fun c hc h0 => observe_seen y t _ _ rels m.scope hc h0⟩
  rw [observe_eq]

theorem id_of_monitorOf {s : State} {j : Nat} {m : Monitor} (h : s.monitorOf j = some m) : m.id = j := by
  have hp := List.find?_some h
  simp only [Bool.and_eq_true, beq_iff_eq] at hp
  exact hp.1

theorem monitorWake_of_waits {s : State} {k en j : Nat} {g : Group} {f : Frag} {m : Monitor} (h : Waits s k en g f (.monitor j))
    (hm : s.monitorOf j = some m) : (∀ rels, m.sat = some rels → Woken k en f j m s rels (exec (.monitorWake k en) s)) ∧
      (m.sat = none → exec (.monitorWake k en) s = .next s) := by
  obtain ⟨hg, -, -, hw⟩ := id h
  rw [exec_monitorWake, execMonitorWake, onFrag_of_waits h, hw]
  dsimp only
  rw [hm, Option.bind_some]
  refine ⟨fun rels hs => ?_, fun hs => by rw [hs]; rfl⟩
  rw [hs]
  exact wakeRead_woken hg (id_of_monitorOf hm) en f rels

/-! ### Re-reads (R164, R200, R340, R462) -/

/-- The line of a word, read at its home and merged where it is in P (R164). -/
def rereadLine (b : State) (m : Monitor) : Merged :=
  let a := b.readStores none (some (b.ctxOf m.launch)) m.addr
  if (a.entry (m.addr / 128)).st = .P then a.mergeLine (m.addr / 128) else ⟨a, [], none⟩
/-- Why the word cannot be delivered, if so (R462). -/
def rereadBad (b : State) (m : Monitor) : Option (Nat × Nat) :=
  (rereadLine b m).abort.or (((rereadLine b m).s.badNewest m.addr).map fun c => (c, m.addr))
/-- The device once the word has been read. -/
def rereadState (b : State) (m : Monitor) : State := (rereadLine b m).s.noteNewest m.addr
/-- Whether the word as it stands meets a monitor's condition (R340). -/
def Meets (m : Monitor) (t : State) : Prop :=
  match m.cond with
  | some (c, v) => Holds c (t.newest m.addr) v
  | none => t.newest m.addr ≠ m.old
/-- A re-read is made again from a clk on. -/
def rereadLater (t : State) (k en j clk : Nat) : State := t.modFrag k en fun f => { f with wait := .reread j clk }

/-- What a re-read does: it wakes with what a write has left, is made again while the home is busy or the condition does not hold,
kills where the word cannot be delivered, and else wakes with the word as it stands. -/
def Rereads (k en : Nat) (f : Frag) (j : Nat) (m : Monitor) (b : State) (out : Host.Outcome State Fault Refusal) : Prop :=
  (m.seen = true → Woken k en f j m b (m.sat.getD []) out) ∧
  (m.seen = false → b.lineBusy (m.addr / 128) = true →
    out = .next (rereadLater (b.askPeers (m.addr / 128)) k en j (b.clk + 1 - 1024))) ∧
  (m.seen = false → b.lineBusy (m.addr / 128) = false →
    (∀ code at_, rereadBad b m = some (code, at_) → out = .next ((((rereadLine b m).s.dropMonitor j).noteAbort at_ code
      (some (b.ctxOf m.launch))).abortKill k (abortRecord code m.va (f.pc / 12)) (laneBit m.lane))) ∧
    (rereadBad b m = none → ¬ Meets m (rereadState b m) → out = .next (rereadLater (rereadState b m) k en j (rereadState b m).clk)) ∧
    (rereadBad b m = none → Meets m (rereadState b m) → Woken k en f j m (rereadState b m)
      (if place m.addr = .host then ((rereadState b m).stampsOf m.addr).rel else (rereadState b m).newestRels m.addr) out))

theorem rereadState_groups (b : State) (m : Monitor) : (rereadState b m).groups = b.groups := by
  unfold rereadState rereadLine
  dsimp only
  rw [noteNewest_groups]
  split
  · rw [mergeLine_groups, readStores_groups]
  · exact readStores_groups ..

theorem rereadHolds_iff {m : Monitor} (hs : m.seen = false) (t : State) : t.rereadHolds m = true ↔ Meets m t := by
  rw [State.rereadHolds, hs, Bool.false_or, Meets]
  cases m.cond with
  | none => exact bne_iff_ne
  | some c => exact cmpHolds_iff ..

theorem seen_iff (m : Monitor) : m.seen = true ↔ place m.addr ≠ .host ∧ m.sat ≠ none := by
  rw [Monitor.seen, Bool.and_eq_true, bne_iff_ne, Option.isSome_iff_ne_none]

/-- What a word carries that no write is known to have left (R171). -/
theorem rereadRels_of_unseen {m : Monitor} (hs : m.seen = false) (t : State) :
    t.rereadRels m = if place m.addr = .host then (t.stampsOf m.addr).rel else t.newestRels m.addr := by
  simp only [State.rereadRels, beq_iff_eq]
  by_cases hp : place m.addr = .host
  · rw [if_pos hp, if_pos hp]
  · have hn : m.sat = none := by
      by_contra hc
      exact absurd ((seen_iff m).2 ⟨hp, hc⟩) (by simp [hs])
    rw [if_neg hp, if_neg hp, hn]
    rfl

theorem rereadRels_of_seen {m : Monitor} (hs : m.seen = true) (t : State) : t.rereadRels m = m.sat.getD [] := by
  obtain ⟨hp, hn⟩ := (seen_iff m).1 hs
  obtain ⟨rels, hr⟩ := Option.ne_none_iff_exists'.1 hn
  simp only [State.rereadRels, beq_iff_eq, if_neg hp, hr, Option.getD_some]

section
variable {b : State} {j : Nat} {m : Monitor} (hm : b.monitorOf j = some m) (k en : Nat) (f : Frag)
include hm

theorem reread_of_seen (hs : m.seen = true) : b.reread k en f j = (b.wakeRead k m (m.sat.getD [])).goOn k en f := by
  rw [State.reread, hm]
  simp only [hs, Bool.not_true, Bool.false_and, Bool.false_eq_true, if_false, if_true, Option.or_none, State.rereadHolds, Bool.true_or,
    rereadRels_of_seen hs]

theorem reread_of_busy (hs : m.seen = false) (hb : b.lineBusy (m.addr / 128) = true) :
    b.reread k en f j = rereadLater (b.askPeers (m.addr / 128)) k en j (b.clk + 1 - 1024) := by
  rw [State.reread, hm]
  simp only [hs, hb, Bool.not_false, Bool.and_true, if_true]
  rfl

theorem reread_of_unseen (hs : m.seen = false) (hb : b.lineBusy (m.addr / 128) = false) :
    b.reread k en f j = match rereadBad b m with
      | some (code, at_) => (((rereadLine b m).s.dropMonitor j).noteAbort at_ code (some (b.ctxOf m.launch))).abortKill k
          (abortRecord code m.va (f.pc / 12)) (laneBit m.lane)
      | none => if (rereadState b m).rereadHolds m then ((rereadState b m).wakeRead k m ((rereadState b m).rereadRels m)).goOn k en f
          else rereadLater (rereadState b m) k en j (rereadState b m).clk := by
  rw [State.reread, hm]
  simp only [hs, hb, Bool.not_false, Bool.true_and, Bool.false_eq_true, if_false, beq_iff_eq]
  rfl

theorem reread_rereads {g : Group} (hg : b.group? k = some g) : Rereads k en f j m b (.next (b.reread k en f j)) := by
  have hj := id_of_monitorOf hm
  refine ⟨fun hs => ?_, fun hs hb => congrArg _ (reread_of_busy hm k en f hs hb), fun hs hb => ⟨fun code at_ hbad => ?_, fun hbad hmet => ?_,
    fun hbad hmet => ?_⟩⟩
  · rw [reread_of_seen hm k en f hs]
    exact wakeRead_woken hg hj en f _
  · rw [reread_of_unseen hm k en f hs hb, hbad]
  · rw [reread_of_unseen hm k en f hs hb, hbad]
    exact congrArg _ (if_neg fun hc => hmet ((rereadHolds_iff hs _).1 hc))
  · have hg' : (rereadState b m).group? k = some g := by rw [State.group?, rereadState_groups]; exact hg
    rw [reread_of_unseen hm k en f hs hb, hbad, ← rereadRels_of_unseen hs]
    dsimp only
    rw [if_pos ((rereadHolds_iff hs _).2 hmet)]
    exact wakeRead_woken hg' hj en f _

end

section
variable {s : State} {k en j n : Nat} {g : Group} {f : Frag} {m : Monitor} (h : Waits s k en g f (.reread j n)) (hm : s.monitorOf j = some m)
include h hm

theorem monitorReread_of_waits : (s.clk < n + 1024 → exec (.monitorReread k en) s = .next s) ∧
    (n + 1024 ≤ s.clk → Rereads k en f j m s (exec (.monitorReread k en) s)) := by
  obtain ⟨hg, -, -, hw⟩ := id h
  rw [exec_monitorReread, execMonitorReread, onFrag_of_waits h, hw]
  refine ⟨fun hn => congrArg _ (if_pos hn), fun hn => ?_⟩
  rw [show rereadClk = 1024 from rfl]
  dsimp only
  rw [if_neg (by omega)]
  exact reread_rereads hm k en f hg

theorem hostMemoryCompletion_of_reread (data : List (Nat × Byte)) (hp : place m.addr = .host) :
    Rereads k en f j m (hostSays s data) (exec (.hostMemoryCompletion k en data) s) := by
  obtain ⟨hg, -, -, hw⟩ := id h
  have hs : (hostSays s data).groups = s.groups := foldl_groups (fun t (d : Nat × Byte) => State.setHost_groups t d.1 [d.2]) data s
  have hmon : (hostSays s data).monitors = s.monitors :=
    foldl_keeps State.monitors (fun t (d : Nat × Byte) => State.setHost_monitors t d.1 [d.2]) data s
  have he : exec (.hostMemoryCompletion k en data) s = .next ((hostSays s data).reread k en f j) := by
    rw [exec_hostMemoryCompletion, execHostMemoryCompletion, onFrag_of_waits h, hw]
    dsimp only
    rw [hm]
    exact congrArg _ (if_pos (by simp [hp]))
  rw [he]
  refine reread_rereads (g := g) ?_ k en f ?_
  · rw [State.monitorOf, hmon]; exact hm
  · rw [State.group?, hs]; exact hg

end

/-- Settles O46, event by event. -/
theorem waitEnds : Obligations.WaitEnds := by
  unfold Obligations.WaitEnds
  intro s k en n j wg g f q pn take y r m data
  exact ⟨sleepExpiry_of_waits, horizonReached_of_waits, pennantWaitRelease_of_waits, ringWaitResume_of_waits, ringPublishDeferred_of,
    fullLineStallEnd_of, windowLineFill_of,
    fun cls h => ⟨waitcntReturn_early h, waitcntReturn_clean h, fun e he hc ha hl => waitcntReturn_fails h hc ha he hl⟩,
    monitorWake_of_waits, monitorReread_of_waits, unsealCountZero_of_waits, hostMemoryCompletion_of_host data,
    fun h hm hp => hostMemoryCompletion_of_reread h hm data hp, brokenPennant_of⟩

end Sys2Proof.Execution
end

section
/-! The forms that write lanes one after another: what a lane comes to is what its own step makes of it, and each step leaves the
other lanes as they are (R48, R81, R98, R295). -/

namespace Sys2Proof.Formats

open Sys2Proof.Machine Sys2Proof.Safety

/-! ### Flags and generator of one lane -/

theorem flags_setFlags (g : Group) (l k : Nat) (v : Word) : (g.setFlags l v).flags k = if k = l then v &&& 0x1F else g.flags k :=
  Table.get_put _ _ _ _ _

theorem flags_account (g : Group) (l k : Nat) (a : Acc) : (g.account l a).flags k =
    if a.fl = 0 then g.flags k else if k = l then (g.flags l ||| a.fl.setWidth 32) &&& 0x1F else g.flags k := by
  unfold Group.account
  by_cases hf : a.fl = 0
  · simp only [hf, if_true]
    split <;> rfl
  · simp only [hf, if_false]
    split <;> exact flags_setFlags ..

theorem seed_account (g : Group) (l k : Nat) (a : Acc) : (g.account l a).seed k = if k = l then a.seed else g.seed k := by
  have hs : ∀ g' : Group, g'.srseed = g.srseed →
      (if a.seed = g'.seed l then g' else { g' with srseed := Table.put 0 g'.srseed l a.seed }).seed k =
        if k = l then a.seed else g.seed k := by
    intro g' hg
    have hk : ∀ j, g'.seed j = g.seed j := fun j => by rw [Group.seed, hg, Group.seed]
    split
    · rename_i h
      rw [hk, h, hk]
      split
      · rw [‹k = l›]
      · rfl
    · rw [← hk k]
      exact Table.get_put _ _ _ _ _
  unfold Group.account
  exact hs _ (by split <;> rfl)

/-- What a lane accumulates goes into `%fflags` and `%srseed` alone. -/
theorem account_rest (g : Group) (l : Nat) (a : Acc) (fs ss : Table Word) :
    { g.account l a with fflags := fs, srseed := ss } = { g with fflags := fs, srseed := ss } := by
  unfold Group.account
  dsimp only
  split <;> split <;> rfl

theorem vget_account (g : Group) (l : Nat) (a : Acc) (r k : Nat) : (g.account l a).vget r k = g.vget r k :=
  (congrArg (fun h : Group => h.vget r k) (account_rest g l a [] []) :)

theorem flagged_account (g : Group) (l : Nat) (a : Acc) : Flagged g (g.account l a) l a.fl := by
  unfold Flagged
  rw [flags_account]
  by_cases hf : a.fl = 0
  · simp [hf]
  · simp only [hf, if_false, if_true, BitVec.and_assoc, BitVec.and_self]

/-! ### Steps on one lane -/

/-- Two groups are the same in one lane, as far as forms that round read it. -/
structure SameLane (l : Nat) (g h : Group) : Prop where
  vget  : ∀ r, h.vget r l = g.vget r l
  flags : h.flags l = g.flags l
  seed  : h.seed l = g.seed l

theorem SameLane.refl (l : Nat) (g : Group) : SameLane l g g := ⟨fun _ => rfl, rfl, rfl⟩

theorem SameLane.trans {l : Nat} {g h k : Group} (a : SameLane l g h) (b : SameLane l h k) : SameLane l g k :=
  ⟨fun r => (b.vget r).trans (a.vget r), b.flags.trans a.flags, b.seed.trans a.seed⟩

/-- Flags raised in a lane stay raised where the lane stays as it is. -/
theorem SameLane.flagged {l : Nat} {x g h : Group} {fl : Fl} (s : SameLane l g h) (hf : Flagged x g l fl) : Flagged x h l fl := by
  unfold Flagged at hf ⊢
  rw [s.flags, hf]

theorem lanesOnly_refl (g : Group) (regs : List Nat) (m : Mask) : LanesOnly g g regs m :=
  ⟨fun _ _ _ _ => rfl, fun _ _ _ => ⟨rfl, rfl⟩, rfl⟩

/-- A change in a lane that is not among the lanes of the change leaves that lane. -/
theorem SameLane.of_lanesOnly {g h : Group} {regs : List Nat} {m : Mask} {l : Nat} (hl : l < 128) (hm : m.getLsbD l = false)
    (c : LanesOnly g h regs m) : SameLane l g h := by
  obtain ⟨hv, hf, -⟩ := c
  exact ⟨fun r => hv r l hl (.inl hm), (hf l hl hm).1, (hf l hl hm).2⟩

theorem lanesOnly_trans {g h k : Group} {regs : List Nat} {m : Mask} (a : LanesOnly g h regs m) (b : LanesOnly h k regs m) :
    LanesOnly g k regs m := by
  obtain ⟨av, af, ar⟩ := a
  obtain ⟨bv, bf, br⟩ := b
  refine ⟨fun r l hl hr => (bv r l hl hr).trans (av r l hl hr), fun l hl hm => ?_, ?_⟩
  · exact ⟨(bf l hl hm).1.trans (af l hl hm).1, (bf l hl hm).2.trans (af l hl hm).2⟩
  · have := congrArg (fun q : Group => { q with vregs := g.vregs, fflags := g.fflags, srseed := g.srseed }) br
    exact this.trans ar

theorem lanesOnly_mono {g h : Group} {regs : List Nat} {m m' : Mask} (hm : ∀ l < 128, m'.getLsbD l = false → m.getLsbD l = false)
    (a : LanesOnly g h regs m) : LanesOnly g h regs m' := by
  obtain ⟨av, af, ar⟩ := a
  exact ⟨fun r l hl hr => av r l hl (hr.imp_left (hm l hl)), fun l hl h => af l hl (hm l hl h), ar⟩

/-- Steps one after another on the lanes of a mask, each of which changes its own lane alone. -/
theorem lanesOnly_fold {step : Group → Nat → Group} {regs : List Nat} {m : Mask}
    (hs : ∀ g l, l < 128 → LanesOnly g (step g l) regs (laneBit l)) (g : Group) : LanesOnly g ((lanesOf m).foldl step g) regs m := by
  suffices h : ∀ (ls : List Nat), (∀ l ∈ ls, l ∈ lanesOf m) → ∀ g, LanesOnly g (ls.foldl step g) regs m from h _ (fun _ h => h) g
  intro ls
  induction ls with
  | nil => exact fun _ g => lanesOnly_refl g regs m
  | cons a ls ih =>
    intro hls g
    refine lanesOnly_trans (lanesOnly_mono (fun l hl hm => ?_) (hs g a (mem_lanesOf.1 (hls a List.mem_cons_self)).1)) (ih (fun l h => hls l (List.mem_cons_of_mem _ h)) _)
    have ha := (mem_lanesOf.1 (hls a List.mem_cons_self)).2
    rw [getLsbD_laneBit, decide_eq_false_iff_not]
    rintro ⟨-, rfl⟩
    rw [hm] at ha
    exact nomatch ha

/-- What a step makes of its lane stands at the end, where the step reads no more than that lane of the group. -/
theorem lane_of_fold {step : Group → Nat → Group} {regs : List Nat} {m : Mask} {P : Nat → Group → Prop} {g : Group}
    (hs : ∀ h l, l < 128 → LanesOnly h (step h l) regs (laneBit l)) (hp : ∀ h l, l < 128 → SameLane l g h → P l (step h l))
    (hk : ∀ h k l, SameLane l h k → P l h → P l k) {l : Nat} (hl : l < 128) (hm : m.getLsbD l = true) :
    P l ((lanesOf m).foldl step g) := by
  have others : ∀ (ls : List Nat), (∀ a ∈ ls, a < 128) → l ∉ ls → ∀ h, SameLane l h (ls.foldl step h) := by
    intro ls
    induction ls with
    | nil => exact fun _ _ h => SameLane.refl l h
    | cons a ls ih =>
      intro hlt hn h
      obtain ⟨hne, hn⟩ := not_or.1 (mt List.mem_cons.2 hn)
      obtain ⟨ha, hlt⟩ := List.forall_mem_cons.1 hlt
      exact (SameLane.of_lanesOnly hl (by rw [getLsbD_laneBit]; simp [hne]) (hs h a ha)).trans (ih hlt hn _)
  obtain ⟨as, bs, hab⟩ := List.append_of_mem (mem_lanesOf.2 ⟨hl, hm⟩)
  have hlt : ∀ a ∈ as ++ l :: bs, a < 128 := fun a ha => (mem_lanesOf.1 (hab ▸ ha)).1
  have hd := lanesOf_nodup m
  rw [hab, List.nodup_append, List.nodup_cons] at hd
  obtain ⟨-, ⟨hb, -⟩, hdis⟩ := hd
  have ha : l ∉ as := fun h => hdis l h l List.mem_cons_self rfl
  rw [hab, List.foldl_append, List.foldl_cons]
  exact hk _ _ l (others bs (fun a h => hlt a (by simp [h])) hb _) (hp _ l hl (others as (fun a h => hlt a (by simp [h])) ha g))

/-! ### Registers of one lane -/

/-- Registers written in one lane, by offset from a register. -/
def setRegs (d l : Nat) (ws : List (Nat × Word)) (g : Group) : Group := ws.foldl (fun g w => g.vset (d + w.1) l w.2) g

theorem setRegs_rest (d l : Nat) (ws : List (Nat × Word)) (g : Group) (t : Table Word) :
    { setRegs d l ws g with vregs := t } = { g with vregs := t } := by
  induction ws generalizing g with
  | nil => rfl
  | cons w ws ih => exact (ih (g.vset (d + w.1) l w.2)).trans rfl

theorem vget_setRegs_other {d l r k : Nat} (hl : l < 128) (hk : k < 128) {ws : List (Nat × Word)} (h : k ≠ l ∨ ∀ w ∈ ws, r ≠ d + w.1)
    (g : Group) : (setRegs d l ws g).vget r k = g.vget r k := by
  induction ws generalizing g with
  | nil => rfl
  | cons w ws ih =>
    refine (ih (h.imp_right fun h v hv => h v (List.mem_cons_of_mem _ hv)) (g.vset (d + w.1) l w.2)).trans ?_
    rw [Group.vget_vset _ _ _ _ _ _ hl hk, if_neg]
    rintro ⟨hr, hkl⟩
    exact h.elim (· hkl) (· w List.mem_cons_self hr)

theorem vget_setRegs {d l : Nat} (hl : l < 128) {ws : List (Nat × Word)} (hn : (ws.map (·.1)).Nodup) (g : Group) :
    ∀ w ∈ ws, (setRegs d l ws g).vget (d + w.1) l = w.2 := by
  induction ws generalizing g with
  | nil => exact fun _ h => nomatch h
  | cons v ws ih =>
    obtain ⟨hv, hn⟩ := List.nodup_cons.1 hn
    intro w hw
    rcases List.mem_cons.1 hw with rfl | hw
    · refine (vget_setRegs_other hl hl (.inr fun u hu he => hv ?_) (g.vset (d + w.1) l w.2)).trans ?_
      · exact List.mem_map.2 ⟨u, hu, (Nat.add_left_cancel he).symm⟩
      · rw [Group.vget_vset _ _ _ _ _ _ hl hl, if_pos ⟨rfl, rfl⟩]
    · exact ih hn _ w hw

/-- Registers of one lane written, and what it accumulates. -/
theorem lanesOnly_setRegs {d l : Nat} (hl : l < 128) {ws : List (Nat × Word)} {regs : List Nat} (hr : ∀ w ∈ ws, d + w.1 ∈ regs)
    (a : Acc) (g : Group) : LanesOnly g ((setRegs d l ws g).account l a) regs (laneBit l) := by
  have hbit : ∀ k < 128, (laneBit l).getLsbD k = false → k ≠ l := fun k hk h e => by
    rw [getLsbD_laneBit, decide_eq_false_iff_not] at h; exact h ⟨hk, e⟩
  have hgrp : ∀ t, { setRegs d l ws g with vregs := t } = { g with vregs := t } := setRegs_rest d l ws g
  refine ⟨fun r k hk h => ?_, fun k hk h => ?_, ?_⟩
  · rw [vget_account]
    exact vget_setRegs_other hl hk (h.imp (hbit k hk) fun h w hw e => h (e ▸ hr w hw)) g
  · rw [flags_account, seed_account, if_neg (hbit k hk h), if_neg (hbit k hk h)]
    exact ⟨(ite_self _).trans (congrArg (fun q : Group => q.flags k) (hgrp []) :), (congrArg (fun q : Group => q.seed k) (hgrp []) :)⟩
  · have h := congrArg (fun q : Group => { q with vregs := g.vregs }) (account_rest (setRegs d l ws g) l a g.fflags g.srseed)
    exact (h.trans (congrArg (fun q : Group => { q with fflags := g.fflags, srseed := g.srseed }) (hgrp g.vregs)) :)

/-- What the account leaves of the lane that has been written. -/
theorem lane_setRegs {d l : Nat} {ws : List (Nat × Word)} {x g : Group} (hg : SameLane l x g) (a : Acc) :
    (∀ r, ((setRegs d l ws g).account l a).vget r l = (setRegs d l ws g).vget r l) ∧
      Flagged x ((setRegs d l ws g).account l a) l a.fl ∧ ((setRegs d l ws g).account l a).seed l = a.seed := by
  refine ⟨fun r => vget_account .., ?_, ?_⟩
  · have h := flagged_account (setRegs d l ws g) l a
    have hf : (setRegs d l ws g).flags l = x.flags l :=
      ((congrArg (fun q : Group => q.flags l) (setRegs_rest d l ws g []) :)).trans hg.flags
    unfold Flagged at h ⊢
    rw [h, hf]
  · rw [seed_account, if_pos rfl]

/-! ### Blocks -/

theorem mem_blockRegs {e : Ext} {d r : Nat} : r ∈ blockRegs e d ↔ ∃ o ∈ blockOffs e, r = d + o := by
  simp only [blockOffs, blockRegs, List.mem_flatMap, List.mem_map, List.mem_range]
  constructor
  · rintro ⟨i, hi, j, hj, rfl⟩
    exact ⟨0 + 64 * i + j, ⟨i, hi, j, hj, rfl⟩, by omega⟩
  · rintro ⟨_, ⟨i, hi, j, hj, rfl⟩, rfl⟩
    exact ⟨i, hi, j, hj, by omega⟩

/-- A block names no register twice: its rows lie 64 registers apart, and hold at most 8 each (R30). -/
theorem blockOffs_nodup (e : Ext) : (blockOffs e).Nodup := by
  have hw : e.w.toNat < 8 := e.w.isLt
  unfold blockOffs blockRegs
  refine List.nodup_flatMap.2 ⟨fun i _ => ?_, List.nodup_range.imp_of_mem fun {i j} _ _ hij => ?_⟩
  · exact List.Nodup.map (fun _ _ h => Nat.add_left_cancel h) List.nodup_range
  · simp only [Function.onFun, List.disjoint_left, List.mem_map, List.mem_range]
    rintro _ ⟨a, ha, rfl⟩ ⟨b, hb, h⟩
    omega

theorem laneResults_fst (els width : Nat) (mode : BitVec 3) (f : Nat → Nat → Word → Nat × Fl) (os : List Nat) (a : Acc) :
    (laneResults els width mode f os a).1.map (·.1) = os := by
  induction os generalizing a with
  | nil => rfl
  | cons o os ih => exact congrArg (o :: ·) (ih _)

/-- A rounding form completes as `Rounds` says. -/
theorem rounds_of_fpBlock {i : Instr} {s : State} {x : X} {e : Ext} {els width : Nat} {rnd : BitVec 3} {d : VReg}
    {f : X → Nat → Nat → Nat → Word → Nat × Fl} (h : Executes i s x) (hi : exec i s = run i (fpBlock e d els width rnd f) s) :
    Rounds i s x e els width (modeOf x.f rnd) d (f x) := by
  let r := fun l => laneResults els width (modeOf x.f rnd) (fun o k w => f x o k l w) (blockOffs e) ⟨0, x.g.seed l⟩
  have hoffs : ∀ l, (r l).1.map (·.1) = blockOffs e := fun l => laneResults_fst ..
  have hstep : ∀ g l, l < 128 → LanesOnly g ((setRegs d.toNat l (r l).1 g).account l (r l).2) (blockRegs e d.toNat) (laneBit l) :=
    fun g l hl => lanesOnly_setRegs hl (fun w hw => mem_blockRegs.2 ⟨w.1, hoffs l ▸ List.mem_map_of_mem hw, rfl⟩) _ g
  refine ⟨(lanesOf x.lanes).foldl (fun g l => (setRegs d.toNat l (r l).1 g).account l (r l).2) x.g, lanesOnly_fold hstep x.g,
    h.yields (f := fun x g => (lanesOf x.lanes).foldl (fun g l =>
      let q := laneResults els width (modeOf x.f rnd) (fun o k w => f x o k l w) (blockOffs e) ⟨0, x.g.seed l⟩
      (setRegs d.toNat l q.1 g).account l q.2) g) hi, fun l hl hm => ?_⟩
  refine lane_of_fold (P := fun l g => (∀ c ∈ (r l).1, g.vget (d.toNat + c.1) l = c.2) ∧ Flagged x.g g l (r l).2.fl ∧
    g.seed l = (r l).2.seed) hstep (fun g l hl hg => ?_) ?_ hl hm
  · obtain ⟨hv, hf, hd⟩ := lane_setRegs (d := d.toNat) (ws := (r l).1) hg (r l).2
    exact ⟨fun c hc => (hv _).trans (vget_setRegs hl (hoffs l ▸ blockOffs_nodup e) g c hc), hf, hd⟩
  · rintro g g' l hs ⟨hv, hf, hd⟩
    exact ⟨fun c hc => (hs.vget _).trans (hv c hc), hs.flagged hf, hs.seed.trans hd⟩

/-- Settles O16: each of the forms is one `fpBlock`. -/
theorem floatArithmetic : Obligations.FloatArithmetic := by
  unfold Obligations.FloatArithmetic
  intro p e bf rnd d a b s x
  and_intros <;> exact fun h => rounds_of_fpBlock h rfl

end Sys2Proof.Formats
end

section
/-! Exact arithmetic: sums, products, quotients and square roots of the values that `Exact` stands for (R93, R95, R296). -/

namespace Sys2Proof.Formats

open Sys2Proof.Machine Sys2Proof.Safety

theorem two_zpow_add_toNat {a b : Int} (h : a ≤ b) : (2 : ℚ) ^ b = (2 : ℚ) ^ (b - a).toNat * (2 : ℚ) ^ a := by
  rw [← zpow_natCast, Int.toNat_of_nonneg (by omega), ← zpow_add₀ two_ne_zero, sub_add_cancel]

/-! ### Sums and products -/

/-- A finite value is the integer that `Exact.at` takes of it, in units of a last place at most its own. -/
theorem valOf_eq_at {x : Exact} {e : Int} (h : e ≤ x.e) : valOf x = x.at e * (2 : ℚ) ^ e := by
  unfold valOf magOf Exact.at
  rw [two_zpow_add_toNat h]
  split <;> push_cast <;> ring

theorem valOf_ofInt (n e : Int) : valOf (Exact.ofInt n e) = n * (2 : ℚ) ^ e := by
  unfold valOf magOf Exact.ofInt
  dsimp only
  rcases lt_or_ge n 0 with h | h
  · have hn : ((n.natAbs : Nat) : ℚ) = -n := by rw [Nat.cast_natAbs, abs_of_neg h]; push_cast; ring
    rw [if_pos (by simpa using h), hn]; ring
  · have hn : ((n.natAbs : Nat) : ℚ) = n := by rw [Nat.cast_natAbs, abs_of_nonneg h]
    rw [if_neg (by simpa using h), hn]

theorem valOf_zero (b : Bool) : valOf (Exact.zero b) = 0 := by simp [valOf, magOf, Exact.zero]

theorem add_eq (mode : BitVec 3) (x y : Exact) : Exact.add mode x y =
    if x.at (min x.e y.e) + y.at (min x.e y.e) = 0 then Exact.zero (zeroSign mode x.neg y.neg)
    else Exact.ofInt (x.at (min x.e y.e) + y.at (min x.e y.e)) (min x.e y.e) := rfl

theorem valOf_add (mode : BitVec 3) (x y : Exact) : valOf (Exact.add mode x y) = valOf x + valOf y := by
  rw [add_eq, valOf_eq_at (min_le_left x.e y.e), valOf_eq_at (min_le_right x.e y.e), ← add_mul]
  split
  · rename_i h
    rw [valOf_zero, ← Int.cast_add, h, Int.cast_zero, zero_mul]
  · rw [valOf_ofInt, Int.cast_add]

theorem add_sticky (mode : BitVec 3) (x y : Exact) : (Exact.add mode x y).sticky = false := by
  rw [add_eq]
  split <;> rfl

/-- The sign of an exact zero sum (R95). -/
theorem add_neg_of_zero {mode : BitVec 3} {x y : Exact} (h : valOf x + valOf y = 0) :
    (Exact.add mode x y).neg = if x.neg = y.neg then x.neg else decide (mode = 3) := by
  have hz : x.at (min x.e y.e) + y.at (min x.e y.e) = 0 := by
    rw [valOf_eq_at (min_le_left x.e y.e), valOf_eq_at (min_le_right x.e y.e), ← add_mul, mul_eq_zero] at h
    rcases h with h | h
    · exact_mod_cast h
    · exact absurd h (zpow_ne_zero _ two_ne_zero)
  rw [add_eq, if_pos hz]
  simp only [Exact.zero, zeroSign, beq_eq_decide, decide_eq_true_eq]

theorem magOf_mul (x y : Exact) : magOf (Exact.mul x y) = magOf x * magOf y := by
  simp only [magOf, Exact.mul, zpow_add₀ (two_ne_zero (α := ℚ))]
  push_cast; ring

theorem valOf_mul (x y : Exact) : valOf (Exact.mul x y) = valOf x * valOf y := by
  unfold valOf
  rw [magOf_mul, show (Exact.mul x y).neg = (x.neg != y.neg) from rfl]
  cases x.neg <;> cases y.neg <;> simp

/-! ### Quotients -/

theorem standsFor_of_eq {x : Exact} {q : ℝ} (hs : x.sticky = false) (h : (magOf x : ℝ) = q) : StandsFor x q := by
  rw [StandsFor, if_neg (by simp [hs])]; exact h

theorem standsFor_of_between {x : Exact} {q : ℝ} (hs : x.sticky = true) (hl : (x.m : ℝ) * 2 ^ x.e < q)
    (hu : q < ((x.m : ℝ) + 1) * 2 ^ x.e) (hm : 2 ^ 64 ≤ x.m) : StandsFor x q := by
  have h : (magOf x : ℝ) = x.m * (2 : ℝ) ^ x.e := by rw [magOf]; push_cast; rfl
  rw [StandsFor, if_pos hs, h]
  exact ⟨hl, by linarith, hm⟩

/-- A quotient of naturals, its floor, and the remainder. -/
theorem div_between {n d : Nat} (hd : 0 < d) : ((n / d : Nat) : ℝ) * d ≤ n ∧ (n : ℝ) < ((n / d : Nat) + 1 : ℝ) * d ∧
    (n % d = 0 → ((n / d : Nat) : ℝ) * d = n) ∧ (n % d ≠ 0 → ((n / d : Nat) : ℝ) * d < n) := by
  have h : ((n / d : Nat) : ℝ) * d + (n % d : Nat) = n := by exact_mod_cast Nat.div_add_mod' n d
  have hr : ((n % d : Nat) : ℝ) < d := by exact_mod_cast Nat.mod_lt n hd
  have h0 : (0 : ℝ) ≤ (n % d : Nat) := Nat.cast_nonneg _
  refine ⟨by linarith, by linarith, fun hz => ?_, fun hz => ?_⟩
  · rw [hz] at h; simpa using h
  · have : (0 : ℝ) < (n % d : Nat) := by exact_mod_cast Nat.pos_of_ne_zero hz
    linarith

theorem standsFor_div {x y : Exact} (hy : y.m ≠ 0) : StandsFor (Exact.div x y) ((magOf x / magOf y : ℚ) : ℝ) := by
  unfold Exact.div
  by_cases hx : x.m = 0
  · rw [if_pos (by simpa using hx)]
    exact standsFor_of_eq rfl (by simp [magOf, Exact.zero, hx])
  rw [if_neg (by simpa using hx)]
  dsimp only
  set k := 160 + Nat.log2 y.m with hk
  have hy0 : (0 : ℝ) < y.m := by exact_mod_cast Nat.pos_of_ne_zero hy
  obtain ⟨hlo, hhi, heq, hlt⟩ := div_between (n := x.m * 2 ^ k) (Nat.pos_of_ne_zero hy)
  have hp : (0 : ℝ) < 2 ^ (x.e - y.e - k) := by positivity
  have hq : ((magOf x / magOf y : ℚ) : ℝ) = (x.m * 2 ^ k : Nat) / y.m * 2 ^ (x.e - y.e - k) := by
    simp only [magOf]
    push_cast
    rw [zpow_sub₀ two_ne_zero, zpow_sub₀ two_ne_zero, zpow_natCast]
    have := zpow_ne_zero y.e (two_ne_zero (α := ℝ))
    field_simp
  by_cases hr : x.m * 2 ^ k % y.m = 0
  · refine standsFor_of_eq (by simpa using hr) ?_
    rw [hq, ← heq hr, mul_div_assoc, div_self hy0.ne', mul_one, magOf]
    push_cast; rfl
  · refine standsFor_of_between (by simpa using hr) ?_ ?_ ?_
    · rw [hq]
      exact mul_lt_mul_of_pos_right ((lt_div_iff₀ hy0).2 (hlt hr)) hp
    · rw [hq]
      exact mul_lt_mul_of_pos_right ((div_lt_iff₀ hy0).2 hhi) hp
    · show 2 ^ 64 ≤ x.m * 2 ^ k / y.m
      rw [Nat.le_div_iff_mul_le (Nat.pos_of_ne_zero hy)]
      have hlog : y.m < 2 ^ (Nat.log2 y.m + 1) := Nat.lt_log2_self
      calc 2 ^ 64 * y.m ≤ 2 ^ 64 * 2 ^ (Nat.log2 y.m + 1) := by gcongr
        _ = 2 ^ (65 + Nat.log2 y.m) := by rw [← pow_add]; congr 1; omega
        _ ≤ 2 ^ k := Nat.pow_le_pow_right (by norm_num) (by omega)
        _ ≤ x.m * 2 ^ k := Nat.le_mul_of_pos_left _ (Nat.pos_of_ne_zero hx)

/-! ### Square roots -/

theorem isqrtFrom_spec {n k r : Nat} (hlo : r * r ≤ n) (hhi : n < (r + 2 ^ k) * (r + 2 ^ k)) :
    isqrtFrom n k r * isqrtFrom n k r ≤ n ∧ n < (isqrtFrom n k r + 1) * (isqrtFrom n k r + 1) := by
  induction k generalizing r with
  | zero => exact ⟨hlo, hhi⟩
  | succ k ih =>
    have h2 : r + 2 ^ (k + 1) = r + 2 ^ k + 2 ^ k := by rw [pow_succ]; omega
    rw [isqrtFrom]
    split
    · exact ih ‹_› (h2 ▸ hhi)
    · exact ih hlo (Nat.lt_of_not_le ‹_›)

/-- `isqrt` is the floor of the square root. -/
theorem isqrt_spec (n : Nat) : isqrt n * isqrt n ≤ n ∧ n < (isqrt n + 1) * (isqrt n + 1) := by
  refine isqrtFrom_spec (Nat.zero_le n) ?_
  rw [Nat.zero_add, ← pow_add]
  exact lt_of_lt_of_le Nat.lt_log2_self (Nat.pow_le_pow_right (by norm_num) (by omega))

theorem standsFor_sqrt {x : Exact} (hx : x.m ≠ 0) : StandsFor (Exact.sqrt x) (Real.sqrt (magOf x)) := by
  unfold Exact.sqrt
  dsimp only
  generalize hk : 320 + (if (x.e - 320) % 2 = 0 then 0 else 1) = k
  obtain ⟨h, hh⟩ : ∃ h : Int, x.e - k = h + h := ⟨(x.e - k) / 2, by split at hk <;> omega⟩
  have hhalf : (x.e - k) / 2 = h := by omega
  rw [hhalf]
  set M := x.m * 2 ^ k with hM
  have hp : (0 : ℝ) < 2 ^ h := by positivity
  have hq : Real.sqrt (magOf x : ℚ) = Real.sqrt M * 2 ^ h := by
    have he : x.e = k + (h + h) := by omega
    have : ((magOf x : ℚ) : ℝ) = M * (2 ^ h * 2 ^ h) := by
      rw [magOf, he, hM]
      push_cast
      rw [zpow_add₀ two_ne_zero, zpow_add₀ two_ne_zero, zpow_natCast]; ring
    rw [this, Real.sqrt_mul (Nat.cast_nonneg _), Real.sqrt_mul_self hp.le]
  obtain ⟨hlo, hhi⟩ := isqrt_spec M
  have hroot : (0 : ℝ) ≤ isqrt M := Nat.cast_nonneg _
  by_cases hr : isqrt M * isqrt M = M
  · refine standsFor_of_eq (by simpa using hr) ?_
    rw [hq, ← hr]
    push_cast
    rw [Real.sqrt_mul_self hroot, magOf]
    push_cast
    rw [hr]
  · refine standsFor_of_between (by simpa using hr) ?_ ?_ ?_
    · rw [hq]
      refine mul_lt_mul_of_pos_right (Real.lt_sqrt_of_sq_lt ?_) hp
      rw [sq]; exact_mod_cast lt_of_le_of_ne hlo hr
    · rw [hq]
      refine mul_lt_mul_of_pos_right ((Real.sqrt_lt' (by positivity)).2 ?_) hp
      rw [sq]; exact_mod_cast hhi
    · show 2 ^ 64 ≤ isqrt M
      have hbig : 2 ^ 200 ≤ M := calc
        2 ^ 200 ≤ 2 ^ k := Nat.pow_le_pow_right (by norm_num) (by omega)
        _ ≤ M := Nat.le_mul_of_pos_left _ (Nat.pos_of_ne_zero hx)
      by_contra hc
      have : (isqrt M + 1) * (isqrt M + 1) ≤ 2 ^ 64 * 2 ^ 64 := Nat.mul_le_mul (by omega) (by omega)
      exact absurd (lt_of_le_of_lt hbig (lt_of_lt_of_le hhi this)) (by norm_num)

/-! ### The operations -/

theorem isZero_iff {x : Exact} : x.isZero = true ↔ x.m = 0 ∧ x.sticky = false := by simp [Exact.isZero]

theorem isZero_of_not {x : Exact} (h : ¬ (x.m = 0 ∧ x.sticky = false)) : x.isZero = false := by
  rw [← Bool.not_eq_true, isZero_iff]; exact h

theorem sigFl_pair (g : Bool) (y : XVal) : sigFl [.nan g, y] = if g = true ∨ y = .nan true then Fl.nv else 0 := by
  simp [sigFl]

theorem sigFl_pair' (y : XVal) (g : Bool) : sigFl [y, .nan g] = if g = true ∨ y = .nan true then Fl.nv else 0 := by
  simp [sigFl, or_comm]

/-- What a finite operation gives: the exact value rounded once. -/
def RoundsTo (v : Env) (r : Nat × Fl) (q : ℚ) (sign : Bool) : Prop :=
  ∃ a : Exact, a.sticky = false ∧ valOf a = q ∧ (q = 0 → a.neg = sign) ∧ r = v.f.round v.mode false v.ftz v.s a

theorem addX_rounds (v : Env) (t u : Exact) : RoundsTo v (addX v (.fin t) (.fin u)) (valOf t + valOf u)
    (if t.neg = u.neg then t.neg else decide (v.mode = 3)) :=
  ⟨Exact.add v.mode t u, add_sticky .., valOf_add .., add_neg_of_zero, rfl⟩

theorem mulX_rounds (v : Env) (t u : Exact) : RoundsTo v (mulX v (.fin t) (.fin u)) (valOf t * valOf u) (t.neg != u.neg) :=
  ⟨Exact.mul t u, rfl, valOf_mul .., fun _ => rfl, rfl⟩

theorem fmaX_rounds (v : Env) (t u w : Exact) : RoundsTo v (fmaX v (.fin t) (.fin u) (.fin w)) (valOf t * valOf u + valOf w)
    (if (t.neg != u.neg) = w.neg then (t.neg != u.neg) else decide (v.mode = 3)) :=
  ⟨Exact.add v.mode (Exact.mul t u) w, add_sticky .., by rw [valOf_add, valOf_mul],
    fun h => add_neg_of_zero (x := Exact.mul t u) (by rwa [valOf_mul]), rfl⟩

theorem divX_rounds (v : Env) {t u : Exact} (hu : u.m ≠ 0) : ∃ a : Exact, a.neg = (t.neg != u.neg) ∧
    StandsFor a ((magOf t / magOf u : ℚ) : ℝ) ∧ divX v (.fin t) (.fin u) = v.f.round v.mode false v.ftz v.s a := by
  refine ⟨Exact.div t u, ?_, standsFor_div hu, ?_⟩
  · unfold Exact.div
    split <;> rfl
  · have hz : u.isZero = false := isZero_of_not fun h => hu h.1
    simp [divX, anyNan, XVal.isNan, hz, Env.rnd]

theorem sqrtX_rounds (v : Env) {t : Exact} (hn : t.neg = false) (ht : t.m ≠ 0) : ∃ a : Exact, a.neg = false ∧
    StandsFor a (Real.sqrt (magOf t)) ∧ sqrtX v (.fin t) = v.f.round v.mode false v.ftz v.s a := by
  have hz : t.isZero = false := isZero_of_not fun h => ht h.1
  exact ⟨Exact.sqrt t, rfl, standsFor_sqrt ht, by simp [sqrtX, fun1, hz, hn, Env.rnd]⟩

/-- A one-operand function that is invalid for a negative number (R296). -/
theorem fun1_of_neg (v : Env) {t : Exact} (hz : ¬ (t.m = 0 ∧ t.sticky = false)) (hn : t.neg = true) :
    sqrtX v (.fin t) = invalid v.f ∧ rsqX v (.fin t) = invalid v.f ∧ log2X v (.fin t) = invalid v.f := by
  simp [sqrtX, rsqX, log2X, fun1, isZero_of_not hz, hn]

/-- Settles O19: the special values by the cases of each operation, the finite ones by the exact arithmetic above. -/
theorem floatSpecials : Obligations.FloatSpecials := by
  unfold Obligations.FloatSpecials
  intro v y z n m t u w rounds sum bad zero
  have hzero : ∀ {x : Exact}, zero x → x.isZero = true := fun h => isZero_iff.2 h
  have hnz : ∀ {x : Exact}, ¬ zero x → x.isZero = false := fun h => isZero_of_not h
  refine ⟨fun g => ?_, fun g => ?_, fun g => ?_, fun g => ?_, ?_, rfl, fun ht => ?_, fun ht hu => ?_, fun ht hu => ?_,
    fun ht hn => fun1_of_neg v ht hn, fun ht => ?_, ⟨rfl, rfl, rfl⟩, fun _ _ _ => ⟨addX_rounds v t u, mulX_rounds v t u,
      fmaX_rounds v t u w, fun hu => divX_rounds v hu, fun hn ht => sqrtX_rounds v hn ht⟩⟩
  · rw [← sigFl_pair]; rfl
  · rw [← sigFl_pair']; simp [mulX, anyNan, XVal.isNan]
  · rw [← sigFl_pair]; rfl
  · cases g <;> rfl
  · cases n <;> rfl
  · simp [mulX, fmaX, anyNan, XVal.isNan, hzero ht, invalid, bad]
  · simp [divX, anyNan, XVal.isNan, hzero ht, hzero hu, invalid, bad]
  · simp [divX, anyNan, XVal.isNan, hnz ht, hzero hu, infOf]
  · simp [rcpX, log2X, fun1, hzero ht, infOf]

end Sys2Proof.Formats
end

section
/-! The codes of a binary format and their values: reading, the next code, encoding (R85, R93, R96). -/

namespace Sys2Proof.Formats

open Sys2Proof.Machine Sys2Proof.Safety

/-! ### Codes and their values (R85) -/

/-- What the lemmas below use of a format. -/
structure Sound (f : BinFmt) : Prop where
  frac : 1 ≤ f.fb ∧ f.fb ≤ 23
  expo : 2 ≤ f.eb
  e4m3 : f.e4m3 = true → f = BinFmt.E4M3

theorem sound_of_mem {f : BinFmt} (h : f ∈ [BinFmt.f32, BinFmt.f16, BinFmt.bf16, BinFmt.E4M3, BinFmt.E5M2]) : Sound f := by
  simp only [List.mem_cons, List.not_mem_nil, or_false] at h
  rcases h with rfl | rfl | rfl | rfl | rfl <;> exact ⟨by decide, by decide, by decide⟩

/-- The significand of a code with exponent field `ex` and fraction `fr`, and the exponent of its last place. -/
def sigOf (f : BinFmt) (ex fr : Nat) : Nat := if ex = 0 then fr else 2 ^ f.fb + fr
def placeOf (f : BinFmt) (ex : Nat) : Int := (max ex 1 : Nat) - (f.bias : Int) - f.fb

/-- The fields of a code that stands for a finite value. -/
structure Fields (f : BinFmt) (c : Nat) (n : Bool) (ex fr : Nat) : Prop where
  frac : fr < 2 ^ f.fb
  code : c = f.signBit n + (ex * 2 ^ f.fb + fr)
  fin  : ex * 2 ^ f.fb + fr ≤ f.maxCode

/-- The largest finite value as a code, with its fields (R85). -/
theorem maxCode_fields {f : BinFmt} (hf : Sound f) : ∃ ex fr, 2 ≤ ex ∧ ex < 2 ^ f.eb ∧ fr < 2 ^ f.fb ∧
    f.maxCode = ex * 2 ^ f.fb + fr ∧ f.maxFin = (2 ^ f.fb + fr, placeOf f ex) := by
  cases he : f.e4m3 with
  | true =>
    obtain rfl := hf.e4m3 he
    exact ⟨15, 6, by decide, by decide, by decide, by decide, by decide⟩
  | false =>
    have hA : 0 < 2 ^ f.fb := by positivity
    have hB : 2 ^ 2 ≤ 2 ^ f.eb := Nat.pow_le_pow_right (by norm_num) hf.expo
    refine ⟨2 ^ f.eb - 2, 2 ^ f.fb - 1, by omega, by omega, by omega, ?_, ?_⟩
    · simp only [BinFmt.maxCode, he, Bool.false_eq_true, if_false]
      have : (2 ^ f.eb - 1) * 2 ^ f.fb = (2 ^ f.eb - 2) * 2 ^ f.fb + 2 ^ f.fb := by
        rw [show 2 ^ f.eb - 1 = (2 ^ f.eb - 2) + 1 by omega, Nat.add_mul, Nat.one_mul]
      omega
    · simp only [BinFmt.maxFin, he, Bool.false_eq_true, if_false, placeOf, Prod.mk.injEq]
      refine ⟨by rw [pow_succ]; omega, ?_⟩
      rw [max_eq_left (by omega), Nat.cast_sub (by omega)]
      push_cast; ring

theorem maxCode_lt {f : BinFmt} (hf : Sound f) : f.maxCode + 1 < 2 ^ (f.eb + f.fb) := by
  cases he : f.e4m3 with
  | true =>
    obtain rfl := hf.e4m3 he
    decide
  | false =>
    have hA : 2 ^ 1 ≤ 2 ^ f.fb := Nat.pow_le_pow_right (by norm_num) hf.frac.1
    have hB : 0 < 2 ^ f.eb := by positivity
    simp only [BinFmt.maxCode, he, Bool.false_eq_true, if_false]
    rw [Nat.sub_mul, pow_add]
    have : 2 ^ f.fb ≤ 2 ^ f.eb * 2 ^ f.fb := Nat.le_mul_of_pos_left _ hB
    omega

theorem Fields.ex_lt {f : BinFmt} (hf : Sound f) {c ex fr : Nat} {n : Bool} (h : Fields f c n ex fr) : ex < 2 ^ f.eb := by
  have h1 := maxCode_lt hf
  have h2 := h.fin
  rw [pow_add] at h1
  exact Nat.lt_of_mul_lt_mul_right (a := 2 ^ f.fb) (by omega)

/-- The fields of a code, as `BinFmt.read` takes them. -/
theorem fields_read {f : BinFmt} {n : Bool} {ex fr : Nat} (hex : ex < 2 ^ f.eb) (hfr : fr < 2 ^ f.fb) :
    let c := f.signBit n + (ex * 2 ^ f.fb + fr)
    ((c >>> (f.eb + f.fb)) % 2 == 1) = n ∧ (c >>> f.fb) % 2 ^ f.eb = ex ∧ c % 2 ^ f.fb = fr := by
  intro c
  have hA : 0 < 2 ^ f.fb := by positivity
  have hc : c = (n.toNat * 2 ^ f.eb + ex) * 2 ^ f.fb + fr := by
    simp only [c, BinFmt.signBit, pow_add]
    cases n with
    | false => simp
    | true => simp only [if_true, Bool.toNat_true]; ring
  have hd : c / 2 ^ f.fb = n.toNat * 2 ^ f.eb + ex := by
    rw [hc, Nat.mul_comm, Nat.mul_add_div hA, Nat.div_eq_of_lt hfr, Nat.add_zero]
  refine ⟨?_, ?_, ?_⟩
  · rw [Nat.shiftRight_eq_div_pow, Nat.add_comm f.eb, pow_add, ← Nat.div_div_eq_div_mul, hd, Nat.mul_comm,
      Nat.mul_add_div (by positivity), Nat.div_eq_of_lt hex]
    cases n <;> rfl
  · rw [Nat.shiftRight_eq_div_pow, hd, Nat.mul_add_mod', Nat.mod_eq_of_lt hex]
  · rw [hc, Nat.mul_add_mod', Nat.mod_eq_of_lt hfr]

/-- Every code has fields. -/
theorem exists_fields (f : BinFmt) {c : Nat} (hc : c < 2 ^ f.width) : ∃ n ex fr, ex < 2 ^ f.eb ∧ fr < 2 ^ f.fb ∧
    c = f.signBit n + (ex * 2 ^ f.fb + fr) := by
  have hA : 0 < 2 ^ f.fb := by positivity
  have hB : 0 < 2 ^ f.eb := by positivity
  rw [BinFmt.width, Nat.add_assoc, pow_add, pow_one, pow_add] at hc
  refine ⟨decide (c / 2 ^ f.fb / 2 ^ f.eb = 1), c / 2 ^ f.fb % 2 ^ f.eb, c % 2 ^ f.fb, Nat.mod_lt _ hB, Nat.mod_lt _ hA, ?_⟩
  have h1 := Nat.div_add_mod' c (2 ^ f.fb)
  have h2 := Nat.div_add_mod' (c / 2 ^ f.fb) (2 ^ f.eb)
  have h3 : c / 2 ^ f.fb / 2 ^ f.eb < 2 := by
    rw [Nat.div_div_eq_div_mul, Nat.div_lt_iff_lt_mul (by positivity), Nat.mul_comm (2 ^ f.fb)]
    exact hc
  calc c = (c / 2 ^ f.fb / 2 ^ f.eb * 2 ^ f.eb + c / 2 ^ f.fb % 2 ^ f.eb) * 2 ^ f.fb + c % 2 ^ f.fb := by rw [h2, h1]
    _ = _ := by
      simp only [BinFmt.signBit, pow_add, decide_eq_true_eq]
      rcases Nat.le_one_iff_eq_zero_or_eq_one.1 (Nat.le_of_lt_succ h3) with hs | hs <;> rw [hs]
      · rw [if_neg (by decide)]; ring
      · rw [if_pos rfl]; ring

/-- What a code with given fields reads as: a finite value up to the largest code, and no finite value beyond. -/
theorem read_fields {f : BinFmt} (hf : Sound f) {n : Bool} {ex fr : Nat} (hex : ex < 2 ^ f.eb) (hfr : fr < 2 ^ f.fb) :
    if ex * 2 ^ f.fb + fr ≤ f.maxCode then f.read false (f.signBit n + (ex * 2 ^ f.fb + fr)) = .fin ⟨n, sigOf f ex fr, placeOf f ex, false⟩
    else ∀ v, f.read false (f.signBit n + (ex * 2 ^ f.fb + fr)) ≠ .fin v := by
  obtain ⟨hn, he, hr⟩ := fields_read (n := n) hex hfr
  have h0 : placeOf f 0 = f.emin - f.fb := by simp [placeOf, BinFmt.emin]
  have h1 : ex ≠ 0 → placeOf f ex = (ex : Int) - f.bias - f.fb := fun h => by rw [placeOf, max_eq_left (by omega)]
  unfold BinFmt.read
  dsimp only
  rw [hn, he, hr]
  cases h4 : f.e4m3 with
  | true =>
    have hA : f.fb = 3 := by rw [hf.e4m3 h4]; rfl
    have hB : f.eb = 4 := by rw [hf.e4m3 h4]; rfl
    have hM : f.maxCode = 126 := by rw [hf.e4m3 h4]; rfl
    rw [hB] at hex
    rw [hA] at hfr
    rw [hM, hA]
    by_cases hm : ex = 15 ∧ fr = 7
    · rw [if_neg (by omega)]
      simp [hm.1, hm.2]
    · rw [if_pos (by omega)]
      have hm' : ¬ ((ex == 15 && fr == 7) = true) := by simpa using hm
      simp only [if_true, if_neg hm', beq_iff_eq]
      by_cases hz : ex = 0
      · subst hz; simp [sigOf, h0, hA]
      · simp [sigOf, hz, h1 hz, hA]
  | false =>
    have hmax : ex * 2 ^ f.fb + fr ≤ f.maxCode ↔ ex ≠ 2 ^ f.eb - 1 := by
      have hA : 0 < 2 ^ f.fb := by positivity
      have hB : 2 ^ 2 ≤ 2 ^ f.eb := Nat.pow_le_pow_right (by norm_num) hf.expo
      simp only [BinFmt.maxCode, h4, Bool.false_eq_true, if_false]
      constructor
      · rintro h rfl
        have : 0 < (2 ^ f.eb - 1) * 2 ^ f.fb := Nat.mul_pos (by omega) hA
        omega
      · intro h
        have : (ex + 1) * 2 ^ f.fb ≤ (2 ^ f.eb - 1) * 2 ^ f.fb := Nat.mul_le_mul_right _ (by omega)
        rw [Nat.add_mul, Nat.one_mul] at this
        omega
    simp only [hmax, Bool.false_eq_true, if_false, beq_iff_eq]
    by_cases hm : ex = 2 ^ f.eb - 1
    · rw [if_neg (by simpa using hm), if_pos hm]
      split <;> exact fun v h => nomatch h
    · rw [if_pos hm, if_neg hm]
      by_cases hz : ex = 0
      · subst hz; simp [sigOf, h0]
      · simp [sigOf, hz, h1 hz]

theorem Fields.read {f : BinFmt} (hf : Sound f) {c ex fr : Nat} {n : Bool} (h : Fields f c n ex fr) :
    f.read false c = .fin ⟨n, sigOf f ex fr, placeOf f ex, false⟩ := by
  have := read_fields hf (n := n) (h.ex_lt hf) h.frac
  rwa [if_pos h.fin, ← h.code] at this

/-- A code that reads as a finite value has the fields of that value. -/
theorem fields_of_read {f : BinFmt} (hf : Sound f) {c : Nat} {v : Exact} (hc : c < 2 ^ f.width) (hv : f.read false c = .fin v) :
    ∃ ex fr, Fields f c v.neg ex fr ∧ v = ⟨v.neg, sigOf f ex fr, placeOf f ex, false⟩ := by
  obtain ⟨n, ex, fr, hex, hfr, rfl⟩ := exists_fields f hc
  have h := read_fields hf (n := n) hex hfr
  split at h
  · rename_i hm
    rw [h] at hv
    obtain rfl := XVal.fin.inj hv
    exact ⟨ex, fr, ⟨hfr, rfl, hm⟩, rfl⟩
  · exact absurd hv (h v)

theorem Fields.lt_width {f : BinFmt} (hf : Sound f) {c ex fr : Nat} {n : Bool} (h : Fields f c n ex fr) : c + 1 < 2 ^ f.width := by
  have h1 := maxCode_lt hf
  have h2 := h.fin
  rw [h.code, BinFmt.width, show 1 + f.eb + f.fb = f.eb + f.fb + 1 by omega, pow_succ]
  have h3 : f.signBit n ≤ 2 ^ (f.eb + f.fb) := by unfold BinFmt.signBit; split <;> omega
  omega

/-! ### Neighbours -/

theorem sigOf_lt {f : BinFmt} {ex fr : Nat} (h : fr < 2 ^ f.fb) : sigOf f ex fr < 2 ^ (f.fb + 1) := by
  unfold sigOf
  rw [pow_succ]
  split <;> omega

/-- The fields of the next code. -/
theorem Fields.next {f : BinFmt} {c ex fr : Nat} {n : Bool} (h : Fields f c n ex fr) (hm : ex * 2 ^ f.fb + fr + 1 ≤ f.maxCode) :
    Fields f (c + 1) n (if fr + 1 = 2 ^ f.fb then ex + 1 else ex) (if fr + 1 = 2 ^ f.fb then 0 else fr + 1) := by
  obtain ⟨hfr, hc, -⟩ := h
  have hA : 0 < 2 ^ f.fb := by positivity
  split
  · have he : (ex + 1) * 2 ^ f.fb = ex * 2 ^ f.fb + (fr + 1) := by rw [Nat.add_mul, Nat.one_mul, ‹fr + 1 = 2 ^ f.fb›]
    exact ⟨hA, by omega, by omega⟩
  · exact ⟨by omega, by omega, by omega⟩

theorem placeOf_succ {f : BinFmt} {ex : Nat} (h : ex ≠ 0) : placeOf f (ex + 1) = placeOf f ex + 1 := by
  rw [placeOf, placeOf, max_eq_left (by omega), max_eq_left (by omega)]
  push_cast; ring

/-- The value of the next code lies one last place above. -/
theorem value_next {f : BinFmt} {ex fr : Nat} :
    (sigOf f (if fr + 1 = 2 ^ f.fb then ex + 1 else ex) (if fr + 1 = 2 ^ f.fb then 0 else fr + 1) : ℝ) *
      2 ^ placeOf f (if fr + 1 = 2 ^ f.fb then ex + 1 else ex) = ((sigOf f ex fr : ℝ) + 1) * 2 ^ placeOf f ex := by
  by_cases h : fr + 1 = 2 ^ f.fb
  · simp only [if_pos h]
    have hA : (fr : ℝ) + 1 = 2 ^ f.fb := by exact_mod_cast h
    by_cases hz : ex = 0
    · subst hz
      simp [sigOf, placeOf, hA]
    · rw [placeOf_succ hz, zpow_add₀ two_ne_zero, zpow_one]
      simp only [sigOf, hz, Nat.succ_ne_zero, if_false]
      push_cast
      rw [add_assoc, hA]; ring
  · simp only [if_neg h]
    by_cases hz : ex = 0
    · simp [sigOf, hz]
    · simp only [sigOf, hz, if_false]
      push_cast; ring

/-- Two neighbouring codes of one sign that read as finite values. -/
theorem fields_of_neighbours {f : BinFmt} (hf : Sound f) {c : Nat} {L H : Exact} (hc : c < 2 ^ f.width) (hL : f.read false c = .fin L)
    (hH : f.read false (c + 1) = .fin H) (hn : H.neg = L.neg) : ∃ ex fr, Fields f c L.neg ex fr ∧
      ex * 2 ^ f.fb + fr + 1 ≤ f.maxCode ∧ (magOf L : ℝ) = sigOf f ex fr * 2 ^ placeOf f ex ∧
      (magOf H : ℝ) = ((sigOf f ex fr : ℝ) + 1) * 2 ^ placeOf f ex := by
  obtain ⟨ex, fr, hF, hLv⟩ := fields_of_read hf hc hL
  obtain ⟨ex', fr', hF', -⟩ := fields_of_read hf (hF.lt_width hf) hH
  have hm : ex * 2 ^ f.fb + fr + 1 ≤ f.maxCode := by
    have h1 := hF.code
    have h2 := hF'.code
    have h3 := hF'.fin
    rw [hn] at h2
    omega
  have hHv := hH.symm.trans ((hF.next hm).read hf)
  refine ⟨ex, fr, hF, hm, ?_, ?_⟩
  · rw [hLv, magOf]; push_cast; rfl
  · rw [XVal.fin.inj hHv, magOf, ← value_next]; push_cast; rfl

/-! ### Encoding -/

theorem encode_sigOf {f : BinFmt} {ex fr : Nat} (n : Bool) (hfr : fr < 2 ^ f.fb) :
    f.encode n (sigOf f ex fr) (placeOf f ex) = f.signBit n + (ex * 2 ^ f.fb + fr) := by
  have h2 := sigOf_lt (ex := ex) hfr
  unfold BinFmt.encode
  simp only [beq_iff_eq, h2.ne, if_false]
  by_cases hz : ex = 0
  · subst hz; simp [sigOf, hfr]
  · have hp : (placeOf f ex + f.fb + f.bias).toNat = ex := by rw [placeOf, max_eq_left (by omega)]; omega
    simp [sigOf, hz, hp]

/-- The significand may have grown into the next binade. -/
theorem encode_sigOf_succ {f : BinFmt} {ex fr : Nat} (n : Bool) (hfr : fr < 2 ^ f.fb) :
    f.encode n (sigOf f ex fr + 1) (placeOf f ex) = f.signBit n + (ex * 2 ^ f.fb + fr + 1) := by
  have hA : 0 < 2 ^ f.fb := by positivity
  have hp : ex ≠ 0 → (placeOf f ex + f.fb + f.bias).toNat = ex := fun hz => by rw [placeOf, max_eq_left (by omega)]; omega
  by_cases hlast : fr + 1 = 2 ^ f.fb
  · by_cases hz : ex = 0
    · subst hz
      have : (placeOf f 0 + f.fb + f.bias).toNat = 1 := by simp [placeOf]
      unfold BinFmt.encode
      simpa [sigOf, hlast, pow_succ] using this
    · have hs : sigOf f ex fr + 1 = 2 ^ (f.fb + 1) := by rw [sigOf, if_neg hz, pow_succ]; omega
      have hd : 2 ^ (f.fb + 1) / 2 = 2 ^ f.fb := by rw [pow_succ]; omega
      have hq : (placeOf f ex + 1 + f.fb + f.bias).toNat = ex + 1 := by rw [placeOf, max_eq_left (by omega)]; omega
      unfold BinFmt.encode
      simp only [hs, beq_self_eq_true, if_true, hd, hq, lt_irrefl, if_false, Nat.sub_self]
      rw [Nat.add_mul, Nat.one_mul]; omega
  · have h := encode_sigOf (f := f) (ex := ex) (fr := fr + 1) n (by omega)
    have hs : sigOf f ex fr + 1 = sigOf f ex (fr + 1) := by unfold sigOf; split <;> omega
    rw [hs, h]; omega

/-- Whether a rounded value is beyond the largest finite one (R96, log 32). -/
def tooBig (f : BinFmt) (q : Nat) (u : Int) : Bool :=
  if f.maxFin.2 ≤ u then decide (f.maxFin.1 < q * 2 ^ (u - f.maxFin.2).toNat) else false

/-- A significand at the place of a code's exponent is not beyond, as long as it is that of a code up to the largest. -/
theorem not_tooBig {f : BinFmt} (hf : Sound f) {ex q : Nat} (fr : Nat)
    (hm : ex * 2 ^ f.fb + (q - sigOf f ex fr + fr) ≤ f.maxCode) : tooBig f q (placeOf f ex) = false := by
  obtain ⟨mx, mr, h2, -, hmr, hmax, hfin⟩ := maxCode_fields hf
  rw [hmax] at hm
  unfold tooBig
  rw [hfin]
  dsimp only
  split
  · rename_i hu
    have hle : mx ≤ ex := by
      unfold placeOf at hu
      omega
    have hex : ex = mx := by
      have : ex * 2 ^ f.fb < (mx + 1) * 2 ^ f.fb := by rw [Nat.add_mul, Nat.one_mul]; omega
      have := Nat.lt_of_mul_lt_mul_right this
      omega
    subst hex
    have hz : ex ≠ 0 := by omega
    rw [decide_eq_false_iff_not, Int.sub_self, Int.toNat_zero, pow_zero, Nat.mul_one]
    simp only [sigOf, hz, if_false] at hm
    omega
  · rfl

end Sys2Proof.Formats
end

section
/-! A value cut at a place: what lies below the place, and the neighbour that a mode takes by it (R93, R94, R97, R98). -/

namespace Sys2Proof.Formats

open Sys2Proof.Machine Sys2Proof.Safety

/-! ### Cutting a value at a place (R93) -/

/-- What the rest `r` of `d`, when sticky with a little more, is a fraction of: `t`. -/
structure FracOf (r d : Nat) (sticky : Bool) (t : ℝ) : Prop where
  lt    : r < d
  nonneg : 0 ≤ t
  lt_one : t < 1
  exact : sticky = false → t * d = r
  above : sticky = true → (r : ℝ) < t * d ∧ t * d < r + 1 ∧ 2 ^ 32 ∣ d

theorem magOf_real (x : Exact) : (magOf x : ℝ) = x.m * (2 : ℝ) ^ x.e := by rw [magOf]; push_cast; rfl

theorem standsFor_exact {x : Exact} {q : ℝ} (h : StandsFor x q) (hs : x.sticky = false) : q = x.m * (2 : ℝ) ^ x.e := by
  rw [StandsFor, if_neg (by simp [hs]), magOf_real] at h
  exact h.symm

theorem standsFor_above {x : Exact} {q : ℝ} (h : StandsFor x q) (hs : x.sticky = true) :
    (x.m : ℝ) * (2 : ℝ) ^ x.e < q ∧ q < ((x.m : ℝ) + 1) * (2 : ℝ) ^ x.e ∧ 2 ^ 64 ≤ x.m := by
  rw [StandsFor, if_pos hs, magOf_real] at h
  obtain ⟨h1, h2, h3⟩ := h
  exact ⟨h1, by linarith, h3⟩

/-- The two neighbours of a value at a place, and the fraction of the place by which it lies above the lower. -/
theorem splitAt_spec {x : Exact} {q : ℝ} {u : Int} (h : StandsFor x q) (hu : x.sticky = true → x.e + 32 ≤ u) : ∃ Q r d t,
    x.splitAt u = (Q, r, d) ∧ q = ((Q : ℝ) + t) * 2 ^ u ∧ FracOf r d x.sticky t := by
  unfold Exact.splitAt
  by_cases hue : u ≤ x.e
  · have hs : x.sticky = false := by
      by_contra hs
      have := hu (by simpa using hs)
      omega
    refine ⟨_, _, _, 0, if_pos hue, ?_, by decide, le_rfl, one_pos, fun _ => by simp, fun hc => by simp [hs] at hc⟩
    rw [standsFor_exact h hs, add_zero, Nat.cast_mul, mul_assoc, Nat.cast_pow, Nat.cast_ofNat, ← zpow_natCast, ← zpow_add₀ two_ne_zero]
    congr 2; omega
  · obtain ⟨k, hk⟩ : ∃ k : Nat, u = x.e + k := ⟨(u - x.e).toNat, by omega⟩
    have hkn : (u - x.e).toNat = k := by omega
    rw [if_neg hue, hkn]
    have hd : (0 : ℝ) < 2 ^ k := by positivity
    have hp : (0 : ℝ) < 2 ^ x.e := by positivity
    have hm : (x.m : ℝ) = (x.m / 2 ^ k : Nat) * 2 ^ k + (x.m % 2 ^ k : Nat) := by
      exact_mod_cast (Nat.div_add_mod' x.m (2 ^ k)).symm
    have hr : x.m % 2 ^ k < 2 ^ k := Nat.mod_lt _ (by positivity)
    have hr1 : ((x.m % 2 ^ k : Nat) : ℝ) + 1 ≤ 2 ^ k := by exact_mod_cast hr
    have hpu : (2 : ℝ) ^ u = 2 ^ k * 2 ^ x.e := by rw [hk, zpow_add₀ two_ne_zero, zpow_natCast, mul_comm]
    obtain ⟨t, ht⟩ : ∃ t : ℝ, q = ((x.m / 2 ^ k : Nat) + t) * 2 ^ u := ⟨q / 2 ^ u - (x.m / 2 ^ k : Nat), by
      rw [add_sub_cancel, div_mul_cancel₀]; positivity⟩
    have htk : q = ((x.m / 2 ^ k : Nat) * 2 ^ k + t * 2 ^ k) * 2 ^ x.e := by rw [ht, hpu]; ring
    have hex : x.sticky = false → t * 2 ^ k = (x.m % 2 ^ k : Nat) := fun hs => by
      have := mul_right_cancel₀ hp.ne' (htk.symm.trans (standsFor_exact h hs))
      linarith
    have hab : x.sticky = true → ((x.m % 2 ^ k : Nat) : ℝ) < t * 2 ^ k ∧ t * 2 ^ k < (x.m % 2 ^ k : Nat) + 1 := fun hs => by
      obtain ⟨h1, h2, -⟩ := standsFor_above h hs
      rw [htk] at h1 h2
      have h1 := lt_of_mul_lt_mul_right h1 hp.le
      have h2 := lt_of_mul_lt_mul_right h2 hp.le
      exact ⟨by linarith, by linarith⟩
    have hr0 : (0 : ℝ) ≤ (x.m % 2 ^ k : Nat) := Nat.cast_nonneg _
    have hrange : 0 ≤ t * 2 ^ k ∧ t * 2 ^ k < 1 * 2 ^ k := by
      cases hs : x.sticky with
      | false => rw [hex hs]; exact ⟨hr0, by linarith⟩
      | true => obtain ⟨h1, h2⟩ := hab hs; exact ⟨by linarith, by linarith⟩
    refine ⟨_, _, _, t, rfl, ht, hr, ?_, lt_of_mul_lt_mul_right hrange.2 hd.le, fun hs => ?_, fun hs => ?_⟩
    · by_contra hn
      exact absurd hrange.1 (not_le.2 (mul_neg_of_neg_of_pos (not_le.1 hn) hd))
    · rw [← hex hs]; push_cast; rfl
    · have := hu hs
      obtain ⟨h1, h2⟩ := hab hs
      push_cast
      exact ⟨h1, h2, Nat.pow_dvd_pow 2 (show 32 ≤ k by omega)⟩

/-! ### The neighbour that a mode takes (R93, R94, R97, R98) -/

/-- Whether a mode takes the upper neighbour of a value that lies the fraction `t` of their distance above the lower one. -/
def GoesUp (mode : BitVec 3) (neg loEven : Bool) (w : Word) (t : ℝ) : Prop :=
  match mode.toNat with
  | 1 => 1 < 2 * t ∨ (2 * t = 1 ∧ loEven = false)
  | 3 => neg = true
  | 4 => neg = false
  | 5 => 1 ≤ 2 * t
  | 6 => loEven = true
  | 7 => (w.toNat : ℝ) < t * 2 ^ 32
  | _ => False

theorem FracOf.pos {r d : Nat} {sticky : Bool} {t : ℝ} (h : FracOf r d sticky t) : (0 : ℝ) < d := by
  exact_mod_cast (Nat.zero_le r).trans_lt h.lt

/-- A rest against a fraction of what it is out of: with nothing more, as numbers; when sticky, no such fraction lies between the
rest and what it stands for. -/
theorem FracOf.lt_iff {r d : Nat} {sticky : Bool} {t : ℝ} (h : FracOf r d sticky t) (n : Nat) {k : Nat} (hk : k ∣ 2 ^ 32) :
    (n : ℝ) < t * k ↔ if sticky then n * d ≤ r * k else n * d < r * k := by
  have hd := h.pos
  have hk0 : (0 : ℝ) < k := by exact_mod_cast Nat.pos_of_dvd_of_pos hk (by norm_num)
  have hmul : (n : ℝ) < t * k ↔ (n : ℝ) * d < t * d * k := by
    rw [show t * d * k = t * k * d by ring, mul_lt_mul_iff_left₀ hd]
  rw [hmul]
  cases sticky with
  | false =>
    rw [h.exact rfl, if_neg (by decide)]
    exact_mod_cast Iff.rfl
  | true =>
    obtain ⟨h1, h2, h3⟩ := h.above rfl
    obtain ⟨c, rfl⟩ := hk.trans h3
    push_cast at h1 h2 ⊢
    rw [if_pos rfl, show n * (k * c) = n * c * k by ring, show (n : ℝ) * (k * c) = n * c * k by ring, mul_lt_mul_iff_left₀ hk0,
      Nat.mul_le_mul_right_iff (by exact_mod_cast hk0)]
    constructor
    · intro hn
      have : ((n * c : Nat) : ℝ) < (r + 1 : Nat) := by push_cast; linarith
      exact Nat.le_of_lt_succ (by exact_mod_cast this)
    · intro hn
      have : ((n * c : Nat) : ℝ) ≤ r := by exact_mod_cast hn
      push_cast at this
      linarith

theorem FracOf.le_iff {r d : Nat} {sticky : Bool} {t : ℝ} (h : FracOf r d sticky t) (n : Nat) {k : Nat} (hk : k ∣ 2 ^ 32) :
    (n : ℝ) ≤ t * k ↔ n * d ≤ r * k := by
  cases sticky with
  | false =>
    have hd := h.pos
    rw [← mul_le_mul_iff_left₀ hd, show t * k * d = t * d * k by ring, h.exact rfl]
    exact_mod_cast Iff.rfl
  | true =>
    rw [show n * d ≤ r * k ↔ (n : ℝ) < t * k from ((h.lt_iff n hk).trans (by rw [if_pos rfl])).symm]
    refine ⟨fun hn => lt_of_le_of_ne hn fun he => ?_, le_of_lt⟩
    obtain ⟨h1, h2, h3⟩ := h.above rfl
    obtain ⟨c, rfl⟩ := hk.trans h3
    have hk0 : (k : ℝ) ≠ 0 := by exact_mod_cast (Nat.pos_of_dvd_of_pos hk (by norm_num)).ne'
    have ht : t * ((k * c : Nat) : ℝ) = (n * c : Nat) := by push_cast; rw [he]; ring
    rw [ht] at h1 h2
    have h1 : r < n * c := by exact_mod_cast h1
    have h2 : n * c < r + 1 := by exact_mod_cast h2
    omega

/-- `pickUp` decides by the rest as the rounding rule does by the value. -/
theorem pickUp_iff {mode : BitVec 3} {neg loEven : Bool} {r d : Nat} {sticky : Bool} {w : Word} {t : ℝ} (h : FracOf r d sticky t) :
    pickUp mode neg r d sticky loEven w = true ↔ GoesUp mode neg loEven w t := by
  have hlt := h.lt_iff 1 (k := 2) (by norm_num)
  have hle := h.le_iff 1 (k := 2) (by norm_num)
  have hsr := h.lt_iff w.toNat (k := 2 ^ 32) dvd_rfl
  push_cast at hlt hle
  rw [Nat.cast_pow, Nat.cast_ofNat] at hsr
  rw [mul_comm t 2, Nat.one_mul, Nat.mul_comm r 2] at hlt hle
  unfold pickUp GoesUp
  rcases mode.toNat with _ | _ | _ | _ | _ | _ | _ | _ | n
  case succ.zero =>
    rw [show 2 * t = 1 ↔ 1 ≤ 2 * t ∧ ¬ 1 < 2 * t from ⟨fun e => by simp [e], fun ⟨a, b⟩ => le_antisymm (not_lt.1 b) a⟩, hlt, hle]
    cases sticky <;> cases loEven <;> simp <;> omega
  case succ.succ.succ.succ.succ.zero => simpa using hle.symm
  case succ.succ.succ.succ.succ.succ.succ.zero =>
    refine Iff.trans ?_ hsr.symm
    cases sticky <;> simp
  all_goals simp

end Sys2Proof.Formats
end

section
/-! The rounding operation: its place, a value that a code stands for, one between two codes, one beyond the largest (R93, R96). -/

namespace Sys2Proof.Formats

open Sys2Proof.Machine Sys2Proof.Safety

/-! ### The place of a rounding (R93) -/

/-- A value that is not 0 lies in its binade. -/
theorem binade_bounds {x : Exact} {q : ℝ} (h : StandsFor x q) (hq : 0 < q) :
    (2 : ℝ) ^ x.binade ≤ q ∧ q < (2 : ℝ) ^ (x.binade + 1) ∧ x.isZero = false := by
  have hp : (0 : ℝ) < 2 ^ x.e := by positivity
  have hq' : (x.m : ℝ) * 2 ^ x.e ≤ q ∧ q < ((x.m : ℝ) + 1) * 2 ^ x.e ∧ x.m ≠ 0 := by
    cases hs : x.sticky with
    | false =>
      rw [standsFor_exact h hs] at hq ⊢
      refine ⟨le_rfl, mul_lt_mul_of_pos_right (lt_add_one _) hp, fun hm => ?_⟩
      simp [hm] at hq
    | true =>
      obtain ⟨h1, h2, h3⟩ := standsFor_above h hs
      exact ⟨h1.le, h2, by omega⟩
  obtain ⟨hlo, hhi, hm⟩ := hq'
  have h1 : (2 : ℝ) ^ (Nat.log2 x.m) ≤ x.m := by exact_mod_cast Nat.log2_self_le hm
  have h2 : (x.m : ℝ) + 1 ≤ 2 ^ (Nat.log2 x.m + 1) := by exact_mod_cast Nat.succ_le_of_lt Nat.lt_log2_self
  refine ⟨?_, ?_, by simp [Exact.isZero, hm]⟩
  · rw [Exact.binade, zpow_add₀ two_ne_zero, zpow_natCast]
    exact (mul_le_mul_of_nonneg_right h1 hp.le).trans hlo
  · rw [Exact.binade, show (Nat.log2 x.m : Int) + x.e + 1 = ((Nat.log2 x.m + 1 : Nat) : Int) + x.e by push_cast; ring,
      zpow_add₀ two_ne_zero, zpow_natCast]
    exact hhi.trans_le (mul_le_mul_of_nonneg_right h2 hp.le)

/-- A power of two is at most a value exactly if the value's binade is no lower. -/
theorem le_binade_iff {x : Exact} {q : ℝ} (h : StandsFor x q) (hq : 0 < q) {a : Int} : a ≤ x.binade ↔ (2 : ℝ) ^ a ≤ q := by
  obtain ⟨h1, h2, -⟩ := binade_bounds h hq
  constructor
  · exact fun ha => (zpow_le_zpow_right₀ one_le_two ha).trans h1
  · intro ha
    have := (zpow_lt_zpow_iff_right₀ (one_lt_two (α := ℝ))).1 (ha.trans_lt h2)
    omega

theorem binade_lt_iff {x : Exact} {q : ℝ} (h : StandsFor x q) (hq : 0 < q) {a : Int} : x.binade < a ↔ q < (2 : ℝ) ^ a := by
  rw [← not_le, le_binade_iff h hq, not_le]

/-- The exponent of the last place to which a format rounds a value. -/
def lastPlace (f : BinFmt) (x : Exact) : Int := max (x.binade - f.fb) (f.emin - f.fb)

/-- A sticky value lies far below the place to which it is rounded. -/
theorem sticky_below {f : BinFmt} (hf : Sound f) {x : Exact} {q : ℝ} (h : StandsFor x q) (hs : x.sticky = true) :
    x.e + 32 ≤ lastPlace f x := by
  obtain ⟨-, -, hm⟩ := standsFor_above h hs
  have hlog : 64 ≤ Nat.log2 x.m := (Nat.le_log2 (by omega)).2 hm
  have hb := hf.frac.2
  unfold lastPlace Exact.binade
  omega

/-- A value between two neighbours is rounded at their place. -/
theorem lastPlace_eq {f : BinFmt} {x : Exact} {q : ℝ} (h : StandsFor x q) (hq : 0 < q) {ex fr : Nat} (hfr : fr < 2 ^ f.fb)
    (hlo : (sigOf f ex fr : ℝ) * 2 ^ placeOf f ex ≤ q) (hhi : q < ((sigOf f ex fr : ℝ) + 1) * 2 ^ placeOf f ex) :
    lastPlace f x = placeOf f ex := by
  have hp : (0 : ℝ) < 2 ^ placeOf f ex := by positivity
  have hfr' : (fr : ℝ) + 1 ≤ 2 ^ f.fb := by exact_mod_cast hfr
  unfold lastPlace
  by_cases hz : ex = 0
  · have hpl : placeOf f ex = f.emin - f.fb := by simp [placeOf, BinFmt.emin, hz]
    have hb : x.binade < f.emin := by
      rw [binade_lt_iff h hq, show f.emin = f.fb + placeOf f ex by omega, zpow_add₀ two_ne_zero, zpow_natCast]
      refine hhi.trans_le (mul_le_mul_of_nonneg_right ?_ hp.le)
      rwa [sigOf, if_pos hz]
    omega
  · have hsig : (sigOf f ex fr : ℝ) = 2 ^ f.fb + fr := by rw [sigOf, if_neg hz]; push_cast; rfl
    have h1 : placeOf f ex + f.fb ≤ x.binade := by
      rw [le_binade_iff h hq, add_comm, zpow_add₀ two_ne_zero, zpow_natCast]
      refine (mul_le_mul_of_nonneg_right ?_ hp.le).trans hlo
      rw [hsig]; simp
    have h2 : x.binade < placeOf f ex + f.fb + 1 := by
      rw [binade_lt_iff h hq, show placeOf f ex + f.fb + 1 = ((f.fb + 1 : Nat) : Int) + placeOf f ex by push_cast; ring,
        zpow_add₀ two_ne_zero, zpow_natCast]
      refine hhi.trans_le (mul_le_mul_of_nonneg_right ?_ hp.le)
      rw [hsig, pow_succ]; linarith
    have h3 : f.emin - f.fb ≤ placeOf f ex := by unfold placeOf BinFmt.emin; omega
    omega

/-! ### The rounding operation (R93, R96, R97) -/

/-- The significand after rounding: what `splitAt` answers, and one more where the mode takes the upper neighbour. -/
def roundedSig (mode : BitVec 3) (w : Word) (x : Exact) (u : Int) : Nat :=
  if (x.splitAt u).2.1 == 0 && !x.sticky then (x.splitAt u).1
  else if pickUp mode x.neg (x.splitAt u).2.1 (x.splitAt u).2.2 x.sticky ((x.splitAt u).1 % 2 == 0) w then (x.splitAt u).1 + 1
  else (x.splitAt u).1

theorem round_of_tooBig {f : BinFmt} {mode : BitVec 3} {sat : Bool} {w : Word} {x : Exact} (hz : x.isZero = false)
    (hb : tooBig f (roundedSig mode w x (lastPlace f x)) (lastPlace f x) = true) : f.round mode sat false w x =
      if sat then (f.signBit x.neg + f.maxCode, Fl.of ||| Fl.nx)
      else if f.e4m3 then (f.nanCode, Fl.of ||| Fl.nx ||| Fl.nv)
      else (f.overSpecial mode x.neg, Fl.of ||| Fl.nx) := by
  unfold BinFmt.round
  rw [hz]
  exact if_pos hb

/-- Without an overflow; a value that is not tiny is rounded as without ftz (R87). -/
theorem round_of_not_tooBig {f : BinFmt} {mode : BitVec 3} {sat ftz : Bool} {w : Word} {x : Exact} (hz : x.isZero = false)
    (ht : ftz = true → f.emin ≤ x.binade) (hb : tooBig f (roundedSig mode w x (lastPlace f x)) (lastPlace f x) = false) :
    f.round mode sat ftz w x = (f.encode x.neg (roundedSig mode w x (lastPlace f x)) (lastPlace f x),
      if (x.splitAt (lastPlace f x)).2.1 == 0 && !x.sticky then 0 else if x.binade < f.emin then Fl.uf ||| Fl.nx else Fl.nx) := by
  have hft : (ftz && decide (x.binade < f.emin)) = false := by
    cases ftz with
    | false => rfl
    | true => have := ht rfl; simpa using this
  unfold BinFmt.round
  rw [hz]
  dsimp only
  rw [hft]
  refine (if_neg Bool.false_ne_true).trans ((if_neg (show ¬ tooBig f (roundedSig mode w x (lastPlace f x)) (lastPlace f x) = true by
    rw [hb]; exact Bool.false_ne_true)).trans ?_)
  simp only [decide_eq_true_eq]
  rfl

/-- The upper neighbour is no further up than the next code. -/
theorem roundedSig_of_split {mode : BitVec 3} {w : Word} {x : Exact} {u : Int} {Q r d : Nat} (h : x.splitAt u = (Q, r, d)) :
    roundedSig mode w x u = if r = 0 ∧ x.sticky = false then Q
      else if pickUp mode x.neg r d x.sticky (Q % 2 == 0) w then Q + 1 else Q := by
  simp [roundedSig, h]

/-- A value from the value of a code up to the next: rounded at its place, the code's significand is what lies below it. -/
structure Within (f : BinFmt) (x : Exact) (q : ℝ) (ex fr r d : Nat) (t : ℝ) : Prop where
  place : lastPlace f x = placeOf f ex
  split : x.splitAt (placeOf f ex) = (sigOf f ex fr, r, d)
  value : q = ((sigOf f ex fr : ℝ) + t) * 2 ^ placeOf f ex
  frac  : FracOf r d x.sticky t

theorem exists_within {f : BinFmt} (hf : Sound f) {x : Exact} {q : ℝ} (h : StandsFor x q) (hq : 0 < q) {ex fr : Nat}
    (hfr : fr < 2 ^ f.fb) (hlo : (sigOf f ex fr : ℝ) * 2 ^ placeOf f ex ≤ q) (hhi : q < ((sigOf f ex fr : ℝ) + 1) * 2 ^ placeOf f ex) :
    ∃ r d t, Within f x q ex fr r d t := by
  have hpl := lastPlace_eq h hq hfr hlo hhi
  obtain ⟨Q, r, d, t, hs, hv, hF⟩ := splitAt_spec h (fun hs => hpl ▸ sticky_below hf h hs)
  have hp : (0 : ℝ) < 2 ^ placeOf f ex := by positivity
  rw [hv] at hlo hhi
  have h1 := le_of_mul_le_mul_right hlo hp
  have h2 := lt_of_mul_lt_mul_right hhi hp.le
  have hQ : Q = sigOf f ex fr := by
    have h1' : (sigOf f ex fr : ℝ) < (Q + 1 : Nat) := by push_cast; linarith [hF.lt_one]
    have h2' : (Q : ℝ) < (sigOf f ex fr + 1 : Nat) := by push_cast; linarith [hF.nonneg]
    have h1' : sigOf f ex fr < Q + 1 := by exact_mod_cast h1'
    have h2' : Q < sigOf f ex fr + 1 := by exact_mod_cast h2'
    omega
  subst hQ
  exact ⟨r, d, t, hpl, hs, hv, hF⟩

/-- A value that a code stands for rounds to that code, with no flag (R93). -/
theorem round_code {f : BinFmt} (hf : Sound f) {mode : BitVec 3} {sat ftz : Bool} {w : Word} {c : Nat} {a x : Exact} (hc : c < 2 ^ f.width)
    (ha : f.read false c = .fin a) (hs : x.sticky = false) (hn : x.neg = a.neg) (hm : magOf x = magOf a)
    (ht : ftz = true → x.isZero = false → f.emin ≤ x.binade) : f.round mode sat ftz w x = (c, 0) := by
  obtain ⟨ex, fr, hF, hav⟩ := fields_of_read hf hc ha
  have hq : StandsFor x (magOf a : ℝ) := by rw [StandsFor, if_neg (by simp [hs]), hm]
  have hval : ((magOf a : ℚ) : ℝ) = sigOf f ex fr * 2 ^ placeOf f ex := by rw [hav]; exact magOf_real _
  have hp : (0 : ℝ) < 2 ^ placeOf f ex := by positivity
  by_cases hz : x.isZero = true
  · have hx0 : x.m = 0 := by simpa [Exact.isZero, hs] using hz
    have h0 : sigOf f ex fr = 0 := by
      have : (x.m : ℝ) * 2 ^ x.e = _ := (standsFor_exact hq hs).symm.trans hval
      rw [hx0] at this
      have := (mul_eq_zero.1 (this.symm.trans (by simp))).resolve_right hp.ne'
      exact_mod_cast this
    have hef : ex = 0 ∧ fr = 0 := by
      have : 0 < 2 ^ f.fb := by positivity
      unfold sigOf at h0
      split at h0 <;> omega
    rw [BinFmt.round, if_pos hz, hF.code, hef.1, hef.2, hn]
    simp
  · have hz : x.isZero = false := by simpa using hz
    have hpos : (0 : ℝ) < magOf a := by
      rw [← hm, magOf_real]
      have : x.m ≠ 0 := by intro h0; simp [Exact.isZero, h0, hs] at hz
      have : (0 : ℝ) < x.m := by exact_mod_cast Nat.pos_of_ne_zero this
      positivity
    obtain ⟨r, d, t, hW⟩ := exists_within hf hq hpos hF.frac hval.ge (hval ▸ mul_lt_mul_of_pos_right (lt_add_one _) hp)
    have ht0 : t = 0 := by
      have := mul_right_cancel₀ hp.ne' (hval.symm.trans hW.value)
      linarith
    have hr : r = 0 := by
      have := hW.frac.exact hs
      rw [ht0, zero_mul] at this
      exact_mod_cast this.symm
    have hsig : roundedSig mode w x (placeOf f ex) = sigOf f ex fr := by rw [roundedSig_of_split hW.split, if_pos ⟨hr, hs⟩]
    have hb : tooBig f (sigOf f ex fr) (placeOf f ex) = false := not_tooBig hf fr (by simpa using hF.fin)
    rw [round_of_not_tooBig hz (fun h => ht h hz) (by rw [hW.place, hsig]; exact hb), hW.place, hsig, encode_sigOf _ hF.frac, hn, ← hF.code,
      hW.split]
    simp [hr, hs]

/-- A code is odd exactly if its significand is. -/
theorem Fields.mod_two {f : BinFmt} (hf : Sound f) {c ex fr : Nat} {n : Bool} (h : Fields f c n ex fr) : sigOf f ex fr % 2 = c % 2 := by
  have hA : 2 ^ f.fb = 2 * 2 ^ (f.fb - 1) := by rw [← pow_succ']; congr 1; have := hf.frac.1; omega
  have hs : f.signBit n % 2 = 0 := by
    have : 2 ^ (f.eb + f.fb) = 2 * 2 ^ (f.eb + f.fb - 1) := by rw [← pow_succ']; congr 1; have := hf.frac.1; omega
    unfold BinFmt.signBit
    split <;> omega
  have he : ex * 2 ^ f.fb % 2 = 0 := by rw [hA, Nat.mul_left_comm, Nat.mul_mod_right]
  rw [h.code]
  unfold sigOf
  split <;> omega

/-- A value strictly between two neighbours rounds to the one that the mode takes (R93, R94, R97, R98). -/
theorem round_between {f : BinFmt} (hf : Sound f) {mode : BitVec 3} {sat : Bool} {w : Word} {c ex fr : Nat} {x : Exact} {q : ℝ}
    (hF : Fields f c x.neg ex fr) (hm : ex * 2 ^ f.fb + fr + 1 ≤ f.maxCode) (hq : StandsFor x q)
    (hlo : (sigOf f ex fr : ℝ) * 2 ^ placeOf f ex < q) (hhi : q < ((sigOf f ex fr : ℝ) + 1) * 2 ^ placeOf f ex) :
    ∃ t : ℝ, q = ((sigOf f ex fr : ℝ) + t) * 2 ^ placeOf f ex ∧
      (GoesUp mode x.neg (c % 2 == 0) w t → f.round mode sat false w x = (c + 1, if q < (2 : ℝ) ^ f.emin then Fl.uf ||| Fl.nx else Fl.nx)) ∧
      (¬ GoesUp mode x.neg (c % 2 == 0) w t → f.round mode sat false w x = (c, if q < (2 : ℝ) ^ f.emin then Fl.uf ||| Fl.nx else Fl.nx)) := by
  have hp : (0 : ℝ) < 2 ^ placeOf f ex := by positivity
  have hq0 : 0 < q := lt_of_le_of_lt (by positivity) hlo
  obtain ⟨r, d, t, hW⟩ := exists_within hf hq hq0 hF.frac hlo.le hhi
  have ht : t ≠ 0 := fun h => by rw [hW.value, h, add_zero] at hlo; exact lt_irrefl _ hlo
  have hne : ¬ (r = 0 ∧ x.sticky = false) := fun ⟨h1, h2⟩ => by
    have := hW.frac.exact h2
    rw [h1, Nat.cast_zero] at this
    exact (mul_eq_zero.1 this).elim ht hW.frac.pos.ne'
  have hup := pickUp_iff (mode := mode) (neg := x.neg) (loEven := c % 2 == 0) (w := w) hW.frac
  have hsig := roundedSig_of_split (mode := mode) (w := w) hW.split
  rw [if_neg hne, hF.mod_two hf] at hsig
  have hround : ∀ k ≤ 1, roundedSig mode w x (placeOf f ex) = sigOf f ex fr + k →
      f.round mode sat false w x = (c + k, if q < (2 : ℝ) ^ f.emin then Fl.uf ||| Fl.nx else Fl.nx) := by
    intro k hk hs
    have henc : f.encode x.neg (sigOf f ex fr + k) (placeOf f ex) = c + k := by
      rcases Nat.le_one_iff_eq_zero_or_eq_one.1 hk with rfl | rfl
      · exact (encode_sigOf _ hF.frac).trans hF.code.symm
      · rw [encode_sigOf_succ _ hF.frac, hF.code]; rfl
    rw [round_of_not_tooBig (ftz := false) (binade_bounds hq hq0).2.2 (fun h => nomatch h) (by
        rw [hW.place, hs]; exact not_tooBig hf fr (by omega)), hW.place, hs, henc, hW.split, if_neg (by simpa using hne)]
    simp only [binade_lt_iff hq hq0]
  refine ⟨t, hW.value, fun h => ?_, fun h => ?_⟩
  · exact hround 1 le_rfl (by rw [hsig, if_pos (hup.2 h)])
  · exact hround 0 (Nat.zero_le 1) (by rw [hsig, if_neg (mt hup.1 h), Nat.add_zero])

/-- The largest finite significand fills its places. -/
theorem maxFin_bounds {f : BinFmt} (hf : Sound f) : 2 ^ f.fb ≤ f.maxFin.1 + 1 ∧ f.maxFin.1 < 2 ^ (f.fb + 1) ∧
    f.emin - f.fb ≤ f.maxFin.2 := by
  obtain ⟨mx, mr, h2, -, hmr, -, hfin⟩ := maxCode_fields hf
  rw [hfin]
  refine ⟨by dsimp only; omega, by rw [pow_succ]; dsimp only; omega, ?_⟩
  dsimp only [placeOf, BinFmt.emin]
  omega

/-- A value one step or more above the largest finite one overflows in every mode (R96, log 32). -/
theorem tooBig_of_le {f : BinFmt} (hf : Sound f) {mode : BitVec 3} {w : Word} {x : Exact} {q : ℝ} (h : StandsFor x q)
    (hq : ((f.maxFin.1 + 1 : Nat) : ℝ) * (2 : ℝ) ^ f.maxFin.2 ≤ q) :
    x.isZero = false ∧ tooBig f (roundedSig mode w x (lastPlace f x)) (lastPlace f x) = true := by
  obtain ⟨h1, h2, h3⟩ := maxFin_bounds hf
  have hpos : 0 < q := lt_of_lt_of_le (by positivity) hq
  have hb : f.maxFin.2 + f.fb ≤ x.binade := by
    rw [le_binade_iff h hpos, add_comm, zpow_add₀ two_ne_zero, zpow_natCast]
    refine (mul_le_mul_of_nonneg_right ?_ (by positivity)).trans hq
    exact_mod_cast h1
  have hpl : lastPlace f x = x.binade - f.fb := by unfold lastPlace; omega
  obtain ⟨Q, r, d, t, hs, hv, hF⟩ := splitAt_spec h (fun hs => sticky_below hf h hs)
  refine ⟨(binade_bounds h hpos).2.2, ?_⟩
  have hp : (0 : ℝ) < 2 ^ lastPlace f x := by positivity
  have hQ : f.maxFin.1 < Q * 2 ^ (lastPlace f x - f.maxFin.2).toNat := by
    rcases (by omega : lastPlace f x = f.maxFin.2 ∨ f.maxFin.2 + 1 ≤ lastPlace f x) with he | hg
    · rw [he, Int.sub_self, Int.toNat_zero, pow_zero, Nat.mul_one]
      rw [← he, hv] at hq
      have := le_of_mul_le_mul_right hq hp
      have : ((f.maxFin.1 + 1 : Nat) : ℝ) < (Q + 1 : Nat) := by push_cast at this ⊢; linarith [hF.lt_one]
      have : f.maxFin.1 + 1 < Q + 1 := by exact_mod_cast this
      omega
    · have hQ : 2 ^ f.fb ≤ Q := by
        have hlo := (binade_bounds h hpos).1
        rw [show x.binade = (f.fb : Int) + lastPlace f x by omega, zpow_add₀ two_ne_zero, zpow_natCast, hv] at hlo
        have := le_of_mul_le_mul_right hlo hp
        have : ((2 ^ f.fb : Nat) : ℝ) < (Q + 1 : Nat) := by push_cast; linarith [hF.lt_one]
        have : 2 ^ f.fb < Q + 1 := by exact_mod_cast this
        omega
      obtain ⟨k, hk⟩ : ∃ k, (lastPlace f x - f.maxFin.2).toNat = k + 1 := ⟨(lastPlace f x - f.maxFin.2).toNat - 1, by omega⟩
      rw [hk]
      calc f.maxFin.1 < 2 ^ (f.fb + 1) := h2
        _ = 2 ^ f.fb * 2 ^ 1 := by rw [pow_succ, pow_one]
        _ ≤ Q * 2 ^ (k + 1) := Nat.mul_le_mul hQ (Nat.pow_le_pow_right (by norm_num) (by omega))
  unfold tooBig
  rw [if_pos (by omega), decide_eq_true_eq]
  refine hQ.trans_le (Nat.mul_le_mul_right _ ?_)
  rw [roundedSig_of_split hs]
  split
  · exact le_rfl
  · split <;> omega

end Sys2Proof.Formats
end

section
/-! Rounding to TF8 (R89 to R91, R94), and rounding as a whole (R93 to R98). -/

namespace Sys2Proof.Formats

open Sys2Proof.Machine Sys2Proof.Safety

/-! ### TF8 (R89 to R91) -/

/-- Each body is the largest that is no greater than its own value, and none is greater than body 1. -/
theorem tf8Between_self : ∀ b < 128, b ≠ 0 → tf8Units b ≠ 0 ∧ tf8Units b ≤ 2 ^ 42 ∧ (tf8Between 1 (tf8Units b) tf8Order).1 = b := by
  decide +kernel

/-- A TF8 value that is not sticky rounds to the code that it has (R93). -/
theorem tf8Round_read {mode : BitVec 3} {sat : Bool} {w : Word} {c : Nat} {v : Exact} (hc : c < 256) (hv : tf8Read c = .fin v) :
    tf8Round mode sat w v = (c, 0) := by
  by_cases hb : c % 128 = 0
  · have hc0 : c = 0 := by
      by_contra h
      obtain rfl : c = 128 := by omega
      exact nomatch hv
    subst hc0
    obtain rfl := XVal.fin.inj hv
    rfl
  · obtain ⟨h0, hle, hbt⟩ := tf8Between_self (c % 128) (by omega) hb
    have hs : c / 128 = 0 ∨ c / 128 = 1 := by omega
    have hvv : v = ⟨(c >>> 7) % 2 == 1, tf8Units (c % 128), -21, false⟩ := by
      simp only [tf8Read, beq_iff_eq, hb, if_false, XVal.fin.injEq] at hv
      exact hv.symm
    have hz : v.isZero = false := by simp [hvv, Exact.isZero, h0]
    obtain ⟨hi, hpair⟩ : ∃ hi, tf8Between 1 (tf8Units (c % 128)) tf8Order = (c % 128, hi) := ⟨_, Prod.ext hbt rfl⟩
    unfold tf8Round
    rw [hz, hvv]
    simp only [Bool.false_eq_true, if_false, le_refl, if_true, sub_self, Int.toNat_zero, pow_zero, Nat.mul_one, not_lt.2 hle, decide_false,
      Bool.and_false, Bool.or_false, hpair, beq_self_eq_true, Bool.not_false, Bool.and_true, beq_iff_eq, hb, Prod.mk.injEq, and_true,
      Nat.shiftRight_eq_div_pow]
    rw [show c / 2 ^ 7 = c / 128 from rfl]
    rcases hs with hs | hs <;> rw [hs]
    · exact (Nat.zero_add _).trans (by omega)
    · exact (show 128 + c % 128 = c by omega)

/-! ### The statement -/

/-- The special column of an overflow (R96): the modes that take the largest finite value. -/
theorem overSpecial_eq (f : BinFmt) (mode : BitVec 3) (neg : Bool) : f.overSpecial mode neg = f.signBit neg +
    (if mode = 2 ∨ mode = 6 ∨ (mode = 3 ∧ neg = false) ∨ (mode = 4 ∧ neg = true) then f.maxCode else f.infCode) := by
  have h : ∀ m : BitVec 3, m = 0 ∨ m = 1 ∨ m = 2 ∨ m = 3 ∨ m = 4 ∨ m = 5 ∨ m = 6 ∨ m = 7 := by decide
  rcases h mode with rfl | rfl | rfl | rfl | rfl | rfl | rfl | rfl <;> cases neg <;> rfl

/-- What the mode takes, in the terms of the two neighbours' values. -/
theorem goesUp_iff {mode : BitVec 3} {neg : Bool} {w : Word} {c : Nat} {Q q P t : ℝ} (hP : 0 < P) (hq : q = (Q + t) * P) :
    GoesUp mode neg (c % 2 == 0) w t ↔ match mode.toNat with
      | 1 => Q * P + (Q + 1) * P < 2 * q ∨ (2 * q = Q * P + (Q + 1) * P ∧ c % 2 = 1)
      | 3 => neg = true
      | 4 => neg = false
      | 5 => Q * P + (Q + 1) * P ≤ 2 * q
      | 6 => c % 2 = 0
      | 7 => (w.toNat : ℝ) * ((Q + 1) * P - Q * P) < (q - Q * P) * 2 ^ 32
      | _ => False := by
  have h1 : 2 * q - (Q * P + (Q + 1) * P) = (2 * t - 1) * P := by rw [hq]; ring
  have hlt : Q * P + (Q + 1) * P < 2 * q ↔ 1 < 2 * t := by rw [← sub_pos, h1, mul_pos_iff_of_pos_right hP, sub_pos]
  have hle : Q * P + (Q + 1) * P ≤ 2 * q ↔ 1 ≤ 2 * t := by rw [← sub_nonneg, h1, mul_nonneg_iff_of_pos_right hP, sub_nonneg]
  have heq : 2 * q = Q * P + (Q + 1) * P ↔ 2 * t = 1 := by rw [← sub_eq_zero, h1, mul_eq_zero, or_iff_left hP.ne', sub_eq_zero]
  have hsr : (w.toNat : ℝ) * ((Q + 1) * P - Q * P) < (q - Q * P) * 2 ^ 32 ↔ (w.toNat : ℝ) < t * 2 ^ 32 := by
    rw [show (w.toNat : ℝ) * ((Q + 1) * P - Q * P) = w.toNat * P by ring, show (q - Q * P) * 2 ^ 32 = t * 2 ^ 32 * P by rw [hq]; ring,
      mul_lt_mul_iff_left₀ hP]
  unfold GoesUp
  rw [hlt, hle, heq, hsr]
  rcases mode.toNat with _ | _ | _ | _ | _ | _ | _ | _ | n <;> simp

/-- Settles O20. A code rounds to itself by `round_code`; between two codes `round_between` decides by the fraction of their
distance; beyond the largest finite value `tooBig_of_le`; and TF8 by its table. -/
theorem roundingExact : Obligations.RoundingExact := by
  unfold Obligations.RoundingExact
  refine ⟨fun f mode sat w c v hf hc hv => ?_, fun f mode sat w c x L H q hf hc hL hH hLn hHn hq hlo hhi => ?_,
    fun f mode sat w x q hf hq hbig => ?_, fun mode sat w c v hc hv => tf8Round_read hc hv, fun a mode f => rfl⟩
  · have hs := sound_of_mem hf
    obtain ⟨ex, fr, -, he⟩ := fields_of_read hs hc hv
    exact round_code hs hc hv (by rw [he]) rfl rfl (fun h => nomatch h)
  · have hs := sound_of_mem hf
    obtain ⟨ex, fr, hF, hm, hmL, hmH⟩ := fields_of_neighbours hs hc hL hH (hHn.trans hLn.symm)
    rw [hLn] at hF
    rw [hmL] at hlo
    rw [hmH] at hhi
    obtain ⟨t, hqt, hup, hdown⟩ := round_between (mode := mode) (sat := sat) (w := w) hs hF hm hq hlo hhi
    rw [goesUp_iff (by positivity) hqt, ← hmL, ← hmH] at hup hdown
    intro up
    refine ⟨_, fun h => if_pos h, fun h => if_neg (not_lt.2 h), hup, hdown⟩
  · have hs := sound_of_mem hf
    obtain ⟨hz, hb⟩ := tooBig_of_le (mode := mode) (w := w) hs hq hbig
    rw [round_of_tooBig hz hb, overSpecial_eq]

end Sys2Proof.Formats
end

section
/-! Conversions of single elements: to integers, between integers, and out of a quantised block (R92, R302, R305). -/

namespace Sys2Proof.Formats

open Sys2Proof.Machine Sys2Proof.Safety

/-! ### Integers (R92) -/

/-- A finite value goes to the nearest integer of the range, with nv where it lies outside. -/
theorem toInt_fin {lo hi : Int} (h : lo ≤ hi) (mode : BitVec 3) (w : Word) (v : Exact) {r : Int}
    (hr : r = if v.neg then -((roundInt mode w v).1 : Int) else (roundInt mode w v).1) : toInt lo hi mode w (.fin v) =
      (max lo (min hi r), if r < lo ∨ hi < r then Fl.nv else if (roundInt mode w v).2 then Fl.nx else 0) := by
  unfold toInt
  dsimp only
  rw [← hr]
  split
  · rw [if_pos (Or.inl ‹_›), max_eq_left (by omega)]
  · split
    · rw [if_pos (Or.inr ‹_›), min_eq_left (by omega), max_eq_right h]
    · rw [if_neg (not_or.2 ⟨‹¬ r < lo›, ‹¬ hi < r›⟩), min_eq_right (by omega), max_eq_right (by omega)]

/-- The integer formats with their ranges. -/
def intFormats : List (Fmt × Int × Int) := [(.i8, -128, 127), (.u8, 0, 255), (.i16, -32768, 32767), (.u16, 0, 65535),
  (.i32, -2147483648, 2147483647), (.u32, 0, 4294967295)]

theorem fmtInt_of_mem {r : Fmt × Int × Int} (h : r ∈ intFormats) : fmtInt r.1 = some r.2 := by
  simp only [intFormats, List.mem_cons, List.not_mem_nil, or_false] at h
  rcases h with rfl | rfl | rfl | rfl | rfl | rfl <;> rfl

/-- A code stands for itself, or from the middle of a signed format's codes on for what it lacks to their number. -/
theorem intValue_of_mem {r : Fmt × Int × Int} (h : r ∈ intFormats) {c : Nat} (hc : (c : Int) ≤ r.2.2 - r.2.1) :
    intValue r.1 c = if r.2.2 < (c : Int) then (c : Int) - (r.2.2 - r.2.1 + 1) else c := by
  simp only [intFormats, List.mem_cons, List.not_mem_nil, or_false] at h
  rcases h with rfl | rfl | rfl | rfl | rfl | rfl <;> simp only [intValue, fmtWidth] at hc ⊢ <;> norm_num at hc ⊢
  case inl | inr.inr.inl | inr.inr.inr.inr.inl => split_ifs <;> omega
  all_goals omega

theorem intCode_of_mem {t : Fmt × Int × Int} (h : t ∈ intFormats) (n : Int) : intCode t.1 n = (n % (t.2.2 - t.2.1 + 1)).toNat := by
  simp only [intFormats, List.mem_cons, List.not_mem_nil, or_false] at h
  rcases h with rfl | rfl | rfl | rfl | rfl | rfl <;> norm_num [intCode, fmtWidth]

/-- Between integers the exact value wraps or saturates, with no flag (R302). -/
theorem cvtElem_ints {r t : Fmt × Int × Int} (hr : r ∈ intFormats) (ht : t ∈ intFormats) (nosat ftz : Bool) (mode : BitVec 3) (w : Word)
    {c : Nat} (hc : (c : Int) ≤ r.2.2 - r.2.1) {n : Int} (hn : n = if r.2.2 < (c : Int) then (c : Int) - (r.2.2 - r.2.1 + 1) else c) :
    cvtElem t.1 r.1 nosat ftz mode w c = (((if nosat then n else max t.2.1 (min t.2.2 n)) % (t.2.2 - t.2.1 + 1)).toNat, 0) := by
  unfold cvtElem
  rw [fmtInt_of_mem hr, fmtInt_of_mem ht]
  dsimp only
  rw [intValue_of_mem hr hc, ← hn, intCode_of_mem ht]

/-! ### Values that a format holds exactly -/

/-- A significand of a format's length, with an exponent in its range, is the value of a code. -/
theorem exists_code {f : BinFmt} (hf : Sound f) (hmax : f.maxFin.1 + 1 = 2 ^ (f.fb + 1)) (n : Bool) {k : Nat} {j : Int}
    (hk : k < 2 ^ (f.fb + 1)) (hj : f.emin - f.fb ≤ j) (hs : (k : ℚ) * 2 ^ j < 2 ^ (f.maxFin.2 + f.fb + 1)) :
    ∃ c a, c < 2 ^ f.width ∧ f.read false c = .fin a ∧ a.neg = n ∧ magOf a = k * 2 ^ j := by
  obtain ⟨mx, mr, h2, -, hmr, hmc, hfin⟩ := maxCode_fields hf
  have hA : 2 ^ (f.fb + 1) = 2 ^ f.fb + 2 ^ f.fb := by rw [pow_succ]; omega
  have hcode : ∀ ex fr, fr < 2 ^ f.fb → ex ≤ mx → ∃ c a, c < 2 ^ f.width ∧ f.read false c = .fin a ∧ a.neg = n ∧
      magOf a = sigOf f ex fr * 2 ^ placeOf f ex := by
    intro ex fr hfr hex
    have hF : Fields f (f.signBit n + (ex * 2 ^ f.fb + fr)) n ex fr := by
      refine ⟨hfr, rfl, ?_⟩
      rw [hmc]
      rw [hfin] at hmax
      dsimp only at hmax
      have := Nat.mul_le_mul_right (2 ^ f.fb) hex
      omega
    exact ⟨_, _, (Nat.lt_succ_self _).trans (hF.lt_width hf), hF.read hf, rfl, rfl⟩
  obtain ⟨i, hi⟩ : ∃ i : Nat, j = f.emin - f.fb + i := ⟨(j - (f.emin - f.fb)).toNat, by omega⟩
  induction i generalizing j k with
  | zero =>
    by_cases hkb : k < 2 ^ f.fb
    · obtain ⟨c, a, h1, h3, h4, h5⟩ := hcode 0 k hkb (by omega)
      refine ⟨c, a, h1, h3, h4, h5.trans ?_⟩
      simp [sigOf, placeOf, hi, BinFmt.emin]
    · obtain ⟨c, a, h1, h3, h4, h5⟩ := hcode 1 (k - 2 ^ f.fb) (by omega) (by omega)
      refine ⟨c, a, h1, h3, h4, h5.trans ?_⟩
      rw [sigOf, if_neg one_ne_zero, Nat.add_sub_cancel' (by omega), hi]
      simp [placeOf, BinFmt.emin]
  | succ i ih =>
    by_cases hkb : k < 2 ^ f.fb
    · obtain ⟨c, a, h1, h3, h4, h5⟩ := ih (k := 2 * k) (j := j - 1) (by omega) (by omega) (by
        rw [zpow_sub₀ two_ne_zero, zpow_one]; push_cast; rw [show (2 : ℚ) * k * (2 ^ j / 2) = k * 2 ^ j by ring]; exact hs) (by omega)
      refine ⟨c, a, h1, h3, h4, h5.trans ?_⟩
      rw [zpow_sub₀ two_ne_zero, zpow_one]; push_cast; ring
    · have hplace : placeOf f (i + 2) = j := by rw [placeOf, max_eq_left (by omega), hi, BinFmt.emin]; push_cast; ring
      have hex : i + 2 ≤ mx := by
        have h1 : (2 : ℚ) ^ ((f.fb : Int) + j) < 2 ^ (f.maxFin.2 + f.fb + 1) := by
          refine lt_of_le_of_lt ?_ hs
          rw [zpow_add₀ two_ne_zero, zpow_natCast]
          refine mul_le_mul_of_nonneg_right ?_ (by positivity)
          exact_mod_cast Nat.le_of_not_lt hkb
        have h1 := (zpow_lt_zpow_iff_right₀ (one_lt_two (α := ℚ))).1 h1
        rw [hfin, ← hplace] at h1
        dsimp only [placeOf] at h1
        omega
      obtain ⟨c, a, h1, h3, h4, h5⟩ := hcode (i + 2) (k - 2 ^ f.fb) (by omega) hex
      refine ⟨c, a, h1, h3, h4, h5.trans ?_⟩
      rw [sigOf, if_neg (by omega), Nat.add_sub_cancel' (by omega), hplace]

/-- Each TF8 value has seven significant bits. -/
theorem tf8Units_short : ∀ b < 128, ∃ k < 128, tf8Units b = k * 2 ^ (Nat.log2 (tf8Units b) - 6) := by
  have h : ∀ b < 128, tf8Units b / 2 ^ (Nat.log2 (tf8Units b) - 6) < 128 ∧
      tf8Units b = tf8Units b / 2 ^ (Nat.log2 (tf8Units b) - 6) * 2 ^ (Nat.log2 (tf8Units b) - 6) := by decide +kernel
  exact fun b hb => ⟨_, (h b hb).1, (h b hb).2⟩

/-- The values of the block formats are short and not small. -/
theorem readFmt_short {S : Fmt} (hS : S ∈ [Fmt.tf8, .e4m3, .e5m2]) {c : Nat} (hc : c < 256) {v : Exact} (hv : readFmt S false c = .fin v) :
    v.sticky = false ∧ ∃ k < 128, ∃ j : Int, -21 ≤ j ∧ magOf v = (k : ℕ) * (2 : ℚ) ^ j := by
  have hbin : ∀ {f : BinFmt}, Sound f → f.fb ≤ 5 → -21 ≤ f.emin - f.fb → c < 2 ^ f.width → f.read false c = .fin v →
      v.sticky = false ∧ ∃ k < 128, ∃ j : Int, -21 ≤ j ∧ magOf v = (k : ℕ) * (2 : ℚ) ^ j := by
    intro f hf hfb he hw hr
    obtain ⟨ex, fr, hF, hvv⟩ := fields_of_read hf hw hr
    have hsig := sigOf_lt (ex := ex) hF.frac
    have hpow : 2 ^ (f.fb + 1) ≤ 2 ^ 6 := Nat.pow_le_pow_right (by norm_num) (by omega)
    refine ⟨by rw [hvv], sigOf f ex fr, by omega, placeOf f ex, ?_, by rw [hvv]; rfl⟩
    unfold placeOf
    unfold BinFmt.emin at he
    omega
  simp only [List.mem_cons, List.not_mem_nil, or_false] at hS
  rcases hS with rfl | rfl | rfl
  · have hv : tf8Read c = .fin v := hv
    unfold tf8Read at hv
    dsimp only at hv
    split at hv
    · split at hv
      · exact nomatch hv
      · obtain rfl := XVal.fin.inj hv
        exact ⟨rfl, 0, by decide, 0, by decide, by simp [magOf, Exact.zero]⟩
    · obtain rfl := XVal.fin.inj hv
      obtain ⟨k, hk, he⟩ := tf8Units_short (c % 128) (Nat.mod_lt _ (by decide))
      refine ⟨rfl, k, hk, (Nat.log2 (tf8Units (c % 128)) - 6 : Nat) + -21, by omega, ?_⟩
      rw [magOf, zpow_add₀ two_ne_zero, zpow_natCast, ← mul_assoc]
      congr 1
      exact_mod_cast he
  · exact hbin (f := BinFmt.E4M3) (sound_of_mem (by simp)) (by decide) (by decide) hc hv
  · exact hbin (f := BinFmt.E5M2) (sound_of_mem (by simp)) (by decide) (by decide) hc hv

/-! ### Dequantised elements (R305) -/

/-- A tiny result is flushed under ftz (R87). -/
theorem round_of_tiny {f : BinFmt} {mode : BitVec 3} {sat : Bool} {w : Word} {x : Exact} (hz : x.isZero = false)
    (ht : x.binade < f.emin) : f.round mode sat true w x = (f.signBit x.neg, Fl.uf ||| Fl.nx) := by
  unfold BinFmt.round
  rw [hz]
  exact (if_neg Bool.false_ne_true).trans (if_pos (by simpa using ht))

/-- The value of an element under a scale. -/
def scaledBy (v : Exact) (E : Nat) : Exact := { v with e := v.e + (E : Int) - 127 }

theorem magOf_scaledBy (v : Exact) (E : Nat) : magOf (scaledBy v E) = magOf v * (2 : ℚ) ^ ((E : Int) - 127) := by
  rw [magOf, magOf, mul_assoc, ← zpow_add₀ two_ne_zero]
  simp only [scaledBy]
  congr 2; ring

theorem dequant_fin {S : Fmt} {ftz : Bool} {E c : Nat} {v : Exact} (hE : E ≠ 255) (hv : readFmt S false c = .fin v) :
    dequant S ftz E c = if !(scaledBy v E).isZero && decide (128 ≤ (scaledBy v E).binade) then (infOf BinFmt.f32 v.neg, Fl.of ||| Fl.nx)
      else BinFmt.f32.round 1 false ftz 0 (scaledBy v E) := by
  unfold dequant
  rw [if_neg hE, hv]
  rfl

/-- An element that is a number: infinite beyond binary32, flushed under ftz where it is tiny, else exact. -/
theorem dequant_number {S : Fmt} (hS : S ∈ [Fmt.tf8, .e4m3, .e5m2]) {ftz : Bool} {E c : Nat} (hc : c < 256) {v : Exact} (hE : E ≠ 255)
    (hv : readFmt S false c = .fin v) {size : ℚ} (hsize : size = magOf v * (2 : ℚ) ^ ((E : Int) - 127)) :
    ((2 : ℚ) ^ (128 : Int) ≤ size → dequant S ftz E c = ((if v.neg then 0xFF800000 else 0x7F800000), Fl.of ||| Fl.nx)) ∧
    (ftz = true → 0 < size → size < (2 : ℚ) ^ (-126 : Int) → dequant S ftz E c = ((if v.neg then 0x80000000 else 0), Fl.uf ||| Fl.nx)) ∧
    (size < (2 : ℚ) ^ (128 : Int) → (ftz = true → size = 0 ∨ (2 : ℚ) ^ (-126 : Int) ≤ size) →
      (dequant S ftz E c).2 = 0 ∧ ∃ a : Exact, BinFmt.f32.read false (dequant S ftz E c).1 = .fin a ∧ a.neg = v.neg ∧ magOf a = size) := by
  obtain ⟨hs, k, hk, j, hj, hkj⟩ := readFmt_short hS hc hv
  have hmag : magOf (scaledBy v E) = size := (magOf_scaledBy v E).trans hsize.symm
  have hst : StandsFor (scaledBy v E) (size : ℝ) := standsFor_of_eq hs (by rw [hmag])
  have hcast : ∀ {a : Int} {q : ℚ}, (2 : ℚ) ^ a ≤ q ↔ (2 : ℝ) ^ a ≤ (q : ℝ) := fun {a q} => by
    rw [← Rat.cast_le (K := ℝ)]; push_cast; rfl
  have hpos : 0 < size → (0 : ℝ) < size := fun h => by exact_mod_cast h
  have hbin : ∀ a : Int, 0 < size → (a ≤ (scaledBy v E).binade ↔ (2 : ℚ) ^ a ≤ size) := fun a h => by
    rw [le_binade_iff hst (hpos h), hcast]
  have hnz : 0 < size → (scaledBy v E).isZero = false := fun h => (binade_bounds hst (hpos h)).2.2
  have hsz : (scaledBy v E).isZero = false → 0 < size := fun h => by
    have hm : v.m ≠ 0 := fun h0 => by simp [Exact.isZero, scaledBy, h0, hs] at h
    rw [← hmag]
    exact mul_pos (by exact_mod_cast Nat.pos_of_ne_zero hm) (by positivity)
  rw [dequant_fin hE hv]
  have hin : size < (2 : ℚ) ^ (128 : Int) →
      ¬ (!(scaledBy v E).isZero && decide (128 ≤ (scaledBy v E).binade)) = true := fun hlt h => by
    simp only [Bool.and_eq_true, Bool.not_eq_true', decide_eq_true_eq] at h
    exact absurd hlt (not_lt.2 ((hbin 128 (hsz h.1)).1 h.2))
  refine ⟨fun hge => ?_, fun hf hp hlt => ?_, fun hlt hft => ?_⟩
  · have hp : 0 < size := lt_of_lt_of_le (by positivity) hge
    rw [if_pos (by simp [hnz hp, (hbin 128 hp).2 hge])]
    cases v.neg <;> rfl
  · have ht : (scaledBy v E).binade < BinFmt.f32.emin := not_le.1 fun h => absurd hlt (not_lt.2 ((hbin (-126) hp).1 h))
    rw [if_neg (hin (hlt.trans (zpow_lt_zpow_right₀ one_lt_two (by decide)))), hf, round_of_tiny (hnz hp) ht]
    refine Prod.ext ?_ rfl
    show BinFmt.f32.signBit v.neg = _
    cases v.neg <;> rfl
  · have hval : size = (k : ℕ) * (2 : ℚ) ^ (j + ((E : Int) - 127)) := by
      rw [hsize, hkj, mul_assoc, ← zpow_add₀ two_ne_zero]
    obtain ⟨code, a, hcw, hread, hneg, ha⟩ := exists_code (f := BinFmt.f32) (sound_of_mem (by simp)) (by decide) v.neg (k := k)
      (j := j + ((E : Int) - 127)) (hk.trans (by decide)) (by show (-149 : Int) ≤ _; omega) (by rw [← hval]; exact hlt)
    have hround : BinFmt.f32.round 1 false ftz 0 (scaledBy v E) = (code, 0) :=
      round_code (sound_of_mem (by simp)) hcw hread hs hneg.symm (by rw [hmag, ha, hval]) fun hf hz => by
        rcases hft hf with h0 | hge
        · exact absurd (hsz hz) (by rw [h0]; exact lt_irrefl 0)
        · exact (hbin (-126) (hsz hz)).2 hge
    rw [if_neg (hin hlt), hround]
    exact ⟨rfl, a, hread, hneg, ha.trans hval.symm⟩

end Sys2Proof.Formats
end

section
/-! Block quantisation (R303, R304) and the conversion words (R301 to R305). -/

namespace Sys2Proof.Formats

open Sys2Proof.Machine Sys2Proof.Safety

/-! ### Results one after another (R98) -/

/-- The generator's state after `k` results. -/
def seedAt (mode : BitVec 3) (w : Word) (k : Nat) : Word := if mode = 7 then srNext^[k] w else w

theorem seedAt_succ (mode : BitVec 3) (w : Word) (k : Nat) :
    seedAt mode w (k + 1) = if mode = 7 then srNext (seedAt mode w k) else seedAt mode w k := by
  unfold seedAt
  split <;> simp only [Function.iterate_succ_apply']

/-- The results of a list of values, each with its own state of the generator, with their flags OR-ed. -/
theorem results_foldl {β : Type} (mode : BitVec 3) (f : β → Word → Nat × Fl) (y : Nat → β) (w : Word) (n : Nat) :
    ((List.range n).map y).foldl (fun (qa : List Nat × Acc) y => (qa.1 ++ [(qa.2.result mode (f y)).1], (qa.2.result mode (f y)).2)) ([], ⟨0, w⟩) =
      ((List.range n).map fun k => (f (y k) (seedAt mode w (k + 1))).1,
        ⟨((List.range n).map fun k => (f (y k) (seedAt mode w (k + 1))).2).foldl (· ||| ·) 0, seedAt mode w n⟩) := by
  induction n with
  | zero => simp [seedAt]
  | succ n ih =>
    rw [List.range_succ, List.map_append, List.foldl_append, ih]
    simp only [List.map_cons, List.map_nil, List.foldl_cons, List.foldl_nil, List.map_append, List.foldl_append, Acc.result, seedAt_succ mode w n]

/-! ### The scale of a block (R303) -/

theorem blockScale_of_not_fin {t : Fmt} {ys : List XVal} {y : XVal} (hy : y ∈ ys) (h : ∀ v, y ≠ .fin v) : blockScale t ys = 255 := by
  unfold blockScale
  refine if_pos (List.any_eq_true.2 ⟨y, hy, ?_⟩)
  cases y with
  | fin v => exact absurd rfl (h v)
  | nan | inf => rfl

/-- The binades of the values that are not 0. -/
def binades (v : Nat → Exact) (n : Nat) : List Int := (List.range n).filterMap fun k => if (v k).m == 0 then none else some (v k).binade

theorem mem_binades {v : Nat → Exact} {n : Nat} {b : Int} : b ∈ binades v n ↔ ∃ k < n, (v k).m ≠ 0 ∧ (v k).binade = b := by
  simp only [binades, List.mem_filterMap, List.mem_range]
  refine exists_congr fun k => and_congr_right fun _ => ?_
  by_cases h : (v k).m = 0 <;> simp [h]

theorem blockScale_of_fin {t : Fmt} {y : Nat → XVal} {v : Nat → Exact} {n : Nat} (h : ∀ k < n, y k = .fin (v k)) :
    blockScale t ((List.range n).map y) = match binades v n with
      | [] => 127
      | b :: r => (max 0 (min 254 (r.foldl max b - topBinade t + 127))).toNat := by
  have hy : (List.range n).map y = (List.range n).map fun k => .fin (v k) := List.map_congr_left fun k hk => h k (List.mem_range.1 hk)
  unfold blockScale
  rw [hy, if_neg (by simp)]
  simp only [List.filterMap_map]
  rfl

theorem foldl_max_eq {B b : Int} {r : List Int} (hm : B ∈ b :: r) (hB : ∀ c ∈ b :: r, c ≤ B) : r.foldl max b = B := by
  induction r generalizing b with
  | nil => exact (List.mem_singleton.1 hm).symm
  | cons c r ih =>
    have hb := hB b (by simp)
    have hc := hB c (by simp)
    refine ih ?_ (by simpa [hb, hc] using fun d hd => hB d (by simp [hd]))
    rcases List.mem_cons.1 hm with rfl | hm
    · rw [max_eq_left hc]; exact List.mem_cons_self
    · rcases List.mem_cons.1 hm with rfl | hm
      · rw [max_eq_right hb]; exact List.mem_cons_self
      · exact List.mem_cons_of_mem _ hm

/-- A block of numbers: 127 where all are 0, else its largest binade less the format's top, within 0 to 254. -/
theorem blockScale_zeros {t : Fmt} {y : Nat → XVal} {v : Nat → Exact} {n : Nat} (h : ∀ k < n, y k = .fin (v k))
    (hz : ∀ k < n, (v k).m = 0) : blockScale t ((List.range n).map y) = 127 := by
  have hb : binades v n = [] := List.eq_nil_iff_forall_not_mem.2 fun b hb => by
    obtain ⟨k, hk, hm, -⟩ := mem_binades.1 hb
    exact hm (hz k hk)
  rw [blockScale_of_fin h, hb]

theorem blockScale_max {t : Fmt} {y : Nat → XVal} {v : Nat → Exact} {n : Nat} (h : ∀ k < n, y k = .fin (v k)) {b : Int}
    (hm : ∃ k < n, (v k).m ≠ 0 ∧ (v k).binade = b) (hb : ∀ k < n, (v k).m ≠ 0 → (v k).binade ≤ b) :
    (blockScale t ((List.range n).map y) : Int) = max 0 (min 254 (b - topBinade t + 127)) := by
  rw [blockScale_of_fin h]
  cases hl : binades v n with
  | nil => exact absurd (mem_binades.2 hm) (by simp [hl])
  | cons c r =>
    dsimp only
    rw [foldl_max_eq (hl ▸ mem_binades.2 hm) fun d hd => ?_, Int.toNat_of_nonneg (le_max_left _ _)]
    obtain ⟨k, hk, hkm, rfl⟩ := mem_binades.1 (hl ▸ hd)
    exact hb k hk hkm

theorem blockScale_ne {t : Fmt} {y : Nat → XVal} {v : Nat → Exact} {n : Nat} (h : ∀ k < n, y k = .fin (v k)) :
    blockScale t ((List.range n).map y) ≠ 255 := by
  rw [blockScale_of_fin h]
  cases binades v n with
  | nil => exact show (127 : Nat) ≠ 255 by decide
  | cons b r =>
    have h : (max 0 (min 254 (r.foldl max b - topBinade t + 127))).toNat ≤ 254 := by omega
    exact (Nat.lt_succ_of_le h).ne

/-! ### The quantised lane (R303, R304) -/

/-- The values that a lane quantises. -/
def quantIn (x : X) (a : VReg) (l k : Nat) : XVal := BinFmt.f32.read (x.f.rmode.getLsbD 3) (x.g.vget (a.toNat + k) l).toNat

/-- Element `k` of a quantised lane and its flags. -/
def quantOut (x : X) (t : Fmt) (rnd : BitVec 3) (a : VReg) (l k : Nat) : Nat × Fl :=
  quantElem t (blockScale t ((List.range 32).map (quantIn x a l))) (modeOf x.f rnd) (seedAt (modeOf x.f rnd) (x.g.seed l) (k + 1)) (quantIn x a l k)

theorem take_drop_range_map {β : Type} (f : Nat → β) {n a m : Nat} (h : a + m ≤ n) :
    (((List.range n).map f).drop a).take m = (List.range m).map fun i => f (a + i) := by
  refine List.ext_getElem (by simp; omega) fun i h1 h2 => ?_
  simp

theorem quantLane_eq (x : X) (t : Fmt) (rnd : BitVec 3) (a : VReg) (l : Nat) : quantLane x t rnd a l =
    ((List.range 8).map (fun j => BitVec.ofNat 32 (leNat ((List.range 4).map fun i => BitVec.ofNat 8 (quantOut x t rnd a l (4 * j + i)).1))),
      blockScale t ((List.range 32).map (quantIn x a l)),
      ⟨((List.range 32).map fun k => (quantOut x t rnd a l k).2).foldl (· ||| ·) 0, seedAt (modeOf x.f rnd) (x.g.seed l) 32⟩) := by
  have h := results_foldl (modeOf x.f rnd) (fun y w => quantElem t (blockScale t ((List.range 32).map (quantIn x a l))) (modeOf x.f rnd) w y)
    (quantIn x a l) (x.g.seed l) 32
  unfold quantLane
  dsimp only
  rw [show ((List.range 32).map fun k => BinFmt.f32.read (ftzOf x.f) (x.g.vget (a.toNat + k) l).toNat) = (List.range 32).map (quantIn x a l)
    from rfl, h]
  refine congrArg (·, _) (List.map_congr_left fun j hj => ?_)
  rw [take_drop_range_map _ (by have := List.mem_range.1 hj; omega), List.map_map]
  rfl

/-- A byte of a register made of four. -/
theorem byte_of_leNat (b : Nat → Byte) {i : Nat} (hi : i < 4) :
    ((BitVec.ofNat 32 (leNat ((List.range 4).map b)) : Word) >>> (8 * i)).setWidth 8 = b i := by
  have h4 : leNat ((List.range 4).map b) = (b 0).toNat + 256 * ((b 1).toNat + 256 * ((b 2).toNat + 256 * (b 3).toNat)) := rfl
  have h0 := (b 0).isLt
  have h1 := (b 1).isLt
  have h2 := (b 2).isLt
  have h3 := (b 3).isLt
  apply BitVec.eq_of_toNat_eq
  rw [BitVec.toNat_setWidth, BitVec.toNat_ushiftRight, BitVec.toNat_ofNat, h4, Nat.shiftRight_eq_div_pow]
  rcases (by omega : i = 0 ∨ i = 1 ∨ i = 2 ∨ i = 3) with rfl | rfl | rfl | rfl <;> norm_num <;> omega

theorem quantLane_byte {x : X} {t : Fmt} {rnd : BitVec 3} {a : VReg} {l k : Nat} (hk : k < 32) :
    (((quantLane x t rnd a l).1.getD (k / 4) 0) >>> (8 * (k % 4))).setWidth 8 = (BitVec.ofNat 8 (quantOut x t rnd a l k).1 : Byte) := by
  rw [quantLane_eq]
  have hj : k / 4 < 8 := by omega
  simp only [List.getD_eq_getElem?_getD, List.getElem?_map, List.getElem?_range hj, Option.map_some, Option.getD_some]
  rw [byte_of_leNat (fun i => BitVec.ofNat 8 (quantOut x t rnd a l (4 * (k / 4) + i)).1) (Nat.mod_lt k (by decide)), Nat.div_add_mod]

/-- The flags of signalling NaNs, OR-ed. -/
theorem sigFl_foldl (y : Nat → XVal) (n : Nat) : ((List.range n).map fun k => sigFl [y k]).foldl (· ||| ·) 0 =
    if (List.range n).any fun k => y k == .nan true then Fl.nv else 0 := by
  induction n with
  | zero => rfl
  | succ n ih =>
    rw [List.range_succ, List.map_append, List.foldl_append, ih, List.any_append]
    simp only [List.map_cons, List.map_nil, List.foldl_cons, List.foldl_nil, sigFl, List.any_cons, List.any_nil, Bool.or_false]
    cases (List.range n).any fun k => y k == .nan true <;> cases y n == .nan true <;> rfl

/-- A block with a value that is no number (R303). -/
theorem quantOut_of_not_fin {x : X} {t : Fmt} {rnd : BitVec 3} {a : VReg} {l : Nat} (h : ∃ k < 32, ∀ v, quantIn x a l k ≠ .fin v) (k : Nat) :
    quantOut x t rnd a l k = (0, sigFl [quantIn x a l k]) := by
  obtain ⟨j, hj, hv⟩ := h
  unfold quantOut quantElem
  rw [if_pos (blockScale_of_not_fin (List.mem_map_of_mem (List.mem_range.2 hj)) hv)]

/-- A block of numbers: each scaled and rounded (R303, R304). -/
theorem quantOut_of_fin {x : X} {t : Fmt} {rnd : BitVec 3} {a : VReg} {l : Nat} {v : Nat → Exact} (h : ∀ k < 32, quantIn x a l k = .fin (v k))
    {k : Nat} (hk : k < 32) : quantOut x t rnd a l k = roundFmt t false false (modeOf x.f rnd) (seedAt (modeOf x.f rnd) (x.g.seed l) (k + 1))
      { v k with e := (v k).e + 127 - (blockScale t ((List.range 32).map (quantIn x a l)) : Int) } := by
  unfold quantOut quantElem
  rw [if_neg (blockScale_ne h), h k hk]
  exact Prod.ext rfl (BitVec.or_zero)

/-! ### The words -/

theorem exec_qblk (p : Pre) (t : Fmt) (rnd : BitVec 3) (d a b : VReg) (s : State) : exec (.qblk p t rnd d a b) s = execQblk p t rnd d a b s := rfl
theorem exec_dqblk (p : Pre) (t : Fmt) (d a : VReg) (b : VS) (s : State) : exec (.dqblk p t d a b) s = execDqblk p t d a b s := rfl

theorem qblk_operand {p : Pre} {t : Fmt} {rnd : BitVec 3} {d a b : VReg} {s : State} {x : X} (h : Executes (.qblk p t rnd d a b) s x)
    (ht : fmtAt t x.f.fmt = .i8) : Takes (.qblk p t rnd d a b) s x (Event.plain 0x09 0 x.lanes) :=
  Glance.takes_of_body h (exec_qblk ..) (if_pos ht)

theorem dqblk_operand {p : Pre} {t : Fmt} {d a : VReg} {b : VS} {s : State} {x : X} (h : Executes (.dqblk p t d a b) s x)
    (ht : fmtAt t x.f.fmt = .i8) : Takes (.dqblk p t d a b) s x (Event.plain 0x09 0 x.lanes) :=
  Glance.takes_of_body h (exec_dqblk ..) (if_pos ht)

/-- What `QBLK` writes in a lane: eight registers, and the scale after them. -/
def quantRegs (x : X) (t : Fmt) (rnd : BitVec 3) (d a b : VReg) (l : Nat) : List (Nat × Word) :=
  (List.range 8).map (fun j => (d.toNat + j, (quantLane x t rnd a l).1.getD j 0)) ++ [(b.toNat, BitVec.ofNat 32 (quantLane x t rnd a l).2.1)]

theorem qblk_writes {p : Pre} {t : Fmt} {rnd : BitVec 3} {d a b : VReg} {s : State} {x : X} (h : Executes (.qblk p t rnd d a b) s x)
    (ht : fmtAt t x.f.fmt ≠ .i8) : ∃ g, LanesOnly x.g g (b.toNat :: (List.range 8).map (d.toNat + ·)) x.lanes ∧
      Yields (.qblk p t rnd d a b) s x g ∧ ∀ l < 128, x.lanes.getLsbD l = true → let q := quantLane x (fmtAt t x.f.fmt) rnd a l
        (∀ j < 8, d.toNat + j ≠ b.toNat → g.vget (d.toNat + j) l = q.1.getD j 0) ∧ g.vget b.toNat l = BitVec.ofNat 32 q.2.1 ∧
        Flagged x.g g l q.2.2.fl ∧ g.seed l = q.2.2.seed := by
  let q := fun l => quantLane x (fmtAt t x.f.fmt) rnd a l
  let ws := fun l => quantRegs x (fmtAt t x.f.fmt) rnd d a b l
  have hregs : ∀ l, ∀ w ∈ ws l, 0 + w.1 ∈ b.toNat :: (List.range 8).map (d.toNat + ·) := by
    intro l w hw
    rw [Nat.zero_add]
    rcases List.mem_append.1 hw with hw | hw
    · obtain ⟨j, hj, rfl⟩ := List.mem_map.1 hw
      exact List.mem_cons_of_mem _ (List.mem_map_of_mem (f := (d.toNat + ·)) hj)
    · rw [List.mem_singleton.1 hw]; exact List.mem_cons_self
  have hstep : ∀ g l, l < 128 → LanesOnly g ((setRegs 0 l (ws l) g).account l (q l).2.2) (b.toNat :: (List.range 8).map (d.toNat + ·)) (laneBit l) :=
    fun g l hl => lanesOnly_setRegs hl (hregs l) _ g
  refine ⟨(lanesOf x.lanes).foldl (fun g l => (setRegs 0 l (ws l) g).account l (q l).2.2) x.g, lanesOnly_fold hstep x.g, ?_, fun l hl hm => ?_⟩
  · refine Glance.yields_of_body (f := fun g => (lanesOf x.lanes).foldl (fun g l => (setRegs 0 l (ws l) g).account l (q l).2.2) g) h (exec_qblk ..)
      ((if_neg ht).trans ?_)
    simp only [upd, setRegs, ws, quantRegs, List.foldl_append, List.foldl_map, List.foldl_cons, List.foldl_nil, Nat.zero_add, q]
  · refine lane_of_fold (P := fun l g => (∀ j < 8, d.toNat + j ≠ b.toNat → g.vget (d.toNat + j) l = (q l).1.getD j 0) ∧
      g.vget b.toNat l = BitVec.ofNat 32 (q l).2.1 ∧ Flagged x.g g l (q l).2.2.fl ∧ g.seed l = (q l).2.2.seed) hstep
      (fun g l hl hg => ?_) (fun g g' l hs hg => ?_) hl hm
    · obtain ⟨hv, hf, hd⟩ := lane_setRegs (d := 0) (ws := ws l) hg (q l).2.2
      have hsplit : setRegs 0 l (ws l) g = (setRegs d.toNat l ((List.range 8).map fun j => (j, (q l).1.getD j 0)) g).vset b.toNat l
          (BitVec.ofNat 32 (q l).2.1) := by
        simp only [setRegs, ws, quantRegs, List.foldl_append, List.foldl_map, List.foldl_cons, List.foldl_nil, Nat.zero_add, q]
      refine ⟨fun j hj hne => ?_, ?_, hf, hd⟩
      · rw [hv, hsplit, Group.vget_vset _ _ _ _ _ _ hl hl, if_neg (fun e => hne e.1)]
        exact vget_setRegs hl (by simp [List.map_map, Function.comp_def, List.nodup_range]) g (j, (q l).1.getD j 0)
          (List.mem_map.2 ⟨j, List.mem_range.2 hj, rfl⟩)
      · rw [hv, hsplit, Group.vget_vset _ _ _ _ _ _ hl hl, if_pos ⟨rfl, rfl⟩]
    · obtain ⟨hr, hb, hf, hd⟩ := hg
      exact ⟨fun j hj hne => (hs.vget _).trans (hr j hj hne), (hs.vget _).trans hb, hs.flagged hf, hs.seed.trans hd⟩

/-- Flags raised one after another. -/
theorem flagged_trans {x g h : Group} {l : Nat} {a b : Fl} (ha : Flagged x g l a) (hb : Flagged g h l b) : Flagged x h l (a ||| b) := by
  unfold Flagged at *
  rw [hb, BitVec.and_or_distrib_right, ha, ← BitVec.and_or_distrib_right, BitVec.setWidth_or, BitVec.or_assoc]

theorem flagged_zero (g : Group) (l : Nat) : Flagged g g l 0 := by simp [Flagged]

theorem SameLane.flagged_left {l : Nat} {x g h : Group} {fl : Fl} (s : SameLane l x g) (hf : Flagged g h l fl) : Flagged x h l fl := by
  unfold Flagged at hf ⊢
  rw [hf, s.flags]

/-- Registers of one lane written one after another, each with its flags. -/
def restoreRegs (d l : Nat) (q : Nat → Nat × Fl) (n : Nat) (g : Group) : Group :=
  (List.range n).foldl (fun g k => (g.vset (d + k) l (BitVec.ofNat 32 (q k).1)).account l ⟨(q k).2, g.seed l⟩) g

theorem restoreRegs_succ (d l : Nat) (q : Nat → Nat × Fl) (n : Nat) (g : Group) : restoreRegs d l q (n + 1) g =
    (setRegs d l [(n, BitVec.ofNat 32 (q n).1)] (restoreRegs d l q n g)).account l ⟨(q n).2, (restoreRegs d l q n g).seed l⟩ := by
  rw [restoreRegs, List.range_succ, List.foldl_append]
  rfl

theorem restoreRegs_only {d l n m : Nat} (hl : l < 128) (hm : n ≤ m) (q : Nat → Nat × Fl) (g : Group) :
    LanesOnly g (restoreRegs d l q n g) ((List.range m).map (d + ·)) (laneBit l) := by
  induction n with
  | zero => exact lanesOnly_refl ..
  | succ n ih =>
    rw [restoreRegs_succ]
    refine lanesOnly_trans (ih (by omega)) (lanesOnly_setRegs hl (fun w hw => ?_) _ _)
    rw [List.mem_singleton.1 hw]
    exact List.mem_map_of_mem (List.mem_range.2 hm)

theorem restoreRegs_lane {d l : Nat} (hl : l < 128) (q : Nat → Nat × Fl) (n : Nat) (g : Group) :
    (∀ k < n, (restoreRegs d l q n g).vget (d + k) l = BitVec.ofNat 32 (q k).1) ∧ (restoreRegs d l q n g).seed l = g.seed l ∧
      Flagged g (restoreRegs d l q n g) l (((List.range n).map fun k => (q k).2).foldl (· ||| ·) 0) := by
  induction n with
  | zero => exact ⟨fun k hk => absurd hk (Nat.not_lt_zero k), rfl, flagged_zero g l⟩
  | succ n ih =>
    obtain ⟨hv, hd, hf⟩ := ih
    obtain ⟨hv', hf', hd'⟩ := lane_setRegs (d := d) (ws := [(n, BitVec.ofNat 32 (q n).1)]) (SameLane.refl l (restoreRegs d l q n g))
      ⟨(q n).2, (restoreRegs d l q n g).seed l⟩
    rw [restoreRegs_succ]
    refine ⟨fun k hk => ?_, hd'.trans hd, ?_⟩
    · rw [hv', setRegs, List.foldl_cons, List.foldl_nil, Group.vget_vset _ _ _ _ _ _ hl hl]
      rcases Nat.lt_succ_iff_lt_or_eq.1 hk with hk | rfl
      · rw [if_neg (by omega), hv k hk]
      · rw [if_pos ⟨rfl, rfl⟩]
    · rw [List.range_succ, List.map_append, List.foldl_append]
      exact flagged_trans hf hf'

/-- Element `k` that `DQBLK` restores in a lane. -/
def dequantOut (x : X) (t : Fmt) (a : VReg) (b : VS) (l k : Nat) : Nat × Fl :=
  dequant t (x.f.rmode.getLsbD 3) ((VSval x.g 0 l b).toNat % 256) ((x.g.vget (a.toNat + k / 4) l).toNat / 2 ^ (8 * (k % 4)) % 256)

theorem dqblk_writes {p : Pre} {t : Fmt} {d a : VReg} {b : VS} {s : State} {x : X} (h : Executes (.dqblk p t d a b) s x)
    (ht : fmtAt t x.f.fmt ≠ .i8) : ∃ g, LanesOnly x.g g ((List.range 32).map (d.toNat + ·)) x.lanes ∧
      Yields (.dqblk p t d a b) s x g ∧ ∀ l < 128, x.lanes.getLsbD l = true → let q := dequantOut x (fmtAt t x.f.fmt) a b l
        (∀ k < 32, g.vget (d.toNat + k) l = BitVec.ofNat 32 (q k).1) ∧ g.seed l = x.g.seed l ∧
        Flagged x.g g l (((List.range 32).map fun k => (q k).2).foldl (· ||| ·) 0) := by
  let q := dequantOut x (fmtAt t x.f.fmt) a b
  have hstep : ∀ g l, l < 128 → LanesOnly g (restoreRegs d.toNat l (q l) 32 g) ((List.range 32).map (d.toNat + ·)) (laneBit l) :=
    fun g l hl => restoreRegs_only hl le_rfl (q l) g
  refine ⟨(lanesOf x.lanes).foldl (fun g l => restoreRegs d.toNat l (q l) 32 g) x.g, lanesOnly_fold hstep x.g,
    Glance.yields_of_body (f := fun g => (lanesOf x.lanes).foldl (fun g l => restoreRegs d.toNat l (q l) 32 g) g) h (exec_dqblk ..)
      (if_neg ht), fun l hl hm => ?_⟩
  refine lane_of_fold (P := fun l g => (∀ k < 32, g.vget (d.toNat + k) l = BitVec.ofNat 32 (q l k).1) ∧ g.seed l = x.g.seed l ∧
    Flagged x.g g l (((List.range 32).map fun k => (q l k).2).foldl (· ||| ·) 0)) hstep (fun g l hl hg => ?_) (fun g g' l hs hg => ?_) hl hm
  · obtain ⟨hv, hd, hf⟩ := restoreRegs_lane (d := d.toNat) hl (q l) 32 g
    exact ⟨hv, hd.trans hg.seed, hg.flagged_left hf⟩
  · obtain ⟨hv, hd, hf⟩ := hg
    exact ⟨fun k hk => (hs.vget _).trans (hv k hk), hs.seed.trans hd, hs.flagged hf⟩

/-- The largest binade of a block target (R303). -/
theorem topBinade_eq {t : Fmt} : t ∈ [Fmt.tf8, .e4m3, .e5m2] → topBinade t = match t with
    | .tf8 => 0
    | .e4m3 => 8
    | _ => 15 := by
  intro h
  simp only [List.mem_cons, List.not_mem_nil, or_false] at h
  rcases h with rfl | rfl | rfl <;> rfl

/-- Settles O21: the words by the lanes that they write, the elements by the lemmas on each kind of conversion. -/
theorem conversions : Obligations.Conversions := by
  unfold Obligations.Conversions
  intro p e tgt src rnd d dv av b a nosat s x T S ftz mode operand
  refine ⟨fun h => rounds_of_fpBlock h rfl, fun h ht => qblk_operand h ht, fun h ht => qblk_writes h ht, fun h ht => dqblk_operand h ht,
    fun h ht => dqblk_writes h ht, fun lo hi w g n v hlo hhi => ⟨rfl, rfl, toInt_fin (hlo.trans hhi) mode w v rfl⟩,
    fun r hr t ht w c hc => cvtElem_ints hr ht nosat ftz mode w hc rfl, fun hT l hl => ?_, fun hS E c n g v hE hc => ?_⟩
  · intro y q byte seed top
    have hq : q = _ := quantLane_eq x T rnd av l
    have hbyte : ∀ k < 32, byte k = BitVec.ofNat 8 (quantOut x T rnd av l k).1 := fun k hk => quantLane_byte hk
    refine ⟨by rw [hq]; rfl, fun hn => ⟨?_, fun k hk => ?_, ?_⟩, fun v hv => ⟨fun hz => ?_, fun b hm hb => ?_, fun k hk => ?_, ?_⟩⟩
    · obtain ⟨k, hk, hnf⟩ := hn
      rw [hq]
      exact blockScale_of_not_fin (List.mem_map_of_mem (List.mem_range.2 hk)) hnf
    · rw [hbyte k hk, quantOut_of_not_fin hn]; rfl
    · rw [hq]
      simp only [quantOut_of_not_fin hn]
      exact sigFl_foldl (quantIn x av l) 32
    · rw [hq]; exact blockScale_zeros hv hz
    · rw [hq]
      exact (blockScale_max hv hm hb).trans (congrArg (fun z => max 0 (min 254 (b - z + 127))) (topBinade_eq hT))
    · rw [hbyte k hk, quantOut_of_fin hv hk, hq]; rfl
    · rw [hq]
      exact congrArg (List.foldl (· ||| ·) 0) (List.map_congr_left fun k hk => congrArg Prod.snd (quantOut_of_fin hv (List.mem_range.1 hk)))
  · intro q size
    refine ⟨fun hE => if_pos hE, fun hn => ?_, fun hE hi => ?_, fun hE hv => dequant_number hS hc hE hv rfl⟩
    · show dequant S ftz E c = _
      unfold dequant
      rw [hn]
      exact ite_self _
    · show dequant S ftz E c = _
      unfold dequant
      rw [if_neg hE, hi]
      cases n <;> rfl

end Sys2Proof.Formats
end

section
/-! What the steps of matrix work compute: tiles, rows of an octet pass, integer blocks, kiln slots, drained tiles (R102, R106, R107,
R367, R373, R375). -/

namespace Sys2Proof.Formats

open Sys2Proof.Machine Sys2Proof.Safety

/-! ### Tables -/

theorem find_filter {α : Type} (t : Table α) (p : Nat → Bool) (j : Nat) :
    Table.find (t.filter fun c => p c.1) j = if p j then Table.find t j else none := by
  induction t with
  | nil => simp [Table.find]
  | cons c t ih =>
    obtain ⟨i, v⟩ := c
    rw [List.filter_cons]
    by_cases hi : i = j
    · subst hi
      by_cases hp : p i = true
      · simp [hp, Table.find]
      · simpa [hp] using ih
    · by_cases hp : p i = true
      · simp only [hp, if_true, Table.find, hi, if_false]; exact ih
      · simp only [hp, Bool.false_eq_true, if_false, Table.find, hi]; exact ih

theorem find_append {α : Type} (t u : Table α) (j : Nat) : Table.find (t ++ u) j = (Table.find t j).or (Table.find u j) := by
  induction t with
  | nil => rfl
  | cons c t ih =>
    obtain ⟨i, v⟩ := c
    simp only [List.cons_append, Table.find]
    split
    · rfl
    · exact ih

/-- A run of keys, without the entries of the default. -/
def runOf {α : Type} [DecidableEq α] (d : α) (b n : Nat) (f : Nat → α) : Table α :=
  ((List.range n).map fun k => (b + k, f k)).filter fun c => c.2 != d

theorem find_runOf {α : Type} [DecidableEq α] (d : α) (b n : Nat) (f : Nat → α) (j : Nat) : Table.find (runOf d b n f) j =
    if (b ≤ j ∧ j < b + n) ∧ f (j - b) ≠ d then some (f (j - b)) else none := by
  have hone : ∀ k, Table.find ([(b + k, f k)].filter fun c => c.2 != d) j = if j = b + k ∧ f k ≠ d then some (f k) else none := by
    intro k
    by_cases hd : f k = d
    · simp [hd, Table.find]
    · by_cases hj : j = b + k
      · simp [hd, hj, Table.find]
      · simp [hd, hj, Table.find, Ne.symm hj]
  unfold runOf
  induction n with
  | zero => rw [if_neg (fun h => by omega)]; rfl
  | succ n ih =>
    rw [List.range_succ, List.map_append, List.filter_append, find_append, List.map_singleton, hone, ih]
    by_cases hj : j = b + n
    · subst hj
      rw [if_neg (fun h => by omega), Option.none_or, Nat.add_sub_cancel_left]
      by_cases hd : f n = d
      · rw [if_neg (fun h => h.2 hd), if_neg (fun h => h.2 hd)]
      · rw [if_pos ⟨rfl, hd⟩, if_pos ⟨by omega, hd⟩]
    · rw [if_neg (show ¬ (j = b + n ∧ f n ≠ d) from fun h => hj h.1), Option.or_none]
      by_cases h : (b ≤ j ∧ j < b + n) ∧ f (j - b) ≠ d
      · rw [if_pos h, if_pos ⟨by omega, h.2⟩]
      · rw [if_neg h, if_neg (fun h' => h ⟨by omega, h'.2⟩)]

theorem get_runOf {α : Type} [DecidableEq α] (d : α) (b n : Nat) (f : Nat → α) (j : Nat) :
    Table.get d (runOf d b n f) j = if b ≤ j ∧ j < b + n then f (j - b) else d := by
  rw [Table.get, find_runOf]
  by_cases h : b ≤ j ∧ j < b + n
  · by_cases hd : f (j - b) = d <;> simp [h, hd]
  · rw [if_neg h, if_neg (fun h' => h h'.1)]; rfl

/-! ### Tiles (R373) -/

theorem setTile_eq (m : Mat) (a : Nat) (l : List Word) : m.setTile a l = { m with acc := (m.acc.filter fun c => decide (c.1 < 1024 * a)) ++
    (runOf 0 (1024 * a) 1024 (fun j => l.getD j 0) : Table Word) ++ (m.acc.filter fun c => decide (1024 * (a + 1) ≤ c.1)) } := rfl

/-- What a unit's accumulators hold after one has been replaced. -/
theorem get_setTile (m : Mat) (a : Nat) (l : List Word) (j : Nat) : Table.get 0 (m.setTile a l).acc j =
    if j / 1024 = a then l.getD (j - 1024 * a) 0 else Table.get 0 m.acc j := by
  have hr := get_runOf (0 : Word) (1024 * a) 1024 (fun j => l.getD j 0) j
  rw [setTile_eq]
  simp only [Table.get, find_append, find_filter (p := fun k => decide (k < 1024 * a)), find_filter (p := fun k => decide (1024 * (a + 1) ≤ k)),
    decide_eq_true_eq] at hr ⊢
  rcases lt_trichotomy (j / 1024) a with h | h | h
  · rw [if_pos (by omega), if_neg (by omega), find_runOf, if_neg (fun h => by omega), if_neg (by omega), Option.or_none, Option.or_none]
  · rw [if_neg (by omega), if_neg (by omega), Option.none_or, Option.or_none, if_pos h, hr, if_pos (by omega)]
  · rw [if_neg (by omega), if_pos (by omega), find_runOf, if_neg (fun h => by omega), if_neg (by omega), Option.none_or, Option.none_or]

theorem get_setTile_same (m : Mat) (a : Nat) (l : List Word) {j : Nat} (hj : j < 1024) :
    Table.get 0 (m.setTile a l).acc (1024 * a + j) = l.getD j 0 := by
  rw [get_setTile, if_pos (by omega), Nat.add_sub_cancel_left]

theorem setTile_rest (m : Mat) (a : Nat) (l : List Word) : { m.setTile a l with acc := m.acc } = m := rfl

/-! ### Rows of an octet pass (R102, R107) -/

/-- Results one after another, with their flags OR-ed. -/
theorem collect_foldl {β γ : Type} (f : β → γ × Fl) (l : List β) (out : List γ) (fl : Fl) :
    l.foldl (fun (r : List γ × Fl) c => (r.1 ++ [(f c).1], r.2 ||| (f c).2)) (out, fl) =
      (out ++ l.map fun c => (f c).1, (l.map fun c => (f c).2).foldl (· ||| ·) fl) := by
  induction l generalizing out fl with
  | nil => simp
  | cons c l ih => simp [ih]

/-- Row `i` of a unit's accumulator, as its elements. -/
theorem row_eq (p : Pass) (m : Mat) (f : Fmt) (slot : Kiln) (i : Nat) (w : Nat → Word) (h : p.live.getD i false = true) :
    p.row m f slot i ((List.range 128).map w) = ((List.range 128).map fun n => (p.elem m f slot (p.rows.getD i []) i n (w n)).1,
      ((List.range 128).map fun n => (p.elem m f slot (p.rows.getD i []) i n (w n)).2).foldl (· ||| ·) 0) := by
  have hz : ((List.range 128).map w).zip (List.range 128) = (List.range 128).map fun n => (w n, n) := by
    conv_lhs => rw [← List.map_id (List.range 128), List.map_map, List.zip_map']
    rfl
  unfold Pass.row
  rw [if_pos h, hz, collect_foldl (fun c : Word × Nat => p.elem m f slot (p.rows.getD i []) i c.2 c.1), List.map_map, List.map_map]
  rfl

/-- The row that a pass makes of an accumulator's. -/
def newRow (p : Pass) (m : Mat) (f : Fmt) (slot : Kiln) (i : Nat) : List Word × Fl :=
  p.row m f slot i ((List.range 128).map fun n => Table.get 0 m.acc (1024 * p.acc + (128 * i + n)))

/-- The rows that a pass makes are made of the tile's. -/
theorem rows_eq (p : Pass) (m : Mat) (f : Fmt) (slot : Kiln) :
    ((List.range 8).map fun r => p.row m f slot r (((m.tile p.acc).drop (128 * r)).take 128)) = (List.range 8).map (newRow p m f slot) := by
  refine List.map_congr_left fun r hr => ?_
  have := List.mem_range.1 hr
  rw [newRow, Mat.tile, take_drop_range_map _ (by omega)]

theorem newRow_length (p : Pass) (m : Mat) (f : Fmt) (slot : Kiln) (i : Nat) : (newRow p m f slot i).1.length = 128 := by
  unfold newRow
  cases h : p.live.getD i false with
  | true => rw [row_eq _ _ _ _ _ _ h]; simp
  | false => unfold Pass.row; rw [h]; simp

/-- An element of a new row: the dot product where a lane supplies the row, else what it was. -/
theorem newRow_getD (p : Pass) (m : Mat) (f : Fmt) (slot : Kiln) (i : Nat) {n : Nat} (hn : n < 128) :
    (newRow p m f slot i).1.getD n 0 = if p.live.getD i false then
      (p.elem m f slot (p.rows.getD i []) i n (Table.get 0 m.acc (1024 * p.acc + (128 * i + n)))).1
      else Table.get 0 m.acc (1024 * p.acc + (128 * i + n)) := by
  unfold newRow
  cases h : p.live.getD i false with
  | true => rw [row_eq _ _ _ _ _ _ h]; simp [List.getD_eq_getElem?_getD, hn]
  | false => unfold Pass.row; rw [h]; simp [List.getD_eq_getElem?_getD, hn]

theorem newRow_flags (p : Pass) (m : Mat) (f : Fmt) (slot : Kiln) (i : Nat) : (newRow p m f slot i).2 = if p.live.getD i false then
    (List.range 128).foldl (fun (w : Fl) j => w ||| (p.elem m f slot (p.rows.getD i []) i j (Table.get 0 m.acc (1024 * p.acc + (128 * i + j)))).2) 0
    else 0 := by
  unfold newRow
  cases h : p.live.getD i false with
  | true => rw [row_eq _ _ _ _ _ _ h, if_pos rfl, List.foldl_map]
  | false => unfold Pass.row; rw [h]; rfl

/-- An element of lists of one length put one after another. -/
theorem getD_flatMap {α : Type} (d : α) {n : Nat} (f : Nat → List α) (hf : ∀ i, (f i).length = n) {k j : Nat} (hj : j < n * k) :
    ((List.range k).flatMap f).getD j d = (f (j / n)).getD (j % n) d := by
  induction k with
  | zero => omega
  | succ k ih =>
    have hlen : ((List.range k).flatMap f).length = n * k := by
      simp [List.length_flatMap, hf, Nat.mul_comm]
    rw [List.range_succ, List.flatMap_append, List.flatMap_singleton, List.getD_eq_getElem?_getD, List.getElem?_append]
    split
    · rename_i h
      rw [← List.getD_eq_getElem?_getD, ih (hlen ▸ h)]
    · rename_i h
      rw [hlen] at h
      have hdiv : j / n = k := Nat.div_eq_of_lt_le (by rw [Nat.mul_comm]; omega) (by rw [Nat.mul_comm]; exact hj)
      have hmod : j % n = j - n * k := by rw [Nat.mod_eq_sub_mul_div, hdiv]
      rw [hlen, hdiv, hmod, List.getD_eq_getElem?_getD]

/-- The accumulator that a pass leaves. -/
theorem newTile_getD (p : Pass) (m : Mat) (f : Fmt) (slot : Kiln) {j : Nat} (hj : j < 1024) :
    ((List.range 8).flatMap fun i => (newRow p m f slot i).1).getD j 0 = if p.live.getD (j / 128) false then
      (p.elem m f slot (p.rows.getD (j / 128) []) (j / 128) (j % 128) (Table.get 0 m.acc (1024 * p.acc + j))).1
      else Table.get 0 m.acc (1024 * p.acc + j) := by
  rw [getD_flatMap 0 (fun i => (newRow p m f slot i).1) (newRow_length p m f slot) (by omega),
    newRow_getD p m f slot _ (Nat.mod_lt j (by decide)), Nat.div_add_mod]

/-! ### Integer blocks (R106) -/

theorem blockI_eq (ps : List (Nat × Nat)) (acc : Word) :
    blockI false ps acc = BitVec.ofInt 32 (acc.toInt + (ps.map fun c => s8 c.1 * s8 c.2).sum) := by
  unfold blockI
  rw [List.sum_eq_foldl, List.foldl_map]
  rfl

/-- An element of an i8 pass without saturation is the exact sum modulo 2^32. -/
theorem elem_i8 {p : Pass} (hs : p.sat = false) (m : Mat) (slot : Kiln) (ws : List Word) (i n : Nat) (acc : Word) :
    p.elem m .i8 slot ws i n acc = (BitVec.ofInt 32 (acc.toInt + ((List.range ((p.k + 31) / 32)).map fun q =>
      ((p.products .i8 slot ws n q).map fun c => s8 c.1 * s8 c.2).sum).sum), 0) := by
  unfold Pass.elem
  generalize (p.k + 31) / 32 = blocks
  induction blocks with
  | zero => simp
  | succ k ih =>
    rw [List.range_succ, List.foldl_append, ih, List.map_append, List.sum_append]
    simp only [List.foldl_cons, List.foldl_nil, if_true, hs, blockI_eq, List.map_cons, List.map_nil, List.sum_cons, List.sum_nil, add_zero]
    rw [BitVec.ofInt_add, BitVec.ofInt_toInt, ← BitVec.ofInt_add, add_assoc]

/-! ### Drained tiles (R373) -/

theorem drainFrom_spec (t : Tile) (tile : List Word) (g : Word) (old : List Byte) :
    (drainFrom t g tile old).1.length = tileBytes t.fmt * tile.length ∧ ∀ j < tile.length,
      ((drainFrom t g tile old).1.drop (tileBytes t.fmt * j)).take (tileBytes t.fmt) = leBytes (tileBytes t.fmt)
        (drainElem t (if t.mode = 7 then srAfter (j + 1) g else g) (tile.getD j 0)
          (leNat ((old.drop (tileBytes t.fmt * j)).take (tileBytes t.fmt)))).1 := by
  induction tile generalizing g old with
  | nil => exact ⟨rfl, fun j hj => absurd hj (Nat.not_lt_zero j)⟩
  | cons a r ih =>
    obtain ⟨hl, hv⟩ := ih (if t.mode = 7 then srNext g else g) (old.drop (tileBytes t.fmt))
    set e := tileBytes t.fmt with he
    have heq : (drainFrom t g (a :: r) old).1 = leBytes e (drainElem t (if t.mode = 7 then srNext g else g) a (leNat (old.take e))).1 ++
        (drainFrom t (if t.mode = 7 then srNext g else g) r (old.drop e)).1 := rfl
    rw [heq]
    refine ⟨by rw [List.length_append, leBytes_length, hl, List.length_cons, Nat.mul_succ, Nat.add_comm], fun j hj => ?_⟩
    cases j with
    | zero =>
      rw [Nat.mul_zero, List.drop_zero, List.take_left' (leBytes_length ..)]
      rfl
    | succ j =>
      have hd : e * (j + 1) = e + e * j := by rw [Nat.mul_succ, Nat.add_comm]
      rw [hd, ← List.drop_drop, List.drop_left' (leBytes_length ..), hv j (Nat.lt_of_succ_lt_succ hj), List.drop_drop, List.getD_cons_succ]
      by_cases hm : t.mode = 7
      · simp only [hm, if_true, srAfter]
      · simp only [hm, if_false]

end Sys2Proof.Formats
end

section
/-! The steps of matrix work (R100, R102, R366, R367, R373 to R375). -/

namespace Sys2Proof.Formats

open Sys2Proof.Machine Sys2Proof.Safety

/-! ### The unit of an operation -/

@[simp] theorem matOf_setMatOf (s : State) (o : EngOp) (m : Mat) : (s.setMatOf o m).matOf o = m :=
  (Table.get_put _ _ _ _ _).trans (if_pos rfl)

/-- The flags of a list of lanes raised one after another. -/
def raised (l : List (Nat × Fl)) (g : Group) : Group := l.foldl (fun (g : Group) c => g.account c.1 ⟨c.2, g.seed c.1⟩) g

theorem account_own_seed (g : Group) (l : Nat) (fl : Fl) : { g.account l ⟨fl, g.seed l⟩ with fflags := g.fflags } = g := by
  unfold Group.account
  dsimp only
  split
  · rw [if_pos rfl]
  · rw [if_pos (show g.seed l = (g.setFlags l (g.flags l ||| fl.zeroExtend 32)).seed l from rfl)]
    rfl

theorem raised_rest (l : List (Nat × Fl)) (g : Group) : { raised l g with fflags := g.fflags } = g := by
  induction l generalizing g with
  | nil => rfl
  | cons c l ih =>
    have h := congrArg (fun q : Group => { q with fflags := g.fflags }) (ih (g.account c.1 ⟨c.2, g.seed c.1⟩))
    exact (h.trans (account_own_seed g c.1 c.2) :)

/-- What the rows of an octet raise in a lane. -/
theorem flags_raised (octet : Nat) (fl : Nat → Fl) (n : Nat) (hn : n ≤ 8) (g : Group) (l : Nat) :
    (raised ((List.range n).map fun r => (8 * octet + r, fl r)) g).flags l &&& 0x1F =
      (if l / 8 = octet ∧ l % 8 < n then g.flags l ||| (fl (l % 8)).setWidth 32 else g.flags l) &&& 0x1F := by
  induction n with
  | zero => rw [if_neg (by omega)]; rfl
  | succ n ih =>
    have ih := ih (by omega)
    generalize hr : raised ((List.range n).map fun r => (8 * octet + r, fl r)) g = h at ih
    have hstep : raised ((List.range (n + 1)).map fun r => (8 * octet + r, fl r)) g =
        h.account (8 * octet + n) ⟨fl n, h.seed (8 * octet + n)⟩ := by
      rw [← hr, List.range_succ, List.map_append, raised, List.foldl_append]
      rfl
    rw [hstep]
    by_cases hl : l = 8 * octet + n
    · have hf := flagged_account h l ⟨fl n, h.seed l⟩
      rw [if_neg (by omega)] at ih
      rw [if_pos (by omega), ← hl, show l % 8 = n by omega]
      unfold Flagged at hf
      rw [hf, BitVec.and_or_distrib_right, ih, ← BitVec.and_or_distrib_right]
    · rw [flags_account, if_neg hl, ite_self, ih]
      by_cases hc : l / 8 = octet ∧ l % 8 < n
      · rw [if_pos hc, if_pos (by omega)]
      · rw [if_neg hc, if_neg (by omega)]

/-- Raising the flags of an operation touches its group alone. -/
theorem raiseFlags_eq (s : State) (o : EngOp) (l : List (Nat × Fl)) : s.raiseFlags o l = match s.issuer? o with
    | none => s
    | some g => s.setGroup o.g (raised l g) := rfl

theorem raiseFlags_mats (s : State) (o : EngOp) (l : List (Nat × Fl)) : (s.raiseFlags o l).mats = s.mats ∧ (s.raiseFlags o l).mem = s.mem := by
  rw [raiseFlags_eq]
  split <;> exact ⟨rfl, rfl⟩

theorem raiseFlags_group {s : State} {o : EngOp} {g : Group} (h : s.issuer? o = some g) (l : List (Nat × Fl)) :
    (s.raiseFlags o l).group? o.g = some (raised l g) := by
  rw [raiseFlags_eq, h]
  exact (State.group?_setGroup _ _ _ _).trans (if_pos rfl)

/-! ### Scales and passes (R100, R102) -/

/-- A step under way: operation `i` is `o`, of kind `k`, and not complete. -/
structure Under (s : State) (i : Nat) (o : EngOp) (k : OpKind) : Prop where
  found : Table.find s.ops i = some o
  kind  : o.k = k
  going : o.done = false

theorem scaleFill_step {s u : State} {i key base : Nat} {o : EngOp} {p : Pass} {bytes : List Byte} (h : Under s i o (.pass p))
    (hk : key ∈ p.missing (s.matOf o)) (hb : Table.find (s.matOf o).binds p.tid = some base)
    (hr : s.engRead o.core (o.ctx s) (o.who s 1 0) false (base + key % 512) 1 = .ok u bytes) :
    exec (.scaleCacheFill i key) s = .next (u.setMatOf o { u.matOf o with cache :=
      (if 2048 ≤ (u.matOf o).cache.length then (u.matOf o).cache.drop 1 else (u.matOf o).cache) ++ [(key, bytes.headD 0)] }) := by
  obtain ⟨hf, hkind, hd⟩ := h
  have hm : (o.done || !(p.missing (s.matOf o)).contains key) = false := by simp [hd, hk]
  have : s.scaleFill i key = some (u.setMatOf o { u.matOf o with cache :=
      (if 2048 ≤ (u.matOf o).cache.length then (u.matOf o).cache.drop 1 else (u.matOf o).cache) ++ [(key, bytes.headD 0)] }) := by
    simp only [State.scaleFill, hf, hkind, hm, hb, hr, Eng.out, cacheSize, Bool.false_eq_true, if_false]
    rfl
  show Host.Outcome.next ((s.scaleFill i key).getD s) = _
  rw [this]
  rfl

theorem pass_early {s : State} {i : Nat} {o : EngOp} {p : Pass} (h : Under s i o (.pass p)) (hc : s.clk < p.ready) :
    exec (.octetPassComplete i) s = .next s := by
  obtain ⟨hf, hkind, hd⟩ := h
  have : s.passFinish i = none := by
    simp [State.passFinish, hf, hkind, hc]
  show Host.Outcome.next ((s.passFinish i).getD s) = _
  rw [this]
  rfl

/-- The state that a pass leaves but for its own completion. -/
def passDone (s u : State) (o : EngOp) (p : Pass) (f : Fmt) (slot : Kiln) : State :=
  (u.setMatOf o ((s.matOf o).setTile p.acc ((List.range 8).flatMap fun i => (newRow p (s.matOf o) f slot i).1))).raiseFlags o
    ((List.range 8).map fun r => (8 * p.octet + r, (newRow p (s.matOf o) f slot r).2))

theorem pass_step {s u : State} {i : Nat} {o : EngOp} {p : Pass} {f : Fmt} {slot : Kiln} (h : Under s i o (.pass p)) (hc : p.ready ≤ s.clk)
    (hm : p.missing (s.matOf o) = []) (ha : aFmt p.afmt = some f) (hs : Table.find (s.matOf o).kiln p.slot = some slot)
    (hr : s.readUnit (o.ctx s) (fun c => Store.ofAcc o.unit p.acc c || Store.ofSlots o.unit (OpKind.use (.pass p)).rd c) = (u, false)) :
    exec (.octetPassComplete i) s = .next ((passDone s u o p f slot).completeOp i) := by
  obtain ⟨hf, hkind, hd⟩ := h
  have hw : (o.done || decide (s.clk < p.ready) || !(p.missing (s.matOf o)).isEmpty) = false := by simp [hd, hm, hc]
  have hfl : ((List.range 8).map fun r => (8 * p.octet + r, (((List.range 8).map (newRow p (s.matOf o) f slot)).getD r ([], 0)).2)) =
      (List.range 8).map fun r => (8 * p.octet + r, (newRow p (s.matOf o) f slot r).2) :=
    List.map_congr_left fun r hr => by
      simp [List.getD_eq_getElem?_getD, List.getElem?_range (List.mem_range.1 hr)]
  have : s.passFinish i = some ((passDone s u o p f slot).completeOp i) := by
    simp only [State.passFinish, hf, hkind, hw, ha, hs, hr, rows_eq, Bool.false_eq_true, if_false, List.flatMap_map, hfl]
    rfl
  show Host.Outcome.next ((s.passFinish i).getD s) = _
  rw [this]
  rfl

theorem passDone_unit (s u : State) (o : EngOp) (p : Pass) (f : Fmt) (slot : Kiln) : (passDone s u o p f slot).matOf o =
    (s.matOf o).setTile p.acc ((List.range 8).flatMap fun i => (newRow p (s.matOf o) f slot i).1) := by
  have h := (raiseFlags_mats (u.setMatOf o ((s.matOf o).setTile p.acc ((List.range 8).flatMap fun i => (newRow p (s.matOf o) f slot i).1))) o
    ((List.range 8).map fun r => (8 * p.octet + r, (newRow p (s.matOf o) f slot r).2))).1
  exact (congrArg (fun t : Table Mat => Table.get Mat.reset t (4 * o.core + o.part)) h).trans (matOf_setMatOf ..)

theorem passDone_flags {s u : State} {o : EngOp} {p : Pass} {f : Fmt} {slot : Kiln} {g : Group} (hg : u.issuer? o = some g) :
    ∃ g' : Group, (passDone s u o p f slot).group? o.g = some g' ∧ { g' with fflags := g.fflags } = g ∧
      ∀ l < 128, g'.flags l &&& 0x1F = (if l / 8 = p.octet ∧ p.live.getD (l % 8) false then g.flags l |||
        ((List.range 128).foldl (fun (w : Fl) j => w ||| (p.elem (s.matOf o) f slot (p.rows.getD (l % 8) []) (l % 8) j
          (Table.get 0 (s.matOf o).acc (1024 * p.acc + (128 * (l % 8) + j)))).2) 0).setWidth 32 else g.flags l) &&& 0x1F := by
  refine ⟨_, raiseFlags_group (s := u.setMatOf o _) hg _, raised_rest _ g, fun l hl => ?_⟩
  rw [flags_raised p.octet _ 8 le_rfl, newRow_flags]
  by_cases hlo : l / 8 = p.octet
  · rw [if_pos ⟨hlo, Nat.mod_lt _ (by decide)⟩]
    cases hlive : p.live.getD (l % 8) false with
    | true => rw [if_pos rfl, if_pos ⟨hlo, rfl⟩]
    | false => rw [if_neg Bool.false_ne_true, if_neg (fun h => Bool.false_ne_true h.2)]; simp
  · rw [if_neg (fun h => hlo h.1), if_neg (fun h => hlo h.1)]

/-! ### Kiln slots (R367) -/

/-- The entries of numbered values that are not 0. -/
theorem get_zip_range {n : Nat} (xs : List Nat) {j : Nat} (hj : j < n) : Table.get 0
    ((((List.range n).zip xs).map fun c => (c.1, BitVec.ofNat 16 c.2)).filter fun c => c.2 != 0) j = BitVec.ofNat 16 (xs.getD j 0) := by
  have hz : ((List.range n).zip xs).map (fun c => (c.1, BitVec.ofNat 16 c.2)) =
      (List.range (min n xs.length)).map fun k => (0 + k, BitVec.ofNat 16 (xs.getD k 0)) := by
    refine List.ext_getElem (by simp) fun k h1 h2 => ?_
    have hk : k < xs.length := by simp at h2; omega
    simp [List.getD_eq_getElem?_getD, hk]
  have h := get_runOf (0 : BitVec 16) 0 (min n xs.length) (fun k => BitVec.ofNat 16 (xs.getD k 0)) j
  unfold runOf at h
  rw [hz, h]
  by_cases hx : j < xs.length
  · rw [if_pos (by omega), Nat.sub_zero]
  · rw [if_neg (by omega), List.getD_eq_default _ _ (by omega)]; rfl

/-- The elements, scales and zero bits of a slot from the lines read. -/
theorem kilnOf_elems (f : Fmt) (ls : List (List Byte × Bool × Option Nat)) {j : Nat} (hj : j < 16384) : Table.get 0 (kilnOf f ls).elems j =
    BitVec.ofNat 16 (leNat ((((ls.take (128 * if isHalf f then 2 else 1)).flatMap (·.1)).drop ((if isHalf f then 2 else 1) * j)).take
      (if isHalf f then 2 else 1))) := by
  unfold kilnOf
  dsimp only
  rw [get_zip_range _ hj]
  cases isHalf f with
  | true =>
    simp only [if_true, List.getD_eq_getElem?_getD, List.getElem?_map, List.getElem?_range hj, Option.map_some, Option.getD_some]
  | false =>
    simp only [Bool.false_eq_true, if_false, Nat.one_mul, List.getD_eq_getElem?_getD, List.getElem?_map]
    rw [List.take_one, List.head?_drop]
    cases ((ls.take (128 * 1)).flatMap (·.1))[j]? <;> simp [leNat]

theorem kilnOf_scales (f : Fmt) (ls : List (List Byte × Bool × Option Nat)) (j : Nat) : (kilnOf f ls).scales.byte j =
    ((ls.drop (128 * if isHalf f then 2 else 1)).flatMap (·.1)).getD j 0 := by
  have h : ∀ l : List Byte, (Memory.setBytes [] 0 l).byte j = l.getD j 0 := fun l => by
    rw [Memory.byte_setBytes]
    split
    · rw [Nat.sub_zero]
    · rw [List.getD_eq_default _ _ (by omega)]; rfl
  exact h _

theorem getLsbD_fold4 (c : Nat → Bool) : ∀ q < 4, ((List.range 4).foldl (fun (z : BitVec 4) q => if c q then z ||| BitVec.twoPow 4 q else z)
    0).getLsbD q = c q := by
  have h : ∀ a b c d : Bool, let z0 : BitVec 4 := if a then 0 ||| BitVec.twoPow 4 0 else 0
      let z1 := if b then z0 ||| BitVec.twoPow 4 1 else z0
      let z2 := if c then z1 ||| BitVec.twoPow 4 2 else z1
      let z3 := if d then z2 ||| BitVec.twoPow 4 3 else z2
      z3.getLsbD 0 = a ∧ z3.getLsbD 1 = b ∧ z3.getLsbD 2 = c ∧ z3.getLsbD 3 = d := by decide
  obtain ⟨h0, h1, h2, h3⟩ := h (c 0) (c 1) (c 2) (c 3)
  intro q hq
  rcases (by omega : q = 0 ∨ q = 1 ∨ q = 2 ∨ q = 3) with rfl | rfl | rfl | rfl
  exacts [h0, h1, h2, h3]

theorem kilnOf_zero (f : Fmt) (ls : List (List Byte × Bool × Option Nat)) {q : Nat} (hq : q < 4) : (kilnOf f ls).zero.getLsbD q =
    ((ls.drop (32 * (if isHalf f then 2 else 1) * q)).take (32 * if isHalf f then 2 else 1)).all fun c => c.2.1 :=
  getLsbD_fold4 (fun q => ((ls.drop (32 * (if isHalf f then 2 else 1) * q)).take (32 * if isHalf f then 2 else 1)).all fun c => c.2.1) q hq

/-- The state that a fill leaves but for its own completion. -/
def ksetDone (u : State) (o : EngOp) (n : Nat) (f : Fmt) (ls : List (List Byte × Bool × Option Nat)) : State :=
  let t := (u.emptySlots (o.core, o.part) (slotKeys f n)).mendAll (Store.ofSlots o.unit (slotKeys f n))
  (t.addCopies (kilnOf f ls).seals).setMatOf o { t.matOf o with kiln := Table.insert (t.matOf o).kiln n (kilnOf f ls) }

theorem kset_step {s u : State} {i n ea sb wg : Nat} {o : EngOp} {f : Fmt} {ls : List (List Byte × Bool × Option Nat)}
    (h : Under s i o (.kset n f ea sb)) (hw : o.wg = some wg)
    (hr : engEach (fun t l => t.ksetLine o wg l) s (rowLines ea 0 (ksetBytes f) 1 ++ (if scaled f then rowLines sb 0 512 1 else [])) = .ok u ls) :
    exec (.ksetComplete i) s = .next ((ksetDone u o n f ls).completeOp i) := by
  obtain ⟨hf, hkind, hd⟩ := h
  have : s.ksetFinish i = some ((ksetDone u o n f ls).completeOp i) := by
    simp only [State.ksetFinish, hf, hkind, hw, hd, hr, Eng.out, Bool.false_eq_true, if_false]
    rfl
  show Host.Outcome.next ((s.ksetFinish i).getD s) = _
  rw [this]
  rfl

theorem ksetDone_unit (u : State) (o : EngOp) (n : Nat) (f : Fmt) (ls : List (List Byte × Bool × Option Nat)) :
    (ksetDone u o n f ls).matOf o = { u.matOf o with kiln := Table.insert ((u.matOf o).kiln.filter fun k =>
      !((slotKeys f n).flatMap (u.matOf o).slotsAt).dedup.contains k.1) n (kilnOf f ls) } := by
  have ht : ((u.emptySlots (o.core, o.part) (slotKeys f n)).mendAll (Store.ofSlots o.unit (slotKeys f n))).matOf o =
      { u.matOf o with kiln := (u.matOf o).kiln.filter fun k => !((slotKeys f n).flatMap (u.matOf o).slotsAt).dedup.contains k.1 } :=
    matOf_setMatOf _ o _
  unfold ksetDone
  dsimp only
  rw [matOf_setMatOf, ht]

theorem ksetDone_kiln (u : State) (o : EngOp) (n : Nat) (f : Fmt) (ls : List (List Byte × Bool × Option Nat)) (j : Nat) :
    Table.find ((ksetDone u o n f ls).matOf o).kiln j = if j = n then some (kilnOf f ls) else
      if j ∈ (slotKeys f n).flatMap (u.matOf o).slotsAt then none else Table.find (u.matOf o).kiln j := by
  rw [ksetDone_unit, Table.find_insert, find_filter (p := fun k => !((slotKeys f n).flatMap (u.matOf o).slotsAt).dedup.contains k)]
  by_cases hj : j ∈ (slotKeys f n).flatMap (u.matOf o).slotsAt
  · simp only [List.contains_eq_mem, List.mem_dedup, hj, decide_true, Bool.not_true, Bool.false_eq_true, if_false, if_true]
  · simp only [List.contains_eq_mem, List.mem_dedup, hj, decide_false, Bool.not_false, if_true, if_false]

end Sys2Proof.Formats
end

section
/-! Drains, loads and the steps of matrix work as the obligation states them (R373 to R375). -/

namespace Sys2Proof.Formats

open Sys2Proof.Machine Sys2Proof.Safety

/-! ### Bytes of an allocation -/

/-- Steps that keep an allocation's bytes keep them one after another. -/
theorem bytes_foldl {β : Type} {f : Workgroup → β → Workgroup} (hf : ∀ w q, (f w q).bytes = w.bytes) (l : List β) (w : Workgroup) :
    (l.foldl f w).bytes = w.bytes := by
  induction l generalizing w with
  | nil => rfl
  | cons q l ih => exact (ih (f w q)).trans (hf w q)

theorem bytes_soil (w : Workgroup) (a n : Nat) : (w.soil a n).bytes = w.bytes := by
  refine bytes_foldl (fun w q => ?_) _ w
  split <;> rfl

theorem bytes_clearZero (w : Workgroup) (a b : Nat) : (w.clearZero a b).bytes = w.bytes := by
  unfold Workgroup.clearZero
  split <;> rfl

theorem bytes_write (w : Workgroup) (a : Nat) (b : List Byte) : (w.write a b).bytes = w.bytes.setBytes a b :=
  (bytes_clearZero ..).trans (bytes_soil ..)

theorem bytes_release (w : Workgroup) (i n : Nat) : (w.release i n).bytes = w.bytes := by
  unfold Workgroup.release
  split
  · dsimp only
    split <;> rfl
  · rfl

/-- What an allocation holds after bytes have landed in it. -/
theorem bytes_land (w : Workgroup) (a : Nat) (d : List Byte) : (w.land a (d.map some)).bytes = w.bytes.setBytes a d := by
  have hrun : ∀ (d : List Byte) (n : Nat) (w : Workgroup), (((d.map some).zipIdx n).foldl (fun (w : Workgroup) q => match q.1 with
      | some x => w.write (a + q.2) [x]
      | none => w) w).bytes = w.bytes.setBytes (a + n) d := by
    intro d
    induction d with
    | nil => intro n w; rfl
    | cons x d ih =>
      intro n w
      rw [List.map_cons, List.zipIdx_cons, List.foldl_cons, ih, bytes_write]
      rfl
  have hz : (d.map some).zip (List.range (d.map some).length) = (d.map some).zipIdx := by
    rw [List.zipIdx_eq_zip_range', List.range_eq_range']
  unfold Workgroup.land
  rw [hz]
  exact (bytes_foldl (fun w q => by split <;> rfl) _ _).trans (hrun d 0 w)

/-! ### The ends of drains and loads -/

theorem drain_global {s r u v : State} {i : Nat} {o : EngOp} {tl : Tile} {old : List Byte} (h : Under s i o (.drain tl))
    (hs : s.readUnit (o.ctx s) (Store.ofAcc o.unit tl.acc) = (r, false)) (ht : tl.tgt = none)
    (hr : if tl.add then r.engRead o.core (o.ctx s) (o.who s 1 0) true tl.addr (1024 * tileBytes tl.fmt) = .ok u old else u = r ∧ old = [])
    (hw : u.engWrite o.core (o.ctx s) (o.who s 1 0) (wordsFrom tl.addr ((drainTile tl ((s.matOf o).tile tl.acc) old).1.map some)) = .ok v ()) :
    exec (.mdrainComplete i) s = .next (v.drainEnd i o tl (drainTile tl ((s.matOf o).tile tl.acc) old).2) := by
  obtain ⟨hf, hkind, hd⟩ := h
  have hread : (if tl.add then r.engRead o.core (o.ctx s) (o.who s 1 0) true tl.addr (1024 * tileBytes tl.fmt) else .ok r []) = .ok u old := by
    by_cases ha : tl.add = true
    · rw [if_pos ha] at hr ⊢
      exact hr
    · rw [if_neg ha] at hr ⊢
      rw [hr.1, hr.2]
  have : s.drainFinish i = some (v.drainEnd i o tl (drainTile tl ((s.matOf o).tile tl.acc) old).2) := by
    simp only [State.drainFinish, hf, hkind, hd, hs, ht, hread, hw, Eng.out, Bool.false_eq_true, if_false]
  show Host.Outcome.next ((s.drainFinish i).getD s) = _
  rw [this]
  rfl

/-- The workgroup of a drain to its allocation with the drained bytes landed. -/
def landed (u : State) (tl : Tile) (w : Nat) (d : List Byte) : State := u.modWg w fun y => y.land tl.addr (d.map some)

/-- The lines that a drain is the last to land in. -/
def lastLines (u : State) (i w : Nat) (lines : List Nat) : List Nat :=
  lines.filter fun l => ((Table.find u.wgs w).map fun (y : Workgroup) => y.line l == .pending [i]).getD false

/-- A drain is done with its lines. -/
def unmarked (v : State) (i w : Nat) (lines : List Nat) : State :=
  v.modWg w fun y => lines.foldl (fun (y : Workgroup) l => y.release i l) y

theorem drain_spad {s r q u v : State} {i w : Nat} {o : EngOp} {tl : Tile} {y y1 : Workgroup} (h : Under s i o (.drain tl))
    (hs : s.readUnit (o.ctx s) (Store.ofAcc o.unit tl.acc) = (r, false)) (ht : tl.tgt = some w) (hy : Table.find r.wgs w = some y)
    (hfirst : ∀ l ∈ rowLines tl.addr 0 (1024 * tileBytes tl.fmt) 1, y.first i l = true)
    (hr : if tl.add then r.engTodo o.core (o.ctx s) (o.who s 1 0) w (rowLines tl.addr 0 (1024 * tileBytes tl.fmt) 1) = .ok q () ∧
        q.spadCheck w (o.ctx s) ((List.range (1024 * tileBytes tl.fmt / 4)).map fun j => tl.addr / 4 + j) = (u, [])
      else u = r.spadMend w ((List.range (1024 * tileBytes tl.fmt / 4)).map fun j => tl.addr / 4 + j))
    (hy1 : Table.find u.wgs w = some y1) {d : List Byte × Fl}
    (hdr : drainTile tl ((s.matOf o).tile tl.acc) (y1.bytes.bytes tl.addr (1024 * tileBytes tl.fmt)) = d)
    (hl : (landed u tl w d.1).engTodo o.core (o.ctx s) (o.who s 1 0) w
      (lastLines (landed u tl w d.1) i w (rowLines tl.addr 0 (1024 * tileBytes tl.fmt) 1)) = .ok v ()) :
    exec (.mdrainComplete i) s = .next ((unmarked v i w (rowLines tl.addr 0 (1024 * tileBytes tl.fmt) 1)).drainEnd i o tl d.2) := by
  obtain ⟨hf, hkind, hd⟩ := h
  have hall : (rowLines tl.addr 0 (1024 * tileBytes tl.fmt) 1).all (y.first i) = true := List.all_eq_true.2 hfirst
  unfold landed lastLines at hl
  have : s.drainFinish i = some ((unmarked v i w (rowLines tl.addr 0 (1024 * tileBytes tl.fmt) 1)).drainEnd i o tl d.2) := by
    by_cases ha : tl.add = true
    · rw [if_pos ha] at hr
      obtain ⟨hq, hu⟩ := hr
      simp only [State.drainFinish, hf, hkind, hd, hs, ht, hy, hall, ha, hq, hu, hy1, hdr, hl, Eng.out, Bool.false_eq_true, if_false, if_true,
        Option.map_some, Option.getD_some, Bool.not_true, bne_self_eq_false]
      rfl
    · rw [if_neg ha] at hr
      simp only [State.drainFinish, hf, hkind, hd, hs, ht, hy, hall, ha, ← hr, hy1, hdr, hl, Eng.out, Bool.false_eq_true, if_false,
        Option.map_some, Option.getD_some, Bool.not_true, bne_self_eq_false]
      rfl
  show Host.Outcome.next ((s.drainFinish i).getD s) = _
  rw [this]
  rfl

/-- The bytes that a drain leaves in its allocation. -/
theorem unmarked_landed {u : State} {tl : Tile} {w : Nat} {d : List Byte} {y1 : Workgroup} (hy1 : Table.find u.wgs w = some y1)
    (i : Nat) (lines : List Nat) : ∃ y' : Workgroup, Table.find (unmarked (landed u tl w d) i w lines).wgs w = some y' ∧
      ∀ k, y'.bytes.byte k = if tl.addr ≤ k ∧ k < tl.addr + d.length then d.getD (k - tl.addr) 0 else y1.bytes.byte k := by
  refine ⟨lines.foldl (fun (y : Workgroup) l => y.release i l) (y1.land tl.addr (d.map some)), ?_, fun k => ?_⟩
  · simp only [unmarked, landed, State.modWg, Table.find_adjust, if_true, hy1, Option.map_some]
  · rw [bytes_foldl (fun w n => bytes_release w i n), bytes_land, Memory.byte_setBytes]

/-- The bytes that a load reads: the state after the read, and what it answers (R375). -/
def loaded (s : State) (o : EngOp) (tl : Tile) : Eng (List Byte) :=
  match tl.tgt with
  | none => s.engRead o.core (o.ctx s) (o.who s 1 0) true tl.addr (1024 * tileBytes tl.fmt)
  | some k => (s.engLines o.core (o.ctx s) (o.who s 1 0) k (rowLines tl.addr 0 (1024 * tileBytes tl.fmt) 1)).bind fun t _ =>
      let (t, bad) := t.spadCheck k (o.ctx s) ((List.range (256 * tileBytes tl.fmt)).map fun i => tl.addr / 4 + i)
      if bad != [] then .bad t (.spad bad)
      else .ok t (((Table.find t.wgs k).map fun (y : Workgroup) => y.bytes.bytes tl.addr (1024 * tileBytes tl.fmt)).getD [])

/-- The state that a load leaves but for its own completion. -/
def loadDone (u : State) (o : EngOp) (tl : Tile) (bytes : List Byte) : State :=
  (u.mendAll (Store.ofAcc o.unit tl.acc)).setMatOf o ((u.matOf o).setTile tl.acc
    ((List.range 1024).map fun j => loadElem tl.fmt (leNat ((bytes.drop (tileBytes tl.fmt * j)).take (tileBytes tl.fmt)))))

theorem load_step {s u : State} {i : Nat} {o : EngOp} {tl : Tile} {bytes : List Byte} (h : Under s i o (.load tl))
    (hr : loaded s o tl = .ok u bytes) : exec (.mloadComplete i) s = .next ((loadDone u o tl bytes).completeOp i) := by
  obtain ⟨hf, hkind, hd⟩ := h
  have : s.loadFinish i = (loaded s o tl).out (matKill o (laneBit tl.lane)) fun u bytes => some ((loadDone u o tl bytes).completeOp i) := by
    simp only [State.loadFinish, hf, hkind, hd, Bool.false_eq_true, if_false]
    rfl
  show Host.Outcome.next ((s.loadFinish i).getD s) = _
  rw [this, hr]
  rfl

theorem loaded_spad {s q u : State} {o : EngOp} {tl : Tile} {w : Nat} {y : Workgroup} (ht : tl.tgt = some w)
    (hq : s.engLines o.core (o.ctx s) (o.who s 1 0) w (rowLines tl.addr 0 (1024 * tileBytes tl.fmt) 1) = .ok q ())
    (hu : q.spadCheck w (o.ctx s) ((List.range (1024 * tileBytes tl.fmt / 4)).map fun j => tl.addr / 4 + j) = (u, []))
    (hy : Table.find u.wgs w = some y) : loaded s o tl = .ok u (y.bytes.bytes tl.addr (1024 * tileBytes tl.fmt)) := by
  rw [show 1024 * tileBytes tl.fmt / 4 = 256 * tileBytes tl.fmt by omega] at hu
  simp only [loaded, ht, hq, Eng.bind, hu, hy, bne_self_eq_false, Bool.false_eq_true, if_false, Option.map_some, Option.getD_some]

theorem loadDone_unit (u : State) (o : EngOp) (tl : Tile) (bytes : List Byte) : (loadDone u o tl bytes).matOf o =
    (u.matOf o).setTile tl.acc ((List.range 1024).map fun j => loadElem tl.fmt (leNat ((bytes.drop (tileBytes tl.fmt * j)).take (tileBytes tl.fmt)))) :=
  matOf_setMatOf ..

theorem tile_length (m : Mat) (a : Nat) : (m.tile a).length = 1024 := by simp [Mat.tile]

theorem drainTile_length (t : Tile) {tile : List Word} (h : tile.length = 1024) (old : List Byte) :
    (drainTile t tile old).1.length = 1024 * tileBytes t.fmt := by
  rw [drainTile, (drainFrom_spec ..).1, h, Nat.mul_comm]

theorem ksetDone_mem (u : State) (o : EngOp) (n : Nat) (f : Fmt) (ls : List (List Byte × Bool × Option Nat)) :
    (ksetDone u o n f ls).mem = u.mem := by
  simp only [ksetDone, State.setMatOf, State.setMat, State.addCopies, State.mendAll, State.emptySlots, State.releaseSeals]

/-- Settles O48: each step's end state, taken apart by its accumulator, slot, lane or bytes. -/
theorem matrixSteps : Obligations.MatrixSteps := by
  intro s u i key base n ea sb o p tl f slot bytes old ls ws a b acc
  refine ⟨?_, ?_, ?_, fun hs => elem_i8 hs (s.matOf o) slot ws a b acc, ?_, ?_, ?_, ?_, ?_⟩
  · rintro ⟨hf, hk, hd⟩ hkey hb hr
    refine ⟨_, scaleFill_step ⟨hf, hk, hd⟩ hkey hb hr, rfl, ?_, ?_⟩ <;> rw [matOf_setMatOf]
  · rintro ⟨hf, hk, hd⟩ hc
    exact pass_early ⟨hf, hk, hd⟩ hc
  · rintro ⟨hf, hk, hd⟩ hc hm ha hs hr
    refine ⟨_, pass_step ⟨hf, hk, hd⟩ hc hm ha hs hr, (raiseFlags_mats _ _ _).2, ⟨fun j hj => ?_, fun j hj => ?_, ?_⟩, fun g hg => passDone_flags hg⟩
    · rw [passDone_unit, get_setTile_same _ _ _ hj]
      exact newTile_getD p _ f slot hj
    · rw [passDone_unit, get_setTile, if_neg hj]
    · rw [passDone_unit, setTile_rest]
  · rintro wg ⟨hf, hk, hd⟩ hw hr
    refine ⟨ksetDone u o n f ls, kilnOf f ls, ?_, ?_, ?_, ?_, ?_, ?_, ?_, ?_⟩
    · exact kset_step ⟨hf, hk, hd⟩ hw hr
    · exact ksetDone_mem u o n f ls
    · exact ksetDone_kiln u o n f ls
    · rw [ksetDone_unit]
    · rfl
    · exact fun j hj => kilnOf_elems f ls hj
    · exact kilnOf_scales f ls
    · exact fun q hq => kilnOf_zero f ls hq
  · rintro v r ⟨hf, hk, hd⟩ hs ht sz hr d hw
    exact drain_global ⟨hf, hk, hd⟩ hs ht hr hw
  · rintro w y v vs q r ⟨hf, hk, hd⟩ hs ht hy sz lines words hfirst hr y1 hy1 d u1 hl hv
    subst hv
    refine ⟨_, drain_spad ⟨hf, hk, hd⟩ hs ht hy hfirst hr hy1 rfl hl, rfl, ?_⟩
    obtain ⟨y', hy', hb⟩ := unmarked_landed (tl := tl) (d := d.1) hy1 i lines
    have hlen : d.1.length = sz := drainTile_length tl (tile_length ..) _
    exact ⟨y', hy', hlen ▸ hb⟩
  · intro tile ht
    exact ⟨drainTile_length tl ht old, ht ▸ (drainFrom_spec tl tile tl.seed old).2⟩
  · rintro ⟨hf, hk, hd⟩ sz hr
    have hload : loaded s o tl = .ok u bytes := by
      cases ht : tl.tgt with
      | none =>
        simp only [ht] at hr
        simp only [loaded, ht]
        exact hr
      | some w =>
        simp only [ht] at hr
        obtain ⟨q, hq, hu, y, hy, rfl⟩ := hr
        exact loaded_spad ht hq hu hy
    refine ⟨_, load_step ⟨hf, hk, hd⟩ hload, rfl, fun j hj => ?_, fun j hj => ?_, ?_⟩
    · rw [loadDone_unit, get_setTile_same _ _ _ hj, List.getD_eq_getElem?_getD, List.getElem?_map, List.getElem?_range hj]
      rfl
    · rw [loadDone_unit, get_setTile, if_neg hj]
    · rw [loadDone_unit, setTile_rest]

end Sys2Proof.Formats
end

section
/-! The issue of matrix work: words that wait for a unit, and the operations that they leave outstanding (R196, R365, R373 to R375). -/

namespace Sys2Proof.Formats

open Sys2Proof.Machine Sys2Proof.Safety Sys2Proof.Glance

/-! ### Words that wait for a matrix unit (R365) -/

theorem matBusy_of_alike {s t : State} (h : Alike s t) (x : X) (u : Use) : t.matBusy x u = s.matBusy x u := by
  obtain ⟨_, _, _, _, _, _, _, rfl⟩ := h.rest
  rfl

/-- A word that a matrix unit may hold: its meaning, and what it uses of the unit. -/
structure Holds (i : Instr) (u : Use) (x : X) (body : State → X → State × Done) : Prop where
  means : ∀ s, exec i s = run i (whenFree i body) s
  uses  : ∀ t : State, t.useOf x i = u

section

variable {i : Instr} {s : State} {x : X} {u : Use} {body : State → X → State × Done} (h : Executes i s x) (hi : Holds i u x body)
include h hi

theorem Holds.again_of_busy (hb : (begun i s x).matBusy x u = true) : Again i s x := by
  refine again_of_body h (hi.means s) (if_pos ?_) (if_pos ?_)
  · rwa [hi.uses]
  · rwa [hi.uses, matBusy_of_alike (Execution.begun_alike_unspent ..)]

variable (hb : (begun i s x).matBusy x u = false)
include hb

omit h in
theorem Holds.whenFree_eq : whenFree i body (begun i s x) x = body (begun i s x) x :=
  if_neg (by rw [hi.uses, hb]; exact Bool.false_ne_true)

theorem Holds.takes {e : Event} (he : body (begun i s x) x = (begun i s x, .event e)) : Takes i s x e :=
  takes_of_body h (hi.means s) ((hi.whenFree_eq hb).trans he)

theorem Holds.completes {t : State} (he : body (begun i s x) x = (t, .next)) : Completes i s x t (x.f.pc + 12) .none :=
  completes_of_body h (hi.means s) ((hi.whenFree_eq hb).trans he)

theorem Holds.again (he : body (begun i s x) x = (begun i s x, .hold)) (hu : body (s.unspent x.k x.en) x = (s.unspent x.k x.en, .hold)) :
    Again i s x := by
  refine again_of_body h (hi.means s) ((hi.whenFree_eq hb).trans he) ((if_neg ?_).trans hu)
  rw [hi.uses, matBusy_of_alike (Execution.begun_alike_unspent ..), hb]
  exact Bool.false_ne_true

end

/-! ### Operations that a word leaves outstanding -/

/-- An operation as its word issues it. -/
def opOf (x : X) (cls : Nat) (k : OpKind) : EngOp :=
  ⟨x.k, x.g.launch, x.g.gid, x.g.wg, x.g.gang, x.core, partOf x.k, cls, x.f.pc / 12, false, 0, 0, 0, k⟩

/-- The operations of `t` are those of `b` and a list issued after them, numbered from `b`'s serial number on. -/
def Started (x : X) (b t : State) (cls : Nat) (l : List OpKind) : Prop :=
  (∀ j o, l[j]? = some o → Table.find t.ops (b.serial + j) = some (opOf x cls o)) ∧
    (∀ n, n < b.serial ∨ b.serial + l.length ≤ n → Table.find t.ops n = Table.find b.ops n)

/-- Operations issued one after another. -/
def issuedAll (x : X) (cls : Nat) (l : List OpKind) (b : State) : State := l.foldl (fun t k => (t.newOp x cls k).2) b

theorem newOp_serial (b : State) (x : X) (cls : Nat) (k : OpKind) : (b.newOp x cls k).2.serial = b.serial + 1 := rfl

theorem find_newOp (b : State) (x : X) (cls : Nat) (k : OpKind) (n : Nat) :
    Table.find (b.newOp x cls k).2.ops n = if n = b.serial then some (opOf x cls k) else Table.find b.ops n :=
  Table.find_insert ..

theorem newOp_rest (b : State) (x : X) (cls : Nat) (k : OpKind) :
    { (b.newOp x cls k).2 with ops := b.ops, serial := b.serial } = b := rfl

theorem issuedAll_rest (x : X) (cls : Nat) (l : List OpKind) (b : State) :
    ∃ ops n, issuedAll x cls l b = { b with ops := ops, serial := n } := by
  induction l generalizing b with
  | nil => exact ⟨b.ops, b.serial, rfl⟩
  | cons k l ih =>
    obtain ⟨ops, n, h⟩ := ih (b.newOp x cls k).2
    exact ⟨ops, n, h⟩

theorem issuedAll_started (x : X) (cls : Nat) (l : List OpKind) (b : State) : Started x b (issuedAll x cls l b) cls l := by
  induction l generalizing b with
  | nil => exact ⟨fun j o h => by simp at h, fun n _ => rfl⟩
  | cons k l ih =>
    obtain ⟨hnew, hold⟩ := ih (b.newOp x cls k).2
    simp only [newOp_serial, find_newOp] at hnew hold
    refine ⟨fun j o hj => ?_, fun n hn => ?_⟩
    · cases j with
      | zero =>
        obtain rfl : k = o := Option.some.inj hj
        exact (hold b.serial (by omega)).trans (if_pos rfl)
      | succ j =>
        rw [show b.serial + (j + 1) = b.serial + 1 + j by omega]
        exact hnew j o hj
    · rw [List.length_cons] at hn
      exact (hold n (by omega)).trans (if_neg (by omega))

theorem newOp_started (b : State) (x : X) (cls : Nat) (k : OpKind) : Started x b (b.newOp x cls k).2 cls [k] :=
  issuedAll_started x cls [k] b

theorem issueMat_full {t : State} {x : X} (h : 4096 ≤ t.count x.g 1) (k : OpKind) : t.issueMat x k = (t, .hold) := if_pos h

theorem issueMat_room {t : State} {x : X} (h : t.count x.g 1 < 4096) (k : OpKind) : t.issueMat x k = ((t.newOp x 1 k).2, .next) :=
  if_neg (by omega)

/-! ### Slots (R367) -/

/-- The size of the issuing group's allocation. -/
def sizeOf (t : State) (x : X) : Nat := ((x.g.wg.bind (Table.find t.wgs)).map fun (w : Workgroup) => w.size).getD 0

theorem sizeOf_of_alike {s t : State} (h : Alike s t) (x : X) : sizeOf t x = sizeOf s x := by
  obtain ⟨_, _, _, _, _, _, _, rfl⟩ := h.rest
  rfl

/-- The meaning of `KSET` in a unit that does not hold it. -/
theorem kset_effect (p : Pre) (fm : Fmt) (k : BitVec 3) (a c : SReg) (x : X) : ∃ body,
    Holds (.kset p fm k a c) (Use.of [] (slotKeys fm k.toNat) []) x body ∧ ∀ t, body t x =
      if isHalf fm && k.toNat % 2 == 1 then (t, .event (Event.plain 0x24 0 x.f.mask))
      else if (x.g.sget a.toNat).toNat % 128 ≠ 0 ∨ sizeOf t x < (x.g.sget a.toNat).toNat + ksetBytes fm then
        (t, .event ⟨0x14, 0, BitVec.ofNat 64 (x.g.sget a.toNat).toNat, x.f.mask, 0, none⟩)
      else if (x.g.sget c.toNat).toNat % 128 ≠ 0 ∨ (scaled fm = true ∧ sizeOf t x < (x.g.sget c.toNat).toNat + 512) then
        (t, .event ⟨0x14, 0, BitVec.ofNat 64 (x.g.sget c.toNat).toNat, x.f.mask, 0, none⟩)
      else t.issueMat x (.kset k.toNat fm (x.g.sget a.toNat).toNat (x.g.sget c.toNat).toNat) :=
  ⟨_, ⟨fun _ => rfl, fun _ => rfl⟩, fun _ => rfl⟩

/-! ### Tiles (R373 to R375) -/

theorem tileFault_of_alike {s t : State} (h : Alike s t) (x : X) (sp write : Bool) (a : Int) (n : Nat) :
    t.tileFault x sp write a n = s.tileFault x sp write a n := by
  have htr : ∀ va, t.translate x.core (t.ctxOf x.g.launch) va = s.translate x.core (s.ctxOf x.g.launch) va := fun va => by
    rw [h.translate, h.ctxOf]
  simp only [State.tileFault, htr]
  obtain ⟨_, _, _, _, _, _, _, rfl⟩ := h.rest
  rfl

/-- The meaning of `MLOAD` in a unit that does not hold it. -/
theorem mload_effect (p : Pre) (mf : MFmt) (acc : BitVec 6) (sp : Bool) (mo : MemOp) (x : X) : ∃ body,
    Holds (.mload p mf acc sp mo) (Use.of [acc.toNat] [] []) x body ∧
      (∀ t e, t.tileFault x sp false (memAddr mo x.g sp 16 (lowLane x.f.mask)) (1024 * tileBytes mf) = some e → body t x = (t, .event e)) ∧
      ∀ t, t.tileFault x sp false (memAddr mo x.g sp 16 (lowLane x.f.mask)) (1024 * tileBytes mf) = none → body t x =
        t.issueMat x (.load ⟨acc.toNat, mf, false, if sp then x.g.wg else none, (memAddr mo x.g sp 16 (lowLane x.f.mask)).toNat, 1, 0, none,
          lowLane x.f.mask⟩) := by
  refine ⟨_, ⟨fun _ => rfl, fun _ => rfl⟩, fun t e h => ?_, fun t h => ?_⟩ <;>
  · dsimp only [X.low]
    rw [h]

/-- The Held slot in which a drain's tile lies. -/
def heldSlot (t : State) (x : X) (sp : Bool) (ring n : Nat) (a : Int) : Option Nat :=
  if sp ∧ 0 ≤ a then (x.g.wg.bind fun w => t.ring? w ring).bind fun r => r.heldAt a.toNat n else none

theorem heldSlot_of_alike {s t : State} (h : Alike s t) (x : X) (sp : Bool) (ring n : Nat) (a : Int) :
    heldSlot t x sp ring n a = heldSlot s x sp ring n a := by
  obtain ⟨_, _, _, _, _, _, _, rfl⟩ := h.rest
  rfl

/-- The tile of a drain. -/
def drainOf (t : State) (x : X) (acc : Nat) (mf : MFmt) (add sp pub : Bool) (ring : Nat) (rnd : BitVec 3) (a : Int) : Tile :=
  ⟨acc, mf, add, if sp then x.g.wg else none, a.toNat, modeOf x.f rnd, x.g.seed (lowLane x.f.mask),
    if pub then (heldSlot t x sp ring (1024 * tileBytes mf) a).map fun k => (ring, k) else none, lowLane x.f.mask⟩

/-- The state that the issue of a drain leaves: its operation, its lines marked, the generator advanced. -/
def drainStart (b : State) (x : X) (tl : Tile) : State :=
  let t := match tl.tgt with
    | some w => (b.newOp x 1 (.drain tl)).2.modWg w fun y => y.mark b.serial (rowLines tl.addr 0 (1024 * tileBytes tl.fmt) 1)
    | none => (b.newOp x 1 (.drain tl)).2
  if tl.mode = 7 then t.modGroup x.k fun g => g.setSeed (lowLane x.f.mask) (srAfter 1024 tl.seed) else t

/-- The meaning of `MDRAIN` in a unit that does not hold it. -/
theorem mdrain_effect (p : Pre) (add : Bool) (mf : MFmt) (rnd : BitVec 3) (acc : BitVec 6) (sp pub : Bool) (ring : BitVec 4) (mo : MemOp)
    (x : X) {a : Int} (ha : memAddr mo x.g sp 16 (lowLane x.f.mask) = a) : ∃ body,
    Holds (.mdrain p add mf rnd acc sp pub ring mo) (Use.of [acc.toNat] [] []) x body ∧
      (∀ t, pub = true → heldSlot t x sp ring.toNat (1024 * tileBytes mf) a = none → body t x = (t, .event (Event.plain 0x33 0 x.f.mask))) ∧
      ∀ t, (pub = true → heldSlot t x sp ring.toNat (1024 * tileBytes mf) a ≠ none) →
        (∀ e, t.tileFault x sp true a (1024 * tileBytes mf) = some e → body t x = (t, .event e)) ∧
        (t.tileFault x sp true a (1024 * tileBytes mf) = none → body t x = if 4096 ≤ t.count x.g 1 then (t, .hold)
          else (drainStart t x (drainOf t x acc.toNat mf add sp pub ring.toNat rnd a), .next)) := by
  have hslot : ∀ t : State, (if (sp && decide (0 ≤ a)) = true then (x.g.wg.bind fun w => t.ring? w ring.toNat).bind fun r =>
      r.heldAt a.toNat (1024 * tileBytes mf) else none) = heldSlot t x sp ring.toNat (1024 * tileBytes mf) a := fun t => by
    simp only [heldSlot, Bool.and_eq_true, decide_eq_true_eq]
  subst ha
  refine ⟨_, ⟨fun _ => rfl, fun _ => rfl⟩, fun t hp hs => ?_, fun t hs => ⟨fun e he => ?_, fun he => ?_⟩⟩
  · dsimp only [X.low]
    rw [hslot, hs, hp]
    rfl
  all_goals
    have hn : (pub && (heldSlot t x sp ring.toNat (1024 * tileBytes mf) (memAddr mo x.g sp 16 (lowLane x.f.mask))).isNone) = false := by
      cases hp : pub with
      | false => rfl
      | true => simpa [Option.isSome_iff_ne_none] using hs hp
    dsimp only [X.low]
    rw [hslot, hn, he]
  · rfl
  · rfl

/-! ### Lines marked for an operation (R117) -/

theorem bytes_mark (y : Workgroup) (i : Nat) (lines : List Nat) : (y.mark i lines).bytes = y.bytes := by
  refine bytes_foldl (fun w n => ?_) lines y
  split
  · rfl
  · rfl
  · dsimp only
    split <;> rfl

/-- An operation has marked a line. -/
def Marked (y : Workgroup) (i n : Nat) : Prop := ∃ l, y.line n = .pending l ∧ i ∈ l

theorem line_setLine (y : Workgroup) (n k : Nat) (l : Line) : (y.setLine n l).line k = if k = n then l else y.line k :=
  Table.get_put ..

/-- The operations that a line waits for once `i` has marked it. -/
def markers (i : Nat) : Line → List Nat
  | .pending l => l ++ [i]
  | _ => [i]

/-- Marking one line marks it, and no other is less marked. -/
theorem line_mark_one (y : Workgroup) (i n : Nat) : Marked (y.mark i [n]) i n ∧ ∀ k ≠ n, (y.mark i [n]).line k = y.line k := by
  have hset : ∀ l, (y.setLine n (.pending l)).line n = .pending l ∧ ∀ k ≠ n, (y.setLine n (.pending l)).line k = y.line k :=
    fun l => ⟨(line_setLine ..).trans (if_pos rfl), fun k hk => (line_setLine ..).trans (if_neg hk)⟩
  have hm : (y.mark i [n]).lines = (y.setLine n (.pending (markers i (y.line n)))).lines := by
    simp only [Workgroup.mark, List.foldl_cons, List.foldl_nil]
    cases y.line n with
    | full => rfl
    | pending l => rfl
    | unfilled =>
      dsimp only
      split <;> rfl
  have hl : ∀ k, (y.mark i [n]).line k = (y.setLine n (.pending (markers i (y.line n)))).line k := fun k => congrArg (fun t => Table.get Line.full t k) hm
  refine ⟨⟨_, (hl n).trans (hset _).1, ?_⟩, fun k hk => (hl k).trans ((hset _).2 k hk)⟩
  unfold markers
  split <;> simp

theorem mark_marks (i : Nat) (lines : List Nat) (y : Workgroup) : ∀ n, n ∈ lines ∨ Marked y i n → Marked (y.mark i lines) i n := by
  induction lines generalizing y with
  | nil => exact fun n h => h.resolve_left (List.not_mem_nil)
  | cons k lines ih =>
    intro n h
    obtain ⟨hk, hrest⟩ := line_mark_one y i k
    refine ih (y.mark i [k]) n ?_
    by_cases hn : n = k
    · exact .inr (hn ▸ hk)
    · rcases h with h | ⟨l, hl, hi⟩
      · exact .inl ((List.mem_cons.1 h).resolve_left hn)
      · exact .inr ⟨l, (hrest n hn).trans hl, hi⟩

end Sys2Proof.Formats
end

section
/-! The issue of drains and of octet passes (R370 to R374), and the issue of matrix work as the obligation states it. -/

namespace Sys2Proof.Formats

open Sys2Proof.Machine Sys2Proof.Safety Sys2Proof.Glance

/-! ### What the issue of a drain leaves (R98, R117, R374) -/

theorem drainStart_frame (b : State) (x : X) (tl : Tile) :
    (drainStart b x tl).ops = (b.newOp x 1 (.drain tl)).2.ops ∧ (drainStart b x tl).mem = b.mem := by
  unfold drainStart
  dsimp only
  split <;> split <;> exact ⟨rfl, rfl⟩

theorem drainStart_started (b : State) (x : X) (tl : Tile) : Started x b (drainStart b x tl) 1 [.drain tl] := by
  have h := newOp_started b x 1 (.drain tl)
  unfold Started at h ⊢
  rwa [(drainStart_frame b x tl).1]

theorem seed_setSeed (g : Group) (l k : Nat) (v : Word) : (g.setSeed l v).seed k = if k = l then (if v = 0 then 1 else v) else g.seed k :=
  Table.get_put ..

theorem setSeed_rest (g : Group) (l : Nat) (v : Word) : { g.setSeed l v with srseed := g.srseed } = g := rfl

theorem drainStart_group {b : State} {x : X} (hg : b.group? x.k = some x.g) (tl : Tile) : ∃ g : Group,
    (drainStart b x tl).group? x.k = some g ∧ { g with srseed := x.g.srseed } = x.g ∧
      ∀ l, g.seed l = if tl.mode = 7 ∧ l = lowLane x.f.mask then
        (if srAfter 1024 tl.seed = 0 then 1 else srAfter 1024 tl.seed) else x.g.seed l := by
  have hg' : Table.find b.groups x.k = some x.g := hg
  by_cases hm : tl.mode = 7
  · refine ⟨x.g.setSeed (lowLane x.f.mask) (srAfter 1024 tl.seed), ?_, setSeed_rest .., fun l => ?_⟩
    · have hmod : ∀ (t : State) (f : Group → Group), t.groups = b.groups → (t.modGroup x.k f).group? x.k = some (f x.g) := fun t f ht => by
        simp only [State.group?, State.modGroup, Table.find_adjust, if_true, ht, hg', Option.map_some]
      unfold drainStart
      rw [if_pos hm]
      refine hmod _ _ ?_
      split <;> rfl
    · simp only [seed_setSeed, hm, true_and]
  · refine ⟨x.g, ?_, rfl, fun l => (if_neg (fun h => hm h.1)).symm⟩
    unfold drainStart
    rw [if_neg hm]
    split <;> exact hg

theorem drainStart_lines {b : State} {x : X} {tl : Tile} {w : Nat} {y : Workgroup} (ht : tl.tgt = some w) (hy : Table.find b.wgs w = some y) :
    ∃ y' : Workgroup, Table.find (drainStart b x tl).wgs w = some y' ∧ y'.bytes = y.bytes ∧
      ∀ n ∈ rowLines tl.addr 0 (1024 * tileBytes tl.fmt) 1, Marked y' b.serial n := by
  have hw : (drainStart b x tl).wgs = Table.adjust b.wgs w fun y => y.mark b.serial (rowLines tl.addr 0 (1024 * tileBytes tl.fmt) 1) := by
    unfold drainStart
    rw [ht]
    dsimp only
    split <;> rfl
  refine ⟨y.mark b.serial (rowLines tl.addr 0 (1024 * tileBytes tl.fmt) 1), ?_, bytes_mark .., fun n hn => mark_marks _ _ y n (.inl hn)⟩
  rw [hw, Table.find_adjust, if_pos rfl, hy, Option.map_some]

/-! ### Octet passes (R370 to R372) -/

/-- The clk of a pass in the array by the number of the A format. -/
theorem passClk_of_aFmt {n : Nat} {f : Fmt} (h : aFmt n = some f) (sparse : Bool) :
    passClk sparse f = (if 4 ≤ n then 32 else if n = 3 then 12 else 8) / (if sparse then 2 else 1) := by
  have hn : n < 6 := by
    by_contra hge
    rw [aFmt, List.getElem?_eq_none (by simpa using hge)] at h
    exact nomatch h
  rcases (by omega : n = 0 ∨ n = 1 ∨ n = 2 ∨ n = 3 ∨ n = 4 ∨ n = 5) with rfl | rfl | rfl | rfl | rfl | rfl <;>
  · obtain rfl := Option.some.inj h
    rfl

/-- A combination of formats, block and modes that an octet pass cannot take (R371, R372, R383). -/
def formBad (t : State) (x : X) (sparse : Bool) (e : Ext) (sat : Bool) (mode : BitVec 3) (tid K : Nat) (f : Fmt) (slot : Kiln) : Bool :=
  !combines f slot.fmt || extSize e < needPos sparse f K || (sat && f != .i8) ||
    (scaled f && (Table.find (t.unit x).binds tid).isNone) || mode == 7

/-- The lanes of octets whose accumulator or metadata is bad. -/
def badLanes (x : X) (sparse : Bool) (e : Ext) (acc a : Nat) (f : Fmt) : List Nat :=
  (lanesOf x.lanes).filter fun l => 63 < acc + l / 8 || (sparse && !metaOk f (rowWords x.g e a l))

/-- The pass of an octet, the `o.2`-th that the word issues, issued at `clk`. -/
def passOf (x : X) (sparse : Bool) (e : Ext) (sat : Bool) (mode : BitVec 3) (acc tid a k K : Nat) (f : Fmt) (clk : Nat) (o : Nat × Nat) : OpKind :=
  .pass ⟨acc + o.1, o.1, k, K, x.f.fmt.toNat % 8, (List.range 8).map fun i => rowWords x.g e a (8 * o.1 + i),
    (List.range 8).map fun i => x.lanes.getLsbD (8 * o.1 + i), tid, sat, mode, sparse, clk + passClk sparse f * (o.2 + 1) + 16⟩

/-- The octets of a word, numbered in order. -/
def octetsOf (x : X) : List (Nat × Nat) := (octets x.lanes).zip (List.range (octets x.lanes).length)

theorem issuedAll_of_clk {β : Type} (x : X) (cls : Nat) (F : Nat → β → OpKind) (l : List β) (t : State) :
    l.foldl (fun (s : State) o => (s.newOp x cls (F s.clk o)).2) t = issuedAll x cls (l.map (F t.clk)) t := by
  induction l generalizing t with
  | nil => rfl
  | cons o l ih => exact ih _

section

variable {t : State} {x : X} {sparse : Bool} {e : Ext} {sat : Bool} {mode : BitVec 3} {acc tid a k K : Nat}

theorem issueMma_no_slot (h : ∀ f slot, aFmt (x.f.fmt.toNat % 8) = some f → Table.find (t.unit x).kiln k = some slot → False) :
    t.issueMma x sparse e sat mode acc tid a k K = (t, .event (Event.plain 0x24 0 x.lanes)) := by
  unfold State.issueMma
  dsimp only
  cases hf : aFmt (x.f.fmt.toNat % 8) with
  | none => rfl
  | some f =>
    cases hs : Table.find (t.unit x).kiln k with
    | none => rfl
    | some slot => exact (h f slot hf hs).elim

variable {f : Fmt} {slot : Kiln} (hf : aFmt (x.f.fmt.toNat % 8) = some f) (hs : Table.find (t.unit x).kiln k = some slot)
include hf hs

theorem issueMma_form (h : formBad t x sparse e sat mode tid K f slot = true) :
    t.issueMma x sparse e sat mode acc tid a k K = (t, .event (Event.plain 0x24 0 x.lanes)) := by
  simp only [State.issueMma, hf, hs]
  exact if_pos h

theorem issueMma_lanes (h : formBad t x sparse e sat mode tid K f slot = false) (hb : badLanes x sparse e acc a f ≠ []) :
    t.issueMma x sparse e sat mode acc tid a k K = (t, .event (Event.plain 0x24 0 (maskOf (badLanes x sparse e acc a f)))) := by
  have hb' : (!(badLanes x sparse e acc a f).isEmpty) = true := by simpa using hb
  simp only [State.issueMma, hf, hs]
  exact (if_neg (by rw [← Bool.not_eq_true] at h; exact h)).trans (if_pos hb')

theorem issueMma_issues (h : formBad t x sparse e sat mode tid K f slot = false) (hb : badLanes x sparse e acc a f = []) :
    t.issueMma x sparse e sat mode acc tid a k K =
      ((issuedAll x 5 ((octetsOf x).map (passOf x sparse e sat mode acc tid a k K f t.clk)) t).setUnit x
        { t.unit x with next := t.clk + passClk sparse f * (octets x.lanes).length }, .next) := by
  have hb' : ¬ (!(badLanes x sparse e acc a f).isEmpty) = true := by simp [hb]
  have hall := issuedAll_of_clk x 5 (passOf x sparse e sat mode acc tid a k K f) (octetsOf x) t
  obtain ⟨ops, n, hrest⟩ := issuedAll_rest x 5 ((octetsOf x).map (passOf x sparse e sat mode acc tid a k K f t.clk)) t
  have hfold : ∀ v : State, v = issuedAll x 5 ((octetsOf x).map (passOf x sparse e sat mode acc tid a k K f t.clk)) t →
      (v.setUnit x { v.unit x with next := v.clk + passClk sparse f * (octets x.lanes).length }, Done.next) =
        (v.setUnit x { t.unit x with next := t.clk + passClk sparse f * (octets x.lanes).length }, Done.next) := fun v hv => by
    rw [hv, hrest]
    rfl
  rw [← hall]
  simp only [State.issueMma, hf, hs]
  exact ((if_neg (by rw [← Bool.not_eq_true] at h; exact h)).trans (if_neg hb')).trans (hfold _ hall)

end

theorem issuedAll_frame (x : X) (cls : Nat) (l : List OpKind) (b : State) :
    { issuedAll x cls l b with ops := b.ops, serial := b.serial } = b := by
  obtain ⟨ops, n, h⟩ := issuedAll_rest x cls l b
  rw [h]

theorem formBad_eq_false {t : State} {x : X} {sparse : Bool} {e : Ext} {sat : Bool} {mode : BitVec 3} {tid K : Nat} {f : Fmt} {slot : Kiln} :
    formBad t x sparse e sat mode tid K f slot = false ↔ combines f slot.fmt = true ∧ needPos sparse f K ≤ extSize e ∧ (sat = true → f = .i8) ∧
      (scaled f = true → Table.find (t.unit x).binds tid ≠ none) ∧ mode ≠ 7 := by
  simp only [formBad, Bool.or_eq_false_iff, Bool.not_eq_false', decide_eq_false_iff_not, Nat.not_lt, Bool.and_eq_false_imp, bne_eq_false_iff_eq,
    Option.isNone_eq_false_iff, Option.isSome_iff_ne_none, beq_eq_false_iff_ne, and_assoc]

theorem mem_badLanes {x : X} {sparse : Bool} {e : Ext} {acc a : Nat} {f : Fmt} {l : Nat} : l ∈ badLanes x sparse e acc a f ↔
    l < 128 ∧ x.lanes.getLsbD l = true ∧ (63 < acc + l / 8 ∨ (sparse = true ∧ metaOk f (rowWords x.g e a l) = false)) := by
  simp only [badLanes, List.mem_filter, mem_lanesOf, Bool.or_eq_true, decide_eq_true_eq, Bool.and_eq_true, Bool.not_eq_true', and_assoc]

/-! ### `MMA` and `MMASP` as words -/

/-- `MMASP` or `MMA`. -/
def mmaWord (sparse : Bool) (p : Pre) (e : Ext) (sat : Bool) (rnd : BitVec 3) (acc tid : BitVec 6) (va : VReg) (k : BitVec 3) (km1 : BitVec 7) : Instr :=
  if sparse then .mmasp p e sat rnd acc tid va k km1 else .mma p e sat rnd acc tid va k km1

/-- The meaning of `MMASP` or `MMA` once the array is free. -/
def mmaBody (sparse : Bool) (e : Ext) (sat : Bool) (rnd : BitVec 3) (acc tid : BitVec 6) (va : VReg) (k : BitVec 3) (km1 : BitVec 7)
    (s : State) (x : X) : State × Done :=
  s.issueMma x sparse e sat (modeOf x.f rnd) acc.toNat tid.toNat va.toNat k.toNat (km1.toNat + 1)

theorem mma_holds (sparse : Bool) (p : Pre) (e : Ext) (sat : Bool) (rnd : BitVec 3) (acc tid : BitVec 6) (va : VReg) (k : BitVec 3)
    (km1 : BitVec 7) (x : X) : Holds (mmaWord sparse p e sat rnd acc tid va k km1) (mmaUse x acc.toNat k.toNat) x
      (whenArray (mmaBody sparse e sat rnd acc tid va k km1)) := by
  cases sparse <;> exact ⟨fun _ => rfl, fun _ => rfl⟩

section

variable {i : Instr} {s : State} {x : X} {u : Use} {body : State → X → State × Done} (h : Executes i s x) (hi : Holds i u x (whenArray body))
include h hi

theorem again_of_array (hw : (begun i s x).matBusy x u = true ∨ s.clk < ((begun i s x).unit x).next) : Again i s x := by
  by_cases hb : (begun i s x).matBusy x u = true
  · exact hi.again_of_busy h hb
  · have hn := hw.resolve_left hb
    refine hi.again h (Bool.eq_false_iff.2 hb) (if_pos (by rwa [begun_clk])) (if_pos ?_)
    rw [State.unit, State.mat, begun_mats] at hn
    exact hn

omit h hi in
theorem whenArray_free (hn : ((begun i s x).unit x).next ≤ s.clk) : whenArray body (begun i s x) x = body (begun i s x) x :=
  if_neg (by rw [begun_clk]; omega)

end

end Sys2Proof.Formats
end

section
/-! The issue of matrix work as the obligation states it (R196, R365, R367, R370 to R375, R383). -/

namespace Sys2Proof.Formats

open Sys2Proof.Machine Sys2Proof.Safety Sys2Proof.Glance

section

variable {i : Instr} {s : State} {x : X} {u : Use} {body : State → X → State × Done} (h : Executes i s x) (hi : Holds i u x body)
  (hb : (begun i s x).matBusy x u = false)
include h hi hb

/-- A word that ends in the issue of one operation of the matrix class. -/
theorem Holds.again_of_full {k : OpKind} (hbody : body (begun i s x) x = (begun i s x).issueMat x k)
    (hun : body (s.unspent x.k x.en) x = (s.unspent x.k x.en).issueMat x k) (hc : 4096 ≤ (begun i s x).count x.g 1) : Again i s x := by
  refine hi.again h hb (hbody.trans (issueMat_full hc k)) (hun.trans (issueMat_full ?_ k))
  rwa [(Execution.begun_alike_unspent i s x).count]

theorem Holds.issues {k : OpKind} (hbody : body (begun i s x) x = (begun i s x).issueMat x k) (hc : (begun i s x).count x.g 1 < 4096) :
    ∃ t : State, Completes i s x t (x.f.pc + 12) .none ∧ Started x (begun i s x) t 1 [k] ∧
      { t with ops := (begun i s x).ops, serial := (begun i s x).serial } = begun i s x :=
  ⟨_, hi.completes h hb (hbody.trans (issueMat_room hc k)), newOp_started .., newOp_rest ..⟩

end

/-- The bad lanes, where the number of the A format names its format. -/
theorem mem_badLanes_of_aFmt {x : X} {f : Fmt} (hf : aFmt (x.f.fmt.toNat % 8) = some f) (sparse : Bool) (e : Ext) (acc a l : Nat) :
    l ∈ badLanes x sparse e acc a f ↔ l < 128 ∧ x.lanes.getLsbD l = true ∧ (63 < acc + l / 8 ∨
      (sparse = true ∧ ∃ f, aFmt (x.f.fmt.toNat % 8) = some f ∧ metaOk f (rowWords x.g e a l) = false)) := by
  have hex : (∃ f, aFmt (x.f.fmt.toNat % 8) = some f ∧ metaOk f (rowWords x.g e a l) = false) ↔ metaOk f (rowWords x.g e a l) = false :=
    ⟨fun ⟨f', hf', hm⟩ => Option.some.inj (hf'.symm.trans hf) ▸ hm, fun hm => ⟨f, hf, hm⟩⟩
  rw [mem_badLanes, hex]

section

variable {sparse : Bool} {p : Pre} {e : Ext} {sat : Bool} {rnd : BitVec 3} {acc tid : BitVec 6} {va : VReg} {k : BitVec 3} {km1 : BitVec 7}
  {s : State} {x : X} (h : Executes (mmaWord sparse p e sat rnd acc tid va k km1) s x)
  (hb : (begun (mmaWord sparse p e sat rnd acc tid va k km1) s x).matBusy x (mmaUse x acc.toNat k.toNat) = false)
  (hn : ((begun (mmaWord sparse p e sat rnd acc tid va k km1) s x).unit x).next ≤ s.clk)
include h hb hn

/-- An octet pass that no form of the word can take. -/
theorem mma_takes_form (hno : ∀ f slot, aFmt (x.f.fmt.toNat % 8) = some f →
      Table.find ((begun (mmaWord sparse p e sat rnd acc tid va k km1) s x).unit x).kiln k.toNat = some slot →
      formBad (begun (mmaWord sparse p e sat rnd acc tid va k km1) s x) x sparse e sat (modeOf x.f rnd) tid.toNat (km1.toNat + 1) f slot = true) :
    Takes (mmaWord sparse p e sat rnd acc tid va k km1) s x (Event.plain 0x24 0 x.lanes) := by
  refine (mma_holds sparse p e sat rnd acc tid va k km1 x).takes h hb ((whenArray_free hn).trans ?_)
  by_cases hex : ∃ f slot, aFmt (x.f.fmt.toNat % 8) = some f ∧
      Table.find ((begun (mmaWord sparse p e sat rnd acc tid va k km1) s x).unit x).kiln k.toNat = some slot
  · obtain ⟨f, slot, hf, hs⟩ := hex
    exact issueMma_form hf hs (hno f slot hf hs)
  · exact issueMma_no_slot fun f slot hf hs => hex ⟨f, slot, hf, hs⟩

variable {f : Fmt} {slot : Kiln} (hf : aFmt (x.f.fmt.toNat % 8) = some f)
  (hs : Table.find ((begun (mmaWord sparse p e sat rnd acc tid va k km1) s x).unit x).kiln k.toNat = some slot)
  (hform : formBad (begun (mmaWord sparse p e sat rnd acc tid va k km1) s x) x sparse e sat (modeOf x.f rnd) tid.toNat (km1.toNat + 1) f slot = false)
include hf hs hform

theorem mma_takes_lanes (hbad : badLanes x sparse e acc.toNat va.toNat f ≠ []) :
    Takes (mmaWord sparse p e sat rnd acc tid va k km1) s x (Event.plain 0x24 0 (maskOf (badLanes x sparse e acc.toNat va.toNat f))) :=
  (mma_holds sparse p e sat rnd acc tid va k km1 x).takes h hb ((whenArray_free hn).trans (issueMma_lanes hf hs hform hbad))

/-- The octets' passes, each `passClk` after the one before, and the unit taken until the last is through. -/
theorem mma_issues (hnone : badLanes x sparse e acc.toNat va.toNat f = []) :
    Completes (mmaWord sparse p e sat rnd acc tid va k km1) s x
      ((issuedAll x 5 ((octetsOf x).map (passOf x sparse e sat (modeOf x.f rnd) acc.toNat tid.toNat va.toNat k.toNat (km1.toNat + 1) f s.clk))
        (begun (mmaWord sparse p e sat rnd acc tid va k km1) s x)).setUnit x
        { (begun (mmaWord sparse p e sat rnd acc tid va k km1) s x).unit x with next := s.clk + passClk sparse f * (octets x.lanes).length })
      (x.f.pc + 12) .none := by
  refine (mma_holds sparse p e sat rnd acc tid va k km1 x).completes h hb ((whenArray_free hn).trans ?_)
  have hissue := issueMma_issues (acc := acc.toNat) (a := va.toNat) hf hs hform hnone
  rwa [begun_clk] at hissue

end

/-- Settles O40: each word by its meaning in a free unit, `Again` also where it has not issued. -/
theorem matrixIssue : Obligations.MatrixIssue := by
  intro p fm mf k a c add sat sp pub sparse e rnd acc tid va km1 ring mo s x kset mma drain load mode starts issues size ea sb K bytes at_ tgt
  refine ⟨fun h => ⟨?_, fun hb => ?_⟩, fun h => ⟨?_, fun hb hn => ?_⟩, fun h => ⟨?_, fun hb => ?_⟩, fun h => ⟨?_, fun hb => ?_⟩⟩
  · obtain ⟨body, hi, -⟩ := kset_effect p fm k a c x
    exact hi.again_of_busy h
  · obtain ⟨body, hi, heff⟩ := kset_effect p fm k a c x
    intro odd off offS
    have hu := sizeOf_of_alike (Execution.begun_alike_unspent kset s x) x
    have hodd : odd ↔ (isHalf fm && k.toNat % 2 == 1) = true := by simp [odd]
    have hissue : ¬ odd → ¬ off → ¬ offS → body (begun kset s x) x = (begun kset s x).issueMat x (.kset k.toNat fm ea sb) ∧
        body (s.unspent x.k x.en) x = (s.unspent x.k x.en).issueMat x (.kset k.toNat fm ea sb) := fun h1 h2 h3 => by
      rw [heff, heff, hu]
      exact ⟨(if_neg (hodd.not.1 h1)).trans ((if_neg h2).trans (if_neg h3)), (if_neg (hodd.not.1 h1)).trans ((if_neg h2).trans (if_neg h3))⟩
    refine ⟨fun h1 => hi.takes h hb ?_, fun h1 h2 => hi.takes h hb ?_, fun h1 h2 h3 => hi.takes h hb ?_, fun h1 h2 h3 hc => ?_, fun h1 h2 h3 hc => ?_⟩
    · exact (heff _).trans (if_pos (hodd.1 h1))
    · exact (heff _).trans ((if_neg (hodd.not.1 h1)).trans (if_pos h2))
    · exact (heff _).trans ((if_neg (hodd.not.1 h1)).trans ((if_neg h2).trans (if_pos h3)))
    · exact hi.again_of_full h hb (hissue h1 h2 h3).1 (hissue h1 h2 h3).2 hc
    · exact hi.issues h hb (hissue h1 h2 h3).1 hc
  · exact again_of_array h (mma_holds sparse p e sat rnd acc tid va k km1 x)
  · refine ⟨fun hno => mma_takes_form h hb hn fun f slot hf hs => ?_, ?_, ?_⟩
    · rw [← Bool.not_eq_false, formBad_eq_false]
      exact fun hform => hno ⟨f, slot, hf, hs, hform⟩
    · rintro ⟨f, slot, hf, hs, hform⟩ ⟨l, hl, hlane, hbad⟩
      have hmem := mem_badLanes_of_aFmt hf sparse e acc.toNat va.toNat
      have hne := List.ne_nil_of_mem ((hmem l).2 ⟨hl, hlane, hbad⟩)
      refine ⟨_, mma_takes_lanes h hb hn hf hs (formBad_eq_false.2 hform) hne, fun l hl => ?_⟩
      rw [getLsbD_maskOf _ _ hl, decide_eq_true_eq]
      exact (hmem l).trans (and_iff_right hl)
    · rintro ⟨f, slot, hf, hs, hform⟩ hgood
      have hnone : badLanes x sparse e acc.toNat va.toNat f = [] := List.eq_nil_iff_forall_not_mem.2 fun l hmem => by
        obtain ⟨hl, hlane, hbad⟩ := (mem_badLanes_of_aFmt hf sparse e acc.toNat va.toNat l).1 hmem
        exact hgood l hl hlane hbad
      have hissue := mma_issues h hb hn hf hs (formBad_eq_false.2 hform) hnone
      have hst := issuedAll_started x 5 ((octetsOf x).map (passOf x sparse e sat (modeOf x.f rnd) acc.toNat tid.toNat va.toNat k.toNat (km1.toNat + 1)
        f s.clk)) (begun mma s x)
      unfold passOf at hissue hst
      rw [passClk_of_aFmt hf] at hissue hst
      exact ⟨_, hissue, issuedAll_frame .., hst⟩
  · obtain ⟨body, hi, -⟩ := mload_effect p mf acc sp mo x
    exact hi.again_of_busy h
  · obtain ⟨body, hi, hev, hok⟩ := mload_effect p mf acc sp mo x
    have hu := tileFault_of_alike (Execution.begun_alike_unspent load s x) x sp false at_ bytes
    refine ⟨fun ev hf => hi.takes h hb (hev _ ev hf), fun hf hc => ?_, fun hf hc => hi.issues h hb (hok _ hf) hc⟩
    exact hi.again_of_full h hb (hok _ hf) (hok _ (hu.trans hf)) hc
  · obtain ⟨body, hi, -⟩ := mdrain_effect p add mf rnd acc sp pub ring mo x rfl
    exact hi.again_of_busy h
  · obtain ⟨body, hi, hno, heff⟩ := mdrain_effect p add mf rnd acc sp pub ring mo x (a := at_) rfl
    have hal := Execution.begun_alike_unspent drain s x
    refine ⟨fun hp hs => hi.takes h hb (hno _ hp hs), fun hs => ?_⟩
    obtain ⟨hev, hok⟩ := heff (begun drain s x) hs
    refine ⟨fun ev hf => hi.takes h hb (hev ev hf), fun hf hc => ?_, fun hf hc => ?_⟩
    · have hoku := (heff (s.unspent x.k x.en) (fun hp => by rw [heldSlot_of_alike hal]; exact hs hp)).2 ((tileFault_of_alike hal ..).trans hf)
      exact hi.again h hb ((hok hf).trans (if_pos hc)) (hoku.trans (if_pos (by rwa [hal.count])))
    · obtain ⟨g, hg, hrest, hseed⟩ := drainStart_group h.group (drainOf (begun drain s x) x acc.toNat mf add sp pub ring.toNat rnd at_)
      exact ⟨_, g, hi.completes h hb ((hok hf).trans (if_neg (by omega))), (drainStart_frame ..).2, drainStart_started .., hg, hrest,
        fun l _ => hseed l, fun w hw y hy => drainStart_lines hw hy⟩

end Sys2Proof.Formats
end

section
/-! What the reads of words at their homes touch (R128, R442, R453 to R460, R469). -/

namespace Sys2Proof.Hierarchy

open Sys2Proof.Machine Sys2Proof.Safety Sys2Proof.Glance

/-- `t` differs from `s` only in what reads at home slices touch: errors of stores, the log with its counts and alerts, what the
slices hold with their stamps, the filters of corrected errors, and words that are lost. -/
structure ReadsHome (s t : State) : Prop where
  rest : ∃ fl lg he al di fa hd we ho bl re, t = { s with flaws := fl, log := lg, health := he, alerts := al, dir := di, fatal := fa, held := hd, wet := we, homes := ho, bloom := bl, repeats := re }
  entry : ∀ l, ∃ m, t.entry l = { s.entry l with lost := m }

namespace ReadsHome

theorem refl (s : State) : ReadsHome s s := ⟨⟨_, _, _, _, _, _, _, _, _, _, _, rfl⟩, fun _ => ⟨_, rfl⟩⟩

theorem trans {s t u : State} (h : ReadsHome s t) (h' : ReadsHome t u) : ReadsHome s u := by
  refine ⟨?_, fun l => ?_⟩
  · obtain ⟨_, _, _, _, _, _, _, _, _, _, _, rfl⟩ := h.rest
    obtain ⟨_, _, _, _, _, _, _, _, _, _, _, rfl⟩ := h'.rest
    exact ⟨_, _, _, _, _, _, _, _, _, _, _, rfl⟩
  · obtain ⟨m, hm⟩ := h.entry l
    obtain ⟨n, hn⟩ := h'.entry l
    exact ⟨n, by rw [hn, hm]⟩

/-- A step that leaves the directory as it is. -/
theorem of_dir {s t : State} (hr : ∃ fl lg he al fa hd we ho bl re, t = { s with flaws := fl, log := lg, health := he, alerts := al, fatal := fa, held := hd, wet := we, homes := ho, bloom := bl, repeats := re }) :
    ReadsHome s t := by
  obtain ⟨_, _, _, _, _, _, _, _, _, _, rfl⟩ := hr
  exact ⟨⟨_, _, _, _, _, _, _, _, _, _, _, rfl⟩, fun _ => ⟨_, rfl⟩⟩

theorem foldl {β : Type} {f : State → β → State} (h : ∀ s x, ReadsHome s (f s x)) (l : List β) (s : State) : ReadsHome s (l.foldl f s) := by
  induction l generalizing s with
  | nil => exact refl s
  | cons x l ih => exact (h s x).trans (ih _)

theorem ite {s t u : State} {c : Prop} [Decidable c] (ht : ReadsHome s t) (hu : ReadsHome s u) : ReadsHome s (if c then t else u) := by
  split
  · exact ht
  · exact hu

section
variable {s t : State} (h : ReadsHome s t)
include h

theorem mem : t.mem = s.mem := by obtain ⟨_, _, _, _, _, _, _, _, _, _, _, rfl⟩ := h.rest; rfl
theorem check : t.check = s.check := by obtain ⟨_, _, _, _, _, _, _, _, _, _, _, rfl⟩ := h.rest; rfl
theorem cores : t.cores = s.cores := by obtain ⟨_, _, _, _, _, _, _, _, _, _, _, rfl⟩ := h.rest; rfl
theorem ctlb : t.ctlb = s.ctlb := by obtain ⟨_, _, _, _, _, _, _, _, _, _, _, rfl⟩ := h.rest; rfl
theorem groups : t.groups = s.groups := by obtain ⟨_, _, _, _, _, _, _, _, _, _, _, rfl⟩ := h.rest; rfl
theorem launches : t.launches = s.launches := by obtain ⟨_, _, _, _, _, _, _, _, _, _, _, rfl⟩ := h.rest; rfl
theorem ctxs : t.ctxs = s.ctxs := by obtain ⟨_, _, _, _, _, _, _, _, _, _, _, rfl⟩ := h.rest; rfl
theorem leafRel : t.leafRel = s.leafRel := by obtain ⟨_, _, _, _, _, _, _, _, _, _, _, rfl⟩ := h.rest; rfl
theorem tb : t.tb = s.tb := by obtain ⟨_, _, _, _, _, _, _, _, _, _, _, rfl⟩ := h.rest; rfl

theorem homeWord (a : Nat) : t.homeWord a = s.homeWord a := by
  obtain ⟨_, _, _, _, _, _, _, _, _, _, _, rfl⟩ := h.rest; rfl
theorem syndrome (a : Nat) : t.syndrome a = s.syndrome a := by
  obtain ⟨_, _, _, _, _, _, _, _, _, _, _, rfl⟩ := h.rest; rfl
theorem l1? (c l : Nat) : t.l1? c l = s.l1? c l := by
  obtain ⟨_, _, _, _, _, _, _, _, _, _, _, rfl⟩ := h.rest; rfl
theorem inL1 (c a : Nat) : t.inL1 c a = s.inL1 c a := by
  obtain ⟨_, _, _, _, _, _, _, _, _, _, _, rfl⟩ := h.rest; rfl
theorem wordAt (c a : Nat) : t.wordAt c a = s.wordAt c a := by
  obtain ⟨_, _, _, _, _, _, _, _, _, _, _, rfl⟩ := h.rest; rfl

theorem owns (c a : Nat) : t.owns c a = s.owns c a := by
  obtain ⟨m, hm⟩ := h.entry (a / 128)
  simp only [State.owns, hm]

end

end ReadsHome

/-! ### The parts of a read -/

theorem readsHome_lose (s : State) (l : Nat) (m : Word) : ReadsHome s (s.lose l m) := by
  unfold State.lose
  dsimp only
  split
  · exact .refl s
  have he : ReadsHome s (s.setEntry l { s.entry l with lost := (s.entry l).lost ||| m }) := by
    refine ⟨⟨_, _, _, _, _, _, _, _, _, _, _, rfl⟩, fun j => ?_⟩
    rw [State.entry_setEntry]
    split
    · subst j; exact ⟨_, rfl⟩
    · exact ⟨_, rfl⟩
  refine .ite (he.trans (.of_dir ?_)) (he.trans (.of_dir ?_)) <;> split <;> exact ⟨_, _, _, _, _, _, _, _, _, _, rfl⟩

theorem readsHome_readStore (s : State) (x : Store) (c : Option Nat) : ReadsHome s (s.readStore x c).1 := by
  obtain ⟨_, _, _, _, h⟩ := s.readStore_eq x c
  exact .of_dir ⟨_, _, _, _, _, _, _, _, _, _, h⟩

theorem readsHome_readHome (s : State) (c : Option Nat) (a : Nat) : ReadsHome s (s.readHome c a) := by
  have hr := readsHome_readStore s (.home (a / 4 * 4)) c
  exact .ite (.refl s) (.ite hr (.ite (hr.trans (readsHome_lose ..)) (hr.trans (.of_dir ⟨_, _, _, _, _, _, _, _, _, _, rfl⟩))))

theorem readsHome_letGo (s : State) (l : Nat) : ReadsHome s (s.letGo l) := by
  refine ReadsHome.trans (t := if s.flaws.isEmpty then s else _) (.ite (.refl s) ?_) (.of_dir ⟨_, _, _, _, _, _, _, _, _, _, rfl⟩)
  exact (ReadsHome.foldl (fun s i => readsHome_readHome s none (128 * l + 4 * i)) (wordsOf (Table.get 0 s.wet l)) s).trans
    (.of_dir ⟨_, _, _, _, _, _, _, _, _, _, rfl⟩)

theorem readsHome_fetched (s : State) (a : Nat) : ReadsHome s (s.fetched a) := by
  have hadd : ∀ t : State, ReadsHome t { t with held := Table.put 0 t.held (a / 128) (Table.get 0 t.held (a / 128) ||| wordBit (a / 4 % 32)) } :=
    fun t => .of_dir ⟨_, _, _, _, _, _, _, _, _, _, rfl⟩
  unfold State.fetched
  dsimp only
  split
  · exact .refl s
  · split
    · exact hadd s
    · refine ReadsHome.trans ?_ (hadd _)
      split
      · exact .refl s
      · split
        · exact readsHome_letGo s _
        · exact .refl s

theorem readsHome_corrected (s : State) (a y : Nat) : ReadsHome s (s.corrected a y) := by
  unfold State.corrected
  refine .of_dir ?_
  dsimp only
  split
  · split <;> exact ⟨_, _, _, _, _, _, _, _, _, _, rfl⟩
  · exact ⟨_, _, _, _, _, _, _, _, _, _, rfl⟩

theorem readsHome_noteRead (s : State) (a : Nat) : ReadsHome s (s.noteRead a) := by
  have hf := readsHome_fetched s a
  unfold State.noteRead
  refine .ite (.refl s) (.ite ?_ hf)
  split
  · exact hf.trans (readsHome_corrected ..)
  · exact hf.trans (readsHome_corrected ..)
  · exact hf

theorem readsHome_noteAbort (s : State) (a c : Nat) (x : Option Nat) : ReadsHome s (s.noteAbort a c x) := by
  unfold State.noteAbort State.uncorrectable
  refine .of_dir ?_
  split
  · split <;> exact ⟨_, _, _, _, _, _, _, _, _, _, rfl⟩
  · exact ⟨_, _, _, _, _, _, _, _, _, _, rfl⟩

theorem readsHome_noteWalk (s : State) (c a : Nat) : ReadsHome s (s.noteWalk c a) := by
  unfold State.noteWalk
  split
  · refine .foldl (fun s a => ?_) _ s
    refine (readsHome_readHome s (some c) a).trans ?_
    dsimp only
    split
    · exact readsHome_noteAbort ..
    · exact readsHome_noteRead ..
  · exact .refl s

theorem readsHome_burst (s : State) (b : Nat × Burst) :
    ReadsHome s ((burstOffs b.2).foldl (fun s w => s.noteRead (burstAddr b.1 b.2 w)) s) := by
  generalize burstOffs b.2 = ws
  exact .foldl (fun s w => readsHome_noteRead s (burstAddr b.1 b.2 w)) ws s

theorem readsHome_fetchWords (s : State) (ws : List Nat) : ReadsHome s (s.fetchWords ws) := by
  unfold State.fetchWords State.fetchBursts
  exact .foldl readsHome_burst _ s

theorem readsHome_noteNewest (s : State) (a : Nat) : ReadsHome s (s.noteNewest a) := .ite (.refl s) (readsHome_noteRead s a)

end Sys2Proof.Hierarchy
end

section
/-! Windows of an allocation: `WINMAP`, `WINFL` and `WINDROP` (R120 to R122, R328 to R330). -/

namespace Sys2Proof.Hierarchy

open Sys2Proof.Machine Sys2Proof.Safety Sys2Proof.Glance

theorem exec_winmap (p : Pre) (e : BitVec 3) (a b : SReg) (s : State) : exec (.winmap p e a b) s = execWinmap p e a b s := rfl
theorem exec_winfl (p : Pre) (e : BitVec 3) (s : State) : exec (.winfl p e) s = execWinfl p e s := rfl
theorem exec_windrop (p : Pre) (e : BitVec 3) (s : State) : exec (.windrop p e) s = execWindrop p e s := rfl

/-- The allocation that the group of a word is placed with. -/
theorem ownWg_eq {x : X} {s : State} {k : Nat} {w : Workgroup} (hk : x.g.wg = some k) (hw : Table.find s.wgs k = some w) :
    (x.g.wg.bind fun k => (Table.find s.wgs k).map fun w => (k, w)) = some (k, w) := by
  rw [hk, Option.bind_some, hw, Option.map_some]

/-- Changing an allocation by a function is making it the function's value. -/
theorem modWg_const {s : State} {k : Nat} {w : Workgroup} (hw : Table.find s.wgs k = some w) (f : Workgroup → Workgroup) :
    s.modWg k f = s.modWg k fun _ => f w := by
  simp only [State.modWg, Table.adjust_const hw f]

/-! ### Lines of an allocation (R116, R120) -/

/-- Consecutive lines that all enter one state. -/
theorem find_insertRange {α : Type} (v : α) (a n m : Nat) (t : Table α) :
    Table.find ((List.range n).foldl (fun t i => Table.insert t (a + i) v) t) m =
      if a ≤ m ∧ m < a + n then some v else Table.find t m := by
  induction n with
  | zero => simp only [List.range_zero, List.foldl_nil]; rw [if_neg (by omega)]
  | succ n ih =>
    rw [List.range_succ, List.foldl_append, List.foldl_cons, List.foldl_nil, Table.find_insert, ih]
    by_cases hm : m = a + n
    · rw [if_pos hm, if_pos (by omega)]
    · simp only [if_neg hm]
      congr 1
      exact propext ⟨fun h => by omega, fun h => by omega⟩

/-- Clearing zero bits touches nothing else of an allocation (R110). -/
theorem clearZero_eq (w : Workgroup) (a b : Nat) : ∃ z, w.clearZero a b = { w with zero := z } := by
  unfold Workgroup.clearZero
  split
  · exact ⟨w.zero, rfl⟩
  · exact ⟨_, rfl⟩

/-! ### `WINMAP` (R328) -/

/-- What `WINMAP` leaves of an allocation: the window mapped clean, its lines Unfilled. -/
def mapWindow (w : Workgroup) (e base len va : Nat) : Workgroup :=
  ({ w with wins := Table.insert w.wins e ⟨base, len, va, [], []⟩,
            lines := (List.range (len / 128)).foldl (fun t n => Table.insert t (base / 128 + n) .unfilled) w.lines } : Workgroup).clearZero
    (base / 128) ((base + len) / 128 - 1)

theorem mapWindow_wins (w : Workgroup) (e base len va n : Nat) :
    Table.find (mapWindow w e base len va).wins n = if n = e then some ⟨base, len, va, [], []⟩ else Table.find w.wins n := by
  obtain ⟨z, h⟩ := clearZero_eq _ (base / 128) ((base + len) / 128 - 1)
  rw [mapWindow, h, Table.find_insert]

theorem mapWindow_line (w : Workgroup) (e va n : Nat) {base len : Nat} (hb : base % 128 = 0) :
    (mapWindow w e base len va).line n = if base / 128 ≤ n ∧ n < (base + len) / 128 then .unfilled else w.line n := by
  obtain ⟨z, h⟩ := clearZero_eq _ (base / 128) ((base + len) / 128 - 1)
  rw [mapWindow, h, Workgroup.line, Table.get, find_insertRange, show (base + len) / 128 = base / 128 + len / 128 by omega]
  split <;> rfl

theorem mapWindow_rest (w : Workgroup) (e base len va : Nat) :
    { mapWindow w e base len va with wins := w.wins, lines := w.lines, zero := w.zero } = w := by
  obtain ⟨z, h⟩ := clearZero_eq _ (base / 128) ((base + len) / 128 - 1)
  rw [mapWindow, h]

/-- Whether `WINMAP` misuses its entry or its values (R328). -/
def mapMisused (w : Workgroup) (e va base len : Nat) : Bool :=
  va % 128 != 0 || 2 ^ 57 ≤ va || base % 128 != 0 || len % 128 != 0 || len < 128 || w.size < base + len ||
    (Table.find w.wins e).isSome || w.wins.any fun v => base < v.2.base + v.2.len && v.2.base < base + len

theorem mapMisused_eq_false {w : Workgroup} {e va base len : Nat} : mapMisused w e va base len = false ↔
    va % 128 = 0 ∧ va < 2 ^ 57 ∧ base % 128 = 0 ∧ len % 128 = 0 ∧ 128 ≤ len ∧ base + len ≤ w.size ∧
      Table.find w.wins e = none ∧ ∀ u ∈ w.wins, base + len ≤ u.2.base ∨ u.2.base + u.2.len ≤ base := by
  have hu : ∀ u : Nat × Window, ¬ (base < u.2.base + u.2.len ∧ u.2.base < base + len) ↔
      base + len ≤ u.2.base ∨ u.2.base + u.2.len ≤ base := fun u => by omega
  simp only [mapMisused, Bool.or_eq_false_iff, bne_eq_false_iff_eq, decide_eq_false_iff_not, Nat.not_le, Nat.not_lt,
    Option.isSome_eq_false_iff, Option.isNone_iff_eq_none, List.any_eq_false, Bool.and_eq_true, decide_eq_true_eq, hu, and_assoc]

section
variable {s : State} {x : X} {k : Nat} {w : Workgroup} (hk : x.g.wg = some k) (hw : Table.find s.wgs k = some w)
include hk hw

/-- The meaning of `WINMAP` for a group with an allocation. -/
theorem winmap_effect (p : Pre) (e : BitVec 3) (a b : SReg) : ∃ body, exec (.winmap p e a b) s = run (.winmap p e a b) body s ∧
    body (begun (.winmap p e a b) s x) x =
      if mapMisused w e.toNat (x.g.sget2 a.toNat).toNat (x.g.sget b.toNat).toNat (x.g.sget (b.toNat + 1)).toNat
      then (begun (.winmap p e a b) s x, .event (Event.plain 0x19 0 x.f.mask))
      else ((begun (.winmap p e a b) s x).modWg k fun w =>
        mapWindow w e.toNat (x.g.sget b.toNat).toNat (x.g.sget (b.toNat + 1)).toNat (x.g.sget2 a.toNat).toNat, .next) := by
  refine ⟨_, exec_winmap .., ?_⟩
  dsimp only
  rw [ownWg_eq hk ((congrArg (Table.find · k) (begun_wgs ..)).trans hw)]
  rfl

theorem winmap_raises {p : Pre} {e : BitVec 3} {a b : SReg} (h : Executes (.winmap p e a b) s x)
    (hm : mapMisused w e.toNat (x.g.sget2 a.toNat).toNat (x.g.sget b.toNat).toNat (x.g.sget (b.toNat + 1)).toNat = true) :
    Raises (.winmap p e a b) s x 0x19 0 := by
  obtain ⟨body, hi, hb⟩ := winmap_effect hk hw p e a b
  exact takes_of_body h hi (hb.trans (if_pos hm))

theorem winmap_completes {p : Pre} {e : BitVec 3} {a b : SReg} (h : Executes (.winmap p e a b) s x)
    (hm : mapMisused w e.toNat (x.g.sget2 a.toNat).toNat (x.g.sget b.toNat).toNat (x.g.sget (b.toNat + 1)).toNat = false) :
    Completes (.winmap p e a b) s x ((begun (.winmap p e a b) s x).modWg k fun _ =>
      mapWindow w e.toNat (x.g.sget b.toNat).toNat (x.g.sget (b.toNat + 1)).toNat (x.g.sget2 a.toNat).toNat) (x.f.pc + 12) .none := by
  obtain ⟨body, hi, hb⟩ := winmap_effect hk hw p e a b
  rw [← modWg_const ((congrArg (Table.find · k) (begun_wgs ..)).trans hw) fun w =>
    mapWindow w e.toNat (x.g.sget b.toNat).toNat (x.g.sget (b.toNat + 1)).toNat (x.g.sget2 a.toNat).toNat]
  exact completes_of_body h hi (hb.trans (if_neg (by rw [hm]; exact Bool.false_ne_true)))

end

/-! ### `WINFL` and `WINDROP` (R329, R330) -/

/-- A window written back (R122). -/
def cleanWindow (e : Nat) (v : Window) (w : Workgroup) : Workgroup := { w with wins := Table.insert w.wins e { v with dirty := [] } }

/-- `WINFL` and `WINDROP`: a word whose meaning is a write-back of a window, after which its allocation is as `after` says. -/
structure WritesBack (i : Instr) (e : Nat) (after : Workgroup → Window → Workgroup) : Prop where
  means : ∀ s, exec i s = run i (fun s x => s.writeBack x e after) s

theorem winfl_writesBack (p : Pre) (e : BitVec 3) : WritesBack (.winfl p e) e.toNat fun w _ => w := ⟨fun _ => rfl⟩
theorem windrop_writesBack (p : Pre) (e : BitVec 3) : WritesBack (.windrop p e) e.toNat fun w v =>
    { w with wins := Table.erase w.wins e.toNat,
             lines := w.lines.filter fun n => !(v.base / 128 ≤ n.1 && n.1 < (v.base + v.len) / 128) } := ⟨fun _ => rfl⟩

/-- Whether a line is Pending (R116). -/
def isPending : Line → Bool
  | .pending _ => true
  | _ => false

theorem isPending_iff {l : Line} : isPending l = true ↔ ∃ ops, l = .pending ops := by
  cases l with
  | pending ops => exact ⟨fun _ => ⟨ops, rfl⟩, fun _ => rfl⟩
  | full => exact ⟨nofun, nofun⟩
  | unfilled => exact ⟨nofun, nofun⟩

/-- The first Pending line of a window, which a write-back waits for. -/
def firstPending (w : Workgroup) (v : Window) : Option Nat :=
  ((List.range (v.len / 128)).map fun n => v.base / 128 + n).find? fun n => isPending (w.line n)

theorem firstPending_eq_none {w : Workgroup} {v : Window}
    (h : ∀ n, v.base / 128 ≤ n → n < v.base / 128 + v.len / 128 → ∀ ops, w.line n ≠ .pending ops) : firstPending w v = none := by
  refine List.find?_eq_none.2 fun n hn hp => ?_
  obtain ⟨i, hi, rfl⟩ := List.mem_map.1 hn
  obtain ⟨ops, ho⟩ := isPending_iff.1 hp
  exact h _ (by omega) (by have := List.mem_range.1 hi; omega) ops ho

theorem firstPending_eq_some {w : Workgroup} {v : Window} {n : Nat} {ops : List Nat} (hl : v.base / 128 ≤ n)
    (hu : n < v.base / 128 + v.len / 128) (hp : w.line n = .pending ops)
    (hf : ∀ j, v.base / 128 ≤ j → j < n → ∀ o, w.line j ≠ .pending o) : firstPending w v = some n := by
  rw [firstPending, List.find?_map, List.find?_range_eq_some (i := n - v.base / 128) |>.2 ⟨?_, ?_, fun j hj => ?_⟩]
  · exact congrArg some (Nat.add_sub_cancel' hl)
  · exact isPending_iff.2 ⟨ops, (congrArg w.line (Nat.add_sub_cancel' hl)).trans hp⟩
  · exact List.mem_range.2 (by omega)
  · have hn : ¬ ∃ o, w.line (v.base / 128 + j) = .pending o := fun ⟨o, ho⟩ => hf _ (by omega) (by omega) o ho
    rw [← isPending_iff] at hn
    exact congrArg (! ·) (eq_false_of_ne_true hn)

section
variable {s : State} {x : X} {k e : Nat} {w : Workgroup} (after : Workgroup → Window → Workgroup)
  (hk : x.g.wg = some k) (hw : Table.find s.wgs k = some w)
include hk hw

theorem writeBack_unmapped (hv : Table.find w.wins e = none) :
    s.writeBack x e after = (s, .event (Event.plain 0x19 0 x.f.mask)) := by
  unfold State.writeBack
  rw [ownWg_eq hk hw]
  simp only [hv]
  rfl

variable {v : Window} (hv : Table.find w.wins e = some v)
include hv

theorem writeBack_pending {n : Nat} (hp : firstPending w v = some n) : s.writeBack x e after = (s, .wait (.line k n)) := by
  unfold State.writeBack
  rw [ownWg_eq hk hw]
  simp only [hv]
  split
  · rename_i m hm
    obtain rfl : n = m := Option.some.inj (hp.symm.trans hm)
    rfl
  · rename_i hm
    exact absurd (hp.symm.trans hm) (by simp)

/-- A write-back whose words can be read and whose accesses pass their checks and perform. -/
theorem writeBack_performs (hp : firstPending w v = none) {u t : State} {rs : List Res}
    (hc : s.spadCheck k (s.ctxOf x.g.launch) (v.dirty.flatMap fun d => (wordsOf d.2).map fun i => 32 * d.1 + i) = (u, []))
    (hr : u.resolve x true .write false ((w.dirtyWords v).map fun q => ⟨x.low, 0, q.1, 4, false⟩) = .ok rs)
    (ht : u.performStore x true 3 .none ((rs.zip (w.dirtyWords v)).map fun q => (q.1, q.2.2.setWidth 64)) = (t, .next)) :
    s.writeBack x e after = (t.modWg k fun w => after (cleanWindow e v w) v, .next) := by
  unfold State.writeBack
  rw [ownWg_eq hk hw]
  simp only [hv]
  split
  · rename_i m hm
    exact absurd (hp.symm.trans hm) (by simp)
  · rw [hc]
    simp only [bne_self_eq_false, Bool.false_eq_true, if_false, hr]
    rw [show u.performStore x true 3 .none ((rs.zip (w.dirtyWords v)).map fun q => (q.1, q.2.2.zeroExtend 64)) = (t, .next) from ht]
    rfl

end

theorem failed_nil {α : Type} (x : X) (uni : Bool) (cs : List (Nat × Nat × (α → Bool))) (p : α → Nat × Int) :
    failed x uni cs p [] = none := by
  rw [failed, List.find?_eq_none.2 fun c _ => by simp, Option.map_none]

/-- Accesses to no memory pass every check. -/
theorem resolve_nil (s : State) (x : X) (uni : Bool) (md : Mode) (sys : Bool) : s.resolve x uni md sys [] = .ok [] := by
  have ht : s.translateAll x uni [] = .ok [] := rfl
  unfold State.resolve
  simp only [failed_nil, ht]
  rw [if_neg (by simp), if_neg (by simp), if_neg (by simp [maxStamp])]

/-- A store of nothing does nothing. -/
theorem performStore_nil (s : State) (x : X) (uni : Bool) (policy : BitVec 2) (sc : Scope) :
    s.performStore x uni policy sc [] = (s, .next) := by
  have hu : s.readUnder x [] = s := by
    unfold State.readUnder State.readFor
    exact ite_self s
  have hw : wholeLine [] = false := rfl
  unfold State.performStore
  simp only [List.map_nil, hu, failed_nil, hw, Bool.and_false, Bool.false_and, Bool.or_false, Bool.false_eq_true, if_false]
  rfl

theorem spadCheck_nil (s : State) (k ctx : Nat) : s.spadCheck k ctx [] = (s, []) := ite_self _

/-- A window without dirty words has nothing to write back. -/
theorem writeBack_clean {s : State} {x : X} {k e : Nat} {w : Workgroup} (after : Workgroup → Window → Workgroup) (hk : x.g.wg = some k)
    (hw : Table.find s.wgs k = some w) {v : Window} (hv : Table.find w.wins e = some v) (hp : firstPending w v = none) (hd : v.dirty = []) :
    s.writeBack x e after = (s.modWg k fun w => after (cleanWindow e v w) v, .next) := by
  refine writeBack_performs after hk hw hv hp (u := s) (rs := []) ?_ ?_ ?_
  · rw [hd]
    exact spadCheck_nil ..
  · rw [Workgroup.dirtyWords, hd]
    exact resolve_nil ..
  · exact performStore_nil ..

/-! ### The words -/

section
variable {i : Instr} {s : State} {x : X} {k e : Nat} {w : Workgroup} {after : Workgroup → Window → Workgroup} (hi : WritesBack i e after)
  (h : Executes i s x) (hk : x.g.wg = some k) (hw : Table.find s.wgs k = some w)
include hi h hk hw

theorem WritesBack.raises (hv : Table.find w.wins e = none) : Raises i s x 0x19 0 :=
  takes_of_body h (hi.means s) (writeBack_unmapped after hk ((congrArg (Table.find · k) (begun_wgs ..)).trans hw) hv)

variable {v : Window} (hv : Table.find w.wins e = some v)
include hv

theorem WritesBack.waits {n : Nat} (hp : firstPending w v = some n) : Waits i s x (.line k n) :=
  waits_of_body h (hi.means s) (writeBack_pending after hk ((congrArg (Table.find · k) (begun_wgs ..)).trans hw) hv hp)

variable (hp : firstPending w v = none)
include hp

theorem WritesBack.completes {t : State} {rs : List Res}
    (hc : ((begun i s x).spadCheck k (s.ctxOf x.g.launch) (v.dirty.flatMap fun d => (wordsOf d.2).map fun i => 32 * d.1 + i)).2 = [])
    (hr : ((begun i s x).spadCheck k (s.ctxOf x.g.launch) (v.dirty.flatMap fun d => (wordsOf d.2).map fun i => 32 * d.1 + i)).1.resolve x
      true .write false ((w.dirtyWords v).map fun q => ⟨x.low, 0, q.1, 4, false⟩) = .ok rs)
    (ht : ((begun i s x).spadCheck k (s.ctxOf x.g.launch) (v.dirty.flatMap fun d => (wordsOf d.2).map fun i => 32 * d.1 + i)).1.performStore x
      true 3 .none ((rs.zip (w.dirtyWords v)).map fun q => (q.1, q.2.2.setWidth 64)) = (t, .next)) :
    Completes i s x (t.modWg k fun w => after (cleanWindow e v w) v) (x.f.pc + 12) .none := by
  refine completes_of_body h (hi.means s)
    (writeBack_performs after hk ((congrArg (Table.find · k) (begun_wgs ..)).trans hw) hv hp (Prod.ext ?_ ?_) hr ht)
  · rw [(begun_alike i s x).ctxOf]
  · rw [(begun_alike i s x).ctxOf]
    exact hc

theorem WritesBack.completes_clean (hd : v.dirty = []) :
    Completes i s x ((begun i s x).modWg k fun w => after (cleanWindow e v w) v) (x.f.pc + 12) .none :=
  completes_of_body h (hi.means s) (writeBack_clean after hk ((congrArg (Table.find · k) (begun_wgs ..)).trans hw) hv hp hd)

end

/-- Settles O30, by the course of a write-back: its window, its Pending lines, its dirty words. -/
theorem windows : Obligations.Windows := by
  unfold Obligations.Windows
  intro p e a b s x k w v hk hw
  have hfl := winfl_writesBack p e
  have hdr := windrop_writesBack p e
  refine ⟨fun h hg => ?_, fun h hg => ?_, fun h hv => hfl.raises h hk hw hv, fun h hv => hdr.raises h hk hw hv, fun hv => ⟨?_, ?_, ?_, ?_⟩⟩
  · exact winmap_raises hk hw h (by rw [← Bool.not_eq_false, mapMisused_eq_false]; exact hg)
  · exact ⟨_, winmap_completes hk hw h (mapMisused_eq_false.2 hg), fun n => mapWindow_wins .., fun n => mapWindow_line _ _ _ _ hg.2.2.1,
      mapWindow_rest ..⟩
  · exact fun h hf rs t hc hr ht => hfl.completes h hk hw hv (firstPending_eq_none hf) hc hr ht
  · exact fun h hf rs t hc hr ht => hdr.completes h hk hw hv (firstPending_eq_none hf) hc hr ht
  · exact fun hd hf => ⟨fun h => hfl.completes_clean h hk hw hv (firstPending_eq_none hf) hd,
      fun h => hdr.completes_clean h hk hw hv (firstPending_eq_none hf) hd⟩
  · intro n ops hl hu hp hf i hi h
    have hn := firstPending_eq_some hl hu hp hf
    rcases List.mem_cons.1 hi with rfl | hi
    · exact hfl.waits h hk hw hv hn
    · obtain rfl := List.mem_singleton.1 hi
      exact hdr.waits h hk hw hv hn

end Sys2Proof.Hierarchy
end

section
/-! Words written at their homes and in a core's copy (R133, R138, R145, R148, R318). -/

namespace Sys2Proof.Hierarchy

open Sys2Proof.Machine Sys2Proof.Safety Sys2Proof.Glance

/-! ### Bytes of words -/

/-- Byte `j` of a word (R3). -/
def byteOf (v : Word) (j : Nat) : Byte := (v >>> (8 * j)).setWidth 8

theorem getD_leBytes {n i : Nat} (hi : i < n) (v : Nat) : (leBytes n v).getD i 0 = BitVec.ofNat 8 (v / 256 ^ i) := by
  induction n generalizing i v with
  | zero => omega
  | succ n ih =>
    cases i with
    | zero => simp [leBytes]
    | succ i => rw [leBytes, List.getD_cons_succ, ih (by omega), Nat.div_div_eq_div_mul, ← Nat.pow_succ']

theorem byteOf_eq_ofNat (v : Word) (j : Nat) : byteOf v j = BitVec.ofNat 8 (v.toNat / 256 ^ j) := by
  apply BitVec.eq_of_toNat_eq
  rw [byteOf, BitVec.toNat_setWidth, BitVec.toNat_ushiftRight, BitVec.toNat_ofNat, Nat.shiftRight_eq_div_pow, Nat.pow_mul]

/-- One byte of memory after the write of a word. -/
theorem byte_setWord (m : Memory) (a y : Nat) (v : Word) :
    (m.setWord a v).byte y = if a ≤ y ∧ y < a + 4 then byteOf v (y - a) else m.byte y := by
  rw [Memory.setWord, Memory.byte_setBytes, leBytes_length]
  split
  · rw [getD_leBytes (by omega), byteOf_eq_ofNat]
  · rfl

theorem byteOf_word (m : Memory) (a : Nat) {j : Nat} (hj : j < 4) : byteOf (m.word a) j = m.byte (a + j) :=
  Formats.byte_of_leNat (fun k => m.byte (a + k)) hj

/-- The bits of a word that a mask of its bytes names. -/
def byteBits (m : BitVec 4) : Word := (List.range 4).foldl (fun k i => if m.getLsbD i then k ||| (0xFF#32 <<< (8 * i)) else k) 0

theorem getLsbD_byteBits : ∀ m : BitVec 4, ∀ i < 32, (byteBits m).getLsbD i = m.getLsbD (i / 8) := by decide +kernel

theorem getLsbD_byteOf (v : Word) (j i : Nat) : (byteOf v j).getLsbD i = (decide (i < 8) && v.getLsbD (8 * j + i)) := by
  rw [byteOf, BitVec.getLsbD_setWidth, BitVec.getLsbD_ushiftRight]

/-- The bytes of a word of which some are replaced. -/
theorem byteOf_mergeBytes (m : BitVec 4) (old new : Word) {j : Nat} (hj : j < 4) :
    byteOf (mergeBytes m old new) j = if m.getLsbD j then byteOf new j else byteOf old j := by
  have hm : mergeBytes m old new = (old &&& ~~~(byteBits m)) ||| (new &&& byteBits m) := rfl
  refine BitVec.eq_of_getLsbD_eq fun i hi => ?_
  have hk := getLsbD_byteBits m (8 * j + i) (by omega)
  rw [show (8 * j + i) / 8 = j by omega] at hk
  have hl : 8 * j + i < 32 := by omega
  simp only [getLsbD_byteOf, hm, BitVec.getLsbD_or, BitVec.getLsbD_and, BitVec.getLsbD_not, hk, hi, hl, decide_true, Bool.true_and]
  cases m.getLsbD j <;> simp only [Bool.not_false, Bool.not_true, Bool.and_true, Bool.and_false, Bool.or_false, Bool.false_or,
    Bool.false_eq_true, if_true, if_false, getLsbD_byteOf, hi, decide_true, Bool.true_and]

/-! ### Words at their homes -/

/-- A write at the home touches memory, the check bits and errors of the word, and what reads at home slices touch. -/
theorem putWord_readsHome (s : State) (a : Nat) (v : Word) : ReadsHome ({ s with mem := s.mem.setWord (a / 4 * 4) v, check := Table.erase s.check (a / 4), spoilt := s.spoilt.filter (· != a / 4), flaws := s.flaws.filter fun f => f.1 != .home (a / 4 * 4) } : State) (s.putWord a v) := by
  refine (readsHome_fetched _ a).trans ?_
  unfold State.putWord State.wetted
  exact .ite (.refl _) (.of_dir ⟨_, _, _, _, _, _, _, _, _, _, rfl⟩)

theorem putWord_mem (s : State) (a : Nat) (v : Word) : (s.putWord a v).mem = s.mem.setWord (a / 4 * 4) v := (putWord_readsHome s a v).mem
theorem putWord_check (s : State) (a : Nat) (v : Word) : (s.putWord a v).check = Table.erase s.check (a / 4) := (putWord_readsHome s a v).check
theorem putWord_l1? (s : State) (a : Nat) (v : Word) (c l : Nat) : (s.putWord a v).l1? c l = s.l1? c l := (putWord_readsHome s a v).l1? c l

/-- The word that a home reads whose check bits are right. -/
theorem homeWord_of_sound {s : State} {a : Nat} (h : Table.find s.check (a / 4) = none) : s.homeWord a = s.mem.word (a / 4 * 4) := by
  rw [State.homeWord, h]
  rfl

/-! ### Copies -/

theorem l1?_setL1 (s : State) (c l : Nat) (x : L1Line) : (s.setL1 c l x).l1? c l = some x := by
  rw [State.l1?, State.setL1, State.core_modCore, if_pos rfl, Table.find_insert, if_pos rfl]

/-- A copy with a word set serves it. -/
theorem getLsbD_set (x : L1Line) {i : Nat} (hi : i < 32) (v d : Word) : (x.set i v d).valid.getLsbD i = true := by
  simp [L1Line.set, wordBit, hi]

theorem get_set (x : L1Line) (i : Nat) (v d : Word) : Table.get 0 (x.set i v d).words i = v := by
  rw [L1Line.set, Table.get_put, if_pos rfl]

theorem isSome_l1?_of_inL1 {s : State} {c a : Nat} (h : s.inL1 c a = true) : (s.l1? c (a / 128)).isSome = true := by
  unfold State.inL1 State.validIn at h
  cases hl : s.l1? c (a / 128) with
  | some x => rfl
  | none => rw [hl] at h; simp at h

theorem makeRoom_of_present {s : State} {c l : Nat} (h : (s.l1? c l).isSome = true) : s.makeRoom c l = s := by
  rw [State.makeRoom, h, Bool.true_or, if_pos rfl]

/-! ### The write of a store's bytes -/

/-- The state in which a store finds the word whose bytes it replaces (R453). -/
def readFirst (s : State) (c : Nat) (w : Put) : State := if w.bytes = 0xF || s.inL1 c w.pa then s else s.noteRead w.pa

theorem readFirst_eq (s : State) (c : Nat) (w : Put) : (if w.bytes = 0xF || s.inL1 c w.pa then s else s.noteRead w.pa) = readFirst s c w := rfl

theorem readFirst_readsHome (s : State) (c : Nat) (w : Put) : ReadsHome s (readFirst s c w) := .ite (.refl s) (readsHome_noteRead ..)

/-- The bytes of a store over the word of the home. -/
def overHome (s : State) (w : Put) : Word := mergeBytes w.bytes (s.homeWord w.pa) w.val
/-- The bytes of a store over the word that the core is served. -/
def overCopy (s : State) (c : Nat) (w : Put) : Word := mergeBytes w.bytes (s.wordAt c w.pa) w.val

/-- A write made at the home: the word is written there, and in the core's copy at most. -/
theorem pokeAt_home_mem {s : State} {c : Nat} {hint : BitVec 2} {w : Put}
    (h : w.cls = .xc ∨ (w.cls = .nc ∧ (hint = 3 ∨ s.inL1 c w.pa = true)) ∨ (w.cls = .dc ∧ ¬ s.owns c w.pa = true)) :
    (s.pokeAt c hint w).1.mem = s.mem.setWord (w.pa / 4 * 4) (overHome s w) := by
  have hr := readFirst_readsHome s c w
  have hput : ((readFirst s c w).putWord w.pa (overHome (readFirst s c w) w)).mem = s.mem.setWord (w.pa / 4 * 4) (overHome s w) := by
    rw [putWord_mem, hr.mem, overHome, hr.homeWord, overHome]
  obtain hx | ⟨hn, hp⟩ | ⟨hd, ho⟩ := h
  · simp only [State.pokeAt, readFirst_eq, hx]
    exact hput
  · by_cases h3 : hint = 3
    · simp only [State.pokeAt, readFirst_eq, hn, if_pos h3]
      split
      · split <;> exact hput
      · exact hput
    · have hs := isSome_l1?_of_inL1 (hp.resolve_left h3)
      rw [← hr.l1?] at hs
      simp only [State.pokeAt, readFirst_eq, hn, if_neg h3]
      rw [makeRoom_of_present (by rw [putWord_l1?]; exact hs)]
      exact hput
  · rw [← hr.owns, Bool.not_eq_true] at ho
    simp only [State.pokeAt, readFirst_eq, hd, ho, Bool.false_eq_true, if_false]
    split
    · split <;> exact hput
    · exact hput

section
variable {s : State} {c : Nat} {hint : BitVec 2} {w : Put} (hd : w.cls = .dc) (ho : s.owns c w.pa = true)
include hd ho

/-- A write made in an owner's copy: memory stays, and the copy takes the word. -/
theorem pokeAt_copy (h3 : hint ≠ 3) : (s.pokeAt c hint w).1.mem = s.mem ∧ ∃ x : L1Line, (s.pokeAt c hint w).1.l1? c (w.pa / 128) = some x ∧
    x.valid.getLsbD (w.pa / 4 % 32) = true ∧ Table.get 0 x.words (w.pa / 4 % 32) = overCopy s c w := by
  have hr := readFirst_readsHome s c w
  rw [← hr.owns] at ho
  simp only [State.pokeAt, readFirst_eq, hd, ho, if_true, if_neg h3]
  refine ⟨hr.mem, _, l1?_setL1 .., getLsbD_set _ (Nat.mod_lt _ (by decide)) .., ?_⟩
  rw [get_set, overCopy, ← hr.wordAt]

/-- An owner's write without allocation: the home takes the bytes over the owner's (log 63). -/
theorem pokeAt_through (h3 : hint = 3) : (s.pokeAt c hint w).1.mem = s.mem.setWord (w.pa / 4 * 4) (overCopy s c w) := by
  have hr := readFirst_readsHome s c w
  have hput : ((readFirst s c w).putWord w.pa (overCopy (readFirst s c w) c w)).mem = s.mem.setWord (w.pa / 4 * 4) (overCopy s c w) := by
    rw [putWord_mem, hr.mem, overCopy, hr.wordAt, overCopy]
  rw [← hr.owns] at ho
  simp only [State.pokeAt, readFirst_eq, hd, ho, if_true, if_pos h3]
  split
  · split <;> exact hput
  · exact hput

end

/-! ### What follows a write -/

/-- Stamps put where an access is served keep memory, and the valid words of the core's copies. -/
theorem putStampsAt_mem (s : State) (c a : Nat) (st : Stamps) : (s.putStampsAt c a st).mem = s.mem := by
  unfold State.putStampsAt
  split
  · split <;> rfl
  · rfl

theorem putStampsAt_l1? {s : State} {c a : Nat} {x : L1Line} (st : Stamps) (hx : s.l1? c (a / 128) = some x) :
    ∃ y : L1Line, (s.putStampsAt c a st).l1? c (a / 128) = some y ∧ y.valid = x.valid ∧ y.words = x.words := by
  unfold State.putStampsAt
  simp only [hx]
  split
  · exact ⟨_, l1?_setL1 .., rfl, rfl⟩
  · exact ⟨x, hx, rfl, rfl⟩

/-- A write that wakes monitors touches neither memory nor the cores (R201, R340). -/
theorem wrote_keeps (s : State) (a : Nat) (v : Word) (r : List Release) :
    ((s.wrote a v r).mem, (s.wrote a v r).cores) = (s.mem, s.cores) := by
  unfold State.wrote
  dsimp only
  split
  · exact foldl_keeps (fun s : State => (s.mem, s.cores)) (fun s m => by split <;> rfl) _ s
  · rfl

theorem wrote_mem (s : State) (a : Nat) (v : Word) (r : List Release) : (s.wrote a v r).mem = s.mem := congrArg Prod.fst (wrote_keeps s a v r)

theorem wrote_l1? (s : State) (a : Nat) (v : Word) (r : List Release) (c l : Nat) : (s.wrote a v r).l1? c l = s.l1? c l := by
  have hc : (s.wrote a v r).cores = s.cores := congrArg Prod.snd (wrote_keeps s a v r)
  simp only [State.l1?, State.core, hc]

/-- The stamps that a store leaves where the word is served, and at the home too where the core does not own it (R443, R447). -/
def stamped (t : State) (c : Nat) (own : Bool) (a : Nat) (st : Stamps) : State :=
  if own then t.putStampsAt c a st else (t.putStampsAt c a st).setStamps a st

theorem stamped_mem (t : State) (c : Nat) (own : Bool) (a : Nat) (st : Stamps) : (stamped t c own a st).mem = t.mem := by
  unfold stamped
  split <;> exact putStampsAt_mem ..

/-- The stamps of a word after a store. -/
def storeStamps (s : State) (c : Nat) (by_ : List (Who × StampKind × BitVec 4)) (w : Put) : Stamps :=
  by_.foldl (fun (st : Stamps) a => st.write a.1 a.2.1 false (w.cls == .dc) a.2.2) (s.stampsAt c w.pa)

/-- A store of one word: the bytes, the stamps, the monitors. -/
theorem storeWord_eq (s : State) (c : Nat) (hint : BitVec 2) (by_ : List (Who × StampKind × BitVec 4)) (w : Put) :
    s.storeWord c hint by_ w = (stamped (s.pokeAt c hint w).1 c (w.cls == .dc && s.owns c w.pa) w.pa (storeStamps s c by_ w)).wrote w.pa
      (s.pokeAt c hint w).2 (storeStamps s c by_ w).rel := rfl

theorem storeWord_mem (s : State) (c : Nat) (hint : BitVec 2) (by_ : List (Who × StampKind × BitVec 4)) (w : Put) :
    (s.storeWord c hint by_ w).mem = (s.pokeAt c hint w).1.mem := by
  rw [storeWord_eq, wrote_mem, stamped_mem]

/-- The word that an owner is served after its store. -/
theorem storeWord_wordAt {s : State} {c : Nat} {hint : BitVec 2} (by_ : List (Who × StampKind × BitVec 4)) {w : Put} (hd : w.cls = .dc)
    (ho : s.owns c w.pa = true) (h3 : hint ≠ 3) : (s.storeWord c hint by_ w).wordAt c w.pa = overCopy s c w := by
  obtain ⟨-, x, hx, hv, hw⟩ := pokeAt_copy hd ho h3
  obtain ⟨y, hy, hyv, hyw⟩ := putStampsAt_l1? (storeStamps s c by_ w) hx
  have hs : stamped (s.pokeAt c hint w).1 c (w.cls == .dc && s.owns c w.pa) w.pa (storeStamps s c by_ w) =
      (s.pokeAt c hint w).1.putStampsAt c w.pa (storeStamps s c by_ w) := if_pos (by rw [hd, ho]; rfl)
  have hl : (s.storeWord c hint by_ w).l1? c (w.pa / 128) = some y := by rw [storeWord_eq, wrote_l1?, hs, hy]
  simp only [State.wordAt, hl, hyv, hv, if_true, hyw, hw]

/-! ### The statement -/

/-- The bytes of memory after bytes of one word have been written over a word. -/
theorem byte_setWord_mergeBytes (m : Memory) {a : Nat} (ha : a % 4 = 0) (b : BitVec 4) (old v : Word) (y : Nat) :
    (m.setWord (a / 4 * 4) (mergeBytes b old v)).byte y =
      if y / 4 * 4 = a then (if b.getLsbD (y % 4) then byteOf v (y % 4) else byteOf old (y % 4)) else m.byte y := by
  rw [byte_setWord]
  by_cases hy : y / 4 * 4 = a
  · rw [if_pos hy, if_pos (by omega), show y - a / 4 * 4 = y % 4 by omega, byteOf_mergeBytes _ _ _ (by omega)]
  · rw [if_neg hy, if_neg (by omega)]

/-- Settles O26, by where the bytes are written: at the home, in an owner's copy, or at the home over the owner's copy. -/
theorem storedWords : Obligations.StoredWords := by
  unfold Obligations.StoredWords
  intro s c hint by_ w hw
  refine ⟨fun h hc y => ?_, fun hd ho h3 => ⟨?_, fun j hj => ?_⟩, fun hd ho h3 y => ?_⟩
  · rw [storeWord_mem, pokeAt_home_mem h, overHome, byte_setWord_mergeBytes _ hw, homeWord_of_sound hc, byteOf_word _ _ (by omega)]
    by_cases hy : y / 4 * 4 = w.pa
    · rw [if_pos hy]
      by_cases hb : w.bytes.getLsbD (y % 4) = true
      · rw [if_pos hb, if_pos ⟨hy, hb⟩, byteOf]
      · rw [if_neg hb, if_neg fun h => hb h.2, show w.pa / 4 * 4 + y % 4 = y by omega]
    · rw [if_neg hy, if_neg fun h => hy h.1]
  · rw [storeWord_mem, (pokeAt_copy hd ho h3).1]
  · rw [storeWord_wordAt by_ hd ho h3]
    exact byteOf_mergeBytes _ _ _ hj
  · rw [storeWord_mem, pokeAt_through hd ho h3]
    exact byte_setWord_mergeBytes _ hw ..

end Sys2Proof.Hierarchy
end

section
/-! Page-table writes, pools of frames and the fault record (R137, R140, R282 to R284, R434). -/

namespace Sys2Proof.Hierarchy

open Sys2Proof.Machine Sys2Proof.Safety Sys2Proof.Glance

theorem exec_ptew (p : Pre) (a c : SReg) (s : State) : exec (.ptew p a c) s = execPtew p a c s := rfl
theorem exec_poolget (p : Pre) (d : SReg) (s : State) : exec (.poolget p d) s = execPoolget p d s := rfl
theorem exec_fltinfo (p : Pre) (d : SReg) (s : State) : exec (.fltinfo p d) s = execFltinfo p d s := rfl

/-! ### Doublewords of memory (R3) -/

/-- A doubleword of memory is its two words, the low one first. -/
theorem dword_eq_words (m : Memory) (a : Nat) : m.dword a = m.word (a + 4) ++ m.word a := by
  have hn : ∀ b : Nat, leNat (m.bytes b 4) =
      (m.byte b).toNat + 256 * ((m.byte (b + 1)).toNat + 256 * ((m.byte (b + 2)).toNat + 256 * (m.byte (b + 3)).toNat)) := fun b => rfl
  have h8 : leNat (m.bytes a 8) = leNat (m.bytes a 4) + 2 ^ 32 * leNat (m.bytes (a + 4) 4) := by
    rw [hn, hn]
    show (m.byte a).toNat + 256 * ((m.byte (a + 1)).toNat + 256 * ((m.byte (a + 2)).toNat + 256 * ((m.byte (a + 3)).toNat + 256 *
      ((m.byte (a + 4)).toNat + 256 * ((m.byte (a + 5)).toNat + 256 * ((m.byte (a + 6)).toNat + 256 * (m.byte (a + 7)).toNat)))))) = _
    ring
  have hlt : ∀ b : Nat, leNat (m.bytes b 4) < 2 ^ 32 := fun b => by
    have h0 := (m.byte b).isLt
    have h1 := (m.byte (b + 1)).isLt
    have h2 := (m.byte (b + 2)).isLt
    have h3 := (m.byte (b + 3)).isLt
    rw [hn]
    omega
  apply BitVec.eq_of_toNat_eq
  rw [Memory.dword, Memory.word, Memory.word, BitVec.toNat_append, BitVec.toNat_ofNat, BitVec.toNat_ofNat, BitVec.toNat_ofNat,
    Nat.mod_eq_of_lt (hlt a), Nat.mod_eq_of_lt (hlt (a + 4)), ← Nat.shiftLeft_add_eq_or_of_lt (hlt a), Nat.shiftLeft_eq, h8]
  have ha := hlt a
  have hb := hlt (a + 4)
  rw [Nat.mod_eq_of_lt (by omega)]
  omega

/-- A word of memory after the write of another. -/
theorem word_setWord_of_ne (m : Memory) {a c : Nat} (h : a + 4 ≤ c ∨ c + 4 ≤ a) (v : Word) : (m.setWord c v).word a = m.word a := by
  have hb : (m.setWord c v).bytes a 4 = m.bytes a 4 := by
    refine List.map_congr_left fun k hk => ?_
    have := List.mem_range.1 hk
    rw [byte_setWord, if_neg (by omega)]
  rw [Memory.word, Memory.word, hb]

theorem append_halves (e : DWord) : (e >>> 32).setWidth 32 ++ e.setWidth 32 = e := by
  refine BitVec.eq_of_getLsbD_eq fun i hi => ?_
  rw [BitVec.getLsbD_append]
  by_cases h : i < 32
  · simp [h]
  · rw [if_neg h, BitVec.getLsbD_setWidth, BitVec.getLsbD_ushiftRight, show 32 + (i - 32) = i by omega]
    simp; omega

/-! ### The write of a leaf (R137, R282) -/

theorem putPte_mem (s : State) {a : Nat} (ha : a % 4 = 0) (e : DWord) :
    (s.putPte a e).mem = (s.mem.setWord a (e.setWidth 32)).setWord (a + 4) ((e >>> 32).setWidth 32) := by
  rw [State.putPte, putWord_mem, putWord_mem, show a / 4 * 4 = a by omega, show (a + 4) / 4 * 4 = a + 4 by omega]

theorem setLeaf_mem (s : State) (ctx va pte bits : Nat) (e : DWord) : (s.setLeaf ctx va pte bits e).mem = (s.putPte pte e).mem := rfl

theorem setLeaf_dword (s : State) (ctx va bits : Nat) {pte : Nat} (ha : pte % 4 = 0) (e : DWord) :
    (s.setLeaf ctx va pte bits e).mem.dword pte = e := by
  rw [setLeaf_mem, putPte_mem s ha, dword_eq_words, Memory.word_setWord, word_setWord_of_ne _ (.inl (Nat.le_refl _)), Memory.word_setWord,
    append_halves]

theorem setLeaf_byte (s : State) (ctx va bits : Nat) {pte y : Nat} (ha : pte % 4 = 0) (e : DWord) (hy : y < pte ∨ pte + 8 ≤ y) :
    (s.setLeaf ctx va pte bits e).mem.byte y = s.mem.byte y := by
  rw [setLeaf_mem, putPte_mem s ha, byte_setWord, if_neg (by omega), byte_setWord, if_neg (by omega)]

/-- After a shoot-down no TLB holds an entry of the leaf (R137). -/
theorem shootdown_tlb (s : State) (ctx va bits core : Nat) {h : Tlb}
    (hh : h ∈ ((s.shootdown ctx va bits).core core).tlb ++ Table.get [] (s.shootdown ctx va bits).ctlb (clusterOf core)) :
    ¬ (h.ctx = ctx ∧ h.va / 2 ^ bits = va / 2 ^ bits) := by
  have hk : (!(h.ctx == ctx && h.va / 2 ^ bits == va / 2 ^ bits)) = true := by
    rcases List.mem_append.1 hh with hh | hh
    · rw [State.core, State.shootdown, Table.get, Execution.find_map s.cores (fun c : CoreSt => { c with tlb := c.tlb.filter _ })] at hh
      cases hc : Table.find s.cores core with
      | none => rw [hc] at hh; exact nomatch hh
      | some c => rw [hc] at hh; exact (List.mem_filter.1 hh).2
    · rw [State.shootdown, Table.get, Execution.find_map s.ctlb (fun l : List Tlb => l.filter _)] at hh
      cases hc : Table.find s.ctlb (clusterOf core) with
      | none => rw [hc] at hh; exact nomatch hh
      | some c => rw [hc] at hh; exact (List.mem_filter.1 hh).2
  rw [not_and_or]
  simpa using hk

/-- After a leaf's release no fragment waits for it (R140). -/
theorem releaseLeaf_wait {s : State} {pte k en : Nat} {g : Group} {f : Frag} (hg : (s.releaseLeaf pte).group? k = some g)
    (hf : g.frag en = some f) : f.wait ≠ .leaf pte := by
  rw [State.group?, State.releaseLeaf, Execution.find_map s.groups (fun g : Group => { g with frags := g.frags.map _ })] at hg
  cases hq : Table.find s.groups k with
  | none => rw [hq] at hg; exact nomatch hg
  | some g' =>
    rw [hq] at hg
    obtain rfl := Option.some.inj hg
    rw [Group.frag, Execution.find_map g'.frags (fun f : Frag => if f.wait == .leaf pte then { f with wait := .none, since := s.clk } else f)] at hf
    cases hr : Table.find g'.frags en with
    | none => rw [hr] at hf; exact nomatch hf
    | some f' =>
      rw [hr] at hf
      obtain rfl := Option.some.inj hf
      by_cases hw : f'.wait = .leaf pte
      · simp [hw]
      · simp [hw]

/-! ### `PTEW` (R282) -/

/-- A first touch that a handler was filling is over where its leaf has been written (R141). -/
def landLeaf (pte : Nat) (g : Group) : Group :=
  match g.handler with
  | some h => if h.leaf == some pte then { g with handler := some { h with leaf := none } } else g
  | none => g

theorem landLeaf_frags (pte : Nat) (g : Group) : (landLeaf pte g).frags = g.frags := by
  unfold landLeaf
  split
  · split <;> rfl
  · rfl

/-- What `PTEW` makes of a state: the leaf written and released, with its release stamp. -/
def writeLeaf (t : State) (x : X) (ctx va pte lv : Nat) (e : DWord) : State :=
  let u := (t.setLeaf ctx va pte (levelBits lv) e).releaseLeaf pte
  ({ u with leafRel := Table.insert u.leafRel pte u.stampNow } : State).modGroup x.k (landLeaf pte)

theorem setLeaf_tb (s : State) (ctx va pte bits : Nat) (e : DWord) : (s.setLeaf ctx va pte bits e).tb = s.tb := by
  have h : (s.setLeaf ctx va pte bits e).tb = (s.putPte pte e).tb := rfl
  rw [h, State.putPte, (putWord_readsHome ..).tb]
  exact (putWord_readsHome s pte (e.setWidth 32)).tb

section
variable (t : State) (x : X) (ctx va pte lv : Nat) (e : DWord)

theorem writeLeaf_mem : (writeLeaf t x ctx va pte lv e).mem = (t.setLeaf ctx va pte (levelBits lv) e).mem := rfl
theorem writeLeaf_cores : (writeLeaf t x ctx va pte lv e).cores = (t.setLeaf ctx va pte (levelBits lv) e).cores := rfl
theorem writeLeaf_ctlb : (writeLeaf t x ctx va pte lv e).ctlb = (t.setLeaf ctx va pte (levelBits lv) e).ctlb := rfl
theorem writeLeaf_leafRel : ∃ l, (writeLeaf t x ctx va pte lv e).leafRel =
    Table.insert l pte ((t.setLeaf ctx va pte (levelBits lv) e).now + 32) := ⟨_, rfl⟩

end

theorem writeLeaf_stamp (t : State) (x : X) (ctx va pte lv : Nat) (e : DWord) :
    Table.get 0 (writeLeaf t x ctx va pte lv e).leafRel pte = t.now + 32 := by
  obtain ⟨l, hl⟩ := writeLeaf_leafRel t x ctx va pte lv e
  rw [hl, Table.get, Table.find_insert, if_pos rfl, Option.getD_some, State.now, setLeaf_tb, State.now]

theorem writeLeaf_tlb (t : State) (x : X) (ctx va pte lv core : Nat) (e : DWord) {h : Tlb}
    (hh : h ∈ ((writeLeaf t x ctx va pte lv e).core core).tlb ++ Table.get [] (writeLeaf t x ctx va pte lv e).ctlb (clusterOf core)) :
    ¬ (h.ctx = ctx ∧ h.va / 2 ^ levelBits lv = va / 2 ^ levelBits lv) := by
  rw [State.core, writeLeaf_cores, writeLeaf_ctlb] at hh
  exact shootdown_tlb _ ctx va (levelBits lv) core hh

theorem writeLeaf_wait (t : State) (x : X) (ctx va pte lv : Nat) (e : DWord) {k en : Nat} {g : Group} {f : Frag}
    (hg : (writeLeaf t x ctx va pte lv e).group? k = some g) (hf : g.frag en = some f) : f.wait ≠ .leaf pte := by
  rw [writeLeaf, State.group?_modGroup] at hg
  split at hg
  · subst k
    obtain ⟨g', hg', rfl⟩ := Option.map_eq_some_iff.1 hg
    rw [Group.frag, landLeaf_frags] at hf
    exact releaseLeaf_wait (s := t.setLeaf ctx va pte (levelBits lv) e) hg' hf
  · exact releaseLeaf_wait (s := t.setLeaf ctx va pte (levelBits lv) e) hg hf

/-- The meaning of `PTEW` by where the walk of its address ends, and by what its value is. -/
theorem ptew_effect (p : Pre) (a c : SReg) (x : X) : ∃ body : State → X → State × Done, (∀ s, exec (.ptew p a c) s = run (.ptew p a c) body s) ∧
    (∀ t : State, 2 ^ 57 ≤ (x.g.sget2 a.toNat).toNat ∨ t.walk (t.ctxOf x.g.launch) (x.g.sget2 a.toNat).toNat = .bad →
      body t x = (t, .event ⟨0x12, 0, x.g.sget2 a.toNat, x.f.mask, 0, none⟩)) ∧
    ∀ (t : State) pte lv old, (x.g.sget2 a.toNat).toNat < 2 ^ 57 →
      t.walk (t.ctxOf x.g.launch) (x.g.sget2 a.toNat).toNat = .leaf pte lv old → body t x =
        if !leafForm (x.g.sget2 c.toNat) lv then (t, .event (Event.plain 0x09 0 x.f.mask))
        else if t.owedTo x.g .dev then (t, .hold)
        else (writeLeaf t x (t.ctxOf x.g.launch) (x.g.sget2 a.toNat).toNat pte lv (x.g.sget2 c.toNat), .next) := by
  refine ⟨_, fun s => exec_ptew .., fun t h => ?_, fun t pte lv old hv hw => ?_⟩
  · have hw : (if (x.g.sget2 a.toNat).toNat < 2 ^ 57 then t.walk (t.ctxOf x.g.launch) (x.g.sget2 a.toNat).toNat else .bad) = .bad := by
      rcases h with h | h
      · exact if_neg (Nat.not_lt.2 h)
      · rw [h, ite_self]
    simp only [hw]
    rfl
  · simp only [if_pos hv, hw]
    rfl

section
variable {p : Pre} {a c : SReg} {s : State} {x : X} (h : Executes (.ptew p a c) s x)
include h

theorem ptew_takes (hw : 2 ^ 57 ≤ (x.g.sget2 a.toNat).toNat ∨ (begun (.ptew p a c) s x).walk ((begun (.ptew p a c) s x).ctxOf x.g.launch)
    (x.g.sget2 a.toNat).toNat = .bad) : Takes (.ptew p a c) s x ⟨0x12, 0, x.g.sget2 a.toNat, x.f.mask, 0, none⟩ := by
  obtain ⟨body, hi, hb, -⟩ := ptew_effect p a c x
  exact takes_of_body h (hi s) (hb _ hw)

variable {pte lv : Nat} {old : DWord} (hv : (x.g.sget2 a.toNat).toNat < 2 ^ 57)
  (hw : (begun (.ptew p a c) s x).walk ((begun (.ptew p a c) s x).ctxOf x.g.launch) (x.g.sget2 a.toNat).toNat = .leaf pte lv old)
include hv hw

theorem ptew_raises (hf : leafForm (x.g.sget2 c.toNat) lv = false) : Raises (.ptew p a c) s x 0x09 0 := by
  obtain ⟨body, hi, -, hb⟩ := ptew_effect p a c x
  exact takes_of_body h (hi s) ((hb _ pte lv old hv hw).trans (if_pos (by rw [hf]; rfl)))

variable (hf : leafForm (x.g.sget2 c.toNat) lv = true)
include hf

theorem ptew_again (ho : (begun (.ptew p a c) s x).owedTo x.g .dev = true) : Again (.ptew p a c) s x := by
  obtain ⟨body, hi, -, hb⟩ := ptew_effect p a c x
  have ha := (begun_alike (.ptew p a c) s x).trans_left (unspent_alike s x.k x.en)
  have hn : ¬ (!leafForm (x.g.sget2 c.toNat) lv) = true := by rw [hf]; exact Bool.false_ne_true
  refine again_of_body h (hi s) ((hb _ pte lv old hv hw).trans ((if_neg hn).trans (if_pos ho)))
    ((hb _ pte lv old hv ?_).trans ((if_neg hn).trans (if_pos ?_)))
  · rw [ha.walk, ha.ctxOf, hw]
  · rw [Execution.owedTo_of_alike ha, ho]

theorem ptew_completes (ho : (begun (.ptew p a c) s x).owedTo x.g .dev = false) : Completes (.ptew p a c) s x
    (writeLeaf (begun (.ptew p a c) s x) x ((begun (.ptew p a c) s x).ctxOf x.g.launch) (x.g.sget2 a.toNat).toNat pte lv (x.g.sget2 c.toNat))
    (x.f.pc + 12) .none := by
  obtain ⟨body, hi, -, hb⟩ := ptew_effect p a c x
  exact completes_of_body h (hi s) ((hb _ pte lv old hv hw).trans ((if_neg (by rw [hf]; exact Bool.false_ne_true)).trans
    (if_neg (by rw [ho]; exact Bool.false_ne_true))))

end

/-! ### `POOLGET` (R283, R434) -/

/-- A frame that a pool has is taken and zeroed. -/
theorem takeFrame_some {t : State} {ctx size n : Nat} {y : Ctx} {r : List Nat} (hy : Table.find t.ctxs ctx = some y) (hp : y.pool size = n :: r) :
    t.takeFrame ctx size = some (n, (t.modCtx ctx fun c => c.setPool size r).zeroFrame n (sizeBytes size)) := by
  simp only [State.takeFrame, hy, Option.map_some, hp]

theorem takeFrame_none {t : State} {ctx size : Nat} (h : ∀ y, Table.find t.ctxs ctx = some y → y.pool size = []) :
    t.takeFrame ctx size = none := by
  unfold State.takeFrame
  cases hy : Table.find t.ctxs ctx with
  | none => rfl
  | some y => simp only [Option.map_some, h y hy]

theorem find_takenPool {t : State} {ctx size n k : Nat} {y : Ctx} {r : List Nat} (hy : Table.find t.ctxs ctx = some y) :
    Table.find ((t.modCtx ctx fun c => c.setPool size r).zeroFrame n (sizeBytes size)).ctxs k =
      if k = ctx then some (y.setPool size r) else Table.find t.ctxs k := by
  show Table.find (Table.adjust t.ctxs ctx fun c => c.setPool size r) k = _
  rw [Table.find_adjust, hy, Option.map_some]

theorem zeroFrame_mem (t : State) (a n : Nat) : (t.zeroFrame a n).mem = t.mem.zero a n := rfl
theorem zeroFrame_groups (t : State) (a n : Nat) : (t.zeroFrame a n).groups = t.groups := rfl

/-- The meaning of `POOLGET` by whether the pool has a frame. -/
theorem poolget_effect (p : Pre) (d : SReg) (x : X) : ∃ body : State → X → State × Done, (∀ s, exec (.poolget p d) s = run (.poolget p d) body s) ∧
    (∀ (t u : State) n, t.takeFrame (t.ctxOf x.g.launch) x.g.poolSize = some (n, u) →
      body t x = (u.modGroup x.k fun g => g.sset2 d.toNat (BitVec.ofNat 64 n), .next)) ∧
    ∀ t : State, t.takeFrame (t.ctxOf x.g.launch) x.g.poolSize = none →
      let r : Record := ⟨true, 0x1C, 0, BitVec.ofNat 32 (x.f.pc / 12), 0⟩
      body t x = (((t.modGroup x.k fun g => { g with record := r }).reportFault x.k x.g r 2 0 x.f.mask).modCtx (t.ctxOf x.g.launch)
        fun y => { y with poolq := y.poolq ++ [(x.k, x.en, x.g.poolSize, d.toNat)] }, .wait (.pool x.g.poolSize)) := by
  refine ⟨_, fun s => exec_poolget .., fun t u n h => ?_, fun t h => ?_⟩
  · simp only [h]
  · simp only [h]
    rfl

/-! ### `FLTINFO` (R284) -/

/-- The first scalar of a fault record: its kind, its code, and in bit 31 whether it is valid. -/
def recordWord (r : Record) : Word := (if r.valid then 0x80000000 else 0) ||| (r.code.zeroExtend 32 <<< 16) ||| r.kind.zeroExtend 32

theorem getLsbD_recordWord (r : Record) {i : Nat} (hi : i < 32) : (recordWord r).getLsbD i =
    ((r.valid && decide (i = 31)) || (decide (16 ≤ i) && r.code.getLsbD (i - 16)) || r.kind.getLsbD i) := by
  have hv : ((if r.valid then 0x80000000 else 0 : Nat) : Word).getLsbD i = (r.valid && decide (i = 31)) := by
    cases r.valid
    · simp
    · rw [if_pos rfl, show ((0x80000000 : Nat) : Word) = BitVec.twoPow 32 31 from rfl, BitVec.getLsbD_twoPow]
      simp [eq_comm]
  have hc : (r.code.zeroExtend 32 <<< 16).getLsbD i = (decide (16 ≤ i) && r.code.getLsbD (i - 16)) := by
    rw [BitVec.getLsbD_shiftLeft, BitVec.getLsbD_setWidth]
    by_cases h : i < 16
    · simp [h, hi]
    · simp [h, hi, show i - 16 < 32 by omega, show 16 ≤ i by omega]
  rw [recordWord, BitVec.getLsbD_or, BitVec.getLsbD_or, hv, hc, BitVec.getLsbD_setWidth, decide_eq_true hi, Bool.true_and]

theorem recordWord_kind (r : Record) : (recordWord r).setWidth 16 = r.kind := by
  refine BitVec.eq_of_getLsbD_eq fun i hi => ?_
  rw [BitVec.getLsbD_setWidth, getLsbD_recordWord r (by omega), decide_eq_false (show ¬ i = 31 by omega), decide_eq_false (show ¬ 16 ≤ i by omega)]
  simp [hi]

theorem recordWord_code (r : Record) : (recordWord r >>> 16).setWidth 8 = r.code := by
  refine BitVec.eq_of_getLsbD_eq fun i hi => ?_
  rw [BitVec.getLsbD_setWidth, BitVec.getLsbD_ushiftRight, getLsbD_recordWord r (by omega), decide_eq_false (show ¬ 16 + i = 31 by omega),
    BitVec.getLsbD_of_ge r.kind _ (by omega)]
  simp [hi]

theorem recordWord_valid (r : Record) : (recordWord r).getLsbD 31 = r.valid := by
  rw [getLsbD_recordWord r (by decide), BitVec.getLsbD_of_ge r.kind _ (by decide), BitVec.getLsbD_of_ge r.code _ (by decide)]
  simp

theorem recordWord_zero (r : Record) {j : Nat} (hj : j < 31) (hl : 24 ≤ j) : (recordWord r).getLsbD j = false := by
  rw [getLsbD_recordWord r (by omega), BitVec.getLsbD_of_ge r.kind _ (by omega), BitVec.getLsbD_of_ge r.code _ (by omega),
    decide_eq_false (show ¬ j = 31 by omega)]
  simp

/-- A group with its fault record in four scalars. -/
def tellRecord (d : Nat) (r : Record) (g : Group) : Group := ((g.sset d (recordWord r)).sset (d + 1) r.index).sset2 (d + 2) r.addr

theorem sget_tellRecord (d n : Nat) (r : Record) (g : Group) : (tellRecord d r g).sget n =
    if n = d then recordWord r else if n = d + 1 then r.index else if n = d + 2 then r.addr.setWidth 32
    else if n = d + 3 then (r.addr >>> 32).setWidth 32 else g.sget n := by
  simp only [tellRecord, Group.sset2, Group.sget_sset]
  by_cases h3 : n = d + 3
  · rw [if_pos h3, if_neg (by omega), if_neg (by omega), if_neg (by omega), if_pos h3]
  rw [if_neg h3]
  by_cases h2 : n = d + 2
  · rw [if_pos h2, if_neg (by omega), if_neg (by omega), if_pos h2]
  rw [if_neg h2]
  by_cases h1 : n = d + 1
  · rw [if_pos h1, if_neg (by omega), if_pos h1]
  · rw [if_neg h1, if_neg h1, if_neg h2, if_neg h3]

theorem sset_rest (n : Nat) (v : Word) (g : Group) (t : Table Word) : { g.sset n v with sregs := t } = { g with sregs := t } := rfl

theorem tellRecord_rest (d : Nat) (r : Record) (g : Group) : { tellRecord d r g with sregs := g.sregs } = g := by
  simp only [tellRecord, Group.sset2, sset_rest]

theorem fltinfo_yields {p : Pre} {d : SReg} {s : State} {x : X} (h : Executes (.fltinfo p d) s x) :
    Yields (.fltinfo p d) s x (tellRecord d.toNat x.g.record x.g) :=
  h.yields (f := fun x g => tellRecord d.toNat x.g.record g) (exec_fltinfo ..)

theorem finish_wait (s : State) (x : X) (w : Wait) : s.finish x (.wait w) = s.modFrag x.k x.en fun f => { f with wait := w } := rfl

/-- Settles O44, by the words one by one. -/
theorem pagesAndPools : Obligations.PagesAndPools := by
  unfold Obligations.PagesAndPools
  intro p a c d s x
  refine ⟨fun h => ⟨ptew_takes h, fun pte lv old hv hw => ⟨ptew_raises h hv hw, fun hf ho => ptew_again h hv hw hf ho, fun hf ho hp => ?_⟩⟩,
    fun h => ⟨fun y n r hy hr => ?_, fun hn => ?_⟩, fun h => ?_⟩
  · refine ⟨_, ptew_completes h hv hw hf ho, ?_, ?_, fun y hy => ?_, fun core q hq => writeLeaf_tlb _ _ _ _ _ _ core _ hq,
      fun k en g f hg hf => writeLeaf_wait _ _ _ _ _ _ _ hg hf⟩
    · rw [writeLeaf_mem, setLeaf_dword _ _ _ _ hp]
    · rw [writeLeaf_stamp, (begun_alike (.ptew p a c) s x).now]
    · rw [writeLeaf_mem, setLeaf_byte _ _ _ _ hp _ hy]
  · obtain ⟨body, hi, hb, -⟩ := poolget_effect p d x
    refine ⟨_, completes_of_body h (hi s) (hb _ _ _ (takeFrame_some hy hr)), ?_, fun k => find_takenPool hy, fun z => ?_⟩
    · rw [zeroFrame_groups]
      rfl
    · rw [zeroFrame_mem, Memory.byte_zero]
      rfl
  · obtain ⟨body, hi, -, hb⟩ := poolget_effect p d x
    have hx := Execution.answers_of_body h (hi s) (hb _ (takeFrame_none hn)) (by simp)
    rw [finish_wait] at hx
    exact hx
  · refine ⟨_, fltinfo_yields h, tellRecord_rest .., fun n hn => ?_, ⟨?_, ?_, ?_, fun j hj hl => ?_⟩, ?_, ?_, ?_⟩
    · rw [sget_tellRecord, if_neg (by omega), if_neg (by omega), if_neg (by omega), if_neg (by omega)]
    all_goals rw [sget_tellRecord]
    · rw [if_pos rfl, recordWord_kind]
    · rw [if_pos rfl, recordWord_code]
    · rw [if_pos rfl, recordWord_valid]
    · rw [if_pos rfl, recordWord_zero _ hj hl]
    · rw [if_neg (by omega), if_pos rfl]
    · rw [if_neg (by omega), if_neg (by omega), if_pos rfl]
    · rw [if_neg (by omega), if_neg (by omega), if_neg (by omega), if_pos rfl]

end Sys2Proof.Hierarchy
end

section
/-! A step at a chosen fragment: fetch, decode and run (R216, R245, R247, R422, R425). -/

namespace Sys2Proof.Hierarchy

open Sys2Proof.Machine Sys2Proof.Safety Sys2Proof.Glance

/-! ### The first of an ascending list -/

theorem findSome?_first {β : Type} {q : Nat → Option β} {l : List Nat} (hl : l.Pairwise (· < ·)) {a : Nat} {y : β} (ha : a ∈ l)
    (hy : q a = some y) (hb : ∀ b ∈ l, b < a → q b = none) : l.findSome? q = some y := by
  induction l with
  | nil => cases ha
  | cons x l ih =>
    obtain ⟨hx, hl⟩ := List.pairwise_cons.1 hl
    rcases List.mem_cons.1 ha with rfl | ha
    · rw [List.findSome?_cons, hy]
    · rw [List.findSome?_cons, hb x List.mem_cons_self (hx a ha)]
      exact ih hl ha fun b hm => hb b (List.mem_cons_of_mem _ hm)

theorem find?_first {q : Nat → Bool} {l : List Nat} (hl : l.Pairwise (· < ·)) {a : Nat} (ha : a ∈ l) (hq : q a = true)
    (hb : ∀ b ∈ l, b < a → q b = false) : l.find? q = some a := by
  rw [List.find?_eq_findSome?_guard]
  exact findSome?_first hl ha (by simp [Option.guard, hq]) fun b hm hlt => by simp [Option.guard, hb b hm hlt]

theorem foldl_fixed {α β : Type} {f : α → β → α} {l : List β} {a : α} (h : ∀ x ∈ l, f a x = a) : l.foldl f a = a := by
  induction l with
  | nil => rfl
  | cons x l ih => rw [List.foldl_cons, h x List.mem_cons_self]; exact ih fun y hy => h y (List.mem_cons_of_mem _ hy)

/-! ### The fetch, by what its translations are -/

/-- What the translation of a word of code lets a fetch find. -/
def touches (w : Nat × Tr) : Option (Nat × Nat × Nat) := match w.2 with
  | .pool p lv _ => some (w.1, p, lv)
  | _ => none
def waitsOn (w : Nat × Tr) : Option Nat := match w.2 with
  | .filling p _ => some p
  | _ => none
def barred (w : Nat × Tr) : Bool := match w.2 with
  | .page _ _ _ x => !x
  | _ => true
def pageAt (w : Nat × Tr) : Option (Nat × Nat) := match w.2 with
  | .page pa _ _ _ => some (w.1, pa)
  | _ => none

/-- A fetch of words within the image, by their translations. -/
def fetchOf (s : State) (m : Mask) (ws : List (Nat × Tr)) : Fetched :=
  match ws.find? fun w => w.2 == .fault with
  | some w => .event ⟨kTranslation, 0, BitVec.ofNat 64 w.1, m, 0, none⟩
  | none =>
  match ws.findSome? touches with
  | some (va, p, lv) => .event ⟨kTouch, 0, BitVec.ofNat 64 va, m, 0, some (p, levelSize lv)⟩
  | none =>
  match ws.findSome? waitsOn with
  | some p => .filling p
  | none =>
  match ws.find? barred with
  | some w => .event ⟨kProtection, 0, BitVec.ofNat 64 w.1, m, 0, none⟩
  | none =>
    match (ws.filterMap pageAt).findSome? fun q => (s.badNewest q.2).map fun code => (code, q) with
    | some (code, q) => .abort code q.2 q.1
    | none => .word ((ws.filterMap pageAt).foldr (fun q w => (w <<< 32) ||| (s.newest q.2).zeroExtend 96) 0)

section
variable {s : State} {k : Nat} {g : Group} {f : Frag}

theorem fetch_outside (h : ¬ s.inImage (s.ctxOf g.launch) (s.imageOf g f) f.pc = true) :
    s.fetch k g f = .event (Event.plain 0x05 0 f.mask) := by
  unfold State.fetch
  simp only [h, Bool.not_false, if_true]
  rfl

theorem fetch_inside (h : s.inImage (s.ctxOf g.launch) (s.imageOf g f) f.pc = true) :
    s.fetch k g f = fetchOf s f.mask (s.codeWords (coreOf k) (s.ctxOf g.launch) (s.imageOf g f + f.pc)) := by
  unfold State.fetch
  simp only [h, Bool.not_true, Bool.false_eq_true, if_false]
  rfl

end

/-! ### The checks of a fetch, over the words in ascending order -/

section
variable {s : State} {m : Mask} {l : List Nat} (hl : l.Pairwise (· < ·)) {tr : Nat → Tr} {a : Nat} (ha : a ∈ l)

theorem find?_fault_none (hf : ∀ b ∈ l, tr b ≠ .fault) : (l.map fun a => (a, tr a)).find? (fun w => w.2 == .fault) = none := by
  rw [List.find?_eq_none]
  intro w hw
  obtain ⟨b, hb, rfl⟩ := List.mem_map.1 hw
  simp [hf b hb]

theorem findSome?_touches_none (hp : ∀ b ∈ l, ¬ ∃ p lv e, tr b = .pool p lv e) : (l.map fun a => (a, tr a)).findSome? touches = none := by
  rw [List.findSome?_map, List.findSome?_eq_none_iff]
  intro b hb
  cases h : tr b with
  | pool p lv e => exact absurd ⟨p, lv, e, h⟩ (hp b hb)
  | fault | filling | page => simp only [Function.comp, touches, h]

theorem findSome?_waitsOn_none (hw : ∀ b ∈ l, ¬ ∃ p lv, tr b = .filling p lv) : (l.map fun a => (a, tr a)).findSome? waitsOn = none := by
  rw [List.findSome?_map, List.findSome?_eq_none_iff]
  intro b hb
  cases h : tr b with
  | filling p lv => exact absurd ⟨p, lv, h⟩ (hw b hb)
  | fault | pool | page => simp only [Function.comp, waitsOn, h]

theorem barred_of_page {b pa : Nat} {c : Cls} {w x : Bool} (h : tr b = .page pa c w x) : barred (b, tr b) = !x := by
  rw [barred, h]

include hl ha

theorem fetchOf_fault (ht : tr a = .fault) (hb : ∀ b ∈ l, b < a → tr b ≠ .fault) :
    fetchOf s m (l.map fun a => (a, tr a)) = .event ⟨0x12, 0, BitVec.ofNat 64 a, m, 0, none⟩ := by
  have h : (l.map fun a => (a, tr a)).find? (fun w => w.2 == .fault) = some (a, tr a) := by
    rw [List.find?_map, find?_first hl ha (by simp [ht]) fun b hm hlt => by simp [hb b hm hlt]]
    rfl
  rw [fetchOf, h]
  rfl

theorem fetchOf_pool {p lv : Nat} {e : DWord} (hf : ∀ b ∈ l, tr b ≠ .fault) (ht : tr a = .pool p lv e)
    (hb : ∀ b ∈ l, b < a → ¬ ∃ p lv e, tr b = .pool p lv e) :
    fetchOf s m (l.map fun a => (a, tr a)) = .event ⟨0x1B, 0, BitVec.ofNat 64 a, m, 0, some (p, levelSize lv)⟩ := by
  have h : (l.map fun a => (a, tr a)).findSome? touches = some (a, p, lv) := by
    rw [List.findSome?_map]
    refine findSome?_first hl ha (by simp only [Function.comp, touches, ht]) fun b hm hlt => ?_
    cases h : tr b with
    | pool p lv e => exact absurd ⟨p, lv, e, h⟩ (hb b hm hlt)
    | fault | filling | page => simp only [Function.comp, touches, h]
  rw [fetchOf, find?_fault_none hf, h]
  rfl

theorem fetchOf_filling {p lv : Nat} (hf : ∀ b ∈ l, tr b ≠ .fault) (hp : ∀ b ∈ l, ¬ ∃ p lv e, tr b = .pool p lv e)
    (ht : tr a = .filling p lv) (hb : ∀ b ∈ l, b < a → ¬ ∃ p lv, tr b = .filling p lv) :
    fetchOf s m (l.map fun a => (a, tr a)) = .filling p := by
  have h : (l.map fun a => (a, tr a)).findSome? waitsOn = some p := by
    rw [List.findSome?_map]
    refine findSome?_first hl ha (by simp only [Function.comp, waitsOn, ht]) fun b hm hlt => ?_
    cases h : tr b with
    | filling p lv => exact absurd ⟨p, lv, h⟩ (hb b hm hlt)
    | fault | pool | page => simp only [Function.comp, waitsOn, h]
  rw [fetchOf, find?_fault_none hf, findSome?_touches_none hp, h]

theorem fetchOf_barred {pa : Nat} {c : Cls} {w : Bool} (hf : ∀ b ∈ l, tr b ≠ .fault) (hp : ∀ b ∈ l, ¬ ∃ p lv e, tr b = .pool p lv e)
    (hw : ∀ b ∈ l, ¬ ∃ p lv, tr b = .filling p lv) (ht : tr a = .page pa c w false) (hb : ∀ b ∈ l, b < a → ¬ ∃ pa c w, tr b = .page pa c w false) :
    fetchOf s m (l.map fun a => (a, tr a)) = .event ⟨0x13, 0, BitVec.ofNat 64 a, m, 0, none⟩ := by
  have h : (l.map fun a => (a, tr a)).find? barred = some (a, tr a) := by
    rw [List.find?_map, find?_first hl ha (barred_of_page ht) fun b hm hlt => ?_]
    · rfl
    · cases h : tr b with
      | page pa c w x =>
        have hx : x = true := Bool.not_eq_false _ ▸ fun hx => hb b hm hlt ⟨pa, c, w, hx ▸ h⟩
        rw [Function.comp, barred_of_page h, hx]
        rfl
      | fault => exact absurd h (hf b hm)
      | pool p lv e => exact absurd ⟨p, lv, e, h⟩ (hp b hm)
      | filling p lv => exact absurd ⟨p, lv, h⟩ (hw b hm)
  rw [fetchOf, find?_fault_none hf, findSome?_touches_none hp, findSome?_waitsOn_none hw, h]
  rfl

end

/-- Three words as an instruction word, the first one lowest (R216). -/
theorem joinWords (a b c : Word) :
    ((((0 : InstrWord) <<< 32 ||| c.zeroExtend 96) <<< 32 ||| b.zeroExtend 96) <<< 32 ||| a.zeroExtend 96) = c ++ b ++ a := by
  refine BitVec.eq_of_getLsbD_eq fun i hi => ?_
  have h96 : i < 96 := hi
  simp only [BitVec.getLsbD_append, BitVec.getLsbD_or, BitVec.getLsbD_shiftLeft, BitVec.zeroExtend_eq_setWidth, BitVec.getLsbD_setWidth,
    h96, decide_true, Bool.true_and]
  by_cases h1 : i < 32
  · simp [h1]
  by_cases h2 : i - 32 < 32
  · simp [h1, h2, BitVec.getLsbD_of_ge a i (by omega), show i - 32 < 96 by omega]
  · simp [h1, h2, BitVec.getLsbD_of_ge a i (by omega), BitVec.getLsbD_of_ge b (i - 32) (by omega), show i - 32 < 96 by omega,
      show i - 32 - 32 < 96 by omega]

/-- Where the words of code lie in pages that permit their fetch, they are read in ascending order. -/
theorem fetchOf_pages (s : State) (m : Mask) (x y z a b c : Nat) (p q r : Cls) (u v w : Bool) :
    fetchOf s m [(x, .page a p u true), (y, .page b q v true), (z, .page c r w true)] =
      match [(x, a), (y, b), (z, c)].findSome? fun q => (s.badNewest q.2).map fun code => (code, q) with
      | some (code, q) => .abort code q.2 q.1
      | none => .word (s.newest c ++ s.newest b ++ s.newest a) := by
  rw [← joinWords]
  rfl

/-! ### What the reads of a fetch change -/

theorem readStores_sound {s : State} (h : s.flaws = []) (c ctx : Option Nat) (pa : Nat) : s.readStores c ctx pa = s := by
  rw [State.readStores, h]
  rfl

/-- Where no store is in error and no line of the code is in P, the words of the code are read at their homes only. -/
theorem readCode_sound {s : State} (h : s.flaws = []) (ctx : Nat) {ws : List Nat} (hp : ∀ pa ∈ ws, (s.entry (pa / 128)).st ≠ .P) :
    ReadsHome s (s.readCode ctx ws).1 ∧ (s.readCode ctx ws).2 = none := by
  have hr : ws.foldl (fun s pa => s.readStores none (some ctx) pa) s = s := foldl_fixed fun _ _ => readStores_sound h ..
  have hm : (ws.map (· / 128)).dedup.foldl (fun (acc : State × Option (Nat × Nat)) n => if (acc.1.entry n).st != .P then acc
      else ((acc.1.mergeLine n).s, acc.2.or (acc.1.mergeLine n).abort)) (s, none) = (s, none) := by
    refine foldl_fixed fun n hn => ?_
    obtain ⟨pa, hpa, rfl⟩ := List.mem_map.1 (List.mem_dedup.1 hn)
    simp [hp pa hpa]
  unfold State.readCode
  rw [hr]
  dsimp only
  rw [hm]
  exact ⟨(readsHome_fetchWords ..).trans (.foldl readsHome_noteNewest ..), rfl⟩

/-! ### What the chosen fragment has ahead -/

/-- What a step answers for what the chosen fragment has ahead of it. -/
def outcomeOf : Ahead → Host.Outcome State Fault Refusal
  | .run i t => exec i t
  | .done t => .next t

/-- What a fragment has ahead whose code has been read in `code`. -/
def aheadOf (code : State) (failed : Option (Nat × Nat)) (k en : Nat) (g : Group) (f : Frag) (ctx : Nat) (at_ : List (Nat × Nat)) : Ahead :=
  let t := code.spend k en
  let kill (n pa va : Nat) : Ahead := .done ((t.noteAbort pa n (some ctx)).abortKill k (abortRecord n va (f.pc / 12)) f.mask)
  match failed, code.fetch k g f with
  | some (n, pa), _ => kill n pa (((at_.find? fun q => q.2 / 128 == pa / 128).map fun q => q.1 / 128 * 128 + pa % 128).getD 0)
  | none, .abort n pa va => kill n pa va
  | none, .word w =>
    match decodeWord w with
    | .ok i => .run i code
    | .error _ => .done (t.takeEvent k en (Event.plain kIllegal 0 f.mask))
  | none, _ => .done { code with cur := none }

section
variable {s : State} {k en : Nat} {g : Group} {f : Frag}

theorem cur_of_selected (h : s.selected = some (k, en, g, f)) : s.cur ≠ none := by
  intro hc
  rw [State.selected, hc] at h
  cases h

theorem step_of_cur (ha : s.agenda = []) (hc : s.cur ≠ none) : step s = outcomeOf s.ahead := by
  obtain ⟨c, hc⟩ := Option.ne_none_iff_exists'.1 hc
  rw [step, ha, hc]
  dsimp only
  cases s.ahead <;> rfl

variable (hs : s.selected = some (k, en, g, f))
include hs

theorem ahead_event {e : Event} (hf : s.fetch k g f = .event e) (hl : e.leaf = none) :
    let t := (if e.kind = kTranslation then s.noteFault (coreOf k) (s.ctxOf g.launch) e.addr.toNat else s).spend k en
    s.ahead = .done (t.takeEvent k en e) := by
  simp only [State.ahead, hs, hf, hl]

theorem ahead_touch {e : Event} (hf : s.fetch k g f = .event e) {l : Nat × Nat} (hl : e.leaf = some l) :
    let t := (if e.kind = kTranslation then s.noteFault (coreOf k) (s.ctxOf g.launch) e.addr.toNat else s).spend k en
    s.ahead = .done ((t.fillLeaf l.1).takeEvent k en e) := by
  simp only [State.ahead, hs, hf, hl]

theorem ahead_filling {p : Nat} (hf : s.fetch k g f = .filling p) :
    s.ahead = .done ((s.unspent k en).modFrag k en fun f => { f with wait := .leaf p }) := by
  simp only [State.ahead, hs, hf]

variable (he : ∀ e, s.fetch k g f ≠ .event e) (hw : ∀ p, s.fetch k g f ≠ .filling p)
include he hw

theorem ahead_reads : s.ahead = if (s.codeAt k g f).any (fun q => s.lineBusy (q.2 / 128)) then
      .done (((s.claim ((s.codeAt k g f).map (·.2))).unspent k en).modFrag k en fun f => { f with since := s.clk + 1 })
    else aheadOf (s.readCode (s.ctxOf g.launch) ((s.codeAt k g f).map (·.2))).1 (s.readCode (s.ctxOf g.launch) ((s.codeAt k g f).map (·.2))).2
      k en g f (s.ctxOf g.launch) (s.codeAt k g f) := by
  simp only [State.ahead, hs]
  cases hf : s.fetch k g f with
  | event e => exact absurd hf (he e)
  | filling p => exact absurd hf (hw p)
  | abort n pa va => rfl
  | word w => rfl

end

theorem aheadOf_run {code : State} {k en : Nat} {g : Group} {f : Frag} {w : InstrWord} {i : Instr} (hw : code.fetch k g f = .word w)
    (hd : decodeWord w = .ok i) (ctx : Nat) (at_ : List (Nat × Nat)) : aheadOf code none k en g f ctx at_ = .run i code := by
  simp only [aheadOf, hw, hd]

theorem aheadOf_illegal {code : State} {k en : Nat} {g : Group} {f : Frag} {w : InstrWord} (hw : code.fetch k g f = .word w)
    (hd : ∀ i, decodeWord w ≠ .ok i) (ctx : Nat) (at_ : List (Nat × Nat)) :
    aheadOf code none k en g f ctx at_ = .done ((code.spend k en).takeEvent k en (Event.plain kIllegal 0 f.mask)) := by
  cases hi : decodeWord w with
  | ok i => exact absurd hi (hd i)
  | error e => simp only [aheadOf, hw, hi]

theorem aheadOf_abort {code : State} {k en : Nat} {g : Group} {f : Frag} {n pa va : Nat} (hw : code.fetch k g f = .abort n pa va)
    (ctx : Nat) (at_ : List (Nat × Nat)) : aheadOf code none k en g f ctx at_ =
      .done (((code.spend k en).noteAbort pa n (some ctx)).abortKill k (abortRecord n va (f.pc / 12)) f.mask) := by
  simp only [aheadOf, hw]

theorem any_lineBusy (s : State) (l : List (Nat × Nat)) :
    l.any (fun q => s.lineBusy (q.2 / 128)) = true ↔ ¬ ∀ pa ∈ l.map (·.2), s.lineBusy (pa / 128) = false := by
  rw [List.any_eq_true]
  push Not
  simp only [List.mem_map, exists_exists_and_eq_and, Bool.not_eq_false]

section
variable {s : State} {k en : Nat} {g : Group} {f : Frag}

/-- A step whose chosen fragment has its code read at once. -/
theorem step_of_code (ha : s.agenda = []) (hs : s.selected = some (k, en, g, f)) (he : ∀ e, s.fetch k g f ≠ .event e)
    (hw : ∀ p, s.fetch k g f ≠ .filling p) (hb : ∀ pa ∈ (s.codeAt k g f).map (·.2), s.lineBusy (pa / 128) = false) :
    step s = outcomeOf (aheadOf (s.readCode (s.ctxOf g.launch) ((s.codeAt k g f).map (·.2))).1
      (s.readCode (s.ctxOf g.launch) ((s.codeAt k g f).map (·.2))).2 k en g f (s.ctxOf g.launch) (s.codeAt k g f)) := by
  rw [step_of_cur ha (cur_of_selected hs), ahead_reads hs he hw, if_neg fun h => (any_lineBusy ..).1 h hb]

/-- A step whose chosen fragment finds the home of a line of its code busy. -/
theorem step_of_busy (ha : s.agenda = []) (hs : s.selected = some (k, en, g, f)) (he : ∀ e, s.fetch k g f ≠ .event e)
    (hw : ∀ p, s.fetch k g f ≠ .filling p) (hb : ¬ ∀ pa ∈ (s.codeAt k g f).map (·.2), s.lineBusy (pa / 128) = false) :
    step s = .next (((s.claim ((s.codeAt k g f).map (·.2))).unspent k en).modFrag k en fun f => { f with since := s.clk + 1 }) := by
  rw [step_of_cur ha (cur_of_selected hs), ahead_reads hs he hw, if_pos ((any_lineBusy ..).2 hb)]
  rfl

end

/-- Settles O57, by the cases of the choice, the fetch and the decoding. -/
theorem stepRunsDecoded : Obligations.StepRunsDecoded := by
  unfold Obligations.StepRunsDecoded
  intro s k en p lv va' g f w i e t r ctx base va off chosen at_ pas code failed spent reads free kills words tr first inside sound pooled fills barred
  have hcode : reads → free → step s = outcomeOf (aheadOf code failed k en g f ctx at_) := fun hr hf =>
    step_of_code hr.1.1 hr.1.2 hr.2.1 hr.2.2 hf
  have hin : inside → s.fetch k g f = fetchOf s f.mask (words.map fun a => (a, tr a)) := fetch_inside
  have hl : words.Pairwise (· < ·) := by simp [words]
  refine ⟨fun hr hf hn hw hd => ?_, fun hr hf hn hw hd => ?_, fun n pa hr hf hn hw => ?_, fun n pa hr hf hn => ?_,
    fun hr hf => step_of_busy hr.1.1 hr.1.2 hr.2.1 hr.2.2 hf, fun hs hp => ?_, fun hc hf => ⟨fun hn => ?_, fun l hn => ?_⟩, fun hc hf => ?_,
    fetch_outside, fun h hv => ?_, fun e h hv ht => ?_, fun h hp hv ht => ?_, fun h hp hv => ?_, fun a b c h hx hy hz => ?_,
    fun ha => ?_, fun ha hc hs => ?_, fun ha hc u hu => ?_, fun ha hc hd p hp => ?_, step_eq_tick⟩
  · rw [hcode hr hf, hn, aheadOf_run hw hd]
    rfl
  · rw [hcode hr hf, hn, aheadOf_illegal hw hd]
    rfl
  · change step s = _
    rw [hcode hr hf, hn, aheadOf_abort hw]
    rfl
  · change step s = _
    rw [hcode hr hf, hn]
    rfl
  · obtain ⟨hc, hn⟩ := readCode_sound hs ctx hp
    exact ⟨hn, hc.mem, hc.groups, hc.launches, hc.cores, hc.ctxs⟩
  · rw [step_of_cur hc.1 (cur_of_selected hc.2), ahead_event hc.2 hf hn]
    rfl
  · rw [step_of_cur hc.1 (cur_of_selected hc.2), ahead_touch hc.2 hf hn]
    rfl
  · rw [step_of_cur hc.1 (cur_of_selected hc.2), ahead_filling hc.2 hf]
    rfl
  · rw [hin h, fetchOf_fault hl hv.1 hv.2.1 hv.2.2]
  · rw [hin h.1, fetchOf_pool hl hv.1 h.2 ht hv.2.2]
  · rw [hin h.1, fetchOf_filling hl hv.1 h.2 hp ht hv.2.2]
  · obtain ⟨hm, ⟨pa, c, w, ht⟩, hb⟩ := hv
    rw [hin h.1, fetchOf_barred hl hm h.2 (fun b hb => (hp b hb).1) (fun b hb => (hp b hb).2) ht hb]
  · obtain ⟨q, u, hx⟩ := hx
    obtain ⟨q', u', hy⟩ := hy
    obtain ⟨q'', u'', hz⟩ := hz
    have hf : s.fetch k g f = fetchOf s f.mask [(va, .page a q u true), (va + 4, .page b q' u' true), (va + 8, .page c q'' u'' true)] := by
      rw [hin h]
      simp only [words, List.map_cons, List.map_nil, hx, hy, hz]
    rw [hf, fetchOf_pages]
    simp only [List.findSome?_cons, List.findSome?_nil]
    exact ⟨fun ha hb hc => by simp only [ha, hb, hc, Option.map_none], fun n ha => by simp only [ha, Option.map_some],
      fun n ha hb => by simp only [ha, hb, Option.map_none, Option.map_some],
      fun n ha hb hc => by simp only [ha, hb, hc, Option.map_none, Option.map_some]⟩
  · rw [step, ha]
  · rw [step_of_cur ha hc, State.ahead, hs]
    rfl
  · rw [step, ha, hc, hu]
  · rw [step, ha, hc, hd, hp]
    rfl

end Sys2Proof.Hierarchy
end

section
/-! The checks of a `gl:` instruction, group by group (R139, R140, R313 to R315, R422, R423, R472). -/

namespace Sys2Proof.Hierarchy

open Sys2Proof.Machine Sys2Proof.Safety Sys2Proof.Glance

/-! ### The event of the accesses that fail a group -/

theorem lowLane_maskOf {ls : List Nat} {a : Nat} (h : a < 128) (ha : a ∈ ls) (hm : ∀ b ∈ ls, a ≤ b) : lowLane (maskOf ls) = a := by
  rw [lowLane, lanesOf, List.headD_eq_head?_getD, List.head?_filter,
    find?_first List.pairwise_lt_range (List.mem_range.2 h) (by rw [getLsbD_maskOf _ _ h]; exact decide_eq_true ha)]
  · rfl
  · intro b hb hlt
    rw [getLsbD_maskOf _ _ (by omega)]
    exact decide_eq_false fun hb => absurd (hm b hb) (by omega)

theorem find?_unique {α : Type} {l : List α} {p : α → Bool} {c : α} (hc : c ∈ l) (hp : p c = true) (hu : ∀ d ∈ l, p d = true → d = c) :
    l.find? p = some c := by
  cases h : l.find? p with
  | none => exact absurd hp (List.find?_eq_none.1 h c hc)
  | some d => rw [hu d (List.mem_of_find?_eq_some h) (List.find?_some h)]

/-- An event of the accesses `bad` names their lanes, and the address of the lowest of them. -/
structure Tells (x : X) (uni : Bool) (bad : List (Nat × Int)) (ev : Event) : Prop where
  once : uni = true → ev.lanes = x.f.mask
  lanes : uni = false → ∀ k < 128, ev.lanes.getLsbD k = true ↔ ∃ c ∈ bad, c.1 = k
  addr : ∀ c ∈ bad, (∀ c' ∈ bad, c.1 ≤ c'.1) → (∀ c' ∈ bad, c'.1 = c.1 → c' = c) → ev.addr = BitVec.ofInt 64 c.2

theorem memEvent_tells {x : X} {uni : Bool} {bad : List (Nat × Int)} (hl : ∀ c ∈ bad, c.1 < 128) (kind code : Nat) :
    Tells x uni bad (memEvent x uni kind code bad) where
  once h := by rw [memEvent, if_pos h]
  lanes h k hk := by
    rw [memEvent, if_neg (by simp [h]), getLsbD_maskOf _ _ hk, decide_eq_true_eq, List.mem_map]
  addr c hc hm hu := by
    have hlow : lowLane (maskOf (bad.map (·.1))) = c.1 :=
      lowLane_maskOf (hl c hc) (List.mem_map_of_mem hc) fun b hb => by
        obtain ⟨d, hd, rfl⟩ := List.mem_map.1 hb
        exact hm d hd
    have hf : bad.find? (fun d => d.1 == c.1) = some c := find?_unique hc (by simp) fun d hd he => hu d hd (by simpa using he)
    rw [memEvent, hlow, hf]
    rfl

/-! ### The first check that fails -/

section
variable {α : Type} {x : X} {uni : Bool} {checks : List (Nat × Nat × (α → Bool))} {place : α → Nat × Int} {l : List α}

theorem failed_none (h : ∀ c ∈ checks, l.any c.2.2 = false) : failed x uni checks place l = none := by
  rw [failed, Option.map_eq_none_iff, List.find?_eq_none]
  exact fun c hc => by simp [h c hc]

theorem firstCheck_here {c : Nat × Nat × (α → Bool)} (h : l.any c.2.2 = true) (cs : List (Nat × Nat × (α → Bool))) :
    (c :: cs).find? (fun (c : Nat × Nat × (α → Bool)) => l.any c.2.2) = some c := List.find?_cons_of_pos h

theorem firstCheck_later {c d : Nat × Nat × (α → Bool)} {cs : List (Nat × Nat × (α → Bool))} (h : l.any c.2.2 = false)
    (hd : cs.find? (fun c => l.any c.2.2) = some d) : (c :: cs).find? (fun (c : Nat × Nat × (α → Bool)) => l.any c.2.2) = some d :=
  (List.find?_cons_of_neg (p := fun (c : Nat × Nat × (α → Bool)) => l.any c.2.2) (Bool.eq_false_iff.1 h)).trans hd

theorem failed_first {c : Nat × Nat × (α → Bool)} (hf : checks.find? (fun c => l.any c.2.2) = some c) :
    failed x uni checks place l = some (memEvent x uni c.1 c.2.1 ((l.filter fun a => checks.any fun c => c.2.2 a).map place)) := by
  rw [failed, hf]
  rfl

end

/-! ### The translations of the accesses -/

/-- What the translation of an access brings about. -/
def poolAsk (t : Ask × Tr) : Option (Ask × Nat × Nat) := match t.2 with
  | .pool p lv _ => some (t.1, p, lv)
  | _ => none
def fillAsk (t : Ask × Tr) : Option Nat := match t.2 with
  | .filling p _ => some p
  | _ => none
def pageAsk (t : Ask × Tr) : Option Res := match t.2 with
  | .page pa c w _ => some ⟨t.1.lane, t.1.pos, t.1.size, t.1.addr.toNat, pa, c, w, t.1.bad⟩
  | _ => none

/-- The accesses of an instruction with their translations. -/
def translated (s : State) (x : X) (l : List Ask) : List (Ask × Tr) := l.map fun a => (a, s.translate x.core (s.ctxOf x.g.launch) a.addr.toNat)

theorem poolAsk_lane {s : State} {x : X} {l : List Ask} (hl : ∀ a ∈ l, a.lane < 128) {q : Ask × Nat × Nat}
    (hq : q ∈ (translated s x l).filterMap poolAsk) : q.1.lane < 128 := by
  obtain ⟨t, ht, hp⟩ := List.mem_filterMap.1 hq
  obtain ⟨a, ha, rfl⟩ := List.mem_map.1 ht
  unfold poolAsk at hp
  split at hp
  · cases hp
    exact hl a ha
  · cases hp

theorem pageAsk_lane {s : State} {x : X} {l : List Ask} (hl : ∀ a ∈ l, a.lane < 128) {r : Res}
    (hr : r ∈ (translated s x l).filterMap pageAsk) : r.lane < 128 := by
  obtain ⟨t, ht, hp⟩ := List.mem_filterMap.1 hr
  obtain ⟨a, ha, rfl⟩ := List.mem_map.1 ht
  unfold pageAsk at hp
  split at hp
  · cases hp
    exact hl a ha
  · cases hp

theorem translateAll_eq (s : State) (x : X) (uni : Bool) (l : List Ask) : s.translateAll x uni l =
    let ts := translated s x l
    match ts.filter fun t => t.2 == .fault with
    | _ :: _ => .stop (ts.foldl (fun s t => s.noteFault x.core (s.ctxOf x.g.launch) t.1.addr.toNat) s)
        (.event (memEvent x uni kTranslation 0 ((ts.filter fun t => t.2 == .fault).map fun t => t.1.at)))
    | [] =>
      let pools := ts.filterMap poolAsk
      match pools.find? fun t => t.1.lane == lowLane (maskOf (pools.map fun t => t.1.lane)) with
      | some (_, p, lv) => .stop (s.fillLeaf p) (.event { memEvent x uni kTouch 0 (pools.map fun t => t.1.at) with leaf := some (p, levelSize lv) })
      | none =>
        match ts.findSome? fillAsk with
        | some p => .stop s (.wait (.leaf p))
        | none => .ok (ts.filterMap pageAsk) := rfl

section
variable {s : State} {x : X} {uni : Bool} {l : List Ask}

/-- The accesses whose translation faults. -/
theorem filter_fault (s : State) (x : X) (l : List Ask) : (translated s x l).filter (fun t => t.2 == .fault) =
    (l.filter fun a => s.translate x.core (s.ctxOf x.g.launch) a.addr.toNat == .fault).map
      fun a => (a, s.translate x.core (s.ctxOf x.g.launch) a.addr.toNat) := by
  rw [translated, List.filter_map]
  rfl

theorem readsHome_noteFault (s : State) (c ctx va : Nat) : ReadsHome s (s.noteFault c ctx va) :=
  .ite (readsHome_noteWalk s ctx va) (.refl s)

theorem ReadsHome.ctxOf {s t : State} (h : ReadsHome s t) (k : Nat) : t.ctxOf k = s.ctxOf k := by
  rw [State.ctxOf, State.ctxOf, h.launches]

/-- A walk that finds no page leaves the launch its context. -/
theorem foldl_noteFault (c k : Nat) (l : List Ask) (s : State) : l.foldl (fun t a => t.noteFault c (t.ctxOf k) a.addr.toNat) s =
    l.foldl (fun t a => t.noteFault c (s.ctxOf k) a.addr.toNat) s := by
  induction l generalizing s with
  | nil => rfl
  | cons a l ih => rw [List.foldl_cons, List.foldl_cons, ih, (readsHome_noteFault s c (s.ctxOf k) a.addr.toNat).ctxOf]

theorem translateAll_fault (h : (l.filter fun a => s.translate x.core (s.ctxOf x.g.launch) a.addr.toNat == .fault) ≠ []) :
    s.translateAll x uni l = .stop (l.foldl (fun t a => t.noteFault x.core (s.ctxOf x.g.launch) a.addr.toNat) s)
      (.event (memEvent x uni kTranslation 0
        ((l.filter fun a => s.translate x.core (s.ctxOf x.g.launch) a.addr.toNat == .fault).map Ask.at))) := by
  obtain ⟨a, r, hr⟩ := List.exists_cons_of_ne_nil h
  rw [translateAll_eq]
  dsimp only
  rw [filter_fault, List.map_map, hr, List.map_cons, translated, List.foldl_map, ← foldl_noteFault]
  rfl

variable (hf : (l.filter fun a => s.translate x.core (s.ctxOf x.g.launch) a.addr.toNat == .fault) = [])
include hf

theorem translateAll_pool {q : Ask × Nat × Nat} (hl : ∀ a ∈ l, a.lane < 128) (hq : q ∈ (translated s x l).filterMap poolAsk)
    (hm : ∀ q' ∈ (translated s x l).filterMap poolAsk, q.1.lane ≤ q'.1.lane)
    (hu : ∀ q' ∈ (translated s x l).filterMap poolAsk, q'.1.lane = q.1.lane → q' = q) :
    s.translateAll x uni l = .stop (s.fillLeaf q.2.1)
      (.event { memEvent x uni kTouch 0 (((translated s x l).filterMap poolAsk).map fun t => t.1.at) with leaf := some (q.2.1, levelSize q.2.2) }) := by
  have hlow : lowLane (maskOf (((translated s x l).filterMap poolAsk).map fun t => t.1.lane)) = q.1.lane :=
    lowLane_maskOf (poolAsk_lane hl hq) (List.mem_map_of_mem hq) fun b hb => by
      obtain ⟨d, hd, rfl⟩ := List.mem_map.1 hb
      exact hm d hd
  have hfind : ((translated s x l).filterMap poolAsk).find? (fun t => t.1.lane == q.1.lane) = some q :=
    find?_unique hq (by simp) fun d hd he => hu d hd (by simpa using he)
  rw [translateAll_eq]
  dsimp only
  rw [filter_fault, hf, List.map_nil]
  dsimp only
  rw [hlow, hfind]

theorem translateAll_filling (ht : (translated s x l).filterMap poolAsk = []) {p : Nat} (hp : ((translated s x l).filterMap fillAsk).head? = some p) :
    s.translateAll x uni l = .stop s (.wait (.leaf p)) := by
  rw [translateAll_eq]
  dsimp only
  rw [filter_fault, hf, ht, ← List.head?_filterMap, hp]
  rfl

theorem translateAll_pages (ht : (translated s x l).filterMap poolAsk = []) (hp : (translated s x l).filterMap fillAsk = []) :
    s.translateAll x uni l = .ok ((translated s x l).filterMap pageAsk) := by
  rw [translateAll_eq]
  dsimp only
  rw [filter_fault, hf, ht, ← List.head?_filterMap, hp]
  rfl

end

/-- Accesses that all translate to pages neither fault nor touch nor fill. -/
theorem translateAll_all {s : State} {x : X} {uni : Bool} {l : List Ask} (h : ((translated s x l).filterMap pageAsk).length = l.length) :
    s.translateAll x uni l = .ok ((translated s x l).filterMap pageAsk) := by
  have hp : ∀ t ∈ translated s x l, (pageAsk t).isSome = true := List.filterMap_length_eq_length.1 (h.trans (by simp [translated]))
  have hq : ∀ t ∈ translated s x l, ¬ t.2 = .fault ∧ poolAsk t = none ∧ fillAsk t = none := by
    intro t ht
    have h := hp t ht
    unfold pageAsk at h
    split at h
    next he => simp [he, poolAsk, fillAsk]
    next => cases h
  refine translateAll_pages ?_ (List.filterMap_eq_nil_iff.2 fun t ht => (hq t ht).2.1) (List.filterMap_eq_nil_iff.2 fun t ht => (hq t ht).2.2)
  rw [List.filter_eq_nil_iff]
  intro a ha
  simpa using (hq _ (List.mem_map_of_mem ha)).1

/-! ### The groups of checks in order (R422) -/

/-- The conditions of an access that group 5 checks (R422, R472). -/
def unsound (s : State) (md : Mode) (sys : Bool) (rs : List Res) (r : Res) : Bool :=
  (md.writes && !r.w) || !md.legal r.cls r.pa || r.bad || (md.writes && r.words.any fun w => (s.entry (w / 128)).sealed.isSome) ||
    (md.writes && !(sys && wholeLine rs) && r.words.any s.lostWord)

theorem permitted_any (s : State) (md : Mode) (sys : Bool) (rs : List Res) (r : Res) :
    ((s.permitted md sys rs).any fun c => c.2.2 r) = unsound s md sys rs r := by
  simp only [State.permitted, List.any_cons, List.any_nil, Bool.or_false, unsound, Bool.or_assoc]

theorem formed_any (a : Ask) : (formed.any fun c => c.2.2 a) = ((a.addr < 0 || 2 ^ 57 ≤ a.addr) || a.addr % (a.size : Int) != 0) := by
  simp only [formed, List.any_cons, List.any_nil, Bool.or_false]

section
variable {s : State} {x : X} {uni sys : Bool} {md : Mode} {l : List Ask} {rs : List Res}

theorem resolve_formed {e : Event} (h : failed x uni formed Ask.at l = some e) : s.resolve x uni md sys l = .stop s (.event e) := by
  rw [State.resolve, h]

theorem resolve_stop (h : failed x uni formed Ask.at l = none) {t : State} {d : Done} (ht : s.translateAll x uni l = .stop t d) :
    s.resolve x uni md sys l = .stop t d := by
  rw [State.resolve, h]
  dsimp only
  rw [ht]

theorem resolve_permitted (h : failed x uni formed Ask.at l = none) (ht : s.translateAll x uni l = .ok rs) {e : Event}
    (hp : failed x uni (s.permitted md sys rs) Res.at rs = some e) : s.resolve x uni md sys l = .stop s (.event e) := by
  rw [State.resolve, h]
  dsimp only
  rw [ht]
  dsimp only
  rw [hp]

/-- What an instruction waits for whose accesses pass their checks (R282, R320, R445; logs 54 and 98). -/
theorem resolve_waits (h : failed x uni formed Ask.at l = none) (ht : s.translateAll x uni l = .ok rs)
    (hp : failed x uni (s.permitted md sys rs) Res.at rs = none) : s.resolve x uni md sys l =
      let h := maxStamp 0 (rs.map fun r => s.leafStamp (s.ctxOf x.g.launch) r.va)
      if md.answers && rs.any (fun r => place r.pa == .host) && !x.f.hostOk then .stop s (.wait .host)
      else if rs.any fun r => r.words.any (s.waitsFor md r.cls) then .stop (s.claim (rs.flatMap Res.words)) .hold
      else if x.g.horizon.toNat < h || s.now < h then
        .stop (s.modGroup x.k fun g => { g with horizon := BitVec.ofNat 64 (max g.horizon.toNat h) }) .hold
      else .ok rs := by
  rw [State.resolve, h]
  dsimp only
  rw [ht]
  dsimp only
  rw [hp]

end

theorem any_false_of_filter {α : Type} {l : List α} {p : α → Bool} (h : l.filter p = []) : l.any p = false := by
  rw [List.any_eq_false]
  exact List.filter_eq_nil_iff.1 h

theorem any_of_filter {α : Type} {l : List α} {p : α → Bool} (h : l.filter p ≠ []) : l.any p = true := by
  obtain ⟨a, ha⟩ := List.exists_mem_of_ne_nil _ h
  obtain ⟨hm, hp⟩ := List.mem_filter.1 ha
  exact List.any_eq_true.2 ⟨a, hm, hp⟩

/-- Settles O23, group by group. -/
theorem memoryChecks : Obligations.MemoryChecks := by
  unfold Obligations.MemoryChecks
  intro s x uni md sys l tr failsIn fails far odd unformed none_ walked touch filling rs noPerm illegal burst sealed_ gone barred unanswered busy leaf hl
  have hfails : ∀ {t ev bad}, s.resolve x uni md sys l = .stop t (.event ev) → Tells x uni bad ev → failsIn t ev.kind ev.code ev.leaf bad :=
    fun hr ht => ⟨_, hr, rfl, rfl, rfl, ht.once, ht.lanes, ht.addr⟩
  have htouch : touch = (translated s x l).filterMap poolAsk := by
    rw [translated, List.filterMap_map]
    rfl
  have hfilling : filling = (translated s x l).filterMap fillAsk := by
    rw [translated, List.filterMap_map]
    rfl
  have hrs : rs = (translated s x l).filterMap pageAsk := by
    rw [translated, List.filterMap_map]
    rfl
  have hunformed : unformed = (l.filter fun a => formed.any fun c => c.2.2 a).map Ask.at := by
    simp only [unformed, formed_any]
  have hat : ∀ (p : Ask → Bool), ∀ c ∈ (l.filter p).map Ask.at, c.1 < 128 := by
    intro p c hc
    obtain ⟨a, ha, rfl⟩ := List.mem_map.1 hc
    exact hl a (List.mem_of_mem_filter ha)
  have hgood : far = [] → odd = [] → failed x uni formed Ask.at l = none := fun hf ho => failed_none fun c hc => by
    simp only [formed, List.mem_cons, List.not_mem_nil, or_false] at hc
    rcases hc with rfl | rfl
    · exact any_false_of_filter (List.map_eq_nil_iff.1 hf)
    · exact any_false_of_filter (List.map_eq_nil_iff.1 ho)
  refine ⟨fun hf => ?_, fun hf ho => ?_, fun hf ho hn => ?_, fun hf ho hn q hq hm hu => ?_, fun hf ho hn ht p hp => ?_, fun hf ho hlen => ?_⟩
  · have h : failed x uni formed Ask.at l = some (memEvent x uni 0x10 0 unformed) := by
      rw [hunformed, failed_first (c := (kAddress, 0, fun a => a.addr < 0 || 2 ^ 57 ≤ a.addr))]
      · rfl
      · exact firstCheck_here (any_of_filter fun h => hf (List.map_eq_nil_iff.2 h)) _
    exact hfails (resolve_formed h) (memEvent_tells (hat _) ..)
  · have h : failed x uni formed Ask.at l = some (memEvent x uni 0x11 0 unformed) := by
      rw [hunformed, failed_first (c := (kAlign, 0, fun a => a.addr % (a.size : Int) != 0))]
      · rfl
      · exact firstCheck_later (any_false_of_filter (List.map_eq_nil_iff.1 hf))
          (firstCheck_here (any_of_filter fun h => ho (List.map_eq_nil_iff.2 h)) _)
    exact hfails (resolve_formed h) (memEvent_tells (hat _) ..)
  · exact hfails (resolve_stop (hgood hf ho) (translateAll_fault fun h => hn (List.map_eq_nil_iff.2 h))) (memEvent_tells (hat _) ..)
  · rw [htouch] at hq hm hu
    have hlane : ∀ c ∈ ((translated s x l).filterMap poolAsk).map fun t => t.1.at, c.1 < 128 := by
      intro c hc
      obtain ⟨t, ht, rfl⟩ := List.mem_map.1 hc
      exact poolAsk_lane hl ht
    have ht := memEvent_tells (x := x) (uni := uni) hlane kTouch 0
    have h := hfails (resolve_stop (hgood hf ho) (translateAll_pool (List.map_eq_nil_iff.1 hn) hl hq hm hu)) ⟨ht.once, ht.lanes, ht.addr⟩
    rw [htouch]
    exact h
  · rw [htouch] at ht
    rw [hfilling] at hp
    exact resolve_stop (hgood hf ho) (translateAll_filling (List.map_eq_nil_iff.1 hn) ht hp)
  have hall : s.translateAll x uni l = .ok rs := by
    rw [hrs] at hlen ⊢
    exact translateAll_all hlen
  have hlane : ∀ c ∈ barred, c.1 < 128 := by
    intro c hc
    obtain ⟨r, hr, rfl⟩ := List.mem_map.1 hc
    exact pageAsk_lane hl (hrs ▸ List.mem_of_mem_filter hr)
  have hbad : ∀ {c}, (s.permitted md sys rs).find? (fun c => rs.any c.2.2) = some c → failsIn s c.1 c.2.1 none barred := fun {c} hc => by
    have h := failed_first (x := x) (uni := uni) (place := Res.at) hc
    simp only [permitted_any] at h
    exact hfails (resolve_permitted (hgood hf ho) hall h) (memEvent_tells hlane ..)
  refine ⟨fun h1 => ?_, fun h1 h2 => ?_, fun h1 h2 h3 => ?_, fun h1 h2 h3 h4 => ?_, fun h1 h2 h3 h4 h5 => ?_, fun hb => ?_⟩
  · exact hbad (c := (kProtection, 0, noPerm)) (firstCheck_here h1 _)
  · exact hbad (c := (kAtomic, 0, illegal)) (firstCheck_later h1 (firstCheck_here h2 _))
  · exact hbad (c := (kBurst, 0, burst)) (firstCheck_later h1 (firstCheck_later h2 (firstCheck_here h3 _)))
  · exact hbad (c := (kSealed, 0, sealed_)) (firstCheck_later h1 (firstCheck_later h2 (firstCheck_later h3 (firstCheck_here h4 _))))
  · exact hbad (c := (kLost, 6, gone))
      (firstCheck_later h1 (firstCheck_later h2 (firstCheck_later h3 (firstCheck_later h4 (firstCheck_here h5 _)))))
  have hnone : failed x uni (s.permitted md sys rs) Res.at rs = none := failed_none fun c hc => by
    rw [List.any_eq_false]
    intro r hr hcr
    have hany : ((s.permitted md sys rs).any fun c => c.2.2 r) = true := List.any_eq_true.2 ⟨c, hc, hcr⟩
    rw [permitted_any] at hany
    exact List.filter_eq_nil_iff.1 (List.map_eq_nil_iff.1 hb) r hr hany
  have hw := resolve_waits (hgood hf ho) hall hnone
  have hun : (md.answers && rs.any (fun r => place r.pa == .host) && !x.f.hostOk) = true ↔ unanswered := by
    simp only [Bool.and_eq_true, List.any_eq_true, beq_iff_eq, Bool.not_eq_true', unanswered, and_comm, and_left_comm]
  have hbusy : (rs.any fun r => r.words.any (s.waitsFor md r.cls)) = true ↔ busy := by
    simp only [List.any_eq_true, busy]
  dsimp only at hw
  refine ⟨fun hu => ?_, fun hu hb => ?_, fun hu hb hl => ?_, fun hu hb h1 h2 => ?_⟩
  · rw [hw, if_pos (hun.2 hu)]
  · rw [hw, if_neg (hun.not.2 hu), if_pos (hbusy.2 hb)]
  · rw [hw, if_neg (hun.not.2 hu), if_neg (hbusy.not.2 hb)]
    exact if_pos (by simpa only [Bool.or_eq_true, decide_eq_true_eq] using hl)
  · rw [hw, if_neg (hun.not.2 hu), if_neg (hbusy.not.2 hb)]
    refine if_neg fun hl => ?_
    rw [Bool.or_eq_true, decide_eq_true_eq, decide_eq_true_eq] at hl
    change _ < leaf ∨ _ < leaf at hl
    omega

end Sys2Proof.Hierarchy
end

section
/-! Bursts, syndromes, corrected errors, aborts, errors of on-chip stores, and the loss of a core (R130, R131, R452 to R463,
R468, R469). -/

namespace Sys2Proof.Hierarchy

open Sys2Proof.Machine Sys2Proof.Safety Sys2Proof.Glance

/-! ### Bursts (R130, R131, R453 to R455) -/

theorem burstOk_iff {chan : Nat} {b : Burst} : burstOk chan b = true ↔ chan < 256 ∧ b.op < 3 ∧ b.page < 393216 ∧ 1 ≤ b.count ∧ b.count ≤ 16 ∧
    b.masks.length ≤ 16 ∧ (b.kind = 0 ∧ 1 ≤ b.stride ∧ b.stride < 1024 ∧ b.start + (b.count - 1) * b.stride < 1024 ∨
      b.kind = 1 ∧ b.count ≤ b.list.length ∧ b.list.length ≤ 16 ∧ ∀ w ∈ b.list, w < 1024) := by
  by_cases h0 : b.kind = 0
  · simp [burstOk, h0, and_assoc]
  · simp [burstOk, h0, and_assoc]

theorem burstOffs_getElem? (b : Burst) {j : Nat} (hj : j < b.count) :
    (b.kind = 0 → (burstOffs b)[j]? = some (b.start + j * b.stride)) ∧ (b.kind ≠ 0 → (burstOffs b)[j]? = b.list[j]?) := by
  refine ⟨fun h => ?_, fun h => ?_⟩
  · rw [burstOffs, if_pos h]
    simp [hj]
  · rw [burstOffs, if_neg h, List.getElem?_take, if_pos hj]

section
variable {s : State} {chan i dev : Nat} {b : Burst} {f : Flight}

theorem burstCommand_legal (h : burstOk chan b = true) : exec (.burstCommand chan b) s =
    .next { s with serial := s.serial + 1, bursts := s.bursts ++ [⟨s.serial, chan, b, 0, []⟩] } := if_pos h

theorem burstCommand_illegal (h : burstOk chan b = false) : exec (.burstCommand chan b) s = .next s := if_neg (by simp [h])

theorem mem_addSorted {x a : Nat} {l : List Nat} : a ∈ addSorted x l ↔ a = x ∨ a ∈ l := by
  induction l with
  | nil => simp [addSorted]
  | cons y l ih =>
    rw [addSorted]
    split
    · simp
    · split
      next h => subst h; simp
      next => rw [List.mem_cons, ih, List.mem_cons]; tauto

theorem mem_foldl_addSorted {a : Nat} {l : List Nat} {r : List Nat} : a ∈ l.foldl (fun l a => addSorted (a / 4) l) r ↔ a ∈ r ∨ ∃ w ∈ l, a = w / 4 := by
  induction l generalizing r with
  | nil => simp
  | cons x l ih =>
    rw [List.foldl_cons, ih, mem_addSorted]
    simp only [List.mem_cons, exists_eq_or_imp]
    tauto

theorem exec_burstComplete (good : Bool) : exec (.burstComplete i good) s = execBurstComplete i good s := rfl
theorem exec_deviceBeatTimeout : exec (.deviceBeatTimeout i dev) s = execDeviceBeatTimeout i dev s := rfl

theorem burstComplete_unknown (h : s.bursts.find? (fun f => f.id == i) = none) (good : Bool) : exec (.burstComplete i good) s = .next s := by
  rw [exec_burstComplete, execBurstComplete, h]

theorem deviceBeatTimeout_unknown (h : s.bursts.find? (fun f => f.id == i) = none) : exec (.deviceBeatTimeout i dev) s = .next s := by
  rw [exec_deviceBeatTimeout, execDeviceBeatTimeout, h]

variable (h : s.bursts.find? (fun f => f.id == i) = some f)
include h

theorem burstComplete_good : exec (.burstComplete i true) s = .next ((f.addrs.zip (List.range f.b.count)).foldl
    (fun t q => t.burstWord f.b.op q.1 (f.b.masks.getD q.2 0xF)) { s with bursts := s.bursts.filter fun g => g.id != i }) := by
  rw [exec_burstComplete, execBurstComplete, h]
  rfl

theorem burstComplete_reissued (ht : f.tries < 3) : exec (.burstComplete i false) s =
    .next { s with bursts := s.bursts.map fun g => if g.id = i then { g with tries := g.tries + 1 } else g } := by
  rw [exec_burstComplete, execBurstComplete, h]
  simp only [Bool.false_eq_true, if_false, ht, if_true, beq_iff_eq]

/-- A burst given up after its third bad frame. -/
theorem burstComplete_bad (ht : 3 ≤ f.tries) : exec (.burstComplete i false) s =
    .next ((({ s with bursts := s.bursts.filter fun g => g.id != i, spoilt := f.addrs.foldl (fun l a => addSorted (a / 4) l) s.spoilt } :
      State).log1 4 f.chan 0 0 0 0).alarm none) := by
  rw [exec_burstComplete, execBurstComplete, h]
  simp only [Bool.false_eq_true, if_false, Nat.not_lt.2 ht]

theorem deviceBeatTimeout_first (hw : ∃ w ∈ burstOffs f.b, devOf w = dev) (hm : dev ∉ f.missed) : exec (.deviceBeatTimeout i dev) s =
    .next { s with bursts := s.bursts.map fun g => if g.id = i then { g with missed := g.missed ++ [dev] } else g } := by
  have hany : ((burstOffs f.b).any fun w => devOf w == dev) = true := by simpa using hw
  rw [exec_deviceBeatTimeout, execDeviceBeatTimeout, h]
  simp [hany, hm]

theorem deviceBeatTimeout_second (hw : ∃ w ∈ burstOffs f.b, devOf w = dev) (hm : dev ∈ f.missed)
    (hf : (Table.get 0 s.devFail f.chan).getLsbD dev = false) : exec (.deviceBeatTimeout i dev) s =
    .next (({ s with devFail := Table.put 0 s.devFail f.chan (Table.get 0 s.devFail f.chan ||| BitVec.twoPow 16 dev),
                     health := { s.health with wdev := Table.put 0 s.health.wdev f.chan (Table.get 0 s.devFail f.chan ||| BitVec.twoPow 16 dev) } } :
      State).log1 5 f.chan 0 0 0 (BitVec.ofNat 32 dev)) := by
  have hany : ((burstOffs f.b).any fun w => devOf w == dev) = true := by simpa using hw
  rw [exec_deviceBeatTimeout, execDeviceBeatTimeout, h]
  simp only [hany, List.contains_iff_mem.2 hm, hf, Bool.not_true, Bool.false_eq_true, if_false]

end

/-! ### Words that a slice does not hold (R452, R453) -/

theorem dataCols_length : dataCols.length = 32 := by decide
theorem dataCols_ascending : dataCols.Pairwise (· < ·) := by decide

/-- The values of 8 bits of which three are set. -/
def threeBits : List Nat := (List.range 256).filter fun v => ((List.range 8).filter fun i => v.testBit i).length == 3

theorem dataCols_eq : dataCols = threeBits.take 32 := rfl

theorem mem_threeBits {c : Nat} : c ∈ threeBits ↔ ((List.range 8).filter fun b => c.testBit b).length = 3 ∧ c < 256 := by
  simp [threeBits, and_comm]

theorem dataCols_le : ∀ c ∈ dataCols, c ≤ dataCols.getD 31 0 := by decide
theorem threeBits_beyond : ∀ c ∈ threeBits.drop 32, ¬ c ≤ dataCols.getD 31 0 := by decide

theorem mem_dataCols (c : Nat) : c ∈ dataCols ↔ c ≤ dataCols.getD 31 0 ∧ ((List.range 8).filter fun b => c.testBit b).length = 3 ∧ c < 256 := by
  rw [← mem_threeBits]
  refine ⟨fun h => ⟨dataCols_le c h, List.mem_of_mem_take h⟩, fun ⟨hle, h⟩ => ?_⟩
  rw [← List.take_append_drop 32 threeBits] at h
  rcases List.mem_append.1 h with h | h
  · exact h
  · exact absurd hle (threeBits_beyond c h)

/-! #### Syndromes -/

theorem synOf_zero : synOf 0 = .clean := rfl

theorem synOf_dataCol : ∀ j < 32, synOf (dataCols.getD j 0) = .data j := by decide

theorem synOf_checkCol : ∀ j < 8, synOf (2 ^ j) = .check := by decide

theorem synOf_bad {y : Nat} (hy : y < 256) (h0 : y ≠ 0) (hd : y ∉ dataCols) (hc : ∀ j < 8, y ≠ 2 ^ j) : synOf y = .bad := by
  rw [synOf, if_neg h0, if_neg (by simpa using hd), if_neg]
  rw [Nat.mod_eq_of_lt hy]
  have h := fun j hj => hc j hj
  intro hm
  simp only [List.mem_cons, List.not_mem_nil, or_false] at hm
  rcases hm with rfl | rfl | rfl | rfl | rfl | rfl | rfl | rfl
  · exact hc 0 (by decide) rfl
  · exact hc 1 (by decide) rfl
  · exact hc 2 (by decide) rfl
  · exact hc 3 (by decide) rfl
  · exact hc 4 (by decide) rfl
  · exact hc 5 (by decide) rfl
  · exact hc 6 (by decide) rfl
  · exact hc 7 (by decide) rfl

section
variable {s : State} {a : Nat} (hp : place a = .local) (hl : s.lostWord a = false)
include hp hl

theorem badWord_held (hh : s.heldWord a = true) : s.badWord a = none := by
  simp [State.badWord, hp, hl, hh]

variable (hh : s.heldWord a = false)
include hh

theorem badWord_spoilt (hs : a / 4 ∈ s.spoilt) : s.badWord a = some 1 := by
  simp [State.badWord, hp, hl, hh, hs]

variable (hs : a / 4 ∉ s.spoilt)
include hs

theorem badWord_device (hd : (Table.get 0 s.devFail (chanOf a)).getLsbD (devOf (wordOff a)) = true) : s.badWord a = some 2 := by
  rw [State.badWord, hl, hp]
  simp only [Bool.false_eq_true, if_false, hh, List.contains_iff_mem, hs, hd, if_true]

variable (hd : (Table.get 0 s.devFail (chanOf a)).getLsbD (devOf (wordOff a)) = false)
include hd

theorem badWord_syndrome : s.badWord a = if (Table.find s.check (a / 4)).isNone then none
    else if synOf (s.syndrome a) = .bad then some 0 else none := by
  rw [State.badWord, hl, hp]
  simp only [Bool.false_eq_true, if_false, hh, List.contains_iff_mem, hs, hd]

omit hl hs hd in
theorem noteRead_plain (hb : s.badWord a = none) (hy : Table.find s.check (a / 4) = none ∨ synOf (s.syndrome a) = .clean) :
    s.noteRead a = s.fetched a := by
  have hf := readsHome_fetched s a
  rw [State.noteRead, if_neg (by simp [hp, hh, hb])]
  rcases hy with hy | hy
  · simp only [hf.check, hy, Option.isSome_none, Bool.false_eq_true, if_false]
  · simp only [hf.syndrome, hy, ite_self]

omit hl hs hd in
theorem noteRead_corrected (hb : s.badWord a = none) {v : BitVec 8} (hc : Table.find s.check (a / 4) = some v)
    (hy : (∃ j, synOf (s.syndrome a) = .data j) ∨ synOf (s.syndrome a) = .check) :
    s.noteRead a = (s.fetched a).corrected a (s.syndrome a) := by
  have hf := readsHome_fetched s a
  rw [State.noteRead, if_neg (by simp [hp, hh, hb])]
  rcases hy with ⟨j, hy⟩ | hy <;> simp only [hf.check, hc, hf.syndrome, hy, Option.isSome_some, if_true]

omit hp hl hh hs hd in
theorem noteRead_bad {n : Nat} (hb : s.badWord a = some n) : s.noteRead a = s := by
  rw [State.noteRead, if_pos (by simp [hb])]

theorem read_clean (hy : s.syndrome a = 0) : s.badWord a = none ∧ s.homeWord a = s.mem.word (a / 4 * 4) ∧ s.noteRead a = s.fetched a := by
  have hb : s.badWord a = none := by
    rw [badWord_syndrome hp hl hh hs hd, hy, synOf_zero]
    simp
  refine ⟨hb, ?_, ?_⟩
  · rw [State.homeWord, hy, synOf_zero]
    simp
  · exact noteRead_plain hp hh hb (.inr (by rw [hy, synOf_zero]))

variable (hc : Table.find s.check (a / 4) ≠ none)
include hc

theorem read_data {j : Nat} (hy : synOf (s.syndrome a) = .data j) : s.badWord a = none ∧
    s.homeWord a = s.mem.word (a / 4 * 4) ^^^ wordBit j ∧ s.noteRead a = (s.fetched a).corrected a (s.syndrome a) := by
  obtain ⟨v, hc⟩ := Option.ne_none_iff_exists'.1 hc
  have hb : s.badWord a = none := by
    rw [badWord_syndrome hp hl hh hs hd, hy]
    simp
  refine ⟨hb, ?_, ?_⟩
  · rw [State.homeWord, hy, hc]
    simp
  · exact noteRead_corrected hp hh hb hc (.inl ⟨j, hy⟩)

theorem read_check (hy : synOf (s.syndrome a) = .check) : s.badWord a = none ∧
    s.homeWord a = s.mem.word (a / 4 * 4) ∧ s.noteRead a = (s.fetched a).corrected a (s.syndrome a) := by
  obtain ⟨v, hc⟩ := Option.ne_none_iff_exists'.1 hc
  have hb : s.badWord a = none := by
    rw [badWord_syndrome hp hl hh hs hd, hy]
    simp
  refine ⟨hb, ?_, ?_⟩
  · rw [State.homeWord, hy, hc]
    simp
  · exact noteRead_corrected hp hh hb hc (.inr hy)

theorem read_bad (hy : synOf (s.syndrome a) = .bad) : s.badWord a = some 0 ∧ s.noteRead a = s := by
  obtain ⟨v, hc⟩ := Option.ne_none_iff_exists'.1 hc
  have hb : s.badWord a = some 0 := by
    rw [badWord_syndrome hp hl hh hs hd, hy, hc]
    simp
  exact ⟨hb, noteRead_bad hb⟩

end

/-! ### The filter and the repeat table (R457, R458) -/

theorem getLsbD_foldl_twoPow (l : List Nat) (b : BitVec 4096) {j : Nat} (hj : j < 4096) :
    (l.foldl (fun b i => b ||| BitVec.twoPow 4096 i) b).getLsbD j = (b.getLsbD j || l.contains j) := by
  induction l generalizing b with
  | nil => simp
  | cons i l ih =>
    rw [List.foldl_cons, ih, BitVec.getLsbD_or, BitVec.getLsbD_twoPow, List.contains_cons, Bool.or_assoc]
    by_cases hij : i = j
    · subst hij
      simp [hj]
    · simp [hij, beq_eq_false_iff_ne.2 (Ne.symm hij)]

theorem corrected_new {s : State} {a y : Nat} (h : ∃ i ∈ bloomBits (rowId a), (Table.get 0 s.bloom (chanOf a)).getLsbD i = false) :
    let bits := (bloomBits (rowId a)).foldl (fun b i => b ||| BitVec.twoPow 4096 i) (Table.get 0 s.bloom (chanOf a))
    s.corrected a y = ({ s with bloom := Table.put 0 s.bloom (chanOf a) bits } : State).log1 1 (chanOf a) (rowId a) a 0 (BitVec.ofNat 32 y) := by
  obtain ⟨i, hi, hb⟩ := h
  have hall : ¬ ((bloomBits (rowId a)).all fun i => (Table.get 0 s.bloom (chanOf a)).getLsbD i) = true := fun h => by
    have hi := List.all_eq_true.1 h i hi
    rw [hb] at hi
    cases hi
  exact if_neg hall

/-- A row that the filter holds already goes to the repeat table. -/
theorem corrected_again {s : State} {a y : Nat} (h : ∀ i ∈ bloomBits (rowId a), (Table.get 0 s.bloom (chanOf a)).getLsbD i = true) :
    s.corrected a y =
      let q := repeatAdd (Table.get [] s.repeats (chanOf a)) (rowId a)
      let s : State := { s with repeats := Table.put [] s.repeats (chanOf a) q.1 }
      if q.2 = 4 then
        let s := s.log1 3 (chanOf a) (rowId a) a 4 (BitVec.ofNat 32 y)
        { s with health := { s.health with rows := s.health.rows ++ [(chanOf a, rowId a)] } }
      else s :=
  if_pos (List.all_eq_true.2 h)

/-- The entry that a full repeat table gives up: the first with the lowest count. -/
theorem foldl_least_split (c : Word × Nat) (r : List (Word × Nat)) : ∃ l e t, c :: r = l ++ e :: t ∧
    (∀ d ∈ l, e.2 < d.2) ∧ (∀ d ∈ t, e.2 ≤ d.2) ∧ r.foldl (fun m d => if d.2 < m.2 then d else m) c = e := by
  induction r generalizing c with
  | nil => exact ⟨[], c, [], rfl, by simp, by simp, rfl⟩
  | cons d r ih =>
    rw [List.foldl_cons]
    split
    next hlt =>
      obtain ⟨l, e, t, hs, hl, ht, he⟩ := ih d
      have hed : e.2 ≤ d.2 := by
        rcases l with _ | ⟨b, l⟩ <;> obtain ⟨rfl, -⟩ := List.cons_eq_cons.1 hs
        · exact le_rfl
        · exact (hl _ List.mem_cons_self).le
      refine ⟨c :: l, e, t, by rw [hs]; rfl, fun b hb => ?_, ht, he⟩
      rcases List.mem_cons.1 hb with rfl | hb
      · omega
      · exact hl b hb
    next hge =>
      obtain ⟨l, e, t, hs, hl, ht, he⟩ := ih c
      rcases l with _ | ⟨b, l⟩ <;> obtain ⟨rfl, rfl⟩ := List.cons_eq_cons.1 hs
      · refine ⟨[], c, d :: r, rfl, by simp, fun b hb => ?_, he⟩
        rcases List.mem_cons.1 hb with rfl | hb
        · omega
        · exact ht b hb
      · have hec := hl _ List.mem_cons_self
        refine ⟨c :: d :: l, e, t, rfl, fun b hb => ?_, ht, he⟩
        rcases List.mem_cons.1 hb with rfl | hb
        · exact hec
        rcases List.mem_cons.1 hb with rfl | hb
        · omega
        · exact hl b (List.mem_cons_of_mem _ hb)

theorem dropLeast_split {t : List (Word × Nat)} (h : t ≠ []) : ∃ l e r, t = l ++ e :: r ∧ (∀ d ∈ l, e.2 < d.2) ∧ (∀ d ∈ r, e.2 ≤ d.2) ∧
    dropLeast t = l ++ r := by
  obtain ⟨c, r, rfl⟩ := List.exists_cons_of_ne_nil h
  obtain ⟨l, e, t, hs, hl, ht, he⟩ := foldl_least_split c r
  refine ⟨l, e, t, hs, hl, ht, ?_⟩
  rw [dropLeast, he, hs, List.erase_append_right _ fun hm => absurd (hl e hm) (lt_irrefl _), List.erase_cons_head]

theorem repeatAdd_known {tb : List (Word × Nat)} {row : Word} {n : Nat} (h : tb.find? (fun e => e.1 == row) = some (row, n)) :
    repeatAdd tb row = (tb.map fun e => if e.1 = row then (row, n + 1) else e, n + 1) := by
  rw [repeatAdd, h]
  simp only [beq_iff_eq]

theorem repeatAdd_new {tb : List (Word × Nat)} {row : Word} (h : ∀ e ∈ tb, e.1 ≠ row) :
    repeatAdd tb row = ((if 64 ≤ tb.length then dropLeast tb else tb) ++ [(row, 2)], 2) := by
  rw [repeatAdd, List.find?_eq_none.2 fun e he => by simpa using h e he]

/-! ### Aborts (R460, R462) -/

theorem noteAbort_local {s : State} {a code : Nat} (hc : code = 0 ∨ code = 1 ∨ code = 2) (hp : place a = .local) : s.noteAbort a code none =
    { s.log1 2 (chanOf a) (rowId a) a 0 (BitVec.ofNat 32 (s.syndrome a)) with alerts := s.alerts ++ [.msix 0, .mctp] } := by
  rw [State.noteAbort, if_pos hc, State.uncorrectable, if_pos hp]
  simp [State.alarm, State.log1]

theorem alarm_none_alerts (s : State) : (s.alarm none).alerts = s.alerts ++ [.msix 0, .mctp] := by
  simp [State.alarm]

theorem noteAt_page {s : State} {n ctx va pa code : Nat} {c : Cls} {w x : Bool} (h : s.translate n ctx va = .page pa c w x) :
    s.noteAt n ctx va code = s.noteAbort pa code (some ctx) := by
  rw [State.noteAt, h]

theorem readsHome_noteAt (s : State) (n ctx va code : Nat) : ReadsHome s (s.noteAt n ctx va code) := by
  unfold State.noteAt
  split
  · exact readsHome_noteAbort ..
  · exact .refl s

theorem ReadsHome.ops {s t : State} (h : ReadsHome s t) : t.ops = s.ops := by obtain ⟨_, _, _, _, _, _, _, _, _, _, _, rfl⟩ := h.rest; rfl

section
variable {s : State} {k i code addr line : Nat}

theorem exec_abortCompletion (who : AbortWho) : exec (.abortCompletion who code addr) s = execAbortCompletion who code addr s := rfl

theorem abortGroup_eq {g : Group} (h : s.group? k = some g) : s.abortGroup k code addr =
    (s.noteAt (coreOf k) (s.ctxOf g.launch) addr code).abortKill k (abortRecord code addr g.index) g.live := by
  rw [State.abortGroup, h]

theorem abort_thread {g : Group} (h : s.group? k = some g) : exec (.abortCompletion (.thread k) code addr) s =
    .next ((s.noteAt (coreOf k) (s.ctxOf g.launch) addr code).abortKill k (abortRecord code addr g.index) g.live) := by
  rw [exec_abortCompletion, execAbortCompletion, abortGroup_eq h]

theorem abort_walker {g : Group} (h : s.group? k = some g) : exec (.abortCompletion (.walker k) code addr) s =
    .next ((s.noteAt (coreOf k) (s.ctxOf g.launch) addr code).abortKill k (abortRecord code addr g.index) g.live) := by
  rw [exec_abortCompletion, execAbortCompletion, abortGroup_eq h]

theorem abort_matrix {o : EngOp} (h : Table.find s.ops i = some o) (hc : o.cls = 1 ∨ o.cls = 5) : exec (.abortCompletion (.matrix i) code addr) s =
    .next ((s.noteAt o.core (o.ctx s) addr code).abortOp o (abortRecord code addr o.index) 0) := by
  rw [exec_abortCompletion, execAbortCompletion, h]
  exact if_pos hc

theorem abort_copy {o : EngOp} {c : Copy} (h : Table.find s.ops i = some o) (hk : o.k = .copy c) (hd : o.done = false) (hs : c.status = 0) :
    exec (.abortCompletion (.copy i) code addr) s = let t := s.noteAt o.core (o.ctx s) addr code
      .next { t with ops := Table.insert s.ops i { o with k := .copy { c with status := 8 } } } := by
  rw [exec_abortCompletion, execAbortCompletion, h]
  dsimp only
  rw [hk]
  dsimp only
  rw [if_neg (by simp [hd, hs]), State.modCopy, (readsHome_noteAt ..).ops, Table.adjust, h]
  dsimp only
  rw [hk]

theorem abort_prefetch {p : Prefetch} (h : s.prefetches.find? (fun p => p.id == i) = some p) : exec (.abortCompletion (.prefetch i) code addr) s =
    .next { s.noteAbort p.addr code (some p.ctx) with prefetches := s.prefetches.filter fun p => p.id != i } := by
  rw [exec_abortCompletion, execAbortCompletion, h]

theorem abort_command {fn q : Nat} {y : Cmd} (h : s.cmd? fn q = some y) (ho : y.out = none) : exec (.abortCompletion (.command fn q) code addr) s =
    .next ((s.noteAt homeReader y.ctx addr code).retireCmd y 6 0) := by
  rw [exec_abortCompletion, execAbortCompletion, h]
  simp [ho]

theorem abort_merge (h : (s.entry line).st = .P) : exec (.abortCompletion (.merge line) code addr) s =
    .next ((((s.noteAbort addr code none).clearParts line).modEntry line fun d => { d with devs := [], pend := none }).lose line (BitVec.allOnes 32)) := by
  rw [exec_abortCompletion, execAbortCompletion, if_pos h]

end

/-! #### A line whose merge aborts, and a line lost with its holder (R462, R469) -/

theorem entry_logAlert (s : State) (c d : Prop) [Decidable c] [Decidable d] (type unit : Nat) (row : Word) (addr : Nat) (count detail : Word)
    (al : List Alert) (j : Nat) :
    (let t := if c then s.log1 type unit row addr count detail else s
     (if d then { t with fatal := true, alerts := al } else t : State).entry j) = s.entry j := by
  dsimp only
  split <;> split <;> rfl

theorem or_of_within {m l : Word} (h : m &&& ~~~l = 0) : l ||| m = l := by
  refine BitVec.eq_of_getLsbD_eq fun i hi => ?_
  have hb := congrArg (fun v : Word => v.getLsbD i) h
  simp only [BitVec.getLsbD_and, BitVec.getLsbD_not, hi, decide_true, Bool.true_and] at hb
  rw [BitVec.getLsbD_or]
  cases hl : l.getLsbD i <;> simp_all

theorem lose_entry (s : State) (line : Nat) (m : Word) :
    (s.lose line m).entry line = { s.entry line with lost := (s.entry line).lost ||| m } := by
  unfold State.lose
  dsimp only
  by_cases h : m &&& ~~~(s.entry line).lost = 0
  · rw [if_pos h, or_of_within h]
  · rw [if_neg h]
    refine (entry_logAlert _ _ _ ..).trans ?_
    rw [State.entry_setEntry, if_pos rfl]

theorem clearParts_entry (s : State) (line : Nat) : ((s.clearParts line).entry line) = { s.entry line with
    st := .I, holders := [], hpart := [], hstamp := [], asked := [], dparts := [] } := by
  rw [State.clearParts, State.modEntry, State.entry_setEntry, if_pos rfl]
  rfl

theorem core_map (s : State) (f : CoreSt → CoreSt) (hf : f CoreSt.reset = CoreSt.reset) (n : Nat) :
    ({ s with cores := s.cores.map fun (c : Nat × CoreSt) => (c.1, f c.2) } : State).core n = f (s.core n) := by
  simp only [State.core, Table.get, Execution.find_map]
  cases Table.find s.cores n with
  | none => exact hf.symm
  | some c => rfl

theorem clearParts_ubuf (s : State) (line n : Nat) : ∀ u ∈ ((s.clearParts line).core n).ubuf, u.addr / 128 ≠ line := by
  have h : (s.clearParts line).core n = { s.core n with ubuf := (s.core n).ubuf.filter fun u => u.addr / 128 != line } :=
    core_map s (fun c => { c with ubuf := c.ubuf.filter fun u => u.addr / 128 != line }) rfl n
  rw [h]
  intro u hu
  simpa using (List.mem_filter.1 hu).2

/-- A line whose merge aborts. -/
theorem mergeAborted (s : State) (line : Nat) : let t := ((s.clearParts line).modEntry line fun d => { d with devs := [], pend := none }).lose line (BitVec.allOnes 32)
    (t.entry line).st = .I ∧ (t.entry line).lost = BitVec.allOnes 32 ∧ (∀ n, ∀ u ∈ (t.core n).ubuf, u.addr / 128 ≠ line) ∧ t.mem = s.mem := by
  have hc := readsHome_lose ((s.clearParts line).modEntry line fun d => { d with devs := [], pend := none }) line (BitVec.allOnes 32)
  refine ⟨?_, ?_, fun n u hu => clearParts_ubuf s line n u ?_, hc.mem⟩
  · rw [lose_entry, State.modEntry, State.entry_setEntry, if_pos rfl, clearParts_entry]
  · rw [lose_entry, BitVec.or_allOnes]
  · rw [State.core, hc.cores] at hu
    exact hu

theorem without_last {d : Dir} {c : Nat} (hs : d.st = .M) (hh : d.holders = [c]) : d.without c = { d with st := .I, holders := [], masks := [] } := by
  rw [Dir.without, hs, hh]
  simp

theorem answered_none {s : State} {line : Nat} (h : (s.entry line).pend = none) (c : Nat) : s.answered line c = s := by
  rw [State.answered, h]

theorem removeHolder_owner {s : State} {line c : Nat} (hs : (s.entry line).st = .M) (hh : (s.entry line).holders = [c])
    (hp : (s.entry line).pend = none) : s.removeHolder c line = (s.modEntry line fun d => d.without c).lose line (BitVec.allOnes 32) := by
  have he : (((s.modEntry line fun d => d.without c).lose line (BitVec.allOnes 32)).entry line).pend = none := by
    rw [lose_entry, State.modEntry, State.entry_setEntry, if_pos rfl, without_last hs hh]
    exact hp
  rw [State.removeHolder]
  simp only [hp, hh, hs]
  rw [answered_none he]
  simp

theorem removeHolder_lost {s : State} {line c : Nat} (hs : (s.entry line).st = .M) (hh : (s.entry line).holders = [c])
    (hp : (s.entry line).pend = none) : let d := (s.removeHolder c line).entry line
    d.st = .I ∧ d.holders = [] ∧ d.lost = BitVec.allOnes 32 := by
  rw [removeHolder_owner hs hh hp, lose_entry, State.modEntry, State.entry_setEntry, if_pos rfl, without_last hs hh]
  exact ⟨rfl, rfl, BitVec.or_allOnes⟩

/-! ### The loss of a core (R468), and errors of on-chip stores (R456) -/

theorem probeTimeout_due {s : State} {core line : Nat} (h : ∃ n a, Msg.probe core line n a ∈ s.msgs) : exec (.probeTimeout core line) s =
    .next ((List.range 128).foldl (fun t h => t.removeFrom h core) (s.loseCore core)) := by
  obtain ⟨n, a, hm⟩ := h
  exact if_pos (List.any_eq_true.2 ⟨_, hm, by simp⟩)

theorem coreLossBroadcast_slice {s : State} {slice core : Nat} (hs : slice < 128) (hc : core < 144) :
    exec (.coreLossBroadcast slice core) s = .next ((s.loseCore core).removeFrom slice core) := if_pos ⟨hs, hc⟩

theorem readStore_cases (s : State) (x : Store) :
    (s.flaw x = some false → s.readStore x none = (((s.mend x).log1 6 (s.storeUnit x) 0 x.addr 0 0), false)) ∧
    (s.flaw x = some true → s.readStore x none = ((((s.mend x).log1 7 (s.storeUnit x) 0 x.addr 0 0).alarm none), true)) ∧
    (s.flaw x = none → s.readStore x none = (s, false)) :=
  ⟨fun h => by rw [State.readStore, h], fun h => by rw [State.readStore, h], fun h => by rw [State.readStore, h]⟩

/-- Settles O50, step by step. -/
theorem memorySteps : Obligations.MemorySteps := by
  unfold Obligations.MemorySteps
  intro s chan i dev code addr core line slice k b f o c good flying rest
  refine ⟨burstCommand_legal, burstOk_iff, fun j hj => burstOffs_getElem? b hj, burstCommand_illegal, burstComplete_good, rfl,
    burstComplete_reissued, fun h ht => ?_, fun hp hl hh hs => badWord_spoilt hp hl hh hs, fun hp hl hh => badWord_held hp hl hh,
    fun h => ⟨burstComplete_unknown h good, deviceBeatTimeout_unknown h⟩,
    fun h hw => ⟨fun hm => deviceBeatTimeout_first h hw hm, fun hm _ hf => deviceBeatTimeout_second h hw hm hf⟩,
    fun hp hl hh hs hd => badWord_device hp hl hh hs hd, ⟨dataCols_length, dataCols_ascending, mem_dataCols⟩, fun hp hl hh hs hd => ?_, ?_, fun tb row => ?_,
    noteAbort_local, fun _ _ _ _ _ _ _ h => noteAt_page h, fun g h => ⟨abort_thread h, abort_walker h⟩, abort_matrix, abort_copy, fun p h => abort_prefetch h,
    fun h => ?_, fun _ _ _ h ho => abort_command h ho, probeTimeout_due, coreLossBroadcast_slice, removeHolder_lost, readStore_cases s⟩
  · exact ⟨_, burstComplete_bad h ht, alarm_none_alerts _, rfl, rfl, fun a => mem_foldl_addSorted, rfl⟩
  · refine ⟨rfl, read_clean hp hl hh hs hd, fun hy hc => ⟨fun j hj he => ?_, fun j hj he => ?_, fun h0 hn hb => ?_⟩⟩
    · exact read_data hp hl hh hs hd hc (he ▸ synOf_dataCol j hj)
    · exact read_check hp hl hh hs hd hc (he ▸ synOf_checkCol j hj)
    · exact read_bad hp hl hh hs hd hc (synOf_bad hy h0 hn hb)
  · refine ⟨fun h => ⟨_, fun j hj => getLsbD_foldl_twoPow _ _ hj, corrected_new h⟩, fun h => ⟨fun hq => ?_, fun hq => ?_⟩⟩
    · exact (corrected_again h).trans (if_neg hq)
    · exact (corrected_again h).trans (if_pos hq)
  · refine ⟨fun n h => ?_, fun h => ?_⟩
    · rw [repeatAdd_known h]
      exact ⟨rfl, rfl⟩
    · rw [repeatAdd_new h]
      refine ⟨rfl, fun hlen => ?_, fun hlen => ?_⟩
      · rw [if_neg (Nat.not_le.2 hlen)]
      · obtain ⟨l, e, r, hs, hl, hr, hd⟩ := dropLeast_split (t := tb) (by rintro rfl; simp at hlen)
        exact ⟨l, e, r, hs, hl, hr, by rw [if_pos hlen, hd]⟩
  · have hm := (readsHome_noteAbort s addr code none).mem
    obtain ⟨hst, hlost, hub, hmem⟩ := mergeAborted (s.noteAbort addr code none) line
    exact ⟨_, abort_merge h, hst, hlost, hub, hmem.trans hm⟩

end Sys2Proof.Hierarchy
end

section
/-! What a Writeback brings to a home slice that is full (R143 to R146, R442, R469). -/

namespace Sys2Proof.Hierarchy

open Sys2Proof.Machine Sys2Proof.Safety Sys2Proof.Glance

/-! ### A line that a full slice lets go with a word in error -/

/-- A word that a full slice fetches makes it let its first line without lost words go. -/
theorem fetched_replaces {s : State} {a : Nat} {v : Nat × Word} (hp : place a = .local) (hn : Table.find s.held (a / 128) = none)
    (hf : sliceLines ≤ (s.held.filter fun l => homeOf (128 * l.1) == homeOf a).length)
    (hv : (s.held.filter fun l => homeOf (128 * l.1) == homeOf a).find? (fun l => (Table.get Dir.reset s.dir l.1).lost == 0) = some v) :
    s.fetched a = { s.letGo v.1 with held := Table.put 0 (s.letGo v.1).held (a / 128) (Table.get 0 (s.letGo v.1).held (a / 128) ||| wordBit (a / 4 % 32)) } := by
  rw [State.fetched, if_neg (by simp [hp])]
  dsimp only
  rw [hn, if_neg (by simp), if_neg (Nat.not_lt.2 hf), hv]

/-- An uncorrectable word that was written and not stored is lost when its slice reads it (R456, R469). -/
theorem readHome_wet {s : State} {a : Nat} (hh : s.heldWord a = true) (hf : s.flaw (.home (a / 4 * 4)) = some true)
    (hw : (Table.get 0 s.wet (a / 128)).getLsbD (a / 4 % 32) = true) : s.readHome none a =
      (((s.mend (.home (a / 4 * 4))).log1 7 (s.storeUnit (.home (a / 4 * 4))) 0 (Store.home (a / 4 * 4)).addr 0 0).alarm none).lose (a / 128)
        (wordBit (a / 4 % 32)) := by
  rw [State.readHome, if_neg (by simp [hh]), (readStore_cases s (.home (a / 4 * 4))).2.1 hf]
  dsimp only
  rw [if_neg (by simp)]
  exact if_pos hw

theorem readHome_lost {s : State} {a : Nat} (hh : s.heldWord a = true) (hf : s.flaw (.home (a / 4 * 4)) = some true)
    (hw : (Table.get 0 s.wet (a / 128)).getLsbD (a / 4 % 32) = true) :
    ((s.readHome none a).entry (a / 128)).lost = (s.entry (a / 128)).lost ||| wordBit (a / 4 % 32) := by
  rw [readHome_wet hh hf hw, lose_entry]
  rfl

theorem letGo_entry {s : State} (hf : s.flaws.isEmpty = false) (l j : Nat) :
    (s.letGo l).entry j = ((wordsOf (Table.get 0 s.wet l)).foldl (fun s i => s.readHome none (128 * l + 4 * i)) s).entry j := by
  unfold State.letGo
  rw [hf]
  generalize (wordsOf (Table.get 0 s.wet l)).foldl (fun s i => s.readHome none (128 * l + 4 * i)) s = u
  rfl

/-- A line that its slice lets go with one written word in error. -/
theorem letGo_lost {s : State} (hf : s.flaws = [(.home 0, true)]) (hw : Table.get 0 s.wet 0 = 1) (hh : Table.get 0 s.held 0 = 1) :
    ((s.letGo 0).entry 0).lost = (s.entry 0).lost ||| 1 := by
  have hr := readHome_lost (s := s) (a := 0) (by rw [State.heldWord, hh]; rfl) (by rw [State.flaw, hf]; rfl) (by rw [hw]; rfl)
  have hs : wordsOf 1 = [0] := by decide
  rw [letGo_entry (by rw [hf]; rfl), hw, hs]
  exact hr

/-- A word in DRAM whose check bits are right and of which no error remains. -/
def sound (s : State) (a : Nat) (w : Word) : State :=
  { s with mem := s.mem.setWord (a / 4 * 4) w, check := Table.erase s.check (a / 4), spoilt := s.spoilt.filter (· != a / 4),
           flaws := s.flaws.filter fun f => f.1 != .home (a / 4 * 4) }

/-- What a word written at its home leaves of the entries of other lines. -/
theorem putWord_entry {s : State} {a : Nat} {v : Nat × Word} (w : Word) (hp : place a = .local) (hn : Table.find s.held (a / 128) = none)
    (hf : sliceLines ≤ (s.held.filter fun l => homeOf (128 * l.1) == homeOf a).length)
    (hv : (s.held.filter fun l => homeOf (128 * l.1) == homeOf a).find? (fun l => (Table.get Dir.reset s.dir l.1).lost == 0) = some v) (j : Nat) :
    (s.putWord a w).entry j = ((sound s a w).letGo v.1).entry j := by
  have hs : s.putWord a w = ((sound s a w).fetched a).wetted a := rfl
  rw [hs, fetched_replaces (s := sound s a w) hp hn hf hv, State.wetted, if_neg (by simp [hp])]
  rfl

/-! ### The state of the counterexample -/

/-- A Writeback of line 0 with a word that lies in line 1. -/
def strayWriteback : Msg := .writeback 0 0 0 0 ⟨[(32, 5)], [], [], none⟩

/-- Home slice 0 is full; of line 0 it holds a written word, uncorrectable; a Writeback with a word of line 1 is on its way. -/
def crowded : State :=
  { State.reset with held := List.replicate sliceLines (0, 1), wet := [(0, 1)], flaws := [(.home 0, true)], msgs := [strayWriteback] }

theorem find_replicate {α : Type} (n j k : Nat) (v : α) (h : j ≠ k) : Table.find (List.replicate n (j, v)) k = none := by
  induction n with
  | zero => rfl
  | succ n ih => rw [List.replicate_succ, Table.find, if_neg h, ih]

theorem crowded_held : Table.get 0 crowded.held 0 = 1 := rfl

theorem filter_crowded : (crowded.held.filter fun l => homeOf (128 * l.1) == homeOf 128) = List.replicate sliceLines (0, 1) :=
  List.filter_replicate_of_pos (by decide)

theorem find_crowded : (crowded.held.filter fun l => homeOf (128 * l.1) == homeOf 128).find? (fun l => (Table.get Dir.reset crowded.dir l.1).lost == 0) =
    some (0, 1) := by
  rw [filter_crowded]
  exact (List.find?_replicate_of_pos (by decide)).trans (if_neg (by decide))

/-- The same with the Writeback arrived. -/
def crowdedPast : State := { crowded with msgs := [] }

/-- Storing a word of line 1 takes a word of line 0 away. -/
theorem crowded_putWord (v : Word) : ((crowdedPast.putWord 128 v).entry 0).lost = 1 := by
  have hfull : sliceLines ≤ (crowdedPast.held.filter fun l => homeOf (128 * l.1) == homeOf 128).length :=
    (congrArg List.length filter_crowded).trans List.length_replicate |>.ge
  rw [putWord_entry (v := (0, 1)) v (by decide) (find_replicate _ _ _ _ (by decide)) hfull find_crowded]
  have hflaws : (sound crowdedPast 128 v).flaws = [(.home 0, true)] :=
    show [(Store.home 0, true)].filter (fun f => f.1 != .home 128) = _ by decide
  have hentry : (sound crowdedPast 128 v).entry 0 = Dir.reset := rfl
  have hlost := letGo_lost hflaws rfl crowded_held
  rw [hentry] at hlost
  exact hlost

theorem crowded_takeMsg : crowded.takeMsg 0 0 true = some (strayWriteback, crowdedPast) := by
  have hm : crowded.msgs = [strayWriteback] := rfl
  have hf : [strayWriteback].find? (fun m => m.core == 0 && m.toHome == true && homeOf (128 * m.line) == homeOf (128 * 0)) = some strayWriteback := rfl
  rw [State.takeMsg, hm, hf]
  dsimp only
  rw [if_pos (by rfl), List.erase_cons_head]
  rfl

/-- A Writeback that is next on its way arrives: the home installs its words, and the core holds the line no longer (R144). -/
theorem writeback_arrives {s t : State} {core line : Nat} {q : BitVec 8} {m : Word} {r : Returned}
    (h : s.takeMsg core line true = some (.writeback core line q m r, t)) : exec (.writeback core line) s =
      .next (((t.installReturned line r).modEntry line fun d => d.without core).answered line core) := by
  have he : exec (.writeback core line) s = execWriteback core line s := rfl
  rw [he, execWriteback, State.arriveIf, h]
  simp only [if_true, State.arrive]

/-- What the Writeback of the counterexample leaves. -/
def crowdedNext : State := (crowdedPast.installReturned 0 ⟨[(32, 5)], [], [], none⟩).modEntry 0 fun d => d.without 0

theorem crowded_writeback : exec (.writeback 0 0) crowded = .next (crowdedNext.answered 0 0) := writeback_arrives crowded_takeMsg

theorem crowdedNext_entry : crowdedNext.entry 0 = ((crowdedPast.putWord 128 5).entry 0).without 0 := by
  rw [crowdedNext, State.modEntry, State.entry_setEntry, if_pos rfl]
  rfl

theorem without_lost (d : Dir) (c : Nat) : (d.without c).lost = d.lost := by
  unfold Dir.without
  dsimp only
  split <;> rfl

theorem without_pend (d : Dir) (c : Nat) : (d.without c).pend = d.pend := by
  unfold Dir.without
  dsimp only
  split <;> rfl

theorem crowdedNext_lost : (crowdedNext.entry 0).lost = 1 := by rw [crowdedNext_entry, without_lost, crowded_putWord]

theorem crowdedNext_answered : crowdedNext.answered 0 0 = crowdedNext := by
  refine answered_none ?_ 0
  obtain ⟨m, hm⟩ := (putWord_readsHome crowdedPast 128 5).entry 0
  rw [crowdedNext_entry, without_pend, hm]
  rfl

/-- Refutes O49: a Writeback of line 0 that carries a word beyond the line's 32 makes the full home slice let line 0 go, whose
written word is uncorrectable, so that the line has lost a word (R469) and its entry is not the one it had without the core. -/
theorem not_coherenceSteps : ¬ Obligations.CoherenceSteps := by
  unfold Obligations.CoherenceSteps
  intro h
  obtain ⟨-, -, -, -, -, hw, -⟩ := h crowded 0 0 0 0 0 0 0 0 .iadd32 ⟨.dc, 0, 0, 0, [], [], 0⟩ 0 .recall ⟨[(32, 5)], [], [], none⟩ [] [] [] false
  obtain ⟨t, ht, hd, -⟩ := hw rfl
  have hpend : (t.entry 0).pend = none := by
    rw [hd]
    rfl
  rw [crowded_writeback, crowdedNext_answered, answered_none hpend] at ht
  have hlost : (t.entry 0).lost = 1 := Host.Outcome.next.inj ht ▸ crowdedNext_lost
  rw [hd] at hlost
  exact absurd hlost (by decide)

end Sys2Proof.Hierarchy
end

section
/-! Stores of threads: `ST` and `STX` (R133, R317, R321 to R324, R446, R450, R461, R473). -/

namespace Sys2Proof.Hierarchy

open Sys2Proof.Machine Sys2Proof.Safety Sys2Proof.Glance

/-! ### The words of a store, each once (R133) -/

/-- What the puts of a list make of a word, put by put. -/
def putOver (a : Nat) (m : Option Put) (p : Put) : Option Put :=
  if p.pa = a then
    match m with
    | none => some p
    | some q => some { p with bytes := p.bytes ||| q.bytes, val := mergeBytes p.bytes q.val p.val }
  else m

theorem foldPuts_eq (l : List Put) : foldPuts l = (l.map (·.pa)).dedup.filterMap fun a => l.foldl (putOver a) none := rfl

/-- A word written: the bytes of it that the list `l` of tagged puts stores, each with the value of the last put in the order `R` that
stores it. -/
structure Topmost {β : Type} (R : β → β → Prop) (f : β → Put) (l : List β) (a : Nat) (w : Put) : Prop where
  pa : w.pa = a
  bytes : ∀ k < 4, w.bytes.getLsbD k = true ↔ ∃ e ∈ l, (f e).pa = a ∧ (f e).bytes.getLsbD k = true
  top : ∀ k < 4, w.bytes.getLsbD k = true → ∃ e ∈ l, (f e).pa = a ∧ (f e).bytes.getLsbD k = true ∧ byteOf w.val k = byteOf (f e).val k ∧
    ∀ e' ∈ l, (f e').pa = a → (f e').bytes.getLsbD k = true → R e' e

section
variable {β : Type} {R : β → β → Prop} {f : β → Put} {l : List β} {a : Nat}

theorem putOver_other {p : Put} (h : p.pa ≠ a) (m : Option Put) : putOver a m p = m := if_neg h
theorem putOver_first {p : Put} (h : p.pa = a) : putOver a none p = some p := if_pos h
theorem putOver_again {p : Put} (h : p.pa = a) (q : Put) :
    putOver a (some q) p = some { p with bytes := p.bytes ||| q.bytes, val := mergeBytes p.bytes q.val p.val } := if_pos h

theorem Topmost.other {w : Put} (h : Topmost R f l a w) {e : β} (he : (f e).pa ≠ a) : Topmost R f (l ++ [e]) a w where
  pa := h.pa
  bytes k hk := by
    rw [h.bytes k hk]
    simp [or_and_right, exists_or, he]
  top k hk hb := by
    obtain ⟨d, hd, hp, hdb, hv, ho⟩ := h.top k hk hb
    refine ⟨d, List.mem_append_left _ hd, hp, hdb, hv, fun e' he' hp' hb' => ?_⟩
    rcases List.mem_append.1 he' with he' | he'
    · exact ho e' he' hp' hb'
    · exact absurd (List.mem_singleton.1 he' ▸ hp') he

theorem Topmost.first (hn : ∀ e ∈ l, (f e).pa ≠ a) (hR : ∀ e, R e e) {e : β} (he : (f e).pa = a) : Topmost R f (l ++ [e]) a (f e) where
  pa := he
  bytes k hk := by
    constructor
    · exact fun hb => ⟨e, by simp, he, hb⟩
    · rintro ⟨d, hd, hp, hb⟩
      rcases List.mem_append.1 hd with hd | hd
      · exact absurd hp (hn d hd)
      · exact List.mem_singleton.1 hd ▸ hb
  top k hk hb := by
    refine ⟨e, by simp, he, hb, rfl, fun d hd hp _ => ?_⟩
    rcases List.mem_append.1 hd with hd | hd
    · exact absurd hp (hn d hd)
    · exact List.mem_singleton.1 hd ▸ hR e

theorem Topmost.again {w : Put} (h : Topmost R f l a w) (hR : ∀ e, R e e) {e : β} (he : (f e).pa = a) (hl : ∀ d ∈ l, R d e) :
    Topmost R f (l ++ [e]) a { f e with bytes := (f e).bytes ||| w.bytes, val := mergeBytes (f e).bytes w.val (f e).val } where
  pa := he
  bytes k hk := by
    rw [BitVec.getLsbD_or, Bool.or_eq_true, h.bytes k hk]
    simp [or_and_right, exists_or, he, or_comm]
  top k hk hb := by
    have hv : byteOf (mergeBytes (f e).bytes w.val (f e).val) k = if (f e).bytes.getLsbD k then byteOf (f e).val k else byteOf w.val k :=
      byteOf_mergeBytes _ _ _ hk
    by_cases hbe : (f e).bytes.getLsbD k = true
    · refine ⟨e, by simp, he, hbe, by rw [hv, if_pos hbe], fun d hd _ _ => ?_⟩
      rcases List.mem_append.1 hd with hd | hd
      · exact hl d hd
      · exact List.mem_singleton.1 hd ▸ hR e
    · rw [BitVec.getLsbD_or, Bool.or_eq_true, or_iff_right hbe] at hb
      obtain ⟨d, hd, hp, hdb, hdv, ho⟩ := h.top k hk hb
      refine ⟨d, List.mem_append_left _ hd, hp, hdb, by rw [hv, if_neg hbe, hdv], fun e' he' hp' hb' => ?_⟩
      rcases List.mem_append.1 he' with he' | he'
      · exact ho e' he' hp' hb'
      · exact absurd (List.mem_singleton.1 he' ▸ hb') hbe

/-- What puts in ascending order make of a word: none where no put names it, else the topmost bytes. -/
theorem foldl_putOver (hR : ∀ e, R e e) (hl : l.Pairwise R) (a : Nat) :
    (((l.map f).foldl (putOver a) none = none ∧ ∀ e ∈ l, (f e).pa ≠ a) ∨
      ∃ w, (l.map f).foldl (putOver a) none = some w ∧ Topmost R f l a w) := by
  induction l using List.reverseRecOn with
  | nil => exact .inl ⟨rfl, by simp⟩
  | append_singleton l e ih =>
    obtain ⟨hl, -, hle⟩ := List.pairwise_append.1 hl
    have hle : ∀ d ∈ l, R d e := fun d hd => hle d hd e (by simp)
    rw [List.map_append, List.foldl_append, List.map_singleton, List.foldl_cons, List.foldl_nil]
    by_cases he : (f e).pa = a
    · rcases ih hl with ⟨hn, ha⟩ | ⟨w, hw, ht⟩
      · exact .inr ⟨_, by rw [hn, putOver_first he], .first ha hR he⟩
      · exact .inr ⟨_, by rw [hw, putOver_again he], ht.again hR he hle⟩
    · rw [putOver_other he]
      rcases ih hl with ⟨hn, ha⟩ | ⟨w, hw, ht⟩
      · refine .inl ⟨hn, fun d hd => ?_⟩
        rcases List.mem_append.1 hd with hd | hd
        · exact ha d hd
        · exact List.mem_singleton.1 hd ▸ he
      · exact .inr ⟨w, hw, ht.other he⟩

end

/-- An access that comes no later than another among the accesses of an instruction. -/
def Before (a b : Res) : Prop := a.pos < b.pos ∨ a.pos = b.pos ∧ a.lane ≤ b.lane

theorem before_refl (a : Res) : Before a a := .inr ⟨rfl, le_rfl⟩

/-- The puts of accesses, each with its access. -/
def taggedPuts (rs : List Res) (val : Res → DWord) : List (Res × Put) := rs.flatMap fun a => (a.puts (val a)).map fun w => (a, w)

theorem map_taggedPuts (rs : List Res) (val : Res → DWord) : (taggedPuts rs val).map (·.2) = rs.flatMap fun a => a.puts (val a) := by
  simp [taggedPuts, List.map_flatMap, Function.comp_def]

theorem mem_taggedPuts {rs : List Res} {val : Res → DWord} {e : Res × Put} : e ∈ taggedPuts rs val ↔ e.1 ∈ rs ∧ e.2 ∈ e.1.puts (val e.1) := by
  obtain ⟨a, w⟩ := e
  simp only [taggedPuts, List.mem_flatMap, List.mem_map, Prod.mk.injEq]
  constructor
  · rintro ⟨a', ha, w', hw, rfl, rfl⟩
    exact ⟨ha, hw⟩
  · exact fun ⟨ha, hw⟩ => ⟨a, ha, w, hw, rfl, rfl⟩

theorem taggedPuts_ascending {rs : List Res} (h : rs.Pairwise Before) (val : Res → DWord) :
    (taggedPuts rs val).Pairwise fun d e => Before d.1 e.1 := by
  rw [taggedPuts, List.pairwise_flatMap]
  refine ⟨fun a _ => List.pairwise_map.2 (List.pairwise_of_forall fun _ _ => before_refl a), h.imp fun hab x hx y hy => ?_⟩
  obtain ⟨_, -, rfl⟩ := List.mem_map.1 hx
  obtain ⟨_, -, rfl⟩ := List.mem_map.1 hy
  exact hab

section
variable {rs : List Res} (h : rs.Pairwise Before) (val : Res → DWord)
include h

theorem foldl_taggedPuts {a : Nat} {w : Put} (hw : (rs.flatMap fun a => a.puts (val a)).foldl (putOver a) none = some w) :
    Topmost (fun d e => Before d.1 e.1) (fun e : Res × Put => e.2) (taggedPuts rs val) a w := by
  rcases foldl_putOver (f := fun e : Res × Put => e.2) (fun e => before_refl e.1) (taggedPuts_ascending h val) a with ⟨hn, -⟩ | ⟨v, hv, ht⟩
  · rw [map_taggedPuts, hw] at hn
    cases hn
  · rw [map_taggedPuts, hw] at hv
    exact Option.some.inj hv ▸ ht

theorem mem_foldPuts {w : Put} : w ∈ foldPuts (rs.flatMap fun a => a.puts (val a)) ↔
    (rs.flatMap fun a => a.puts (val a)).foldl (putOver w.pa) none = some w := by
  rw [foldPuts_eq, List.mem_filterMap]
  constructor
  · rintro ⟨a, -, hw⟩
    rw [(foldl_taggedPuts h val hw).pa]
    exact hw
  · refine fun hw => ⟨w.pa, List.mem_dedup.2 (List.mem_map.2 ?_), hw⟩
    by_contra hn
    push Not at hn
    rw [foldl_fixed fun p hp => putOver_other (hn p hp) none] at hw
    cases hw

/-- The words that a store writes, whose accesses come in ascending order. -/
theorem puts_foldPuts : Puts rs val (foldPuts (rs.flatMap fun a => a.puts (val a))) := by
  refine ⟨?_, fun y k hk => ⟨?_, ?_⟩, fun w hw k hk hb => ?_⟩
  · rw [foldPuts_eq, List.Nodup, List.pairwise_map]
    refine List.Pairwise.filterMap _ (fun a b hab v hv w hw => ?_) (List.nodup_dedup _)
    rw [(foldl_taggedPuts h val hv).pa, (foldl_taggedPuts h val hw).pa]
    exact hab
  · rintro ⟨w, hw, rfl, hb⟩
    obtain ⟨e, he, hp, heb⟩ := ((foldl_taggedPuts h val ((mem_foldPuts h val).1 hw)).bytes k hk).1 hb
    obtain ⟨ha, hm⟩ := mem_taggedPuts.1 he
    exact ⟨e.1, ha, e.2, hm, hp, heb⟩
  · rintro ⟨a, ha, u, hu, hp, hb⟩
    have he : (a, u) ∈ taggedPuts rs val := mem_taggedPuts.2 ⟨ha, hu⟩
    rcases foldl_putOver (f := fun e : Res × Put => e.2) (fun e => before_refl e.1) (taggedPuts_ascending h val) y with ⟨-, hn⟩ | ⟨w, hw, ht⟩
    · exact absurd hp (hn _ he)
    · rw [map_taggedPuts] at hw
      refine ⟨w, (mem_foldPuts h val).2 ?_, ht.pa, (ht.bytes k hk).2 ⟨_, he, hp, hb⟩⟩
      rw [ht.pa]
      exact hw
  · obtain ⟨e, he, hp, heb, hv, ho⟩ := (foldl_taggedPuts h val ((mem_foldPuts h val).1 hw)).top k hk hb
    obtain ⟨ha, hm⟩ := mem_taggedPuts.1 he
    exact ⟨e.1, ha, e.2, hm, hp, heb, hv, fun a' ha' u' hu' => ho (a', u') (mem_taggedPuts.2 ⟨ha', hu'⟩)⟩

end

/-! ### The bytes of one access -/

theorem puts_wide {a : Res} (h : a.size = 8) (v : DWord) : a.puts v =
    [⟨a.lane, a.pa, a.cls, 0xF, v.setWidth 32⟩, ⟨a.lane, a.pa + 4, a.cls, 0xF, (v >>> 32).setWidth 32⟩] := if_pos h

theorem byteMask_names : ∀ n ∈ [1, 2, 4], ∀ o < 4, o % n = 0 → ∀ k < n, (BitVec.ofNat 4 ((2 ^ min n 4 - 1) * 2 ^ o)).getLsbD (o + k) = true := by
  decide

theorem shifted_byte (v : DWord) {o k : Nat} (h : o + k < 4) : ((v.setWidth 32 <<< (8 * o)) >>> (8 * (o + k))).setWidth 8 = ((v >>> (8 * k)).setWidth 8 : Byte) := by
  refine BitVec.eq_of_getLsbD_eq fun j hj => ?_
  simp only [BitVec.getLsbD_setWidth, BitVec.getLsbD_ushiftRight, BitVec.getLsbD_shiftLeft, hj, decide_true, Bool.true_and,
    show 8 * (o + k) + j < 32 by omega, show ¬ 8 * (o + k) + j < 8 * o by omega, decide_false, Bool.not_false,
    show 8 * (o + k) + j - 8 * o = 8 * k + j by omega, show 8 * k + j < 32 by omega]

theorem puts_narrow {a : Res} (h : a.size = 1 ∨ a.size = 2 ∨ a.size = 4) (hp : a.pa % a.size = 0) (v : DWord) :
    ∃ w, a.puts v = [w] ∧ w.pa = a.pa / 4 * 4 ∧ ∀ k < a.size, w.bytes.getLsbD (a.pa % 4 + k) = true ∧
      (w.val >>> (8 * (a.pa % 4 + k))).setWidth 8 = ((v >>> (8 * k)).setWidth 8 : Byte) := by
  have hmod : a.pa % 4 % a.size = 0 := by rcases h with h | h | h <;> rw [h] at hp ⊢ <;> omega
  refine ⟨_, if_neg (by omega), rfl, fun k hk => ⟨byteMask_names a.size (by simpa using h) _ (Nat.mod_lt _ (by decide)) hmod k hk, ?_⟩⟩
  have ho : a.pa % 4 + k < 4 := by rcases h with h | h | h <;> rw [h] at hmod hk <;> omega
  exact shifted_byte v ho

/-! ### The accesses of an instruction, in ascending order -/

/-- An access asked for no later than another. -/
def AskedBefore (a b : Ask) : Prop := a.pos < b.pos ∨ a.pos = b.pos ∧ a.lane ≤ b.lane

theorem lanesOf_ascending (m : Mask) : (lanesOf m).Pairwise (· < ·) := List.pairwise_lt_range.filter _

theorem lowLane_lt (m : Mask) : lowLane m < 128 := by
  rw [lowLane]
  cases h : lanesOf m with
  | nil => exact Nat.zero_lt_succ _
  | cons l r => exact (mem_lanesOf.1 (h ▸ List.mem_cons_self)).1

theorem accessLanes_ascending (x : X) (uni : Bool) : (x.accessLanes uni).Pairwise (· < ·) := by
  unfold X.accessLanes
  split
  · exact List.pairwise_singleton ..
  · exact lanesOf_ascending _

theorem accessLanes_lt {x : X} {uni : Bool} {l : Nat} (h : l ∈ x.accessLanes uni) : l < 128 := by
  unfold X.accessLanes at h
  split at h
  · exact List.mem_singleton.1 h ▸ lowLane_lt _
  · exact (mem_lanesOf.1 h).1

theorem asks_ascending (x : X) (uni : Bool) (m : MemOp) (size : Nat) : (asks x uni m size).Pairwise AskedBefore :=
  List.pairwise_map.2 ((accessLanes_ascending x uni).imp fun h => .inr ⟨rfl, h.le⟩)

theorem asks_lane {x : X} {uni : Bool} {m : MemOp} {size : Nat} : ∀ a ∈ asks x uni m size, a.lane < 128 := by
  intro a ha
  obtain ⟨l, hl, rfl⟩ := List.mem_map.1 ha
  exact accessLanes_lt hl

theorem of_chosen {α : Type} {P : α → Prop} {c d : Prop} [Decidable c] [Decidable d] {a b e : α} (ha : P a) (hb : P b)
    (h : (if c then none else if d then some a else some b) = some e) : P e := by
  split at h
  · cases h
  · split at h
    · exact Option.some.inj h ▸ ha
    · exact Option.some.inj h ▸ hb

/-- What the accesses of a burst instruction are asked by: a position and a lane. -/
theorem burstAsks_split (x : X) (e : Ext) (wide : Bool) (m : MemOp) : ∃ f : Nat → Nat → Option Ask, (∀ p l a, f p l = some a → a.pos = p ∧ a.lane = l) ∧
    burstAsks x e wide m = (List.range (extSize e)).flatMap fun p => (lanesOf x.lanes).filterMap (f p) := by
  exact ⟨_, fun p l a ha => of_chosen (P := fun a => a.pos = p ∧ a.lane = l) ⟨rfl, rfl⟩ ⟨rfl, rfl⟩ ha, rfl⟩

theorem burstAsks_ascending (x : X) (e : Ext) (wide : Bool) (m : MemOp) : (burstAsks x e wide m).Pairwise AskedBefore := by
  obtain ⟨f, hf, h⟩ := burstAsks_split x e wide m
  rw [h, List.pairwise_flatMap]
  refine ⟨fun p _ => List.Pairwise.filterMap _ (fun k l hkl a ha b hb => ?_) (lanesOf_ascending x.lanes), List.pairwise_lt_range.imp fun hpq a ha b hb => ?_⟩
  · obtain ⟨hap, hal⟩ := hf p k a ha
    obtain ⟨hbp, hbl⟩ := hf p l b hb
    exact .inr ⟨hap.trans hbp.symm, by omega⟩
  · obtain ⟨k, -, ha⟩ := List.mem_filterMap.1 ha
    obtain ⟨l, -, hb⟩ := List.mem_filterMap.1 hb
    obtain ⟨hap, -⟩ := hf _ _ _ ha
    obtain ⟨hbp, -⟩ := hf _ _ _ hb
    exact .inl (by omega)

theorem burstAsks_lane {x : X} {e : Ext} {wide : Bool} {m : MemOp} : ∀ a ∈ burstAsks x e wide m, a.lane < 128 := by
  obtain ⟨f, hf, h⟩ := burstAsks_split x e wide m
  intro a ha
  rw [h] at ha
  obtain ⟨p, -, ha⟩ := List.mem_flatMap.1 ha
  obtain ⟨l, hl, ha⟩ := List.mem_filterMap.1 ha
  exact (hf _ _ _ ha).2 ▸ (mem_lanesOf.1 hl).1

theorem translateAll_ok {s : State} {x : X} {uni : Bool} {l : List Ask} {rs : List Res} (h : s.translateAll x uni l = .ok rs) :
    rs = (translated s x l).filterMap pageAsk := by
  rw [translateAll_eq] at h
  dsimp only at h
  split at h
  · cases h
  · split at h
    · cases h
    · split at h
      · cases h
      · exact (Resolved.ok.inj h).symm

theorem translateAll_of_resolve {s : State} {x : X} {uni : Bool} {md : Mode} {sys : Bool} {l : List Ask} {rs : List Res}
    (h : s.resolve x uni md sys l = .ok rs) : s.translateAll x uni l = .ok rs := by
  cases hf : failed x uni formed Ask.at l with
  | some e => cases (resolve_formed hf).symm.trans h
  | none =>
    cases ht : s.translateAll x uni l with
    | stop t d => cases (resolve_stop hf ht).symm.trans h
    | ok rs' =>
      cases hp : failed x uni (s.permitted md sys rs') Res.at rs' with
      | some e => cases (resolve_permitted hf ht hp).symm.trans h
      | none =>
        rw [resolve_waits hf ht hp] at h
        dsimp only at h
        split_ifs at h
        rw [Resolved.ok.inj h]

theorem pageAsk_eq {t : Ask × Tr} {r : Res} (h : pageAsk t = some r) : r.pos = t.1.pos ∧ r.lane = t.1.lane := by
  unfold pageAsk at h
  split at h <;> cases h
  exact ⟨rfl, rfl⟩

theorem resolve_ascending {s : State} {x : X} {uni : Bool} {md : Mode} {sys : Bool} {l : List Ask} {rs : List Res}
    (h : s.resolve x uni md sys l = .ok rs) (hl : l.Pairwise AskedBefore) : rs.Pairwise Before := by
  rw [translateAll_ok (translateAll_of_resolve h)]
  refine List.Pairwise.filterMap _ (fun t u htu a ha b hb => ?_) (List.pairwise_map.2 hl : (translated s x l).Pairwise fun t u => AskedBefore t.1 u.1)
  obtain ⟨hap, hal⟩ := pageAsk_eq ha
  obtain ⟨hbp, hbl⟩ := pageAsk_eq hb
  rw [Before, hap, hal, hbp, hbl]
  exact htu

theorem resolve_lane {s : State} {x : X} {uni : Bool} {md : Mode} {sys : Bool} {l : List Ask} {rs : List Res}
    (h : s.resolve x uni md sys l = .ok rs) (hl : ∀ a ∈ l, a.lane < 128) : ∀ r ∈ rs, r.lane < 128 := by
  rw [translateAll_ok (translateAll_of_resolve h)]
  exact fun r hr => pageAsk_lane hl hr

/-! ### Conflicts (R423, R433, R446, R450) -/

theorem race_unchecked (s : State) (st : Stamps) {a : Who} (h : a.check = false) (k : StampKind) (writes : Bool) (bytes : BitVec 4) :
    s.race st a k writes bytes = none := by
  rw [State.race]
  simp [h]

theorem clashOf_unchecked (s : State) (c : Nat) {a : Who} (h : a.check = false) (k : StampKind) (writes : Bool) (r : Res) :
    s.clashOf c a k writes r = none := by
  rw [State.clashOf]
  split
  · rfl
  · rw [List.findSome?_eq_none_iff]
    intro w _
    rw [race_unchecked s _ h]
    rfl

theorem clashOf_lane {s : State} {c : Nat} {a : Who} {k : StampKind} {writes : Bool} {r : Res} {h : Clash}
    (hc : s.clashOf c a k writes r = some h) : h.lane = r.lane := by
  rw [State.clashOf] at hc
  split at hc
  · cases hc
  · obtain ⟨w, -, hw⟩ := List.exists_of_findSome?_eq_some hc
    obtain ⟨q, -, rfl⟩ := Option.map_eq_some_iff.1 hw
    rfl

/-- The lowest lane of a list of conflicts. -/
theorem exists_lowest {hits : List Clash} (hl : ∀ h ∈ hits, h.lane < 128) (hn : hits ≠ []) :
    ∃ h, hits.find? (fun c => c.lane == lowLane (maskOf (hits.map (·.lane)))) = some h ∧ h ∈ hits ∧ ∀ h' ∈ hits, h.lane ≤ h'.lane := by
  obtain ⟨a, ha⟩ := List.exists_mem_of_ne_nil _ hn
  obtain ⟨h, hm, hmin⟩ := hits.toFinset.exists_min_image (·.lane) ⟨a, List.mem_toFinset.2 ha⟩
  have hm := List.mem_toFinset.1 hm
  have hmin : ∀ h' ∈ hits, h.lane ≤ h'.lane := fun h' hh => hmin h' (List.mem_toFinset.2 hh)
  have hlow : lowLane (maskOf (hits.map (·.lane))) = h.lane := lowLane_maskOf (hl h hm) (List.mem_map_of_mem hm) fun b hb => by
    obtain ⟨d, hd, rfl⟩ := List.mem_map.1 hb
    exact hmin d hd
  rw [hlow]
  cases hf : hits.find? (fun c => c.lane == h.lane) with
  | none => exact absurd (beq_self_eq_true h.lane) (List.find?_eq_none.1 hf h hm)
  | some c =>
    have hc : c.lane = h.lane := by simpa using List.find?_some hf
    exact ⟨c, rfl, List.mem_of_find?_eq_some hf, fun h' hh => hc ▸ hmin h' hh⟩

theorem raceOf_raceEvent {x : X} {uni : Bool} {hits : List Clash} (hl : ∀ h ∈ hits, h.lane < 128) (hn : hits ≠ []) : RaceOf x uni hits (raceEvent x uni hits) := by
  obtain ⟨h, hf, hm, hmin⟩ := exists_lowest hl hn
  rw [raceEvent, hf]
  refine ⟨rfl, rfl, fun hu => if_pos hu, fun hu l hl => ?_, h, hm, hmin, rfl, rfl, rfl⟩
  rw [if_neg (by simp [hu]), getLsbD_maskOf _ _ hl, decide_eq_true_eq, List.mem_map]

/-! ### The store as a whole -/

/-- Whether a store reclaims lost words (R473): a `.rel.sys` store of a whole line of which a word is lost. -/
def storeAgain (b : State) (sc : Scope) (rs : List Res) : Bool :=
  sc == .sys && wholeLine rs && rs.any fun a => a.words.any fun w => (b.entry (w / 128)).lost != 0

/-- The hint of a store: a whole line of DC words, and a reclaiming store, are made at the home (R176, R321). -/
def storeHint (again : Bool) (policy : BitVec 2) (rs : List Res) : BitVec 2 :=
  if again || (wholeLine rs && rs.all fun a => a.cls == .dc) then 3 else policy

/-- The accesses of a store, sorted into those that are performed and those that abort (R461). -/
def storeSorted (b : State) (x : X) (again : Bool) (rs : List Res) : Served :=
  let c := b.fetchFor x.core (rs.filter fun a => a.size < 4)
  sortOut (if again then (c, [], []) else c.mergeAll rs) (fun t a w => t.storeBad x.core a w) rs

/-- The lines of a store made ready for it. -/
def storeReady (x : X) (again : Bool) (hint : BitVec 2) (q : Served) : State :=
  if again then (q.s.prepAll (fun t n _ _ => t.reclaimLine n) (linesOf q.ok)).s
  else (q.s.prepAll (State.prepWrite x.core hint) (linesOf q.ok)).s

/-- The race check of an access of a store (R446). -/
def storeHit (u : State) (x : X) (uni : Bool) (sc : Scope) (a : Res) : Option Clash :=
  u.clashOf x.core (x.who u uni a.lane sc) (x.kind uni a.lane sc) true a

theorem storeHit_unchecked {x : X} (h : x.f.only ≠ none) (u : State) (uni : Bool) (sc : Scope) (a : Res) : storeHit u x uni sc a = none := by
  refine clashOf_unchecked _ _ ?_ ..
  obtain ⟨m, hm⟩ := Option.ne_none_iff_exists'.1 h
  rw [X.who, hm]
  rfl

theorem storeHit_lane {u : State} {x : X} {uni : Bool} {sc : Scope} {a : Res} {h : Clash} (hc : storeHit u x uni sc a = some h) : h.lane = a.lane :=
  clashOf_lane hc

section
variable {s : State} {x : X} {uni : Bool} {policy : BitVec 2} {sc : Scope} {rs : List Res} (val : Res → DWord)

/-- A store whose accesses pass the checks that its own merges and reads leave. -/
theorem performStore_eq (hf : failed x uni ((s.readUnder x rs).permitted .write (sc == .sys) rs) Res.at rs = none) :
    s.performStore x uni policy sc (rs.map fun r => (r, val r)) =
      let b := s.readUnder x rs
      let again := storeAgain b sc rs
      let hint := storeHint again policy rs
      let q := storeSorted b x again rs
      let u := storeReady x again hint q
      let ps := ((rs.map fun r => (r, val r)).filter fun v => q.ok.contains v.1 && (storeHit u x uni sc v.1).isNone).flatMap fun v => v.1.puts v.2
      ((foldPuts ps).foldl (fun t p => t.storeWord x.core hint (x.writers u uni sc ps p.pa) p) u).endAccess x uni q.bad (q.ok.filterMap (storeHit u x uni sc)) .next := by
  have hm : (rs.map fun r => (r, val r)).map (·.1) = rs := by simp [Function.comp_def]
  rw [State.performStore]
  simp only [hm, hf]
  rfl

theorem mem_storeSorted {b : State} {again : Bool} {a : Res} (h : a ∈ (storeSorted b x again rs).ok) : a ∈ rs := List.mem_of_mem_filter h

theorem contains_filter {α : Type} [DecidableEq α] {l : List α} {a : α} (ha : a ∈ l) (p : α → Bool) : (l.filter p).contains a = p a := by
  rw [Bool.eq_iff_iff]
  simp [ha]

/-- The puts of a store are those of the accesses that neither abort nor conflict. -/
theorem performed_puts (b : State) (again : Bool) (hit : Res → Option Clash) :
    (((rs.map fun r => (r, val r)).filter fun v => (storeSorted b x again rs).ok.contains v.1 && (hit v.1).isNone).flatMap fun v => v.1.puts v.2) =
      ((storeSorted b x again rs).ok.filter fun a => (hit a).isNone).flatMap fun a => a.puts (val a) := by
  rw [List.filter_map, List.flatMap_map, storeSorted, sortOut, List.filter_filter]
  refine congrArg (List.flatMap _) (List.filter_congr fun a ha => ?_)
  rw [Function.comp, contains_filter ha, Bool.and_comm]

end

theorem abortThread_gone (s : State) (x : X) (uni : Bool) (bad : List Abort) : (s.abortThread x uni bad).2 = .gone := by
  unfold State.abortThread
  dsimp only
  split <;> rfl

section
variable {i : Instr} {s : State} {x : X} {uni : Bool} {policy : BitVec 2} {sc : Scope} {rs : List Res} {val : Res → DWord} {after : State → State}
variable (hx : Executes i s x) {body : State → X → State × Done} (hrun : exec i s = run i body s)
include hx hrun

/-- How an instruction ends whose accesses end as `endAccess` says (R446, R450, R461, R462). -/
theorem ends_of_endAccess {t : State} {bad : List Abort} {hits : List Clash} (hl : ∀ h ∈ hits, h.lane < 128)
    (hb : body (begun i s x) x = (after (t.endAccess x uni bad hits .next).1, (t.endAccess x uni bad hits .next).2)) :
    (bad = [] → Ends i s x uni (after t) [] hits (Completes i s x (after t) (x.f.pc + 12) .none)) ∧
      (bad ≠ [] → exec i s = .next ((after (t.abortThread x uni bad).1).tidy x.k)) := by
  refine ⟨fun hbad => ⟨fun _ hh => ?_, fun _ hh => ⟨_, raceOf_raceEvent hl hh, ?_⟩, fun h => absurd rfl h⟩, fun hbad => ?_⟩
  · have he : t.endAccess x uni bad hits .next = (t, .next) := by
      rw [State.endAccess, if_neg (by simp [hbad]), if_pos (by simp [hh])]
    rw [he] at hb
    exact Execution.answers_of_body hx hrun hb (by simp)
  · have he : t.endAccess x uni bad hits .next = (t, .event (raceEvent x uni hits)) := by
      rw [State.endAccess, if_neg (by simp [hbad]), if_neg (by simp [hh])]
    rw [he] at hb
    exact Execution.answers_of_body hx hrun hb (by simp)
  · have he : t.endAccess x uni bad hits .next = ((t.abortThread x uni bad).1, .gone) := by
      rw [State.endAccess, if_pos (by simp [hbad]), ← abortThread_gone t x uni bad]
    rw [he] at hb
    exact Execution.answers_of_body hx hrun hb (by simp)

/-- A store that performs: the words that it writes, and how it ends. -/
theorem store_ends (hs : rs.Pairwise Before) (hl : ∀ r ∈ rs, r.lane < 128)
    (hf : failed x uni (((begun i s x).readUnder x rs).permitted .write (sc == .sys) rs) Res.at rs = none)
    (hb : body (begun i s x) x = (after ((begun i s x).performStore x uni policy sc (rs.map fun r => (r, val r))).1,
      ((begun i s x).performStore x uni policy sc (rs.map fun r => (r, val r))).2)) :
    let b := (begun i s x).readUnder x rs
    let again := storeAgain b sc rs
    let hint := storeHint again policy rs
    let q := storeSorted b x again rs
    let u := storeReady x again hint q
    let hit := storeHit u x uni sc
    let ok := q.ok.filter fun a => (hit a).isNone
    ∃ ws : List Put, Puts ok val ws ∧
      let t := ws.foldl (fun t w => t.storeWord x.core hint (x.writers u uni sc (ok.flatMap fun a => a.puts (val a)) w.pa) w) u
      (q.bad = [] → Ends i s x uni (after t) [] (q.ok.filterMap hit) (Completes i s x (after t) (x.f.pc + 12) .none)) ∧
      (q.bad ≠ [] → exec i s = .next ((after (t.abortThread x uni q.bad).1).tidy x.k)) := by
  intro b again hint q u hit ok
  have hok : ok.Pairwise Before := (hs.filter _).filter _
  refine ⟨_, puts_foldPuts hok val, ends_of_endAccess hx hrun (fun h hh => ?_) ?_⟩
  · obtain ⟨a, ha, hc⟩ := List.mem_filterMap.1 hh
    exact storeHit_lane hc ▸ hl a (mem_storeSorted ha)
  · rw [performStore_eq val hf] at hb
    dsimp only at hb
    rw [performed_puts] at hb
    exact hb

end

theorem exec_st (p : Pre) (sz : Size) (sc : Scope) (d : VS) (m : MemOp) (s : State) : exec (.st p sz sc d m) s = execSt p sz sc d m s := rfl
theorem exec_stx (p : Pre) (e : Ext) (sz : Size) (sc : Scope) (d : VReg) (m : MemOp) (s : State) :
    exec (.stx p e sz sc d m) s = execStx p e sz sc d m s := rfl

/-- What a store does whose accesses resolve and that waits for no reduction. -/
theorem st_effect (p : Pre) (sz : Size) (sc : Scope) (d : VS) (m : MemOp) (x : X) : ∃ body : State → X → State × Done,
    (∀ s, exec (.st p sz sc d m) s = run (.st p sz sc d m) body s) ∧
    ∀ (s : State) rs, s.resolve x (isScalar d) .write (sc == .sys) (asks x (isScalar d) m (byteSize sz)) = .ok rs → s.owedTo x.g sc = false →
      body s x = s.performStore x (isScalar d) p.policy sc (rs.map fun r => (r, dataOf x.g sz d 0 r.lane)) := by
  refine ⟨_, fun s => exec_st .., fun s rs hr ho => ?_⟩
  simp only [hr, ho, Bool.false_eq_true, if_false]

theorem stx_effect (p : Pre) (e : Ext) (sz : Size) (sc : Scope) (d : VReg) (m : MemOp) (x : X) : ∃ body : State → X → State × Done,
    (∀ s, exec (.stx p e sz sc d m) s = run (.stx p e sz sc d m) body s) ∧
    ∀ (s : State) rs, s.resolve x false .write (sc == .sys) (burstAsks x e (sz == .b64) m) = .ok rs → s.owedTo x.g sc = false →
      let r := s.performStore x false p.policy sc (rs.map fun r => (r, dataOf x.g sz (.v d) ((blockOffs e).getD r.pos 0) r.lane))
      body s x = (r.1.storeBursts (burstCommands x.g 1 (sz == .b64) m rs) (rs.flatMap Res.words), r.2) := by
  refine ⟨_, fun s => exec_stx .., fun s rs hr ho => ?_⟩
  simp only [hr, ho, Bool.false_eq_true, if_false]

/-- Settles O25: the two words end as `store_ends` says. -/
theorem stores : Obligations.Stores := by
  unfold Obligations.Stores
  intro p sz sc e d dv m s x rs stores size
  refine ⟨fun hx hr hf ho => ?_, fun hx hr hf ho => ?_, fun a v h => puts_wide h v,
    fun a v h hp => puts_narrow h hp v⟩
  · obtain ⟨body, hi, hb⟩ := st_effect p sz sc dv m x
    refine ⟨fun h a => storeHit_unchecked h _ _ sc a, ?_⟩
    exact store_ends (after := id) hx (hi s) (resolve_ascending hr (asks_ascending ..)) (resolve_lane hr asks_lane) hf (hb _ _ hr ho)
  · obtain ⟨body, hi, hb⟩ := stx_effect p e sz sc d m x
    refine ⟨fun h a => storeHit_unchecked h _ _ sc a, ?_⟩
    exact store_ends (after := fun t => t.storeBursts (burstCommands x.g 1 (sz == .b64) m rs) (rs.flatMap Res.words)) hx (hi s)
      (resolve_ascending hr (burstAsks_ascending ..)) (resolve_lane hr burstAsks_lane) hf (hb _ _ hr ho)

end Sys2Proof.Hierarchy
end
